-- ==== Sys2Proof/Word.lean ====
section
/-! DEFINITION. The words of the machine (00_scope.md, R18, R19; 04_native_architecture.md, R93): 64-bit
registers, 32-bit instruction words and operands, 8-bit bytes. -/

namespace Sys2Proof

/-- A 64-bit word: a general register, a control window register, an address. -/
abbrev Word := BitVec 64

/-- A 32-bit word: an instruction word, a Classic register. -/
abbrev Half := BitVec 32

/-- A byte, the unit of memory (R19). -/
abbrev Byte := BitVec 8

/-- A Classic or native register number. -/
abbrev RegNo := BitVec 5

end Sys2Proof
end

