-- ==== Sys2Proof/Syntax.lean ====
section
/-! DEFINITION. The commands of the module: one constructor for each row of spec/opcode_table.json, with the row's
operands (the numbers of the units it names, the values it carries, what the outside world brings with it). -/

namespace Sys2Proof

/-! ### Instruction formats of CA-64 (04_native_architecture.md, R101) -/

/-- R format: four register fields. -/
structure RFmt where
  rd : RegNo
  ra : RegNo
  rb : RegNo
  rc : RegNo
deriving DecidableEq, Repr

/-- A block instruction's word: bit 0 of its function code and the R format (04, R131). -/
structure BlkFmt where
  dword : Bool
  f : RFmt
deriving DecidableEq, Repr

/-- I format: two register fields and imm16. -/
structure IFmt where
  rd : RegNo
  ra : RegNo
  imm : BitVec 16
deriving DecidableEq, Repr

/-- M format: a register, a base, a mode and its 14 operand bits (R103). -/
structure MFmt where
  rt : RegNo
  ra : RegNo
  mode : BitVec 2
  opnd : BitVec 14
deriving DecidableEq, Repr

/-- B format: a condition and disp22. -/
structure BFmt where
  cond : BitVec 4
  disp : BitVec 22
deriving DecidableEq, Repr

/-- J format: disp26. -/
structure JFmt where
  disp : BitVec 26
deriving DecidableEq, Repr

/-- S format: two register fields and imm10. -/
structure SFmt where
  rd : RegNo
  ra : RegNo
  imm : BitVec 10
deriving DecidableEq, Repr

/-! ### Instruction formats of CA-32 Classic (06_control_store_and_classic_mode.md, R196) -/

/-- R3 format: three registers; `z` is the field the format marks zero. -/
structure R3Fmt where
  r1 : RegNo
  r2 : RegNo
  r3 : RegNo
  z : BitVec 9
deriving DecidableEq, Repr

/-- RK format: two registers and a constant. -/
structure RKFmt where
  r1 : RegNo
  r2 : RegNo
  k : BitVec 14
deriving DecidableEq, Repr

/-- RM format: a register, a base and a signed displacement. -/
structure RMFmt where
  r1 : RegNo
  b : RegNo
  d : BitVec 14
deriving DecidableEq, Repr

/-- BJ format: a condition and a displacement in words. -/
structure BJFmt where
  cond : BitVec 4
  disp : BitVec 20
deriving DecidableEq, Repr

/-- DS format, two words: two bases, two lengths, the zero field, two signed displacements. -/
structure DSFmt where
  p1 : RegNo
  p2 : RegNo
  l1 : BitVec 5
  l2 : BitVec 5
  z : BitVec 4
  d1 : BitVec 16
  d2 : BitVec 16
deriving DecidableEq, Repr


namespace Machine

/-- A sideband target that a roll-call pass has addressed (16_cuff_ports_and_links.md, R471, R472): its bus (2 or 3), the
dynamic address it received, its 48-bit provisional ID and the 18 bytes of its identity block. -/
structure SbFound where
  bus : Nat
  addr : Nat
  pid : Nat
  ident : List Nat
deriving DecidableEq, Repr

/-- A frame of the link (R446); the CRC and the padding are its last check and follow from the rest. -/
structure CuffFrame where
  type : Nat
  flags : Nat := 0
  claim : Nat := 0
  fsn : Nat := 0
  tsn : Nat := 0
  opcode : Nat := 0
  order : Nat := 0
  frag : Nat := 0
  frags : Nat := 0
  chan : Nat := 0
  /-- H3: LOWTSN or TOTAL -/
  h3 : Nat := 0
  ackfsn : Nat := 0
  credit : Nat := 0
  astatus : Nat := 0
  reftsn : Nat := 0
  /-- the payload's bytes, LEN of them -/
  payload : List Nat := []
  /-- the CRC-32C is good and no check of R447 fails -/
  good : Bool := true
deriving DecidableEq, Repr

/-- A frame of a Seam port (19_seam_complex_and_time.md, R524) as it lies on the port: header fields, the payload's
bytes (encrypted but in HELLO and HELLOACK) and the tag. -/
structure SeamFrame where
  type : Nat
  epoch : Nat := 0
  src : Nat
  dst : Nat
  credit : Nat := 0
  seq : Nat := 0
  ackseq : Nat := 0
  ivcnt : Nat := 0
  payload : List Nat := []
  tag : List Nat := []
  /-- a reserved field is not 0 -/
  rsv : Bool := false
  /-- the CRC is good -/
  good : Bool := true
  /-- the Cloak lane that opens it, and whether its check fails (R513) -/
  lane : Nat := 0
  bad : Bool := false
  /-- the check fails once, and passes on the lane that repeats it (R513) -/
  once : Bool := false
deriving DecidableEq, Repr


/-! ### Fault events (20_fault_handling.md, R547, R552) -/

/-- A fault event as its unit raises it: the location code, the context and partition concerned, the details, and
whether a restart that the event starts passes its self-test. -/
structure FaultIn where
  loc : Nat
  ctx : Option Nat
  part : Option Nat
  d0 : Nat
  d1 : Nat
  d2 : Nat
  pass : Bool
deriving DecidableEq, Repr

/-- What a move to a spare meets in its steps 2 to 4 (12, R331): the spares that fail, and the contexts whose Pocket image is
uncorrectable. -/
structure MoveIn where
  spares : List Nat := []
  images : List Nat := []
deriving DecidableEq, Repr

/-- What has failed in a core pair, the comparator group (12, R319) or the control store's array (06, R185), and what a move that
follows meets. -/
structure PairErr where
  what : Nat
  env : MoveIn := {}
deriving DecidableEq, Repr

/-- The pair that firmware moves and what the move meets. -/
structure SpareIn where
  p : Nat
  env : MoveIn := {}
deriving DecidableEq, Repr

/-- What the copy of a member's state memory meets (15, R421): the source's words that are uncorrectable, each with whether the
other VOTING member's is too; and which members pass the self-test of the restart that a stop starts. -/
structure CopyIn where
  bad : List (Nat × Bool) := []
  tests : Nat := 7
deriving DecidableEq, Repr

/-- How a rejoin of a member goes: its self-test, and what the copy of the state memory meets (R420, R421). -/
structure RejoinIn where
  pass : Bool
  copy : CopyIn := {}
deriving DecidableEq, Repr

/-! ### What a boot finds (22_boot_reset_live_change.md, R589; 11_memory_controllers.md, R300, R306) -/

/-- A DIMM that a boot finds in slot `slot` (0–47): what its SPD says and how its training ends. -/
structure DimmIn where
  slot : Nat
  /-- SPD module manufacturer ID in [15:0] and serial number in [47:16] (R580) -/
  ident : Nat
  /-- its SPD can be read -/
  read : Bool := true
  /-- it is a registered DIMM -/
  rdimm : Bool := true
  gib : Nat
  ranks : Nat := 2
  width : Nat := 4
  density : Nat := 32
  /-- stack height, 1 for no 3DS -/
  stack : Nat := 1
  /-- the highest rate of the SPD: 1 4800, 2 5200, 3 5600, 4 6400 MT/s -/
  rate : Nat := 4
  /-- power good, training and zero fill pass, at the second try at the latest (R306) -/
  power : Bool := true
  train : Bool := true
  fill : Bool := true
deriving DecidableEq, Repr

/-- A request that waits at a memory controller (R311): its local channel, its port, the channel address of its burst and its
age in ns. -/
structure McReq where
  l : Nat
  port : Nat
  ca : Nat
  age : Nat
deriving DecidableEq, Repr

/-- What an interval of refresh finds (11, R307): how many REFsb of it were paid early, and the DIMM sensor's °C. -/
structure RefreshIn where
  paid : Nat
  t : Nat
deriving DecidableEq, Repr

/-- How a marker arrives (16, R443, R477): whether it stands one period after the last, and the symbols corrected since then. -/
structure MarkerIn where
  placed : Bool
  corr : Nat
deriving DecidableEq, Repr

/-- The Cloak lane that seals a Seam frame and how many of the frame's checks fail (18, R513). -/
structure SealIn where
  l : Nat
  bad : Nat
deriving DecidableEq, Repr

/-- What the outside world and the self-tests bring to a boot (log entry 6). -/
structure BootEnv where
  /-- the straps' levels (R79); SEAM_ID is `seamId` -/
  bootSel : Nat := 0
  vaultAllow : Bool := false
  seamId : Nat := 0
  ftmN : Bool := true
  /-- both halves of the fault collector pass (step 1) -/
  collector : Bool := true
  /-- REFCLK is there (step 2) -/
  refclk : Bool := true
  /-- the Tailor pair passes (step 3) -/
  tailor : Bool := true
  /-- the flash can be read at image A, at image B (step 4) -/
  flashA : Bool := true
  flashB : Bool := true
  /-- the Hem dies that pass (step 6) -/
  h0 : Bool := true
  h1 : Bool := true
  /-- bit m: triad member m passes (step 7) -/
  members : Nat := 7
  /-- the physical pairs fused as spares, and those that fail their self-test (step 8) -/
  spares : List Nat := [44, 45, 46, 47]
  pairsBad : List Nat := []
  /-- the DIMMs fitted, and the rate limit of the configuration image (step 9, R302) -/
  dimms : List DimmIn := []
  rateLimit : Nat := 4
  /-- the targets the roll-call pass addresses, and the rounds made void (step 10) -/
  found : List SbFound := []
  voids : Nat := 0
deriving DecidableEq, Repr

end Machine

/-- The commands, in the order of the table. -/
inductive Instr where
  /-- UNDERVOLTAGE_RELEASE (R41): VIN48 rising through 35.0 V starts the input soft-start ramp that leads to a Cold reset. -/
  | undervoltageRelease (a : Nat) (b : Nat)
  /-- SOFT_START_END (R42): The 10 ms charge ramp of the bulk capacitance ends, and the Cold reset begins. -/
  | softStartEnd
  /-- COLD_RESET (R10): Cold reset of the whole module except Keep, lifetime records, Hem contents, Apron trim and Apron time while powered. -/
  | coldReset
  /-- MODULE_RESET (R586): Warm reset of the module from any cause of R586, stopping output as R45 from its 200 ns row with rails kept up. -/
  | moduleReset (cause : Nat)
  /-- BOOT_SEQUENCE (R589): The boot steps 1 to 11 run after a Cold or Module reset, up to READY high. -/
  | bootSequence (e : Machine.BootEnv)
  /-- UNDERVOLTAGE_TRIP (R45): VIN48 falling through 33.0 V starts the orderly stop: no further votes, Hem writes stop, outputs go high-impedance, LASTSTOP written. -/
  | undervoltageTrip (a : Nat) (b : Nat)
  /-- OVERVOLTAGE_SHUTDOWN (R41): VIN48 rising through 80.0 V starts the orderly stop of R45. -/
  | overvoltageShutdown (a : Nat) (b : Nat)
  /-- OVERVOLTAGE_RECOVERY (R41): VIN48 falling below 77.0 V after shutdown starts soft-start and then a Module reset. -/
  | overvoltageRecovery (a : Nat) (b : Nat)
  /-- BROWNOUT (R41): Input falls below 36.0 V while running; BROWN is flagged and power is capped. -/
  | brownout (a : Nat) (b : Nat)
  /-- OVERVOLTAGE_FLAG (R41): Input rises above 75.0 V while running; OVER is flagged. -/
  | overvoltageFlag (a : Nat) (b : Nat)
  /-- PAIR_LOST (R44): One blade pair falls below 33.0 V while the other holds the module; A_LOST or B_LOST is set and the cap recomputed. -/
  | pairLost (p : Nat) (a : Nat) (b : Nat)
  /-- POWER_CAP_STEP (R65): The power cap lowers or restores a cluster clock in 100 MHz steps, hottest cluster first. -/
  | powerCapStep (c : Nat) (drawn : Nat)
  /-- CLUSTER_CLOCK_STEP_DOWN (R64): A cluster sensor crosses a temperature boundary upward and the cluster steps its clock down within 100 µs. -/
  | clusterClockStepDown (c : Nat) (t : Nat)
  /-- CLUSTER_CLOCK_STEP_UP (R64): Every sensor of a cluster has stayed 5 °C below the boundary for 10 ms and the cluster steps its clock up. -/
  | clusterClockStepUp (c : Nat) (t : Nat)
  /-- THERMAL_STOP (R66): A sensor reaches 155 °C and the module stops as R45 with LASTSTOP thermal. -/
  | thermalStop (t : Nat)
  /-- THERMAL_RESTART (R66): Every sensor is at 140 °C or less and the module restarts by a Module reset. -/
  | thermalRestart (t : Nat)
  /-- COLD_SENSOR_RESAMPLE (R66): Below −40 °C the module holds Cold reset and samples again each second. -/
  | coldSensorResample (t : Nat)
  /-- POWER_STATE_ENTRY (R51): With AUTO set, nothing runnable and enough tolerance, the module enters the deepest qualifying of Park, Nap or Drowse. -/
  | powerStateEntry
  /-- WAKE_EVENT (R52): A wake event starts the return to Run from Park, Nap or Drowse, or abandons an entry in progress. -/
  | wakeEvent (kind : Nat)
  /-- POWER_STATE_EXIT_END (R50): Full Run service returns at the end of a state exit. -/
  | powerStateExitEnd
  /-- SHUTTER_REQUEST (R54): POWER.CTL.SHUTTER = 1 requests Shutter; refused with a reason or the Pockets are saved and Weft dies turned off. -/
  | shutterRequest
  /-- SHUTTER_ENTRY_END (R54): Every Pocket is saved to DRAM and the Weft dies are off; the module is in Shutter. -/
  | shutterEntryEnd
  /-- VAULT_REQUEST (R61): POWER.CTL.VAULT = 1 requests Vault; refused or the five entry steps run. -/
  | vaultRequest
  /-- POWER_WAKE_WRITE (R56): POWER.CTL.WAKE = 1 leaves Shutter or abandons a Shutter or Vault entry. -/
  | powerWakeWrite
  /-- VAULT_EXIT (R63): A wake event in Vault starts a Module reset with CAUSE 6. -/
  | vaultExit (kind : Nat)
  /-- LTR_WRITE (R59): A write to PART[n].LTR or POWER.LTRFW recomputes the effective tolerance and may be a wake event. -/
  | ltrWrite (fw : Bool) (n : Nat) (w : Word)
  /-- RESET_N_ASSERT (R84): RESET_N held low for at least 1 µs starts a Module reset. -/
  | resetNAssert
  /-- RESET_N_RELEASE (R84): Release of RESET_N starts the boot. -/
  | resetNRelease
  /-- WAKE_N_ASSERT (R84): A falling edge of WAKE_N held long enough is a wake event for the current state. -/
  | wakeNAssert (rested : Bool)
  /-- PRSNT_CHANGE (R88): A PRSNT_N change passes its 5 ms filter and the module acts on it. -/
  | prsntChange (n : Nat) (fitted : Bool)
  /-- REFCLK_LOCK_RETRY (R81): With REFCLK absent at PLL lock, FAIL_N goes low after 100 ms and lock is retried every second. -/
  | refclkLockRetry (there : Bool)
  /-- REFCLK_LOSS (R81): REFCLK is lost for more than 1 µs while running, a fatal fault that starts a Module reset. -/
  | refclkLoss
  /-- SLOE_FAIL (R82): The Sloe crystal gives no oscillation in 2 s or stops; the island runs from its internal oscillator and marks the calendar uncertain. -/
  | sloeFail
  /-- SLOE_RETURN (R568): The Sloe has run for 2 s and the island returns to it from the internal oscillator. -/
  | sloeReturn
  /-- PPS_IN_EDGE (R83): A PPS_IN rising edge is time-stamped and a waiting ROLE 1 TODSET takes effect. -/
  | ppsInEdge
  /-- PPS_OUT_SECOND (R83): PPS_OUT rises at each whole second of valid time-of-day for 100 ms. -/
  | ppsOutSecond
  /-- IDCODE (R91): Test port instruction that selects the IDCODE register. -/
  | idcode
  /-- SAMPLE_PRELOAD (R91): Test port instruction that samples or preloads the boundary register. -/
  | samplePreload (cells : List Bool)
  /-- EXTEST (R92): Test port instruction that drives lands from the boundary register. -/
  | extest (cells : List Bool) (lanes : List Nat)
  /-- CLAMP (R92): Test port instruction that holds outputs from the boundary register with BYPASS selected. -/
  | clamp (lanes : List Nat)
  /-- HIGHZ (R92): Test port instruction that makes every covered output high-impedance. -/
  | highz (lanes : List Nat)
  /-- BYPASS (R91): Test port instruction that selects the bypass register. -/
  | bypass (code : Nat)
  /-- DSEL (R340): Debug instruction that selects a context or T0. -/
  | dsel (v : Nat)
  /-- DCMD_HALT (R339): Debug command that halts the selected context at its next commit point. -/
  | dcmdHalt
  /-- DCMD_RESUME (R339): Debug command that ends a debug halt. -/
  | dcmdResume
  /-- DCMD_STEP (R339): Debug command that executes one instruction and halts again. -/
  | dcmdStep
  /-- DSTAT (R340): Debug instruction that returns the state of the selected target. -/
  | dstat
  /-- DREG_READ (R338): Debug read of a register of the halted context, or a T0 register, through the Main. -/
  | dregRead (reg : Nat)
  /-- DREG_WRITE (R338): Debug write of a register of the halted context, replayed on both cores. -/
  | dregWrite (reg : Nat) (v : Word)
  /-- DMEM_READ (R340): Debug memory read through the context translation or module-physical. -/
  | dmemRead (addr : Nat) (size : Nat) (mp : Bool)
  /-- DMEM_WRITE (R340): Debug memory write through the context translation or module-physical. -/
  | dmemWrite (addr : Nat) (size : Nat) (mp : Bool) (v : Word)
  /-- DBRK (R340): Debug instruction that sets or clears a breakpoint. -/
  | dbrk (idx : Nat) (pc : Word) (en : Bool)
  /-- DEBUG_ACTION_APPLY (R338): A debug action is applied at the selected Pocket's next commit point as an agreed input. -/
  | debugActionApply
  /-- BREAKPOINT_HIT (R339): A breakpoint halts the context before the matched instruction. -/
  | breakpointHit (c : Nat)
  /-- ADD (R126): rd := ra + rb. -/
  | add (c : Nat) (f : RFmt)
  /-- ADDS (R126): rd := ra + rb with flags. -/
  | adds (c : Nat) (f : RFmt)
  /-- ADC (R126): rd := ra + rb + C with flags. -/
  | adc (c : Nat) (f : RFmt)
  /-- SUB (R126): rd := ra − rb. -/
  | sub (c : Nat) (f : RFmt)
  /-- SUBS (R126): rd := ra − rb with flags. -/
  | subs (c : Nat) (f : RFmt)
  /-- SBC (R126): rd := ra − rb − (1 − C) with flags. -/
  | sbc (c : Nat) (f : RFmt)
  /-- NEG (R126): rd := 0 − ra. -/
  | neg (c : Nat) (f : RFmt)
  /-- CMP (R126): Flags of ra − rb. -/
  | cmp (c : Nat) (f : RFmt)
  /-- AND (R126): rd := ra and rb. -/
  | and (c : Nat) (f : RFmt)
  /-- OR (R126): rd := ra or rb. -/
  | or (c : Nat) (f : RFmt)
  /-- XOR (R126): rd := ra xor rb. -/
  | xor (c : Nat) (f : RFmt)
  /-- ANDN (R126): rd := ra and not rb. -/
  | andn (c : Nat) (f : RFmt)
  /-- ORN (R126): rd := ra or not rb. -/
  | orn (c : Nat) (f : RFmt)
  /-- TST (R126): Flags Z and N of ra and rb. -/
  | tst (c : Nat) (f : RFmt)
  /-- SEL (R126): rd := ra if condition holds, else rb. -/
  | sel (c : Nat) (f : RFmt)
  /-- SLT (R126): rd := 1 if ra < rb signed. -/
  | slt (c : Nat) (f : RFmt)
  /-- SLTU (R126): rd := 1 if ra < rb unsigned. -/
  | sltu (c : Nat) (f : RFmt)
  /-- MIN (R126): Signed minimum. -/
  | min (c : Nat) (f : RFmt)
  /-- MAX (R126): Signed maximum. -/
  | max (c : Nat) (f : RFmt)
  /-- MINU (R126): Unsigned minimum. -/
  | minu (c : Nat) (f : RFmt)
  /-- MAXU (R126): Unsigned maximum. -/
  | maxu (c : Nat) (f : RFmt)
  /-- ABS (R126): Absolute value of ra. -/
  | abs (c : Nat) (f : RFmt)
  /-- SEXTB (R126): Sign-extend byte. -/
  | sextb (c : Nat) (f : RFmt)
  /-- SEXTH (R126): Sign-extend halfword. -/
  | sexth (c : Nat) (f : RFmt)
  /-- SEXTW (R126): Sign-extend word. -/
  | sextw (c : Nat) (f : RFmt)
  /-- ZEXTW (R126): Zero-extend word. -/
  | zextw (c : Nat) (f : RFmt)
  /-- JR (R126): PC := ra. -/
  | jr (c : Nat) (f : RFmt)
  /-- CALLR (R126): rd := PC + 4; PC := ra. -/
  | callr (c : Nat) (f : RFmt)
  /-- MUL (R127): Low 64 bits of ra × rb. -/
  | mul (c : Nat) (f : RFmt)
  /-- MULHS (R127): High 64 bits of signed product. -/
  | mulhs (c : Nat) (f : RFmt)
  /-- MULHU (R127): High 64 bits of unsigned product. -/
  | mulhu (c : Nat) (f : RFmt)
  /-- MULW (R127): Signed 128-bit product into rd and rc. -/
  | mulw (c : Nat) (f : RFmt)
  /-- MULWU (R127): Unsigned 128-bit product into rd and rc. -/
  | mulwu (c : Nat) (f : RFmt)
  /-- MADD (R127): rd := rc + ra × rb. -/
  | madd (c : Nat) (f : RFmt)
  /-- MSUB (R127): rd := rc − ra × rb. -/
  | msub (c : Nat) (f : RFmt)
  /-- DIVS (R143): Signed divide; zero divisor raises IDIV. -/
  | divs (c : Nat) (f : RFmt)
  /-- DIVU (R143): Unsigned divide; zero divisor raises IDIV. -/
  | divu (c : Nat) (f : RFmt)
  /-- REMS (R143): Signed remainder. -/
  | rems (c : Nat) (f : RFmt)
  /-- REMU (R143): Unsigned remainder. -/
  | remu (c : Nat) (f : RFmt)
  /-- SLL (R128): Shift left. -/
  | sll (c : Nat) (f : RFmt)
  /-- SRL (R128): Shift right, zero-filled. -/
  | srl (c : Nat) (f : RFmt)
  /-- SRA (R128): Shift right, sign-filled. -/
  | sra (c : Nat) (f : RFmt)
  /-- ROR (R128): Rotate right. -/
  | ror (c : Nat) (f : RFmt)
  /-- CLZ (R128): Count leading zeros. -/
  | clz (c : Nat) (f : RFmt)
  /-- CTZ (R128): Count trailing zeros. -/
  | ctz (c : Nat) (f : RFmt)
  /-- POPC (R128): Count ones. -/
  | popc (c : Nat) (f : RFmt)
  /-- BREV (R128): Reverse bit order. -/
  | brev (c : Nat) (f : RFmt)
  /-- BSWAP (R128): Reverse byte order. -/
  | bswap (c : Nat) (f : RFmt)
  /-- DADD (R161): Register decimal add. -/
  | dadd (c : Nat) (f : RFmt)
  /-- DSUB (R161): Register decimal subtract. -/
  | dsub (c : Nat) (f : RFmt)
  /-- DCMP (R161): Register decimal compare. -/
  | dcmp (c : Nat) (f : RFmt)
  /-- DMUL (R161): Register decimal multiply to 31 digits. -/
  | dmul (c : Nat) (f : RFmt)
  /-- DDIV (R161): Register decimal divide with remainder. -/
  | ddiv (c : Nat) (f : RFmt)
  /-- DSHL (R161): Decimal shift left. -/
  | dshl (c : Nat) (f : RFmt)
  /-- DSHR (R161): Decimal shift right with optional rounding. -/
  | dshr (c : Nat) (f : RFmt)
  /-- DNEG (R160): Invert decimal sign. -/
  | dneg (c : Nat) (f : RFmt)
  /-- DCHK (R160): Rewrite decimal sign to preferred code. -/
  | dchk (c : Nat) (f : RFmt)
  /-- CVBD (R161): Decimal to binary. -/
  | cvbd (c : Nat) (f : RFmt)
  /-- CVDB (R161): Binary to decimal. -/
  | cvdb (c : Nat) (f : RFmt)
  /-- DSADD (R163): Ledger string add. -/
  | dsadd (c : Nat) (f : RFmt)
  /-- DSSUB (R163): Ledger string subtract. -/
  | dssub (c : Nat) (f : RFmt)
  /-- DSMUL (R163): Ledger string multiply. -/
  | dsmul (c : Nat) (f : RFmt)
  /-- DSDIV (R163): Ledger string divide into quotient and remainder. -/
  | dsdiv (c : Nat) (f : RFmt)
  /-- DSCMP (R163): Ledger string compare. -/
  | dscmp (c : Nat) (f : RFmt)
  /-- DPACK (R163): Pack a zoned string. -/
  | dpack (c : Nat) (f : RFmt)
  /-- DUNPK (R163): Unpack to a zoned string. -/
  | dunpk (c : Nat) (f : RFmt)
  /-- FADD (R145): Floating add. -/
  | fadd (c : Nat) (single : Bool) (f : RFmt)
  /-- FSUB (R145): Floating subtract. -/
  | fsub (c : Nat) (single : Bool) (f : RFmt)
  /-- FMUL (R145): Floating multiply. -/
  | fmul (c : Nat) (single : Bool) (f : RFmt)
  /-- FDIV (R145): Floating divide. -/
  | fdiv (c : Nat) (single : Bool) (f : RFmt)
  /-- FSQRT (R145): Floating square root. -/
  | fsqrt (c : Nat) (single : Bool) (f : RFmt)
  /-- FMADD (R145): Fused multiply-add. -/
  | fmadd (c : Nat) (single : Bool) (f : RFmt)
  /-- FMSUB (R145): Fused multiply-subtract. -/
  | fmsub (c : Nat) (single : Bool) (f : RFmt)
  /-- FMIN (R150): minimumNumber. -/
  | fmin (c : Nat) (single : Bool) (f : RFmt)
  /-- FMAX (R150): maximumNumber. -/
  | fmax (c : Nat) (single : Bool) (f : RFmt)
  /-- FABS (R130): Clear sign. -/
  | fabs (c : Nat) (single : Bool) (f : RFmt)
  /-- FNEG (R130): Invert sign. -/
  | fneg (c : Nat) (single : Bool) (f : RFmt)
  /-- FCMP (R150): Floating compare into flags. -/
  | fcmp (c : Nat) (single : Bool) (f : RFmt)
  /-- FEQ (R150): Ordered equal into g register. -/
  | feq (c : Nat) (single : Bool) (f : RFmt)
  /-- FLT (R150): Ordered less into g register. -/
  | flt (c : Nat) (single : Bool) (f : RFmt)
  /-- FLE (R150): Ordered less-or-equal into g register. -/
  | fle (c : Nat) (single : Bool) (f : RFmt)
  /-- FCVTI (R151): Float to signed integer. -/
  | fcvti (c : Nat) (single : Bool) (f : RFmt)
  /-- FCVTU (R151): Float to unsigned integer. -/
  | fcvtu (c : Nat) (single : Bool) (f : RFmt)
  /-- ICVTF (R130): Signed integer to float. -/
  | icvtf (c : Nat) (single : Bool) (f : RFmt)
  /-- UCVTF (R130): Unsigned integer to float. -/
  | ucvtf (c : Nat) (single : Bool) (f : RFmt)
  /-- FCVT (R149): Convert to the other precision. -/
  | fcvt (c : Nat) (single : Bool) (f : RFmt)
  /-- FMVG (R130): Move f bits to g. -/
  | fmvg (c : Nat) (single : Bool) (f : RFmt)
  /-- GMVF (R130): Move g bits to f. -/
  | gmvf (c : Nat) (single : Bool) (f : RFmt)
  /-- FCLASS (R152): Class mask of ra. -/
  | fclass (c : Nat) (single : Bool) (f : RFmt)
  /-- FRND (R151): Round to integral value. -/
  | frnd (c : Nat) (single : Bool) (f : RFmt)
  /-- CAS (R131): Compare and swap. -/
  | cas (c : Nat) (dword : Bool) (f : RFmt)
  /-- SWP (R131): Atomic swap. -/
  | swp (c : Nat) (dword : Bool) (f : RFmt)
  /-- LDADD (R131): Atomic add. -/
  | ldadd (c : Nat) (dword : Bool) (f : RFmt)
  /-- LDAND (R131): Atomic and. -/
  | ldand (c : Nat) (dword : Bool) (f : RFmt)
  /-- LDOR (R131): Atomic or. -/
  | ldor (c : Nat) (dword : Bool) (f : RFmt)
  /-- LDXOR (R131): Atomic xor. -/
  | ldxor (c : Nat) (dword : Bool) (f : RFmt)
  /-- MOVBLK (R131): Progressive block copy. -/
  | movblk (c : Nat) (f : BlkFmt)
  /-- FILLBLK (R131): Progressive block fill. -/
  | fillblk (c : Nat) (f : BlkFmt)
  /-- NOP (R132): No operation. -/
  | nop (c : Nat) (f : SFmt)
  /-- MFSR (R100): Read a system register. -/
  | mfsr (c : Nat) (f : SFmt)
  /-- MTSR (R100): Write a system register. -/
  | mtsr (c : Nat) (f : SFmt)
  /-- SVC (R132): Raises SVC. -/
  | svc (c : Nat) (f : SFmt)
  /-- FWC (R132): Raises FWC via PARTX. -/
  | fwc (c : Nat) (f : SFmt)
  /-- RFE (R122): Return from exception. -/
  | rfe (c : Nat) (f : SFmt)
  /-- BRK (R132): Raises BRK. -/
  | brk (c : Nat) (f : SFmt)
  /-- BAR (R287): Barrier of core, cluster or system scope. -/
  | bar (c : Nat) (f : SFmt)
  /-- PERSIST (R292): Persist barrier; completes when the context's Hem window stores are durable. -/
  | persist (c : Nat) (f : SFmt)
  /-- ISYNC (R132): Discards fetched instructions after this one. -/
  | isync (c : Nat) (f : SFmt)
  /-- WFE (R216): Commits if EVENT is latched, else blocks the Pocket. -/
  | wfe (c : Nat) (f : SFmt)
  /-- TLBI (R115): Invalidates stage 1 translations of the partition. -/
  | tlbi (c : Nat) (f : SFmt)
  /-- TLB2I (R115): Invalidates stage 2 translations of a named partition. -/
  | tlb2i (c : Nat) (f : SFmt)
  /-- CCLEAN (R269): Writes back the line if dirty and keeps it. -/
  | cclean (c : Nat) (f : SFmt)
  /-- CFLUSH (R269): Writes back and invalidates the line. -/
  | cflush (c : Nat) (f : SFmt)
  /-- CINV (R269): Invalidates the line discarding dirty data. -/
  | cinv (c : Nat) (f : SFmt)
  /-- PREF (R269): Prefetch hint. -/
  | pref (c : Nat) (f : SFmt)
  /-- CSW (R220): Compatibility switch from CA-64 to Classic. -/
  | csw (c : Nat) (f : SFmt)
  /-- SAVEM (R222): Progressive block save by mask. -/
  | savem (c : Nat) (f : SFmt)
  /-- LOADM (R223): Progressive block restore by mask. -/
  | loadm (c : Nat) (f : SFmt)
  /-- ADDI (R133): Add immediate. -/
  | addi (c : Nat) (f : IFmt)
  /-- ANDI (R133): And immediate. -/
  | andi (c : Nat) (f : IFmt)
  /-- ORI (R133): Or immediate. -/
  | ori (c : Nat) (f : IFmt)
  /-- XORI (R133): Xor immediate. -/
  | xori (c : Nat) (f : IFmt)
  /-- CMPI (R133): Compare immediate. -/
  | cmpi (c : Nat) (f : IFmt)
  /-- MOVI (R133): Move immediate. -/
  | movi (c : Nat) (f : IFmt)
  /-- INSH (R133): Insert halfword immediate. -/
  | insh (c : Nat) (f : IFmt)
  /-- SLLI (R133): Shift left immediate. -/
  | slli (c : Nat) (f : IFmt)
  /-- SRLI (R133): Shift right logical immediate. -/
  | srli (c : Nat) (f : IFmt)
  /-- SRAI (R133): Shift right arithmetic immediate. -/
  | srai (c : Nat) (f : IFmt)
  /-- MULI (R133): Multiply immediate. -/
  | muli (c : Nat) (f : IFmt)
  /-- EXTU (R133): Extract field zero-extended. -/
  | extu (c : Nat) (f : IFmt)
  /-- EXTS (R133): Extract field sign-extended. -/
  | exts (c : Nat) (f : IFmt)
  /-- INSF (R133): Insert field. -/
  | insf (c : Nat) (f : IFmt)
  /-- LDB (R134): Load byte signed. -/
  | ldb (c : Nat) (f : MFmt)
  /-- LDBU (R134): Load byte unsigned. -/
  | ldbu (c : Nat) (f : MFmt)
  /-- LDH (R134): Load halfword signed. -/
  | ldh (c : Nat) (f : MFmt)
  /-- LDHU (R134): Load halfword unsigned. -/
  | ldhu (c : Nat) (f : MFmt)
  /-- LDW (R134): Load word signed. -/
  | ldw (c : Nat) (f : MFmt)
  /-- LDWU (R134): Load word unsigned. -/
  | ldwu (c : Nat) (f : MFmt)
  /-- LDD (R134): Load doubleword. -/
  | ldd (c : Nat) (f : MFmt)
  /-- LDP (R134): Load pair. -/
  | ldp (c : Nat) (f : MFmt)
  /-- STB (R134): Store byte. -/
  | stb (c : Nat) (f : MFmt)
  /-- STH (R134): Store halfword. -/
  | sth (c : Nat) (f : MFmt)
  /-- STW (R134): Store word. -/
  | stw (c : Nat) (f : MFmt)
  /-- STD (R134): Store doubleword. -/
  | std (c : Nat) (f : MFmt)
  /-- STP (R134): Store pair. -/
  | stp (c : Nat) (f : MFmt)
  /-- FLDS (R134): Load binary32. -/
  | flds (c : Nat) (f : MFmt)
  /-- FLDD (R134): Load binary64. -/
  | fldd (c : Nat) (f : MFmt)
  /-- FSTS (R134): Store binary32. -/
  | fsts (c : Nat) (f : MFmt)
  /-- FSTD (R134): Store binary64. -/
  | fstd (c : Nat) (f : MFmt)
  /-- LEA (R134): Load effective address. -/
  | lea (c : Nat) (f : MFmt)
  /-- ST64 (R105): One 64-byte store; the only way to ring a doorbell. -/
  | st64 (c : Nat) (f : MFmt)
  /-- BC (R135): Conditional branch. -/
  | bc (c : Nat) (f : BFmt)
  /-- JMP (R135): Jump. -/
  | jmp (c : Nat) (f : JFmt)
  /-- CALL (R135): Call with link in g31. -/
  | call (c : Nat) (f : JFmt)
  /-- CBEQ (R135): Branch if equal. -/
  | cbeq (c : Nat) (f : IFmt)
  /-- CBNE (R135): Branch if not equal. -/
  | cbne (c : Nat) (f : IFmt)
  /-- CBLT (R135): Branch if less, signed. -/
  | cblt (c : Nat) (f : IFmt)
  /-- CBGE (R135): Branch if greater or equal, signed. -/
  | cbge (c : Nat) (f : IFmt)
  /-- CBLTU (R135): Branch if less, unsigned. -/
  | cbltu (c : Nat) (f : IFmt)
  /-- CBGEU (R135): Branch if greater or equal, unsigned. -/
  | cbgeu (c : Nat) (f : IFmt)
  /-- SUM (R200): Classic add. -/
  | sum (c : Nat) (f : R3Fmt)
  /-- SUMC (R200): Classic add with carry. -/
  | sumc (c : Nat) (f : R3Fmt)
  /-- DIF (R200): Classic subtract. -/
  | dif (c : Nat) (f : R3Fmt)
  /-- DIFB (R200): Classic subtract with borrow. -/
  | difb (c : Nat) (f : R3Fmt)
  /-- CMR (R200): Classic compare registers. -/
  | cmr (c : Nat) (f : R3Fmt)
  /-- ANR (R200): Classic and. -/
  | anr (c : Nat) (f : R3Fmt)
  /-- ORR (R200): Classic or. -/
  | orr (c : Nat) (f : R3Fmt)
  /-- EOR (R200): Classic xor. -/
  | eor (c : Nat) (f : R3Fmt)
  /-- CPY (R200): Classic copy. -/
  | cpy (c : Nat) (f : R3Fmt)
  /-- NEGR (R200): Classic negate. -/
  | negr (c : Nat) (f : R3Fmt)
  /-- MULS (R200): Classic signed 64-bit product into a pair. -/
  | muls (c : Nat) (f : R3Fmt)
  /-- MULU (R200): Classic unsigned 64-bit product into a pair. -/
  | mulu (c : Nat) (f : R3Fmt)
  /-- QUO (R200): Classic signed divide. -/
  | quo (c : Nat) (f : R3Fmt)
  /-- RMD (R200): Classic signed remainder. -/
  | rmd (c : Nat) (f : R3Fmt)
  /-- SHL (R200): Classic shift left. -/
  | shl (c : Nat) (f : R3Fmt)
  /-- SHR (R200): Classic shift right logical. -/
  | shr (c : Nat) (f : R3Fmt)
  /-- SHA (R200): Classic shift right arithmetic. -/
  | sha (c : Nat) (f : R3Fmt)
  /-- LNKR (R200): Classic call by register. -/
  | lnkr (c : Nat) (f : R3Fmt)
  /-- JMPR (R200): Classic jump by register. -/
  | jmpr (c : Nat) (f : R3Fmt)
  /-- DPSUM (R200): Classic decimal pair add. -/
  | dpsum (c : Nat) (f : R3Fmt)
  /-- DPDIF (R200): Classic decimal pair subtract. -/
  | dpdif (c : Nat) (f : R3Fmt)
  /-- DPCMP (R200): Classic decimal pair compare. -/
  | dpcmp (c : Nat) (f : R3Fmt)
  /-- DPMUL (R200): Classic decimal pair multiply. -/
  | dpmul (c : Nat) (f : R3Fmt)
  /-- DPQUO (R200): Classic decimal pair divide. -/
  | dpquo (c : Nat) (f : R3Fmt)
  /-- DPBIN (R200): Classic decimal pair to binary. -/
  | dpbin (c : Nat) (f : R3Fmt)
  /-- DPDEC (R200): Classic binary to decimal pair. -/
  | dpdec (c : Nat) (f : R3Fmt)
  /-- DPSHF (R200): Classic decimal pair shift. -/
  | dpshf (c : Nat) (f : R3Fmt)
  /-- SUMK (R200): Classic add constant. -/
  | sumk (c : Nat) (f : RKFmt)
  /-- CMK (R200): Classic compare constant. -/
  | cmk (c : Nat) (f : RKFmt)
  /-- ANK (R200): Classic and constant. -/
  | ank (c : Nat) (f : RKFmt)
  /-- ORK (R200): Classic or constant. -/
  | ork (c : Nat) (f : RKFmt)
  /-- EOK (R200): Classic xor constant. -/
  | eok (c : Nat) (f : RKFmt)
  /-- SETK (R200): Classic set constant. -/
  | setk (c : Nat) (f : RKFmt)
  /-- SETHK (R200): Classic set high constant. -/
  | sethk (c : Nat) (f : RKFmt)
  /-- SHLK (R200): Classic shift left by constant. -/
  | shlk (c : Nat) (f : RKFmt)
  /-- SHRK (R200): Classic shift right logical by constant. -/
  | shrk (c : Nat) (f : RKFmt)
  /-- SHAK (R200): Classic shift right arithmetic by constant. -/
  | shak (c : Nat) (f : RKFmt)
  /-- LW (R200): Classic load word. -/
  | lw (c : Nat) (f : RMFmt)
  /-- LHS (R200): Classic load halfword signed. -/
  | lhs (c : Nat) (f : RMFmt)
  /-- LHZ (R200): Classic load halfword unsigned. -/
  | lhz (c : Nat) (f : RMFmt)
  /-- LBS (R200): Classic load byte signed. -/
  | lbs (c : Nat) (f : RMFmt)
  /-- LBZ (R200): Classic load byte unsigned. -/
  | lbz (c : Nat) (f : RMFmt)
  /-- SW (R200): Classic store word. -/
  | sw (c : Nat) (f : RMFmt)
  /-- SHW (R200): Classic store halfword. -/
  | shw (c : Nat) (f : RMFmt)
  /-- SBY (R200): Classic store byte. -/
  | sby (c : Nat) (f : RMFmt)
  /-- ADR (R200): Classic address computation. -/
  | adr (c : Nat) (f : RMFmt)
  /-- LNK (R200): Classic call. -/
  | lnk (c : Nat) (f : RMFmt)
  /-- LPW (R200): Classic load pair word. -/
  | lpw (c : Nat) (f : RMFmt)
  /-- SPW (R200): Classic store pair word. -/
  | spw (c : Nat) (f : RMFmt)
  /-- SWPC (R200): Classic compare and swap word. -/
  | swpc (c : Nat) (f : RMFmt)
  /-- BRC (R200): Classic conditional branch. -/
  | brc (c : Nat) (f : BJFmt)
  /-- SCALL (R200): Classic supervisor call. -/
  | scall (c : Nat) (f : RKFmt)
  /-- CLASSIC_CSW (R220): Compatibility switch from Classic to CA-64. -/
  | classicCsw (c : Nat) (f : RKFmt)
  /-- CLASSIC_NOP (R200): Classic no operation. -/
  | classicNop (c : Nat) (f : RKFmt)
  /-- CLASSIC_BRK (R200): Classic breakpoint. -/
  | classicBrk (c : Nat) (f : RKFmt)
  /-- DSUM (R200): Classic ledger string add. -/
  | dsum (c : Nat) (f : DSFmt)
  /-- DDIF (R200): Classic ledger string subtract. -/
  | ddif (c : Nat) (f : DSFmt)
  /-- DMPY (R200): Classic ledger string multiply. -/
  | dmpy (c : Nat) (f : DSFmt)
  /-- DQUO (R200): Classic ledger string divide. -/
  | dquo (c : Nat) (f : DSFmt)
  /-- DCOM (R200): Classic ledger string compare. -/
  | dcom (c : Nat) (f : DSFmt)
  /-- ZPK (R200): Classic pack zoned string. -/
  | zpk (c : Nat) (f : DSFmt)
  /-- PKZ (R200): Classic unpack to zoned string. -/
  | pkz (c : Nat) (f : DSFmt)
  /-- BMOV (R200): Classic byte block move. -/
  | bmov (c : Nat) (f : DSFmt)
  /-- BCMP (R200): Classic byte block compare. -/
  | bcmp (c : Nat) (f : DSFmt)
  /-- INTERRUPT_ENTRY (R120): A Collar request is taken at the next commit point with IE = 1 and EX = 0, abandoning the instruction. -/
  | interruptEntry (c : Nat)
  /-- PARTX_ENTRY (R217): A waiting PARTX is taken by the firmware Pocket at its next commit point. -/
  | partxEntry (c : Nat)
  /-- PERSIST_REQUEST (R293): The Hem home takes a persist request and answers when the pair's Hem writes are durable. -/
  | persistRequest (p : Nat)
  /-- PERSIST_ACK (R293): The persist acknowledgement returns and PERSIST retires. -/
  | persistAck (p : Nat)
  /-- CONTROL_STORE_PARITY_ERROR (R185): A parity error on a stored word abandons the routine and retries the pair. -/
  | controlStoreParityError (p : Nat) (e : Machine.PairErr)
  /-- STAGE_SEAL (R188): CSTORE.STAGECTL SEAL checks the staging CRC and match duplicates and seals. -/
  | stageSeal (crc : Nat) (version : Nat)
  /-- STAGE_UNSEAL (R188): CSTORE.STAGECTL UNSEAL unseals the staging area unless busy. -/
  | stageUnseal
  /-- PATCH_APPLY (R189): CSTORE.APPLY GO loads the sealed patch into one core pair. -/
  | patchApply (p : Nat) (how : Nat)
  /-- POCKET_RESUME (R209): Pocket command RESUME makes a STOPPED Pocket READY. -/
  | pocketResume (c : Nat)
  /-- POCKET_STOP (R209): Pocket command STOP stops the Pocket with FWHOLD. -/
  | pocketStop (c : Nat)
  /-- POCKET_SAVE (R207): Pocket command SAVE writes a full save area. -/
  | pocketSave (c : Nat)
  /-- POCKET_RESTORE (R208): Pocket command RESTORE checks and loads the save area. -/
  | pocketRestore (c : Nat)
  /-- POCKET_OWNER_WRITE (R209): A write of OWNED or OWNER changes the owner and zeroes the Pocket, or is ignored. -/
  | pocketOwnerWrite (c : Nat) (owned : Bool) (owner : Nat)
  /-- CTX_START (R209): CTXCMD START zeroes the Pocket and starts it at the captured CTXPC. -/
  | ctxStart (n : Nat) (c : Nat)
  /-- CTX_STOP (R209): CTXCMD STOP stops the context without FWHOLD. -/
  | ctxStop (n : Nat) (c : Nat)
  /-- CTX_CONT (R209): CTXCMD CONT makes a stopped context READY. -/
  | ctxCont (n : Nat) (c : Nat)
  /-- CTX_WAKE (R216): CTXCMD WAKE sets the context's EVENT latch. -/
  | ctxWake (n : Nat) (c : Nat)
  /-- CTX_SETPRI (R232): CTXCMD SETPRI sets the Pocket priority within PRIMAX. -/
  | ctxSetpri (n : Nat) (c : Nat)
  /-- POCKET_SWITCH (R212): At a switch point the scheduler chooses the next READY Pocket. -/
  | pocketSwitch (k : Nat)
  /-- SLICE_END (R212): A running Pocket's slice of SLICE × 1,024 cycles ends. -/
  | sliceEnd (k : Nat)
  /-- SWWAIT_EXCEEDED (R213): A routine has waited more than SWWAIT cycles and is abandoned for a switch. -/
  | swwaitExceeded (k : Nat)
  /-- PAIR_GATE (R218): A core pair with no READY or RUNNING Pocket clock-gates or power-gates. -/
  | pairGate (k : Nat)
  /-- PARTITION_CREATE (R227): PART[n].CTL CREATE makes a FREE partition ACTIVE. -/
  | partitionCreate (n : Nat)
  /-- PARTITION_DESTROY (R228): PART[n].CTL DESTROY stops, unbinds and zeroes a partition. -/
  | partitionDestroy (n : Nat)
  /-- PARTITION_RESET (R229): PART[n].CTL Partition reset stops and zeroes the partition's Pockets and resets its ring pairs. -/
  | partitionReset (n : Nat)
  /-- UNIT_RESET (R587): A Unit reset of a core pair, lane, Pleat engine or Cloak lane. -/
  | unitReset (kind : Nat) (num : Nat) (pass : Bool)
  /-- SOURCE_EVENT (R238): An event reaches Collar for a source and moves its state. -/
  | sourceEvent (src : Nat)
  /-- COLLAR_SEND (R235): Firmware write to COLLAR.SEND sends an event. -/
  | collarSend (c : Nat) (src : Nat)
  /-- PART_COLSEND (R235): Write to PART[n].COLSEND sends a software source owned by n. -/
  | partColsend (c : Nat) (n : Nat) (src : Nat)
  /-- PART_CLAIM (R241): Read of PART[n].CLAIM claims the highest pending source. -/
  | partClaim (c : Nat) (n : Nat)
  /-- COLLAR_FWCLAIM (R241): Read of COLLAR.FWCLAIM claims for the firmware context. -/
  | collarFwclaim (c : Nat)
  /-- PART_EOS (R242): Write to PART[n].EOS ends service of a held source. -/
  | partEos (c : Nat) (n : Nat) (src : Nat)
  /-- COLLAR_FWEOS (R242): Write to COLLAR.FWEOS ends service for firmware. -/
  | collarFweos (c : Nat) (src : Nat)
  /-- SRC_FORCE (R242): COLLAR.SRC[s].FORCE ends service of the source. -/
  | srcForce (src : Nat)
  /-- SWGRP_FORCE (R242): COLLAR.SWGRP[g].FORCE ends service of source FSRC. -/
  | swgrpForce (g : Nat) (fsrc : Nat)
  /-- GDIS_WRITE (R244): A write of COLLAR.CTL.GDIS disables or re-enables requests. -/
  | gdisWrite (gdis : Bool)
  /-- PART_TIMER_WRITE (R246): Write to PART[n].TIMER arms or disarms the context timer. -/
  | partTimerWrite (c : Nat) (n : Nat) (deadline : Word)
  /-- COLLAR_FWTIMER_WRITE (R246): Write to COLLAR.FWTIMER arms or disarms the firmware context timer. -/
  | collarFwtimerWrite (c : Nat) (deadline : Word)
  /-- CONTEXT_TIMER_EXPIRY (R246): TOD reaches a context timer's deadline and source 0x3000 + c is signalled. -/
  | contextTimerExpiry (c : Nat)
  /-- READS (R261): A home resolves a ReadS request. -/
  | reads (p : Nat) (sec : Nat)
  /-- READM (R261): A home resolves a ReadM request. -/
  | readm (p : Nat) (sec : Nat)
  /-- UPGRADE (R261): A home resolves an Upgrade request. -/
  | upgrade (p : Nat) (sec : Nat)
  /-- WRITEBACK (R261): A home takes a WriteBack. -/
  | writeback (p : Nat) (sec : Nat)
  /-- CLEAN (R261): A home takes a Clean. -/
  | clean (p : Nat) (sec : Nat)
  /-- EVICTNOTICE (R261): A home takes an EvictNotice. -/
  | evictnotice (p : Nat) (sec : Nat)
  /-- READCUR (R263): A home serves a non-caching ReadCur. -/
  | readcur (r : Nat) (sec : Nat)
  /-- WRITEFULL (R263): A home takes a non-caching WriteFull. -/
  | writefull (r : Nat) (sec : Nat) (bs : List Byte)
  /-- WRITEPART (R263): A home takes a non-caching WritePart. -/
  | writepart (r : Nat) (a : Nat) (bs : List Byte)
  /-- FORWARDED_REQUEST (R262): The M, O or E holder takes a forwarded request and sends data to the requester. -/
  | forwardedRequest (sec : Nat)
  /-- INVALIDATION (R267): A holder takes an invalidation and acknowledges it. -/
  | invalidation (q : Nat) (sec : Nat)
  /-- TRANSACTION_COMPLETE (R264): The requester's completion message ends the home transaction for the sector. -/
  | transactionComplete (sec : Nat)
  /-- NACK_RETRY (R264): After its back-off wait a NACKed requester sends its request again. -/
  | nackRetry (r : Nat) (sec : Nat)
  /-- WRITEBACK_ACK (R266): The home acknowledges a write-back and the eviction buffer entry frees. -/
  | writebackAck (p : Nat) (sec : Nat)
  /-- HOME_TIMEOUT (R271): A home's expected answer fails to arrive within TO µs. -/
  | homeTimeout (sec : Nat) (agent : Nat) (readable : Bool) (pass : Bool)
  /-- REQUESTER_TIMEOUT (R271): A requester has no answer from a home within 2 × TO. -/
  | requesterTimeout (r : Nat) (sec : Nat)
  /-- L2CTL_EN_WRITE (R276): A write of WEFT[d].L2CTL[p].EN disables or enables an L2. -/
  | l2ctlEnWrite (p : Nat) (en : Bool)
  /-- L3CTL_WGEN_WRITE (R276): A write of WEFT[d].L3CTL.WGEN powers down or up L3 way groups. -/
  | l3ctlWgenWrite (d : Nat) (w : Nat)
  /-- CACHE_DRAIN_DONE (R276): A drained cache or group reaches DISABLED or OFF, sets DONE and may send DONESRC. -/
  | cacheDrainDone (l3 : Bool) (u : Nat)
  /-- L3_POWERUP_DONE (R278): An L3 way group finishes POWERING and is ON. -/
  | l3PowerupDone (d : Nat) (g : Nat)
  /-- MAP_WRITE (R303): A write of WEFT[d].MAPA or MAPB updates the region in every die and the Hub. -/
  | mapWrite (k : Nat) (b : Bool) (w : Word)
  /-- DRAM_ACCESS (R311): A controller grants a request port and performs one burst with symbol ECC. -/
  | dramAccess (mc : Nat) (req : Machine.McReq) (more : List Machine.McReq) (dev : Nat) (outcome : Nat) (otherGood : Bool)
  /-- REFRESH_DUE (R307): A rank's refresh interval elapses and a REFsb or forced refresh is issued. -/
  | refreshDue (ch : Nat) (rank : Nat) (r : Machine.RefreshIn)
  /-- DRAM_THERMAL_THROTTLE (R309): A DIMM sensor above 95 °C halves the channel's transfer slots. -/
  | dramThermalThrottle (ch : Nat) (t : Nat)
  /-- DRAM_THROTTLE_END (R309): The sensor has read 90 °C or less for 1 s and the limit ends. -/
  | dramThrottleEnd (ch : Nat) (t : Nat)
  /-- RANK_POWER_DOWN (R310): A rank idle for PDT clocks enters precharge power-down. -/
  | rankPowerDown (ch : Nat) (rank : Nat)
  /-- PATROL_SCRUB_STEP (R314): The patrol scrubber reads and corrects the next sector. -/
  | patrolScrubStep (ch : Nat) (dev : Nat) (bad : Bool) (uncorr : Bool) (otherGood : Bool)
  /-- L3_SET_SCRUB (R314): An L3 slice scrubs one set. -/
  | l3SetScrub (d : Nat) (sl : Nat) (sec : Nat) (outcome : Nat)
  /-- CH_REMOVE (R316): CH[l].CMD REMOVE takes a mirrored channel's DIMM out for replacement. -/
  | chRemove (ch : Nat) (t : Nat)
  /-- CH_INSERT (R316): CH[l].CMD INSERT trains the channel and starts the rebuild. -/
  | chInsert (ch : Nat) (dimms : List Machine.DimmIn)
  /-- REBUILD_DONE (R316): The mirror rebuild ends; both channels IN_SERVICE and DONE set. -/
  | rebuildDone (ch : Nat)
  /-- COMPARATOR_MISMATCH (R323): The comparator flags a mismatch and the pair retries from the last commit point. -/
  | comparatorMismatch (p : Nat) (e : Machine.PairErr)
  /-- SPARE_MOVE (R329): SPARECTL MOVE moves a slot's contexts to a spare pair. -/
  | spareMove (e : Machine.SpareIn)
  /-- SPARE_REINSTATE (R336): SPARECTL REINSTATE self-tests a FAILED pair and returns it to SPARE on a pass. -/
  | spareReinstate (p : Nat) (pass : Bool)
  /-- DOORBELL_SEND (R354): A doorbell with ORDER SEND is validated, assigned a TSN and journaled. -/
  | doorbellSend (c : Nat) (r : Nat) (ws : List Word)
  /-- DOORBELL_POST (R354): A doorbell with ORDER POST is validated, assigned a TSN and journaled. -/
  | doorbellPost (c : Nat) (r : Nat) (ws : List Word)
  /-- DOORBELL_ANSWER (R354): A doorbell with ORDER ANSWER answers an inbound transaction, journaled. -/
  | doorbellAnswer (c : Nat) (r : Nat) (ws : List Word)
  /-- DOORBELL_FREE (R431): A doorbell with ORDER FREE returns a buffer or gets BUF_STATE. -/
  | doorbellFree (c : Nat) (r : Nat) (ws : List Word)
  /-- DOORBELL_BAD_STORE (R350): A store other than ST64 to the doorbell offset is refused with DB_FORM. -/
  | doorbellBadStore (c : Nat) (r : Nat) (hub : Bool)
  /-- HEM_WRITE_DURABLE (R30): A journal record becomes durable on the dies in service and the durability vote passes in TSN order. -/
  | hemWriteDurable (tsn : Nat) (h0 : Bool) (h1 : Bool)
  /-- DESCRIPTOR_FETCH_DONE (R357): A chained descriptor or payload read returns and is checked before the next read or the send. -/
  | descriptorFetchDone (tsn : Nat)
  /-- MARK_DURABLE (R392): A SENT, ANSWERED or RETIRED mark becomes durable and the triad acts on it. -/
  | markDurable (tsn : Nat) (kind : Nat)
  /-- CRACK (R369): A CRACK store frees CR slots and issues RETIRED marks. -/
  | crack (c : Nat) (r : Nat) (w : Word)
  /-- IRACK (R369): An IRACK store frees IR slots. -/
  | irack (c : Nat) (r : Nat) (w : Word)
  /-- RING_BIND (R346): RING[r].CMD BIND binds a ring pair, zeroes its rings and sets BOUND or RECOVERING. -/
  | ringBind (r : Nat)
  /-- RING_UNBIND (R347): RING[r].CMD UNBIND unbinds a ring pair. -/
  | ringUnbind (r : Nat)
  /-- RING_RESUME (R348): RING[r].CMD RESUME restarts a ring pair stopped by a stage 2 fault. -/
  | ringResume (r : Nat)
  /-- MODERATION_TIMER_EXPIRY (R370): A ring pair's moderation timer expires and source r is sent. -/
  | moderationTimerExpiry (r : Nat)
  /-- ANSWER_TIMEOUT (R367): A transaction's answer timer reaches its timeout; INDETERMINATE with DETAIL 0x0002. -/
  | answerTimeout (tsn : Nat)
  /-- REATTACH_EXPIRY (R368): REATTACH seconds pass in WAITING; the channel is DETACHED and open transactions end INDETERMINATE. -/
  | reattachExpiry (n : Nat)
  /-- JOURNAL_CARRY (R391): With free slots below CARRYTHR, the triad copies the tail record forward and marks it CARRIED. -/
  | journalCarry
  /-- GOWN_WRITE (R398): A HEM.GOWN write changing ownership zeroes the granule or is refused. -/
  | gownWrite (j : Nat) (w : Word)
  /-- GRANULE_ZERO_DONE (R398): Granule zeroing ends and BUSY clears. -/
  | granuleZeroDone (g : Nat)
  /-- HWINA_WRITE (R399): A write of PART[n].HWINA maps or unmaps a Hem window after its checks. -/
  | hwinaWrite (n : Nat) (k : Nat) (w : Word)
  /-- HWINB_WRITE (R410): A write of PART[n].HWINB sets COUNT and GRAN, ignored while VALID. -/
  | hwinbWrite (n : Nat) (k : Nat) (w : Word)
  /-- HEM_DIE_FAIL (R406): A Hem die not answering within 1 µs leaves service into single-copy mode. -/
  | hemDieFail (u : Nat)
  /-- HEM_RETIRE (R406): HEM.CMD RETIRE takes a die out of service. -/
  | hemRetire (u : Nat)
  /-- HEM_REJOIN (R407): HEM.CMD REJOIN self-tests a retired die and copies to it. -/
  | hemRejoin (u : Nat) (pass : Bool)
  /-- HEM_REJOIN_DONE (R407): The rejoin copy is complete and verified; SINGLE clears. -/
  | hemRejoinDone
  /-- WEAR_LEVEL_MOVE (R403): A frame past WLTHR above average moves to a spare frame. -/
  | wearLevelMove (u : Nat) (fr : Nat) (stall : Nat)
  /-- HEM_PATROL_REWRITE (R405): The patrol rewrites the next sector of both dies. -/
  | hemPatrolRewrite (e0 : Nat) (e1 : Nat) (w : Nat)
  /-- TRIAD_INPUT_BATCH (R414): The triad members agree on an input batch and apply it, voting every output unit. -/
  | triadInputBatch (digests : List (Option Nat)) (outs : List (Option Nat)) (halves : Bool) (tests : Nat)
  /-- MEMBER_SELF_ERROR (R417): A member reports an uncorrectable error of its own and is ejected. -/
  | memberSelfError (m : Nat) (tests : Nat)
  /-- TRIAD_EJECT (R418): TRIAD.CMD EJECT ejects a member in TRIAD mode. -/
  | triadEject (m : Nat)
  /-- TRIAD_REJOIN (R420): TRIAD.CMD REJOIN brings an OUT or FAILED member back. -/
  | triadRejoin (m : Nat) (e : Machine.RejoinIn)
  /-- AUTO_REJOIN (R419): 1 ms after an ejection an OUT member rejoins by itself with AUTOREJOIN. -/
  | autoRejoin (m : Nat) (e : Machine.RejoinIn)
  /-- PROBATION_END (R420): After 1 ms of matching outputs a PROBATION member becomes VOTING. -/
  | probationEnd (m : Nat)
  /-- TRIAD_FW_LOAD (R424): TRIAD.FWCTL LOAD loads an image into STAGED. -/
  | triadFwLoad (a : Nat)
  /-- TRIAD_FW_SWITCH (R425): TRIAD.FWCTL SWITCH flips ACTIVE and STAGED at an agreed cycle. -/
  | triadFwSwitch
  /-- TRIAD_FW_DISCARD (R435): TRIAD.FWCTL discard clears STAGED. -/
  | triadFwDiscard
  /-- TRIAD_POOL_WRITE (R434): A write of TRIAD.POOL BASE, STBASE or CFG changes a pool or is refused. -/
  | triadPoolWrite (p : Nat) (reg : Nat) (w : Word)
  /-- POOL_INIT_DONE (R434): A pool's state table initialisation ends and BUSY clears. -/
  | poolInitDone (p : Nat)
  /-- LANE_TRAINING (R439): A lane with EN, presence and sideband enters TRAIN and runs the training steps. -/
  | laneTraining (m : Nat) (g : Nat)
  /-- LANE_LOCK_LOSS (R444): A lane loses a lock and returns to ALIGN. -/
  | laneLockLoss (m : Nat)
  /-- LOSSTO_EXPIRY (R444): A lane out of ACTIVE for LOSSTO goes DOWN. -/
  | losstoExpiry (m : Nat)
  /-- LANE_RETRY_EXPIRY (R438): After RETRY seconds in DOWN a lane returns to DETECT. -/
  | laneRetryExpiry (m : Nat)
  /-- LANE_TX_FRAME (R463): A lane's transmit scheduler picks and sends the next frame by class. -/
  | laneTxFrame (m : Nat)
  /-- ALIGNMENT_MARKER_TX (R443): A lane sends its alignment marker at each period. -/
  | alignmentMarkerTx (m : Nat)
  /-- CUFF_MARKER (R445): A received marker is time-stamped for lock and skew. -/
  | cuffMarker (m : Nat) (count : Nat) (ts : Nat) (e : Machine.MarkerIn)
  /-- CUFF_REQ (R461): A REQ frame of an inbound transaction is taken, delivered or refused. -/
  | cuffReq (m : Nat) (f : Machine.CuffFrame)
  /-- CUFF_ANSWER (R460): An ANSWER frame is taken; the last fragment issues the ANSWERED mark. -/
  | cuffAnswer (m : Nat) (f : Machine.CuffFrame)
  /-- CUFF_ANSACK (R460): An ANSACK completes an ANSWER order. -/
  | cuffAnsack (m : Nat) (f : Machine.CuffFrame)
  /-- CUFF_LACK (R452): A LACK frame acknowledges and gives credit. -/
  | cuffLack (m : Nat) (f : Machine.CuffFrame)
  /-- CUFF_NAK (R452): A NAK frame starts replay from ACKFSN + 1. -/
  | cuffNak (m : Nat) (f : Machine.CuffFrame)
  /-- CUFF_LINKINFO (R444): A LINKINFO frame verifies alignment, may bring the lane ACTIVE and is answered. -/
  | cuffLinkinfo (m : Nat) (f : Machine.CuffFrame)
  /-- CUFF_RECAL (R468): A RECAL frame announces a peer pause. -/
  | cuffRecal (m : Nat) (f : Machine.CuffFrame)
  /-- CUFF_LPREQ (R469): An LPREQ frame takes the lane into LOWPOWER. -/
  | cuffLpreq (m : Nat) (f : Machine.CuffFrame)
  /-- ACK_TIMEOUT (R452): A frame not acknowledged within ACKTO is replayed. -/
  | ackTimeout (m : Nat)
  /-- LANE_RETRAIN (R477): LANE[m].CMD RETRAIN retrains the lane. -/
  | laneRetrain (m : Nat)
  /-- LANE_RECAL (R468): LANE[m].CMD RECAL asks for a recalibration now. -/
  | laneRecal (m : Nat)
  /-- LANE_DOWN_CMD (R477): LANE[m].CMD DOWN takes the lane DOWN. -/
  | laneDownCmd (m : Nat)
  /-- SNAP (R610): LANE[m].CMD SNAP copies the four live counters in one cycle. -/
  | snap (m : Nat)
  /-- RECAL_DUE (R467): RECALPER elapses or the eye margin falls and a recalibration is started. -/
  | recalDue (m : Nat)
  /-- RECAL_DONE (R467): A recalibration ends and the lane returns to ACTIVE. -/
  | recalDone (m : Nat)
  /-- LOWPOWER_ENTRY (R469): In Drowse, a lane idle for 10 µs sends LPREQ. -/
  | lowpowerEntry (m : Nat)
  /-- LOWPOWER_REFRESH (R469): A LOWPOWER lane sends its refresh burst every 1 ms. -/
  | lowpowerRefresh (m : Nat)
  /-- LOWPOWER_WAKE (R469): A frame to send wakes a LOWPOWER lane. -/
  | lowpowerWake (m : Nat) (lock : Bool)
  /-- CHAN_DUAL (R457): CHAN[n].CMD DUAL changes the channel to dual-send. -/
  | chanDual (n : Nat)
  /-- CHAN_SPLIT (R457): CHAN[n].CMD SPLIT changes the channel to split mode. -/
  | chanSplit (n : Nat)
  /-- MODE_CHANGE_DONE (R457): Replay buffers empty and LINKINFO of the new mode is sent. -/
  | modeChangeDone (n : Nat)
  /-- CHAN_TAKE (R535): CHAN[n].CMD TAKE raises the claim and takes over the channel. -/
  | chanTake (n : Nat)
  /-- ROLLCALL_PASS (R472): A roll-call pass addresses, identifies and enables adapters on both buses. -/
  | rollcallPass (found : List Machine.SbFound) (gone : List Nat) (voids : Nat)
  /-- ROLL_GO (R479): TAILOR.ROLLCTL GO starts or schedules a pass. -/
  | rollGo
  /-- HOT_JOIN (R472): An adapter's hot-join request starts a pass when AUTO = 1. -/
  | hotJoin
  /-- PLEATSUB (R495): Write of PART[n].PLEATSUB submits a Pleat command. -/
  | pleatsub (c : Nat) (n : Nat) (addr : Word)
  /-- PLEAT_FWSUB (R495): Write of PLEAT.FWSUB submits a firmware Pleat command. -/
  | pleatFwsub (c : Nat) (addr : Word)
  /-- PLEAT_COMPRESS (R488): A COMPRESS command runs with verify and writes its status record. -/
  | pleatCompress (x : Nat) (e : Nat) (bad : Nat) (blk : Nat)
  /-- PLEAT_DECOMPRESS (R489): A DECOMPRESS command runs with checks and writes its status record. -/
  | pleatDecompress (x : Nat) (e : Nat)
  /-- INLINE_COMPRESS (R490): The triad's payload is compressed into one Pleat frame. -/
  | inlineCompress (tsn : Nat) (e : Nat) (bad : Nat)
  /-- INLINE_DECOMPRESS (R491): A reply is decompressed with hold into the scatter segments. -/
  | inlineDecompress (tsn : Nat) (e : Nat)
  /-- PLEAT_ENG_RESET (R498): PLEAT.ENG[e] OP 1 Unit-resets an engine with self-test. -/
  | pleatEngReset (e : Nat) (pass : Bool)
  /-- PLEAT_ENG_OUT (R498): PLEAT.ENG[e] OP 2 takes an engine out of service. -/
  | pleatEngOut (e : Nat)
  /-- CLOAKSUB (R515): Write of PART[n].CLOAKSUB submits a Cloak command. -/
  | cloaksub (c : Nat) (n : Nat) (addr : Word)
  /-- CLOAK_FWSUB (R515): Write of CLOAK.FWSUB submits a firmware Cloak command. -/
  | cloakFwsub (c : Nat) (addr : Word)
  /-- XTS_ENC (R515): Memory-to-memory XTS encryption. -/
  | xtsEnc (x : Nat) (l : Nat) (bad : Nat) (unit : Nat)
  /-- XTS_DEC (R515): Memory-to-memory XTS decryption. -/
  | xtsDec (x : Nat) (l : Nat) (bad : Nat) (unit : Nat)
  /-- GCM_SEAL (R515): Memory-to-memory GCM seal. -/
  | gcmSeal (x : Nat) (l : Nat) (bad : Nat) (unit : Nat)
  /-- GCM_OPEN (R515): Memory-to-memory GCM open. -/
  | gcmOpen (x : Nat) (l : Nat) (bad : Nat) (unit : Nat)
  /-- CMAC_GEN (R515): Memory-to-memory CMAC generation. -/
  | cmacGen (x : Nat) (l : Nat) (bad : Nat) (unit : Nat)
  /-- CMAC_VERIFY (R515): Memory-to-memory CMAC verification. -/
  | cmacVerify (x : Nat) (l : Nat) (bad : Nat) (unit : Nat)
  /-- INLINE_ENCRYPT (R502): A channel payload is XTS-encrypted and checked. -/
  | inlineEncrypt (tsn : Nat) (l : Nat) (bad : Nat)
  /-- INLINE_DECRYPT (R502): A reply is XTS-decrypted and checked. -/
  | inlineDecrypt (tsn : Nat) (l : Nat) (bad : Nat)
  /-- SLOT_LOAD (R505): CLOAK.SLOTCMD LOAD loads and checks a key slot. -/
  | slotLoad (k : Nat)
  /-- OLD_KEY_DROP (R510): 64 µs after an opener's epoch change the old key is dropped. -/
  | oldKeyDrop (k : Nat)
  /-- ROOT_ADD (R517): ROOTCTL ADD XORs a share into the accumulator. -/
  | rootAdd
  /-- ROOT_LOCK (R517): ROOTCTL LOCK checks KCV and programs the key fuses. -/
  | rootLock (kcvexp : Nat) (good : Bool)
  /-- ROOT_CLEAR (R517): ROOTCTL CLEAR empties the accumulator. -/
  | rootClear
  /-- CLOAK_LANE_RESET (R518): CLOAK.LANE[l] OP 1 Unit-resets a lane. -/
  | cloakLaneReset (l : Nat) (pass : Bool)
  /-- CLOAK_LANE_OUT (R519): CLOAK.LANE[l] OP 2 takes a lane out of service. -/
  | cloakLaneOut (l : Nat)
  /-- SEAM_PORT_BRINGUP (R527): PORT[p].CTL.EN with the port OFF or DOWN starts training, deskew and HELLO. -/
  | seamPortBringup (p : Nat) (res : Nat)
  /-- SEAM_PORT_RETRY (R527): After RETRY seconds a DOWN port starts again. -/
  | seamPortRetry (p : Nat) (res : Nat)
  /-- SEAM_FRAME_SEAL (R503): A Seam frame is sealed with GCM under the TXSLOT. -/
  | seamFrameSeal (p : Nat) (e : Machine.SealIn)
  /-- HELLO (R528): A HELLO is checked and answered with HELLOACK. -/
  | hello (p : Nat) (f : Machine.SeamFrame)
  /-- HELLOACK (R528): A HELLOACK is checked and completes bring-up. -/
  | helloack (p : Nat) (f : Machine.SeamFrame)
  /-- BEAT (R525): A received BEAT reports age and PARK. -/
  | beat (p : Nat) (f : Machine.SeamFrame)
  /-- BEAT_TIMER (R527): A BEAT is sent every 500 ns on an UP port. -/
  | beatTimer (p : Nat)
  /-- SEAM_LACK (R525): A Seam LACK acknowledges sequenced frames. -/
  | seamLack (p : Nat) (f : Machine.SeamFrame)
  /-- SEAM_NAK (R525): A Seam NAK starts replay from ACKSEQ + 1. -/
  | seamNak (p : Nat) (f : Machine.SeamFrame)
  /-- SEAM_ACK_TIMEOUT (R525): An unacknowledged Seam frame is replayed. -/
  | seamAckTimeout (p : Nat)
  /-- MIRREC (R530): A mirror host stores a mirrored record durably and answers MIRACK. -/
  | mirrec (p : Nat) (f : Machine.SeamFrame)
  /-- MIRMARK (R530): A mirror host stores a mirrored mark durably. -/
  | mirmark (p : Nat) (f : Machine.SeamFrame)
  /-- MIRACK (R529): A source takes a MIRACK and lowers LAG. -/
  | mirack (p : Nat) (f : Machine.SeamFrame)
  /-- TSYNC (R542): A follower takes TSYNC and records t2. -/
  | tsync (p : Nat) (f : Machine.SeamFrame) (role : Nat)
  /-- TFOLLOW (R542): A follower takes t1 and sends TDREQ. -/
  | tfollow (p : Nat) (f : Machine.SeamFrame)
  /-- TDREQ (R542): The master answers TDREQ with TDRESP carrying t4. -/
  | tdreq (p : Nat) (f : Machine.SeamFrame)
  /-- TDRESP (R542): A follower computes its offset and corrects rate and offset. -/
  | tdresp (p : Nat) (f : Machine.SeamFrame)
  /-- SYNC_PERIOD (R542): Every SYNCPER the master sends TSYNC and TFOLLOW to each follower. -/
  | syncPeriod
  /-- SYNC_LOSS (R543): A follower makes no measurement for 16 × SYNCPER and becomes UNCERTAIN. -/
  | syncLoss
  /-- SEAM_TAKE (R536): A received TAKE updates the claim and may make this module STANDBY. -/
  | seamTake (p : Nat) (f : Machine.SeamFrame)
  /-- CLAIMSYNC (R536): A received CLAIMSYNC takes a higher claim. -/
  | claimsync (p : Nat) (f : Machine.SeamFrame)
  /-- RWRITE (R538): A received RWRITE writes data into RXWIN and sends COLSRC. -/
  | rwrite (p : Nat) (f : Machine.SeamFrame)
  /-- HOLDTIME_SILENCE (R534): An OWNER has heard nothing from its successor for HOLDTIME and stops shared-channel output. -/
  | holdtimeSilence (m : Nat)
  /-- TAKEWAIT_SILENCE (R535): A STANDBY with AUTO hears nothing from the owner for TAKEWAIT and takes over. -/
  | takewaitSilence (n : Nat)
  /-- TXMSG (R538): SEAM.TXMSG write sends a firmware message. -/
  | txmsg (a : Word)
  /-- TODSET (R540): SEAM.TODSET sets TOD at once or at the next PPS_IN edge, or is refused. -/
  | todset (w : Word)
  /-- FAULT_EVENT (R546): A fault event reaches the collector, is classified, queued and starts or extends the fault state. -/
  | faultEvent (f : Machine.FaultIn)
  /-- LOG_WRITE (R553): A queued record is written to the fault log and its Collar sources sent. -/
  | logWrite
  /-- FAULT_RESUME (R551): FAULT.CMD RESUME restarts the compute domain after a checkstop. -/
  | faultResume
  /-- LOGACK (R555): A FAULT.LOGACK write marks records read. -/
  | logack (v : Word)
  /-- REPLAY (R562): FAULT.REPLAY GO logs a replayed record without unit action. -/
  | replay (a : Nat)
  /-- QUIET_EXPIRY (R558): The quiet period elapses with conditions met and the fault state ends. -/
  | quietExpiry
  /-- WATCHDOG_EXPIRY (R564): FAULT.PET not written within WDOG ms and the Tailor is restarted. -/
  | watchdogExpiry (pass : Bool)
  /-- PET (R564): A FAULT.PET write restarts the watchdog. -/
  | pet
  /-- COLLECTOR_SELFCHECK_FAIL (R564): The two halves of the collector disagree and a Module reset starts. -/
  | collectorSelfcheckFail
  /-- FAULTSIG_WRITE (R565): A PART[n].FAULTSIG write is checked and taken or ignored. -/
  | faultsigWrite (c : Nat) (n : Nat) (w : Word)
  /-- APRON_POWER_UP (R569): VIN48 rises through 9.0 V; the island starts and restores its count from CALFLOOR. -/
  | apronPowerUp
  /-- CALFLOOR_SAVE (R569): The calendar is written to CALFLOOR every 4,096 s. -/
  | calfloorSave
  /-- TOD_SECOND_CAPTURE (R567): At each whole second of valid TOD the island takes TOD into its count. -/
  | todSecondCapture
  /-- TRIM_WINDOW_END (R568): A 16 s Sloe measurement window ends and TRIM is updated. -/
  | trimWindowEnd (err : Int)
  /-- ALARM_FIRE (R571): The calendar reaches APRON.ALARM and the alarm fires. -/
  | alarmFire
  /-- KEEP_WRITE (R573): A Keep write is performed and counted, or refused at its rating. -/
  | keepWrite (k : Nat) (v : Word)
  /-- LIFE_SAMPLE (R579): Each minute the island samples thermal bands for the lifetime records. -/
  | lifeSample (temps : List Nat) (hour : Bool)
  /-- LIFE_FLUSH (R582): Changed lifetime words are flushed every 60 s or at a stop or Vault entry. -/
  | lifeFlush
  /-- LIFECTL_FLUSH (R582): APRON.LIFECTL.FLUSH flushes every lifetime word. -/
  | lifectlFlush
  /-- RESETCTL (R586): TAILOR.RESETCTL with CONFIRM starts a Module reset. -/
  | resetctl (w : Word)
  /-- IMGCHK (R599): TAILOR.IMGCHK GO checks an image in memory. -/
  | imgchk (a : Nat) (type : Nat)
  /-- TFW_RESTART (R601): TAILOR.TFWCTL RESTART restarts the Tailor with a checked image. -/
  | tfwRestart (a : Nat)
  /-- TFW_READY (R601): TAILOR.TFWCTL.READY reports the Tailor firmware's stop point. -/
  | tfwReady (fails : Nat)
  /-- QUIESCE_TIMEOUT (R601): QUIESCE ms pass without READY and the restart proceeds. -/
  | quiesceTimeout (fails : Nat)
  /-- UNITRST_PAIR (R587): TAILOR.UNITRST KIND 1 Unit-resets a serving core pair. -/
  | unitrstPair (p : Nat)
  /-- UNITRST_LANE (R587): TAILOR.UNITRST KIND 2 Unit-resets a lane. -/
  | unitrstLane (m : Nat)
  /-- FLASH_ERASE (R600): TAILOR.FLASHCMD erases a 64 KiB sector. -/
  | flashErase (a : Nat)
  /-- FLASH_PROGRAM (R600): TAILOR.FLASHCMD programs a 256-byte page. -/
  | flashProgram (a : Nat)
  /-- FLASH_READ (R600): TAILOR.FLASHCMD reads 256 bytes into FLASHSRC. -/
  | flashRead (a : Nat)
  /-- FLASH_DONE (R600): The flash reports completion and BUSY clears. -/
  | flashDone (err : Bool)
  /-- REGISTER_WRITE (R621): A write to a register field with no behaviour of its own acts in one block cycle. -/
  | registerWrite (c : Nat) (o : Nat) (w : Word)
  /-- VAULT_ENTRY_END (R61): Step 5 of the Vault entry ends: every rail but the Apron pre-regulator is off and the module is in Vault. -/
  | vaultEntryEnd
  /-- APRON_POWER_LOSS (R47): VIN48 falls below 9.0 V and the Apron island loses power, with its time count, alarm and unflushed lifetime counts. -/
  | apronPowerLoss
  /-- PAIR_RETURN (R43): A lost blade pair comes back into range, rejoins the present pairs and the power cap is recomputed. -/
  | pairReturn (p : Nat) (a : Nat) (b : Nat)
  /-- TEST_LOGIC_RESET (R91): TRST_N or the TAP state machine resets the test logic and IDCODE is selected again. -/
  | testLogicReset
  /-- RESERVED_OPCODE (R102): An instruction word with a reserved major opcode is executed and raises UNDEF. -/
  | reservedOpcode (c : Nat) (w : Half)
  /-- SEAM_LOCK_LOSS (R521): A lane of a Seam port loses lock and the whole port goes DOWN with DOWNCAUSE 1. -/
  | seamLockLoss (p : Nat)
  /-- CODE_ALIGNMENT_LOCK (R442): A receiver in ALIGN gains comma or block lock on the incoming stream. -/
  | codeAlignmentLock (m : Nat)
  /-- RECAL_WAIT_END (R468): A deferred recalibration finds 200 µs with no frame queued, or its 10 s wait ends, and the full or quick recalibration starts. -/
  | recalWaitEnd (m : Nat)
  /-- PATHMISS (R445): In dual-send a frame's copy has not arrived on the other lane within the skew bound and PATHMISS counts 1. -/
  | pathmiss (n : Nat)
  /-- RS_READ (R14): A read of an RS field returns its value and then clears it. -/
  | rsRead (c : Nat) (o : Nat)
  /-- COLLAR_EN_WRITE (R238): A write of EN := 0 to COLLAR.SRC or SWGRP moves a PENDING source to IDLE. -/
  | collarEnWrite (src : Nat) (en : Bool)
deriving DecidableEq, Repr

end Sys2Proof
end

