-- ==== Sys2Proof/Decode.lean ====
section
/-! DEFINITION. The command a word spells by the table's bits. spec/opcode_table.json gives no row any bits (every
row's "fields" is empty), so no word spells a command. -/

namespace Sys2Proof

/-- The command that an `nbits`-bit word `w` spells by the opcode table's bits: none, for the table has no bits. -/
def decodeTableWord (_nbits _w : Nat) : Option Instr := none

end Sys2Proof
end

