-- ==== Sys2Proof/Machine/Bits.lean ====
section
/-! DEFINITION. Bit fields, sign extension, byte order and other plain helpers over words and byte lists
(R19: little-endian instructions and data, R101). -/

namespace Sys2Proof.Machine

/-- Bits `hi` to `lo` of `n` as a number. -/
def bitsOf (n hi lo : Nat) : Nat := n / 2 ^ lo % 2 ^ (hi + 1 - lo)

/-- Bit `k` of `n`. -/
def bitOf (n k : Nat) : Bool := n / 2 ^ k % 2 == 1

/-- 1 for true. -/
def bnat (b : Bool) : Nat := if b then 1 else 0

/-- The low `w` bits of `n` read as two's complement. -/
def signedOf (w n : Nat) : Int :=
  let m := n % 2 ^ w
  if m < 2 ^ (w - 1) then Int.ofNat m else Int.ofNat m - Int.ofNat (2 ^ w)

/-- An integer as its `w`-bit two's complement number. -/
def wrapTo (w : Nat) (i : Int) : Nat := (i % Int.ofNat (2 ^ w)).toNat

/-- An integer as a word, modulo 2^64. -/
def wordOfInt (i : Int) : Word := BitVec.ofNat 64 (wrapTo 64 i)

/-- The number of bits from the most significant 1 to bit 0; 0 for 0 (R144, sig). -/
def bitLen (n : Nat) : Nat := if n = 0 then 0 else Nat.log2 n + 1

/-- `n` as `k` bytes, the least significant first. -/
def leBytes : Nat → Nat → List Byte
  | 0, _ => []
  | k + 1, n => BitVec.ofNat 8 n :: leBytes k (n / 256)

/-- The number a little-endian byte list holds. -/
def leNat : List Byte → Nat
  | [] => 0
  | b :: bs => b.toNat + 256 * leNat bs

/-- The number a big-endian byte list holds. -/
def beNat (bs : List Byte) : Nat := leNat bs.reverse

/-- `n` as `k` bytes, the most significant first. -/
def beBytes (k n : Nat) : List Byte := (leBytes k n).reverse

/-- The word in a little-endian byte list. -/
def leWord (bs : List Byte) : Word := BitVec.ofNat 64 (leNat bs)

/-- Cut a list into pieces of `k` elements (at most `fuel` of them). -/
def chunksOf {α : Type} (fuel k : Nat) (l : List α) : List (List α) :=
  match fuel with
  | 0 => []
  | f + 1 => if l.isEmpty then [] else l.take k :: chunksOf f k (l.drop k)

/-- `a` saturating at `m`. -/
def satAdd (m a b : Nat) : Nat := if a + b ≤ m then a + b else m

/-- The numbers `a`, `a + 1`, …: `n` of them. -/
def upFrom (a n : Nat) : List Nat := (List.range n).map (a + ·)

/-- The first element that satisfies `p`. -/
def firstThat {α : Type} (p : α → Bool) : List α → Option α
  | [] => none
  | x :: xs => if p x then some x else firstThat p xs

end Sys2Proof.Machine
end

