-- ==== Sys2Proof/Machine/Crc.lean ====
section
/-! DEFINITION. CRC-32C, the Castagnoli polynomial, as every chapter uses it (R188, R207, R552, R594): reflected,
initial value and final inversion of all ones (log entry 12). -/

namespace Sys2Proof.Machine

/-- One bit of the reflected CRC-32C register. -/
def crcBit (r : Nat) : Nat := if r % 2 = 1 then (r / 2) ^^^ 0x82F63B78 else r / 2

/-- One byte into the CRC register. -/
def crcByte (r : Nat) (b : Byte) : Nat :=
  let r := r ^^^ b.toNat
  crcBit (crcBit (crcBit (crcBit (crcBit (crcBit (crcBit (crcBit r)))))))

/-- CRC-32C of a byte list. -/
def crc32c (bs : List Byte) : Nat := (bs.foldl crcByte 0xFFFFFFFF) ^^^ 0xFFFFFFFF

end Sys2Proof.Machine
end

