-- ==== Sys2Proof/Machine/Flags.lean ====
section
/-! DEFINITION. The status register's fields and every flag computation (04_native_architecture.md, R97, R107;
05_arithmetic_and_timing.md, R140). -/

namespace Sys2Proof.Machine

/-- Bit positions of ST (R97). -/
def ST.z : Nat := 0
def ST.n : Nat := 1
def ST.c : Nat := 2
def ST.v : Nat := 3
def ST.d : Nat := 4
def ST.ie : Nat := 12
def ST.ss : Nat := 13
def ST.ex : Nat := 14
def ST.cls : Nat := 15

/-- ST bit `k`. -/
def stBit (st : Word) (k : Nat) : Bool := st.getLsbD k

/-- ST with bit `k` := `b`. -/
def stSet (st : Word) (k : Nat) (b : Bool) : Word :=
  if b then st ||| (1#64 <<< k) else st &&& ~~~(1#64 <<< k)

/-- ST.PL: 0 P, 1 S, 2 F (R97). -/
def stPL (st : Word) : Nat := bitsOf st.toNat 9 8

/-- ST with PL := `l`. -/
def stSetPL (st : Word) (l : Nat) : Word :=
  (st &&& ~~~0x300#64) ||| (BitVec.ofNat 64 (l % 4) <<< 8)

/-- The five flags an instruction may write: some b writes b, none leaves the flag unchanged (R125). -/
structure FlagSet where
  z : Option Bool := none
  n : Option Bool := none
  c : Option Bool := none
  v : Option Bool := none
  d : Option Bool := none
deriving DecidableEq, Repr

/-- Write one flag, if the instruction names it. -/
def stOpt (st : Word) (k : Nat) (o : Option Bool) : Word :=
  match o with
  | none => st
  | some b => stSet st k b

/-- ST after the flags of `f` are written; every other bit is unchanged. -/
def stFlags (st : Word) (f : FlagSet) : Word :=
  stOpt (stOpt (stOpt (stOpt (stOpt st ST.z f.z) ST.n f.n) ST.c f.c) ST.v f.v) ST.d f.d

/-- A 65-bit sum a + b + cin (R140). -/
def sum65 (w : Nat) (a b : Nat) (cin : Bool) : Nat := a % 2 ^ w + b % 2 ^ w + bnat cin

/-- Z N C V of an addition (R140) of `w`-bit values with carry in. -/
def addFlags (w a b : Nat) (cin : Bool) : FlagSet :=
  let s := sum65 w a b cin
  let r := s % 2 ^ w
  { z := some (r == 0), n := some (bitOf r (w - 1)), c := some (decide (2 ^ w ≤ s)),
    v := some (bitOf a (w - 1) == bitOf b (w - 1) && bitOf r (w - 1) != bitOf a (w - 1)) }

/-- The bits of `b` inverted within `w` bits. -/
def notW (w b : Nat) : Nat := 2 ^ w - 1 - b % 2 ^ w

/-- Z N C V of a subtraction (R140): C = 1 means no borrow. -/
def subFlags (w a b : Nat) (cin : Bool) : FlagSet :=
  let s := sum65 w a (notW w b) cin
  let r := s % 2 ^ w
  { z := some (r == 0), n := some (bitOf r (w - 1)), c := some (decide (2 ^ w ≤ s)),
    v := some (bitOf a (w - 1) != bitOf b (w - 1) && bitOf r (w - 1) != bitOf a (w - 1)) }

/-- The result of an addition modulo 2^w. -/
def addRes (w a b : Nat) (cin : Bool) : Nat := sum65 w a b cin % 2 ^ w

/-- The result of a subtraction modulo 2^w. -/
def subRes (w a b : Nat) (cin : Bool) : Nat := sum65 w a (notW w b) cin % 2 ^ w

/-- Z and N of a logical result (R126, TST; R200). -/
def logicFlags (w r : Nat) : FlagSet :=
  { z := some (r % 2 ^ w == 0), n := some (bitOf r (w - 1)) }

/-- The conditions of BC and SEL (R107). -/
def condHolds (st : Word) (cond : Nat) : Bool :=
  let z := stBit st ST.z
  let n := stBit st ST.n
  let c := stBit st ST.c
  let v := stBit st ST.v
  match cond % 16 with
  | 0 => z
  | 1 => !z
  | 2 => c
  | 3 => !c
  | 4 => n
  | 5 => !n
  | 6 => v
  | 7 => !v
  | 8 => c && !z
  | 9 => !c || z
  | 10 => n == v
  | 11 => n != v
  | 12 => !z && n == v
  | 13 => z || n != v
  | 14 => stBit st ST.d
  | _ => true

end Sys2Proof.Machine
end

