-- ==== Sys2Proof/Config.lean ====
section
/-! DEFINITION. What one implementation fixes, and the free values: what the spec leaves open.
Nothing in Lean can evaluate an opaque constant or prove a value of it. -/

namespace Sys2Proof

/-- A FREE VALUE: the value an instruction leaves undefined. The step applies it to a counter that the
state holds and that every use advances, so no two uses are known to agree (log entry 1). -/
opaque Config.freeWord : Nat → Word

/-- A FREE VALUE: how much time-of-day (in units of 2^-12 µs) or how many core cycles have passed since the last
look (log entry 11). -/
opaque Config.freeElapsed : Nat → Nat

/-- A FREE VALUE of any number of bytes: the contents of a result the spec does not state
(a compressor's output, log entry 2). -/
opaque Config.freeBytes : Nat → List Byte

/-- A FREE VALUE of the compressor (R481): the DEFLATE stream it writes for an input, a function of the format, the
block size code, the dictionary, the flush positions, whether the stream ends, and the input bytes of the stream so far, and
of nothing else (log entry 20). -/
opaque Config.deflate : Nat → Nat → List Nat → List Nat → Bool → List Nat → List Nat

/-- The fuse values the spec names without giving a number: the module serial number, the fuse map version,
the micro-ROM version of each pair. The argument is the window offset of the register (log entry 3). -/
opaque Config.fuseValue : Nat → Nat

/-- A FREE VALUE: the number of mirror slots that a partner module gives this module's journal (R530, R531); it lies in the
partner's registers and no frame carries it (log entry 24). -/
opaque Config.mirrorSlots : Nat → Nat

/-- The SHA-384 hash of the image key held in fuses (22_boot_reset_live_change.md, R596 check 4). -/
opaque Config.imageKeyHash : List Byte

/-- The module identity key of a module whose owner root key Daolaha provisioned (00_scope.md, R5). -/
opaque Config.vendorRootKey : List Byte

/-- The words of the micro-ROM by address (06, R169): mask ROM, whose contents the spec does not give (log entry 135). -/
opaque Config.microRom : Nat → BitVec 24

/-- The words of the nano-ROM by address (06, R169), but for word 0, which is all zero (log entry 135). -/
opaque Config.nanoRom : Nat → BitVec 176

/-- The entry point of an instruction's routine in the micro-ROM (R174): by Classic (`true`) or CA-64, and by the index of its
entry table (log entry 135). -/
opaque Config.microEntry : Bool → Nat → BitVec 15

/-- The set of a home's directory in which a sector's entry lies (R259); the spec gives no index (log entry 129). -/
opaque Config.dirSet : Nat → Nat

end Sys2Proof
end

