-- ==== Sys2Proof/Machine/AMap.lean ====
section
/-! DEFINITION. Sparse data by key: a list of key and value pairs in ONE canonical form. Keys rise strictly, and
no entry holds the value an unlisted key reads as, so equal maps are equal lists. The memory is such a map of
bytes (`Host.Cell` pairs), and so are the contexts, the register fields and every other sparse array. -/

namespace Sys2Proof.Machine

/-- A sparse array of `α`. -/
abbrev AMap (α : Type) := List (Nat × α)

/-- The entry listed for key `k`, if any. -/
def AMap.find? {α : Type} (k : Nat) : AMap α → Option α
  | [] => none
  | (j, v) :: m => if j = k then some v else AMap.find? k m

/-- The value at key `k`: the listed one, else `d`, what an unlisted key reads as. -/
def AMap.get {α : Type} (d : α) (m : AMap α) (k : Nat) : α :=
  (AMap.find? k m).getD d

/-- The map without key `k`. -/
def AMap.erase {α : Type} (k : Nat) : AMap α → AMap α
  | [] => []
  | (j, v) :: m => if j = k then AMap.erase k m else (j, v) :: AMap.erase k m

/-- The map with `(k, v)` put before the first greater key. -/
def AMap.insert {α : Type} (k : Nat) (v : α) : AMap α → AMap α
  | [] => [(k, v)]
  | (j, w) :: m => if k < j then (k, v) :: (j, w) :: m else (j, w) :: AMap.insert k v m

/-- The map with `v` at key `k`; writing what an unlisted key reads as removes the entry. -/
def AMap.set {α : Type} [DecidableEq α] (d : α) (m : AMap α) (k : Nat) (v : α) : AMap α :=
  if v = d then AMap.erase k m else AMap.insert k v (AMap.erase k m)

/-- Keys rise strictly from a lower bound. -/
def AMap.risesFrom {α : Type} : Nat → AMap α → Bool
  | _, [] => true
  | b, (j, _) :: m => decide (b ≤ j) && AMap.risesFrom (j + 1) m

/-- The canonical form: keys rise strictly and no entry is the default. -/
def AMap.wf {α : Type} [DecidableEq α] (d : α) (m : AMap α) : Bool :=
  AMap.risesFrom 0 m && m.all (fun e => decide (e.2 ≠ d))

/-- The map restricted to the keys that `p` keeps. -/
def AMap.keep {α : Type} (p : Nat → Bool) (m : AMap α) : AMap α :=
  m.filter (fun e => p e.1)

end Sys2Proof.Machine
end

