-- ==== Sys2Proof/Machine/RegDef.lean ====
section
/-! DEFINITION. What a register field of the control window is: where it lies, its access code (R14) and its
reset entries (R12). 00_scope.md and 24_control_window_map.md. -/

namespace Sys2Proof.Machine

/-- The access codes of R14. -/
inductive Access where
  | rw | ro | wo | w1c | w1s | rs | rk | rwk
deriving DecidableEq, Repr

/-- One entry of a Reset column (R12): a number, keep, strap, fuse or boot. -/
inductive ResetEntry where
  | num (n : Nat) | keep | strap | fuse | boot
deriving DecidableEq, Repr

/-- A register field: the window offset of its register, its highest and lowest bit, its access code and its
Cold, Module and Partition reset entries. -/
structure Field where
  off : Nat
  hi : Nat
  lo : Nat
  acc : Access
  rC : ResetEntry
  rM : ResetEntry
  rP : ResetEntry
deriving DecidableEq, Repr

/-- The width of a field in bits. -/
def Field.width (f : Field) : Nat := f.hi + 1 - f.lo

/-- The key of a field in the state's field map: its register and its lowest bit. -/
def Field.key (f : Field) : Nat := f.off * 64 + f.lo

/-- GEOM.STRIDE and GEOM.COUNT of directory entry `k` (R627, the table of GEOM values). -/
def dirGeom (k : Nat) : Nat × Nat :=
  if k ≤ 3 then (128, 1) else if k = 4 then (512, 1) else if k = 5 then (1024, 1)
  else if k = 6 then (2, 256) else if k = 7 then (1, 512) else if k ≤ 11 then (128, 1)
  else if k = 12 then (2, 256) else if k = 13 then (512, 4) else if k = 14 then (256, 1) else (8, 1)

/-- The window offset of element 0 of the block of directory entry `k` (R618). -/
def dirOffset (k : Nat) : Nat :=
  [0x000000, 0x010000, 0x020000, 0x030000, 0x040000, 0x080000, 0x100000, 0x140000,
   0x180000, 0x190000, 0x1A0000, 0x1B0000, 0x200000, 0x300000, 0x400000, 0x7FF000].getD k 0

/-- PLACE.DIE of directory entry `k`: 0xE for the blocks whose elements lie on several dies (R618, R627). -/
def dirDie (k : Nat) : Nat := if k = 7 ∨ k = 13 then 0xE else 4

/-- The fused value of a field of the block directory (R627): the field at `lo` of the register at `o`. -/
def dirFuse (o lo : Nat) : Nat :=
  let k := (o - 0x7FF000) / 32
  let w := (o - 0x7FF000) % 32
  if w = 0 then (if lo = 0 then k else 1)
  else if w = 8 then
    (if lo = 48 then (dirGeom k).1 else if lo = 32 then (dirGeom k).2 else dirOffset k)
  else if w = 16 then (if k = 12 then 1 else 0)
  else dirDie k

/-- What a fuse field reads (R12): the directory's fields have the values of R627; the identity fields, the root
key state and the enabled count are listed in the state (they hold 0 unlisted); the serial number, the fuse map
version and the ROM versions are not given by the spec (log entry 3). -/
def Field.fuse (f : Field) : Nat :=
  if 0x7FF000 ≤ f.off then dirFuse f.off f.lo
  else if f.off = 0 then (if f.lo = 16 then Config.fuseValue 0 else 0)
  else if f.off = 0x11008 ∨ f.off = 0x1A0048 then 0
  else Config.fuseValue f.off

/-- What the field holds when the state lists nothing for it: its Cold reset entry. A kept field that nothing
has written, and a boot or strap field before it is loaded, hold 0 (log entry 4). -/
def Field.dflt (f : Field) : Nat :=
  match f.rC with
  | .num n => n
  | .fuse => f.fuse % 2 ^ f.width
  | _ => 0

end Sys2Proof.Machine
end

