-- ==== Sys2Proof/Machine/Regs.lean ====
section
/-! DEFINITION. The registers of the control window, field by field, from the spec's own field tables
(the rule of each block's registers stands above its fields): the window offset (R618, R625), the bits,
the access code (R14) and the Cold, Module and Partition reset entries (R12) of every field. Bits that no field
names are reserved: they read 0 (R17). -/

set_option linter.unusedVariables false

namespace Sys2Proof.Machine

/-! ### POWER_STATE (02_power_input_and_states.md, R67) -/

/-- last refused Shutter or Vault request: 0 none, 1 VAULT_ALLOW strap is 0, 2 a partition is active or a context is runnable, 3 unretired ordinary record, 4 tolerance too low, 5 fault state active, 6 no wake enable set. -/
def POWER_STATE.REFUSE : Field :=
  ⟨0x30000, 19, 16, .ro, .num 0, .num 0, .keep⟩

/-- 1 while an entry or exit is in progress. -/
def POWER_STATE.MOVING : Field :=
  ⟨0x30000, 8, 8, .ro, .num 0, .num 0, .keep⟩

/-- state being entered or left for, encoded as CUR; reads 5 from step 1 to step 5 of a Vault entry under R61, while MOVING = 1, and returns to 0 when the entry is abandoned. -/
def POWER_STATE.GOAL : Field :=
  ⟨0x30000, 5, 3, .ro, .num 0, .num 0, .keep⟩

/-- 0 Run, 1 Park, 2 Nap, 3 Drowse, 4 Shutter; 5 Vault, which appears only in GOAL, since no register is readable in Vault; 6 and 7 reserved. -/
def POWER_STATE.CUR : Field :=
  ⟨0x30000, 2, 0, .ro, .num 0, .num 0, .keep⟩

/-- The fields of POWER_STATE. -/
def POWER_STATE.fields : List Field :=
  [POWER_STATE.REFUSE,
   POWER_STATE.MOVING,
   POWER_STATE.GOAL,
   POWER_STATE.CUR]

/-! ### POWER_CTL (02_power_input_and_states.md, R67) -/

/-- 1: individual core pairs may power-gate within Run. -/
def POWER_CTL.PAIRGATE : Field :=
  ⟨0x30008, 9, 9, .rw, .num 1, .num 1, .keep⟩

/-- 1: automatic entry to Park, Nap and Drowse. -/
def POWER_CTL.AUTO : Field :=
  ⟨0x30008, 8, 8, .rw, .num 1, .num 1, .keep⟩

/-- 1: leave Shutter, or abandon a Shutter or Vault entry. -/
def POWER_CTL.WAKE : Field :=
  ⟨0x30008, 2, 2, .wo, .num 0, .num 0, .keep⟩

/-- 1: request Vault. -/
def POWER_CTL.VAULT : Field :=
  ⟨0x30008, 1, 1, .wo, .num 0, .num 0, .keep⟩

/-- 1: request Shutter. -/
def POWER_CTL.SHUTTER : Field :=
  ⟨0x30008, 0, 0, .wo, .num 0, .num 0, .keep⟩

/-- The fields of POWER_CTL. -/
def POWER_CTL.fields : List Field :=
  [POWER_CTL.PAIRGATE,
   POWER_CTL.AUTO,
   POWER_CTL.WAKE,
   POWER_CTL.VAULT,
   POWER_CTL.SHUTTER]

/-! ### POWER_TEFF (02_power_input_and_states.md, R67) -/

/-- 1: the least term came from a moderation timer. -/
def POWER_TEFF.SRC_MOD : Field :=
  ⟨0x30018, 50, 50, .ro, .num 0, .num 0, .keep⟩

/-- 1: the least term came from POWER.LTRFW. -/
def POWER_TEFF.SRC_FW : Field :=
  ⟨0x30018, 49, 49, .ro, .num 1, .num 1, .keep⟩

/-- partition whose term was least, when neither SRC bit is set. -/
def POWER_TEFF.SRC_PART : Field :=
  ⟨0x30018, 47, 40, .ro, .num 0, .num 0, .keep⟩

/-- effective tolerance in ns; 0xFF_FFFF_FFFF means unbounded. -/
def POWER_TEFF.TOL : Field :=
  ⟨0x30018, 39, 0, .ro, .num 0, .num 0, .keep⟩

/-- The fields of POWER_TEFF. -/
def POWER_TEFF.fields : List Field :=
  [POWER_TEFF.SRC_MOD,
   POWER_TEFF.SRC_FW,
   POWER_TEFF.SRC_PART,
   POWER_TEFF.TOL]

/-! ### POWER_INPUT (02_power_input_and_states.md, R67) -/

/-- pair B current, in units of 10 mA. -/
def POWER_INPUT.IIN_B : Field :=
  ⟨0x30020, 63, 48, .ro, .num 0, .num 0, .keep⟩

/-- pair A current, in units of 10 mA. -/
def POWER_INPUT.IIN_A : Field :=
  ⟨0x30020, 47, 32, .ro, .num 0, .num 0, .keep⟩

/-- pair B voltage, in units of 10 mV. -/
def POWER_INPUT.VIN_B : Field :=
  ⟨0x30020, 31, 16, .ro, .num 0, .num 0, .keep⟩

/-- pair A voltage, in units of 10 mV. -/
def POWER_INPUT.VIN_A : Field :=
  ⟨0x30020, 15, 0, .ro, .num 0, .num 0, .keep⟩

/-- The fields of POWER_INPUT. -/
def POWER_INPUT.fields : List Field :=
  [POWER_INPUT.IIN_B,
   POWER_INPUT.IIN_A,
   POWER_INPUT.VIN_B,
   POWER_INPUT.VIN_A]

/-! ### POWER_STATUS (02_power_input_and_states.md, R67) -/

/-- cause of the last stop: 0 none, 1 undervoltage, 2 overvoltage, 3 thermal, 4 Vault. -/
def POWER_STATUS.LASTSTOP : Field :=
  ⟨0x30028, 10, 8, .rk, .keep, .keep, .keep⟩

/-- a cluster ran below 4,600 MHz because of temperature. -/
def POWER_STATUS.HOT : Field :=
  ⟨0x30028, 5, 5, .w1c, .num 0, .num 0, .keep⟩

/-- the power cap lowered a cluster clock. -/
def POWER_STATUS.CAPPED : Field :=
  ⟨0x30028, 4, 4, .w1c, .num 0, .num 0, .keep⟩

/-- the input exceeded 75.0 V while running. -/
def POWER_STATUS.OVER : Field :=
  ⟨0x30028, 3, 3, .w1c, .num 0, .num 0, .keep⟩

/-- the input was below 36.0 V while running. -/
def POWER_STATUS.BROWN : Field :=
  ⟨0x30028, 2, 2, .w1c, .num 0, .num 0, .keep⟩

/-- pair B fell below 33.0 V while pair A held the module. -/
def POWER_STATUS.B_LOST : Field :=
  ⟨0x30028, 1, 1, .w1c, .num 0, .num 0, .keep⟩

/-- pair A fell below 33.0 V while pair B held the module. -/
def POWER_STATUS.A_LOST : Field :=
  ⟨0x30028, 0, 0, .w1c, .num 0, .num 0, .keep⟩

/-- The fields of POWER_STATUS. -/
def POWER_STATUS.fields : List Field :=
  [POWER_STATUS.LASTSTOP,
   POWER_STATUS.HOT,
   POWER_STATUS.CAPPED,
   POWER_STATUS.OVER,
   POWER_STATUS.BROWN,
   POWER_STATUS.B_LOST,
   POWER_STATUS.A_LOST]

/-! ### POWER_WAKE (02_power_input_and_states.md, R67) -/

/-- event that ended the last Shutter or Vault: 0 none, 1 WAKE_N, 2 calendar alarm, 3 Seam, 4 adapter, 5 firmware. -/
def POWER_WAKE.CAUSE : Field :=
  ⟨0x30030, 10, 8, .ro, .num 0, .keep, .keep⟩

/-- inbound adapter transaction wakes from Shutter. -/
def POWER_WAKE.ADAPTER_EN : Field :=
  ⟨0x30030, 3, 3, .rw, .num 0, .keep, .keep⟩

/-- Seam message wakes from Shutter. -/
def POWER_WAKE.SEAM_EN : Field :=
  ⟨0x30030, 2, 2, .rw, .num 0, .keep, .keep⟩

/-- calendar alarm wakes from Shutter and Vault. -/
def POWER_WAKE.ALARM_EN : Field :=
  ⟨0x30030, 1, 1, .rw, .num 0, .keep, .keep⟩

/-- WAKE_N wakes from Shutter and Vault. -/
def POWER_WAKE.WAKE_EN : Field :=
  ⟨0x30030, 0, 0, .rw, .num 0, .keep, .keep⟩

/-- The fields of POWER_WAKE. -/
def POWER_WAKE.fields : List Field :=
  [POWER_WAKE.CAUSE,
   POWER_WAKE.ADAPTER_EN,
   POWER_WAKE.SEAM_EN,
   POWER_WAKE.ALARM_EN,
   POWER_WAKE.WAKE_EN]

/-! ### POWER_LTRFW (02_power_input_and_states.md, R57) -/

/-- 1: this party places no bound; VALUE and SCALE are ignored. -/
def POWER_LTRFW.UNBOUNDED : Field :=
  ⟨0x30010, 15, 15, .rw, .boot, .boot, .keep⟩

/-- tolerance = VALUE × 32^SCALE ns, for SCALE 0–5; SCALE 6 and 7 read as written and give a tolerance of 0. -/
def POWER_LTRFW.SCALE : Field :=
  ⟨0x30010, 12, 10, .rw, .boot, .boot, .keep⟩

/-- see SCALE. -/
def POWER_LTRFW.VALUE : Field :=
  ⟨0x30010, 9, 0, .rw, .boot, .boot, .keep⟩

/-- The fields of POWER_LTRFW. -/
def POWER_LTRFW.fields : List Field :=
  [POWER_LTRFW.UNBOUNDED,
   POWER_LTRFW.SCALE,
   POWER_LTRFW.VALUE]

/-! ### PART_LTR (02_power_input_and_states.md, R57) -/

/-- 1: this party places no bound; VALUE and SCALE are ignored. -/
def PART_LTR.UNBOUNDED (n : Nat) : Field :=
  ⟨0x200040 + 1024 * n, 15, 15, .rw, .num 0, .num 0, .num 0⟩

/-- tolerance = VALUE × 32^SCALE ns, for SCALE 0–5; SCALE 6 and 7 read as written and give a tolerance of 0. -/
def PART_LTR.SCALE (n : Nat) : Field :=
  ⟨0x200040 + 1024 * n, 12, 10, .rw, .num 0, .num 0, .num 0⟩

/-- see SCALE. -/
def PART_LTR.VALUE (n : Nat) : Field :=
  ⟨0x200040 + 1024 * n, 9, 0, .rw, .num 0, .num 0, .num 0⟩

/-- The fields of PART_LTR. -/
def PART_LTR.fields (n : Nat) : List Field :=
  [PART_LTR.UNBOUNDED n,
   PART_LTR.SCALE n,
   PART_LTR.VALUE n]

/-! ### POWER_CLUSTER (02_power_input_and_states.md, R67) -/

/-- 0 none, 1 temperature, 2 power cap. -/
def POWER_CLUSTER.LIMIT (c : Nat) : Field :=
  ⟨0x30040 + 8 * c, 27, 24, .ro, .num 0, .num 0, .keep⟩

/-- hottest sensor of the cluster, in °C plus 64. -/
def POWER_CLUSTER.TJ (c : Nat) : Field :=
  ⟨0x30040 + 8 * c, 23, 16, .ro, .num 0, .num 0, .keep⟩

/-- present core clock, in MHz. -/
def POWER_CLUSTER.FREQ (c : Nat) : Field :=
  ⟨0x30040 + 8 * c, 12, 0, .ro, .num 0, .num 0, .keep⟩

/-- The fields of POWER_CLUSTER. -/
def POWER_CLUSTER.fields (c : Nat) : List Field :=
  [POWER_CLUSTER.LIMIT c,
   POWER_CLUSTER.TJ c,
   POWER_CLUSTER.FREQ c]

/-! ### CSTORE_STAGECTL (06_control_store_and_classic_mode.md, R192) -/

/-- expected CRC-32C of the staging area. -/
def CSTORE_STAGECTL.CRC : Field :=
  ⟨0x400000, 63, 32, .rw, .boot, .boot, .keep⟩

/-- patch version of the staged image; 0 means no patch. -/
def CSTORE_STAGECTL.VERSION : Field :=
  ⟨0x400000, 31, 16, .rw, .boot, .boot, .keep⟩

/-- 1: unseal. -/
def CSTORE_STAGECTL.UNSEAL : Field :=
  ⟨0x400000, 2, 2, .wo, .num 0, .num 0, .keep⟩

/-- 1: check and seal, R188. -/
def CSTORE_STAGECTL.SEAL : Field :=
  ⟨0x400000, 1, 1, .wo, .num 0, .num 0, .keep⟩

/-- 1: the stage is sealed. -/
def CSTORE_STAGECTL.SEALED : Field :=
  ⟨0x400000, 0, 0, .ro, .boot, .boot, .keep⟩

/-- The fields of CSTORE_STAGECTL. -/
def CSTORE_STAGECTL.fields : List Field :=
  [CSTORE_STAGECTL.CRC,
   CSTORE_STAGECTL.VERSION,
   CSTORE_STAGECTL.UNSEAL,
   CSTORE_STAGECTL.SEAL,
   CSTORE_STAGECTL.SEALED]

/-! ### CSTORE_APPLY (06_control_store_and_classic_mode.md, R192) -/

/-- 1: apply to PAIR. -/
def CSTORE_APPLY.GO : Field :=
  ⟨0x400008, 8, 8, .wo, .num 0, .num 0, .keep⟩

/-- core pair 0–47. -/
def CSTORE_APPLY.PAIR : Field :=
  ⟨0x400008, 5, 0, .wo, .num 0, .num 0, .keep⟩

/-- The fields of CSTORE_APPLY. -/
def CSTORE_APPLY.fields : List Field :=
  [CSTORE_APPLY.GO,
   CSTORE_APPLY.PAIR]

/-! ### CSTORE_STAT (06_control_store_and_classic_mode.md, R192) -/

/-- pair of the last apply. -/
def CSTORE_STAT.PAIR : Field :=
  ⟨0x400010, 23, 16, .ro, .num 0, .num 0, .keep⟩

/-- 0 none; 1 sealed; 2 CRC mismatch; 3 duplicate match; 4 applied; 5 refused, not sealed; 6 refused, busy; 7 refused, pair out of service or above 47; 8 failed, pair handed to sparing. -/
def CSTORE_STAT.RESULT : Field :=
  ⟨0x400010, 11, 8, .ro, .num 0, .num 0, .keep⟩

/-- 1 while a seal or apply is in progress. -/
def CSTORE_STAT.BUSY : Field :=
  ⟨0x400010, 0, 0, .ro, .num 0, .num 0, .keep⟩

/-- The fields of CSTORE_STAT. -/
def CSTORE_STAT.fields : List Field :=
  [CSTORE_STAT.PAIR,
   CSTORE_STAT.RESULT,
   CSTORE_STAT.BUSY]

/-! ### CSTORE_VER (06_control_store_and_classic_mode.md, R192) -/

/-- control store parity errors since Cold reset; saturates at 255. -/
def CSTORE_VER.PERR (p : Nat) : Field :=
  ⟨0x400100 + 8 * p, 47, 40, .ro, .num 0, .keep, .keep⟩

/-- patch version in this pair's Damson; 0 means none. -/
def CSTORE_VER.PATCH (p : Nat) : Field :=
  ⟨0x400100 + 8 * p, 31, 16, .ro, .boot, .boot, .keep⟩

/-- micro-ROM and nano-ROM version. -/
def CSTORE_VER.ROM (p : Nat) : Field :=
  ⟨0x400100 + 8 * p, 15, 0, .ro, .fuse, .fuse, .keep⟩

/-- The fields of CSTORE_VER. -/
def CSTORE_VER.fields (p : Nat) : List Field :=
  [CSTORE_VER.PERR p,
   CSTORE_VER.PATCH p,
   CSTORE_VER.ROM p]

/-! ### CSTORE_SMATCH (06_control_store_and_classic_mode.md, R187) -/

/-- 1: the register matches. -/
def CSTORE_SMATCH.EN (k : Nat) : Field :=
  ⟨0x414000 + 8 * k, 63, 63, .rw, .boot, .boot, .keep⟩

/-- Damson micro index; fetch micro address 0x8000 + TARGET in place of ROMADDR. -/
def CSTORE_SMATCH.TARGET (k : Nat) : Field :=
  ⟨0x414000 + 8 * k, 41, 32, .rw, .boot, .boot, .keep⟩

/-- micro-ROM address matched. -/
def CSTORE_SMATCH.ROMADDR (k : Nat) : Field :=
  ⟨0x414000 + 8 * k, 14, 0, .rw, .boot, .boot, .keep⟩

/-- The fields of CSTORE_SMATCH. -/
def CSTORE_SMATCH.fields (k : Nat) : List Field :=
  [CSTORE_SMATCH.EN k,
   CSTORE_SMATCH.TARGET k,
   CSTORE_SMATCH.ROMADDR k]

/-! ### WEFT_SCHED (07_pockets_and_contexts.md, R231) -/

/-- core cycles of waiting before a switch under R213; 0 turns it off. -/
def WEFT_SCHED.SWWAIT (p : Nat) : Field :=
  ⟨0x308000 + 262144 * (p / 12) + 8 * (p % 12), 15, 0, .rw, .num 96, .num 96, .keep⟩

/-- The fields of WEFT_SCHED. -/
def WEFT_SCHED.fields (p : Nat) : List Field :=
  [WEFT_SCHED.SWWAIT p]

/-! ### WEFT_L2CTL (09_caches_and_coherence.md, R280) -/

/-- Collar source sent on entry to DISABLED. -/
def WEFT_L2CTL.DONESRC (p : Nat) : Field :=
  ⟨0x300200 + 262144 * (p / 12) + 8 * (p % 12), 47, 32, .rw, .num 0, .num 0, .keep⟩

/-- 1: send DONESRC. -/
def WEFT_L2CTL.DONEEN (p : Nat) : Field :=
  ⟨0x300200 + 262144 * (p / 12) + 8 * (p % 12), 31, 31, .rw, .num 0, .num 0, .keep⟩

/-- dirty limit of R253 in units of 64 sectors; values 0 and 33–63 read as written and act as 16. -/
def WEFT_L2CTL.DLIM (p : Nat) : Field :=
  ⟨0x300200 + 262144 * (p / 12) + 8 * (p % 12), 13, 8, .rw, .num 16, .num 16, .keep⟩

/-- 1: L2 enabled. -/
def WEFT_L2CTL.EN (p : Nat) : Field :=
  ⟨0x300200 + 262144 * (p / 12) + 8 * (p % 12), 0, 0, .rw, .boot, .boot, .keep⟩

/-- The fields of WEFT_L2CTL. -/
def WEFT_L2CTL.fields (p : Nat) : List Field :=
  [WEFT_L2CTL.DONESRC p,
   WEFT_L2CTL.DONEEN p,
   WEFT_L2CTL.DLIM p,
   WEFT_L2CTL.EN p]

/-! ### WEFT_L2STAT (09_caches_and_coherence.md, R280) -/

/-- dirty sectors held now. -/
def WEFT_L2STAT.DIRTY (p : Nat) : Field :=
  ⟨0x300300 + 262144 * (p / 12) + 8 * (p % 12), 27, 16, .ro, .num 0, .num 0, .keep⟩

/-- the L2 entered DISABLED at a firmware request. -/
def WEFT_L2STAT.DONE (p : Nat) : Field :=
  ⟨0x300300 + 262144 * (p / 12) + 8 * (p % 12), 8, 8, .w1c, .num 0, .num 0, .keep⟩

/-- 0 DISABLED, 1 ENABLED, 2 DRAINING, 3 INVALIDATING. -/
def WEFT_L2STAT.STATE (p : Nat) : Field :=
  ⟨0x300300 + 262144 * (p / 12) + 8 * (p % 12), 1, 0, .ro, .num 0, .num 0, .keep⟩

/-- The fields of WEFT_L2STAT. -/
def WEFT_L2STAT.fields (p : Nat) : List Field :=
  [WEFT_L2STAT.DIRTY p,
   WEFT_L2STAT.DONE p,
   WEFT_L2STAT.STATE p]

/-! ### WEFT_LOCK (12_lockstep_retry_sparing.md, R343) -/

/-- retries of this pair, saturating at 65,535. -/
def WEFT_LOCK.RETRIES (p : Nat) : Field :=
  ⟨0x300400 + 262144 * (p / 12) + 8 * (p % 12), 63, 48, .rs, .num 0, .keep, .keep⟩

/-- comparator group of the last mismatch, R319; 7 for a control store parity error. -/
def WEFT_LOCK.LASTGRP (p : Nat) : Field :=
  ⟨0x300400 + 262144 * (p / 12) + 8 * (p % 12), 35, 32, .ro, .num 0, .num 0, .keep⟩

/-- current retry count, R324. -/
def WEFT_LOCK.COUNT (p : Nat) : Field :=
  ⟨0x300400 + 262144 * (p / 12) + 8 * (p % 12), 17, 16, .ro, .num 0, .num 0, .keep⟩

/-- context of the last mismatch. -/
def WEFT_LOCK.LASTCTX (p : Nat) : Field :=
  ⟨0x300400 + 262144 * (p / 12) + 8 * (p % 12), 9, 0, .ro, .num 0, .num 0, .keep⟩

/-- The fields of WEFT_LOCK. -/
def WEFT_LOCK.fields (p : Nat) : List Field :=
  [WEFT_LOCK.RETRIES p,
   WEFT_LOCK.LASTGRP p,
   WEFT_LOCK.COUNT p,
   WEFT_LOCK.LASTCTX p]

/-! ### POCKET_CTL (07_pockets_and_contexts.md, R231) -/

/-- slice in units of 1,024 core cycles; 0 no limit. -/
def POCKET_CTL.SLICE (c : Nat) : Field :=
  ⟨0x310000 + 262144 * (c / 192) + 32 * (c % 192), 47, 40, .rw, .num 0, .num 0, .num 0⟩

/-- 0–7; reads 8 in a firmware Pocket; values above PRIMAX are ignored. -/
def POCKET_CTL.PRI (c : Nat) : Field :=
  ⟨0x310000 + 262144 * (c / 192) + 32 * (c % 192), 35, 32, .rw, .num 0, .num 0, .num 0⟩

/-- 1 in Pocket 15. -/
def POCKET_CTL.FW (c : Nat) : Field :=
  ⟨0x310000 + 262144 * (c / 192) + 32 * (c % 192), 24, 24, .ro, .num 0, .num 0, .num 0⟩

/-- 1: owned by OWNER; writable under R209. -/
def POCKET_CTL.OWNED (c : Nat) : Field :=
  ⟨0x310000 + 262144 * (c / 192) + 32 * (c % 192), 16, 16, .rw, .num 0, .num 0, .keep⟩

/-- owning partition. -/
def POCKET_CTL.OWNER (c : Nat) : Field :=
  ⟨0x310000 + 262144 * (c / 192) + 32 * (c % 192), 7, 0, .rw, .num 0, .num 0, .keep⟩

/-- The fields of POCKET_CTL. -/
def POCKET_CTL.fields (c : Nat) : List Field :=
  [POCKET_CTL.SLICE c,
   POCKET_CTL.PRI c,
   POCKET_CTL.FW c,
   POCKET_CTL.OWNED c,
   POCKET_CTL.OWNER c]

/-! ### POCKET_SAVE (07_pockets_and_contexts.md, R231) -/

/-- module-physical address of the save area. -/
def POCKET_SAVE.ADDR (c : Nat) : Field :=
  ⟨0x310008 + 262144 * (c / 192) + 32 * (c % 192), 51, 10, .rw, .num 0, .num 0, .keep⟩

/-- 1: ADDR holds a save area. -/
def POCKET_SAVE.VALID (c : Nat) : Field :=
  ⟨0x310008 + 262144 * (c / 192) + 32 * (c % 192), 0, 0, .rw, .num 0, .num 0, .keep⟩

/-- The fields of POCKET_SAVE. -/
def POCKET_SAVE.fields (c : Nat) : List Field :=
  [POCKET_SAVE.ADDR c,
   POCKET_SAVE.VALID c]

/-! ### POCKET_CMD (07_pockets_and_contexts.md, R231) -/

/-- 1 RESUME; 2 STOP, setting FWHOLD; 3 SAVE, Pocket STOPPED; 4 RESTORE, Pocket STOPPED; 0, 5, 6 and 7 refused with CMDRES 6. -/
def POCKET_CMD.OP (c : Nat) : Field :=
  ⟨0x310010 + 262144 * (c / 192) + 32 * (c % 192), 2, 0, .wo, .num 0, .num 0, .num 0⟩

/-- The fields of POCKET_CMD. -/
def POCKET_CMD.fields (c : Nat) : List Field :=
  [POCKET_CMD.OP c]

/-! ### POCKET_STAT (07_pockets_and_contexts.md, R231) -/

/-- 1 while a command runs. -/
def POCKET_STAT.BUSY (c : Nat) : Field :=
  ⟨0x310018 + 262144 * (c / 192) + 32 * (c % 192), 12, 12, .ro, .num 0, .num 0, .num 0⟩

/-- 0 none; 1 done; 2 refused, state; 3 refused, save area not valid; 4 format or CRC mismatch; 5 save area poisoned; 6 refused, reserved operation. -/
def POCKET_STAT.CMDRES (c : Nat) : Field :=
  ⟨0x310018 + 262144 * (c / 192) + 32 * (c % 192), 11, 8, .ro, .num 0, .num 0, .num 0⟩

/-- R213. -/
def POCKET_STAT.SWGUARD (c : Nat) : Field :=
  ⟨0x310018 + 262144 * (c / 192) + 32 * (c % 192), 7, 7, .ro, .num 0, .num 0, .num 0⟩

/-- R216. -/
def POCKET_STAT.EVENT (c : Nat) : Field :=
  ⟨0x310018 + 262144 * (c / 192) + 32 * (c % 192), 6, 6, .ro, .num 0, .num 0, .num 0⟩

/-- 1: the wide part is in a bank. -/
def POCKET_STAT.WBANK (c : Nat) : Field :=
  ⟨0x310018 + 262144 * (c / 192) + 32 * (c % 192), 5, 5, .ro, .num 0, .num 0, .num 0⟩

/-- R219. -/
def POCKET_STAT.WLIVE (c : Nat) : Field :=
  ⟨0x310018 + 262144 * (c / 192) + 32 * (c % 192), 4, 4, .ro, .num 0, .num 0, .num 1⟩

/-- R209. -/
def POCKET_STAT.FWHOLD (c : Nat) : Field :=
  ⟨0x310018 + 262144 * (c / 192) + 32 * (c % 192), 3, 3, .ro, .num 0, .num 0, .num 0⟩

/-- 0 FREE, 1 STOPPED, 2 BLOCKED, 3 READY, 4 RUNNING; after a Partition reset an owned Pocket reads 1. -/
def POCKET_STAT.STATE (c : Nat) : Field :=
  ⟨0x310018 + 262144 * (c / 192) + 32 * (c % 192), 2, 0, .ro, .num 0, .num 0, .num 1⟩

/-- The fields of POCKET_STAT. -/
def POCKET_STAT.fields (c : Nat) : List Field :=
  [POCKET_STAT.BUSY c,
   POCKET_STAT.CMDRES c,
   POCKET_STAT.SWGUARD c,
   POCKET_STAT.EVENT c,
   POCKET_STAT.WBANK c,
   POCKET_STAT.WLIVE c,
   POCKET_STAT.FWHOLD c,
   POCKET_STAT.STATE c]

/-! ### PART_STATE (07_pockets_and_contexts.md, R232) -/

/-- contexts owned. -/
def PART_STATE.NCTX (n : Nat) : Field :=
  ⟨0x200000 + 1024 * n, 25, 16, .ro, .num 0, .num 0, .keep⟩

/-- last refused command: 0 none; 1 wrong state; 2 unretired record on a bound ring pair; 3 ROOT2 not valid; 4 no owned Pocket with a valid save area. -/
def PART_STATE.REFUSE (n : Nat) : Field :=
  ⟨0x200000 + 1024 * n, 11, 8, .ro, .num 0, .num 0, .num 0⟩

/-- 0 FREE, 1 ACTIVE, 2 DESTROYING. -/
def PART_STATE.STATE (n : Nat) : Field :=
  ⟨0x200000 + 1024 * n, 1, 0, .ro, .num 0, .num 0, .keep⟩

/-- The fields of PART_STATE. -/
def PART_STATE.fields (n : Nat) : List Field :=
  [PART_STATE.NCTX n,
   PART_STATE.REFUSE n,
   PART_STATE.STATE n]

/-! ### PART_CTL (07_pockets_and_contexts.md, R232) -/

/-- 1 CREATE; 2 DESTROY; 3 Partition reset. -/
def PART_CTL.CMD (n : Nat) : Field :=
  ⟨0x200008 + 1024 * n, 1, 0, .wo, .num 0, .num 0, .num 0⟩

/-- The fields of PART_CTL. -/
def PART_CTL.fields (n : Nat) : List Field :=
  [PART_CTL.CMD n]

/-! ### PART_ROOT2 (07_pockets_and_contexts.md, R232) -/

/-- module-physical address of the stage 2 level-0 table. -/
def PART_ROOT2.TABLE (n : Nat) : Field :=
  ⟨0x200010 + 1024 * n, 51, 12, .rw, .num 0, .num 0, .keep⟩

/-- 1: TABLE is set; writes are ignored while STATE is not FREE. -/
def PART_ROOT2.VALID (n : Nat) : Field :=
  ⟨0x200010 + 1024 * n, 0, 0, .rw, .num 0, .num 0, .keep⟩

/-- The fields of PART_ROOT2. -/
def PART_ROOT2.fields (n : Nat) : List Field :=
  [PART_ROOT2.TABLE n,
   PART_ROOT2.VALID n]

/-! ### PART_PRIMAX (07_pockets_and_contexts.md, R232) -/

/-- highest PRI the partition may give. -/
def PART_PRIMAX.PRIMAX (n : Nat) : Field :=
  ⟨0x200018 + 1024 * n, 2, 0, .rw, .num 0, .num 0, .keep⟩

/-- The fields of PART_PRIMAX. -/
def PART_PRIMAX.fields (n : Nat) : List Field :=
  [PART_PRIMAX.PRIMAX n]

/-! ### PART_CTXCMD (07_pockets_and_contexts.md, R232) -/

/-- context number; must be owned by n. -/
def PART_CTXCMD.CTX (n : Nat) : Field :=
  ⟨0x200030 + 1024 * n, 25, 16, .wo, .num 0, .num 0, .num 0⟩

/-- 1 START; 2 STOP, without FWHOLD; 3 CONT; 4 WAKE; 5 SETPRI to CTXARG[3:0], refused above PRIMAX; 0, 6 and 7 refused with RESULT 7. -/
def PART_CTXCMD.OP (n : Nat) : Field :=
  ⟨0x200030 + 1024 * n, 2, 0, .wo, .num 0, .num 0, .num 0⟩

/-- The fields of PART_CTXCMD. -/
def PART_CTXCMD.fields (n : Nat) : List Field :=
  [PART_CTXCMD.CTX n,
   PART_CTXCMD.OP n]

/-! ### PART_CTXRES (07_pockets_and_contexts.md, R232) -/

/-- context of the last command. -/
def PART_CTXRES.CTX (n : Nat) : Field :=
  ⟨0x200038 + 1024 * n, 25, 16, .ro, .num 0, .num 0, .num 0⟩

/-- 0 none; 1 done; 2 refused, state; 3 refused, FWHOLD; 4 refused, not owned; 5 refused, partition not ACTIVE; 6 refused, priority above PRIMAX; 7 refused, reserved operation. -/
def PART_CTXRES.RESULT (n : Nat) : Field :=
  ⟨0x200038 + 1024 * n, 3, 0, .ro, .num 0, .num 0, .num 0⟩

/-- The fields of PART_CTXRES. -/
def PART_CTXRES.fields (n : Nat) : List Field :=
  [PART_CTXRES.CTX n,
   PART_CTXRES.RESULT n]

/-! ### COLLAR_SRC (08_collar_interrupts.md, R248) -/

/-- 1: end service of this source, R242. -/
def COLLAR_SRC.FORCE (k : Nat) : Field :=
  ⟨0x50000 + 8 * k, 63, 63, .wo, .num 0, .num 0, .num 0⟩

/-- context holding the source while SERV = 1. -/
def COLLAR_SRC.HOLDER (k : Nat) : Field :=
  ⟨0x50000 + 8 * k, 61, 52, .ro, .num 0, .num 0, .num 0⟩

/-- 1: IN_SERVICE. -/
def COLLAR_SRC.SERV (k : Nat) : Field :=
  ⟨0x50000 + 8 * k, 47, 47, .ro, .num 0, .num 0, .num 0⟩

/-- 1: PENDING. -/
def COLLAR_SRC.PEND (k : Nat) : Field :=
  ⟨0x50000 + 8 * k, 46, 46, .ro, .num 0, .num 0, .num 0⟩

/-- 1: events are taken. -/
def COLLAR_SRC.EN (k : Nat) : Field :=
  ⟨0x50000 + 8 * k, 45, 45, .rw, .num 0, .num 0, .keep⟩

/-- 1: owned by the firmware context. -/
def COLLAR_SRC.FWOWN (k : Nat) : Field :=
  ⟨0x50000 + 8 * k, 44, 44, .rw, .num 1, .num 1, .keep⟩

/-- priority, R237. -/
def COLLAR_SRC.PRI (k : Nat) : Field :=
  ⟨0x50000 + 8 * k, 43, 40, .rw, .num 0, .num 0, .keep⟩

/-- owning partition when FWOWN = 0. -/
def COLLAR_SRC.OWNER (k : Nat) : Field :=
  ⟨0x50000 + 8 * k, 39, 32, .rw, .num 0, .num 0, .keep⟩

/-- target core pair. -/
def COLLAR_SRC.PAIR (k : Nat) : Field :=
  ⟨0x50000 + 8 * k, 21, 16, .rw, .num 0, .num 0, .keep⟩

/-- target Pockets, R236. -/
def COLLAR_SRC.MASK (k : Nat) : Field :=
  ⟨0x50000 + 8 * k, 15, 0, .rw, .num 0, .num 0, .keep⟩

/-- The fields of COLLAR_SRC. -/
def COLLAR_SRC.fields (k : Nat) : List Field :=
  [COLLAR_SRC.FORCE k,
   COLLAR_SRC.HOLDER k,
   COLLAR_SRC.SERV k,
   COLLAR_SRC.PEND k,
   COLLAR_SRC.EN k,
   COLLAR_SRC.FWOWN k,
   COLLAR_SRC.PRI k,
   COLLAR_SRC.OWNER k,
   COLLAR_SRC.PAIR k,
   COLLAR_SRC.MASK k]

/-! ### COLLAR_CTL (08_collar_interrupts.md, R248) -/

/-- 1: global disable, R244. -/
def COLLAR_CTL.GDIS : Field :=
  ⟨0x40000, 0, 0, .rw, .num 1, .num 1, .keep⟩

/-- The fields of COLLAR_CTL. -/
def COLLAR_CTL.fields : List Field :=
  [COLLAR_CTL.GDIS]

/-! ### COLLAR_STAT (08_collar_interrupts.md, R248) -/

/-- PENDING sources with no target context, now. -/
def COLLAR_STAT.NOTGT : Field :=
  ⟨0x40008, 31, 16, .ro, .num 0, .num 0, .keep⟩

/-- claims that returned 0xFFFF; saturates at 65,535. -/
def COLLAR_STAT.SPUR : Field :=
  ⟨0x40008, 15, 0, .rs, .num 0, .num 0, .keep⟩

/-- The fields of COLLAR_STAT. -/
def COLLAR_STAT.fields : List Field :=
  [COLLAR_STAT.NOTGT,
   COLLAR_STAT.SPUR]

/-! ### COLLAR_SEND (08_collar_interrupts.md, R248) -/

/-- source sent, R235, or ended, R242. -/
def COLLAR_SEND.SOURCE : Field :=
  ⟨0x40010, 15, 0, .wo, .num 0, .num 0, .num 0⟩

/-- The fields of COLLAR_SEND. -/
def COLLAR_SEND.fields : List Field :=
  [COLLAR_SEND.SOURCE]

/-! ### COLLAR_FWEOS (08_collar_interrupts.md, R248) -/

/-- source sent, R235, or ended, R242. -/
def COLLAR_FWEOS.SOURCE : Field :=
  ⟨0x40020, 15, 0, .wo, .num 0, .num 0, .num 0⟩

/-- The fields of COLLAR_FWEOS. -/
def COLLAR_FWEOS.fields : List Field :=
  [COLLAR_FWEOS.SOURCE]

/-! ### PART_COLSEND (08_collar_interrupts.md, R248) -/

/-- source sent, R235, or ended, R242. -/
def PART_COLSEND.SOURCE (n : Nat) : Field :=
  ⟨0x200058 + 1024 * n, 15, 0, .wo, .num 0, .num 0, .num 0⟩

/-- The fields of PART_COLSEND. -/
def PART_COLSEND.fields (n : Nat) : List Field :=
  [PART_COLSEND.SOURCE n]

/-! ### PART_EOS (08_collar_interrupts.md, R248) -/

/-- source sent, R235, or ended, R242. -/
def PART_EOS.SOURCE (n : Nat) : Field :=
  ⟨0x200050 + 1024 * n, 15, 0, .wo, .num 0, .num 0, .num 0⟩

/-- The fields of PART_EOS. -/
def PART_EOS.fields (n : Nat) : List Field :=
  [PART_EOS.SOURCE n]

/-! ### COLLAR_FWCLAIM (08_collar_interrupts.md, R248) -/

/-- priority of the claimed source; 0 with 0xFFFF. -/
def COLLAR_FWCLAIM.PRI : Field :=
  ⟨0x40018, 19, 16, .ro, .num 0, .num 0, .num 0⟩

/-- a read claims, R241. -/
def COLLAR_FWCLAIM.SOURCE : Field :=
  ⟨0x40018, 15, 0, .ro, .num 65535, .num 65535, .num 65535⟩

/-- The fields of COLLAR_FWCLAIM. -/
def COLLAR_FWCLAIM.fields : List Field :=
  [COLLAR_FWCLAIM.PRI,
   COLLAR_FWCLAIM.SOURCE]

/-! ### PART_CLAIM (08_collar_interrupts.md, R248) -/

/-- priority of the claimed source; 0 with 0xFFFF. -/
def PART_CLAIM.PRI (n : Nat) : Field :=
  ⟨0x200048 + 1024 * n, 19, 16, .ro, .num 0, .num 0, .num 0⟩

/-- a read claims, R241. -/
def PART_CLAIM.SOURCE (n : Nat) : Field :=
  ⟨0x200048 + 1024 * n, 15, 0, .ro, .num 65535, .num 65535, .num 65535⟩

/-- The fields of PART_CLAIM. -/
def PART_CLAIM.fields (n : Nat) : List Field :=
  [PART_CLAIM.PRI n,
   PART_CLAIM.SOURCE n]

/-! ### COLLAR_FWTIMER (08_collar_interrupts.md, R248) -/

/-- TOD deadline of the accessing context's timer; 0 disarmed, R246. -/
def COLLAR_FWTIMER.DEADLINE : Field :=
  ⟨0x40028, 63, 0, .rw, .num 0, .num 0, .num 0⟩

/-- The fields of COLLAR_FWTIMER. -/
def COLLAR_FWTIMER.fields : List Field :=
  [COLLAR_FWTIMER.DEADLINE]

/-! ### PART_TIMER (08_collar_interrupts.md, R248) -/

/-- TOD deadline of the accessing context's timer; 0 disarmed, R246. -/
def PART_TIMER.DEADLINE (n : Nat) : Field :=
  ⟨0x200060 + 1024 * n, 63, 0, .rw, .num 0, .num 0, .num 0⟩

/-- The fields of PART_TIMER. -/
def PART_TIMER.fields (n : Nat) : List Field :=
  [PART_TIMER.DEADLINE n]

/-! ### WEFT_L3CTL (09_caches_and_coherence.md, R280) -/

/-- Collar source sent on entry to OFF, R276. -/
def WEFT_L3CTL.DONESRC (d : Nat) : Field :=
  ⟨0x300100 + 262144 * d, 47, 32, .rw, .num 0, .num 0, .keep⟩

/-- 1: send DONESRC. -/
def WEFT_L3CTL.DONEEN (d : Nat) : Field :=
  ⟨0x300100 + 262144 * d, 31, 31, .rw, .num 0, .num 0, .keep⟩

/-- bit g: way group g enabled. -/
def WEFT_L3CTL.WGEN (d : Nat) : Field :=
  ⟨0x300100 + 262144 * d, 3, 0, .rw, .boot, .boot, .keep⟩

/-- The fields of WEFT_L3CTL. -/
def WEFT_L3CTL.fields (d : Nat) : List Field :=
  [WEFT_L3CTL.DONESRC d,
   WEFT_L3CTL.DONEEN d,
   WEFT_L3CTL.WGEN d]

/-! ### WEFT_L3STAT (09_caches_and_coherence.md, R280) -/

/-- set the walker is cleaning, while a group is DRAINING. -/
def WEFT_L3STAT.WALKSET (d : Nat) : Field :=
  ⟨0x300108 + 262144 * d, 25, 16, .ro, .num 0, .num 0, .keep⟩

/-- a group entered OFF at a firmware request. -/
def WEFT_L3STAT.DONE (d : Nat) : Field :=
  ⟨0x300108 + 262144 * d, 8, 8, .w1c, .num 0, .num 0, .keep⟩

/-- state of way group g in bits [2g+1:2g], for g = 0–3: 0 OFF, 1 ON, 2 DRAINING or INVALIDATING, 3 POWERING. -/
def WEFT_L3STAT.GSTATE (d : Nat) : Field :=
  ⟨0x300108 + 262144 * d, 7, 0, .ro, .num 0, .num 0, .keep⟩

/-- The fields of WEFT_L3STAT. -/
def WEFT_L3STAT.fields (d : Nat) : List Field :=
  [WEFT_L3STAT.WALKSET d,
   WEFT_L3STAT.DONE d,
   WEFT_L3STAT.GSTATE d]

/-! ### WEFT_COHCTL (09_caches_and_coherence.md, R280) -/

/-- home timeout in µs, R271; 0 acts as 1. -/
def WEFT_COHCTL.TO (d : Nat) : Field :=
  ⟨0x300110 + 262144 * d, 7, 0, .rw, .num 8, .num 8, .keep⟩

/-- The fields of WEFT_COHCTL. -/
def WEFT_COHCTL.fields (d : Nat) : List Field :=
  [WEFT_COHCTL.TO d]

/-! ### WEFT_COHSTAT (09_caches_and_coherence.md, R280) -/

/-- directory recalls, R260. -/
def WEFT_COHSTAT.RECALL (d : Nat) : Field :=
  ⟨0x300118 + 262144 * d, 63, 48, .rs, .num 0, .num 0, .keep⟩

/-- requests escalated to persistent, R265. -/
def WEFT_COHSTAT.PERSIST (d : Nat) : Field :=
  ⟨0x300118 + 262144 * d, 47, 32, .rs, .num 0, .num 0, .keep⟩

/-- NACKs sent by this die's homes. -/
def WEFT_COHSTAT.NACK (d : Nat) : Field :=
  ⟨0x300118 + 262144 * d, 31, 0, .rs, .num 0, .num 0, .keep⟩

/-- The fields of WEFT_COHSTAT. -/
def WEFT_COHSTAT.fields (d : Nat) : List Field :=
  [WEFT_COHSTAT.RECALL d,
   WEFT_COHSTAT.PERSIST d,
   WEFT_COHSTAT.NACK d]

/-! ### WEFT_PRIVBASE (09_caches_and_coherence.md, R280) -/

/-- first 4 KiB page of the range, module-physical. -/
def WEFT_PRIVBASE.BASE (d k : Nat) : Field :=
  ⟨0x301000 + 262144 * d + 16 * k, 51, 12, .rw, .num 0, .num 0, .keep⟩

/-- 1: the range is privileged, R272. -/
def WEFT_PRIVBASE.VALID (d k : Nat) : Field :=
  ⟨0x301000 + 262144 * d + 16 * k, 0, 0, .rw, .num 0, .num 0, .keep⟩

/-- The fields of WEFT_PRIVBASE. -/
def WEFT_PRIVBASE.fields (d k : Nat) : List Field :=
  [WEFT_PRIVBASE.BASE d k,
   WEFT_PRIVBASE.VALID d k]

/-! ### WEFT_PRIVLIM (09_caches_and_coherence.md, R280) -/

/-- last 4 KiB page of the range, inclusive. -/
def WEFT_PRIVLIM.LIMIT (d k : Nat) : Field :=
  ⟨0x301008 + 262144 * d + 16 * k, 51, 12, .rw, .num 0, .num 0, .keep⟩

/-- The fields of WEFT_PRIVLIM. -/
def WEFT_PRIVLIM.fields (d k : Nat) : List Field :=
  [WEFT_PRIVLIM.LIMIT d k]

/-! ### WEFT_MAPA (11_memory_controllers.md, R318) -/

/-- offset within each channel, in GiB. -/
def WEFT_MAPA.CHOFF (d k : Nat) : Field :=
  ⟨0x320000 + 262144 * d + 16 * k, 57, 48, .rw, .boot, .boot, .keep⟩

/-- 1: mirrored, R315. -/
def WEFT_MAPA.MIRROR (d k : Nat) : Field :=
  ⟨0x320000 + 262144 * d + 16 * k, 33, 33, .rw, .boot, .boot, .keep⟩

/-- 1: the region is in use. -/
def WEFT_MAPA.VALID (d k : Nat) : Field :=
  ⟨0x320000 + 262144 * d + 16 * k, 32, 32, .rw, .boot, .boot, .keep⟩

/-- first GiB of the region. -/
def WEFT_MAPA.BASE (d k : Nat) : Field :=
  ⟨0x320000 + 262144 * d + 16 * k, 21, 0, .rw, .boot, .boot, .keep⟩

/-- The fields of WEFT_MAPA. -/
def WEFT_MAPA.fields (d k : Nat) : List Field :=
  [WEFT_MAPA.CHOFF d k,
   WEFT_MAPA.MIRROR d k,
   WEFT_MAPA.VALID d k,
   WEFT_MAPA.BASE d k]

/-! ### WEFT_MAPB (11_memory_controllers.md, R318) -/

/-- 1: VALID is set but N or the size breaks R304; the region is ignored. -/
def WEFT_MAPB.BAD (d k : Nat) : Field :=
  ⟨0x320008 + 262144 * d + 16 * k, 48, 48, .ro, .num 0, .num 0, .keep⟩

/-- bit c: DDR-5 channel c. -/
def WEFT_MAPB.CHMASK (d k : Nat) : Field :=
  ⟨0x320008 + 262144 * d + 16 * k, 47, 24, .rw, .boot, .boot, .keep⟩

/-- last GiB of the region, inclusive. -/
def WEFT_MAPB.LIMIT (d k : Nat) : Field :=
  ⟨0x320008 + 262144 * d + 16 * k, 21, 0, .rw, .boot, .boot, .keep⟩

/-- The fields of WEFT_MAPB. -/
def WEFT_MAPB.fields (d k : Nat) : List Field :=
  [WEFT_MAPB.BAD d k,
   WEFT_MAPB.CHMASK d k,
   WEFT_MAPB.LIMIT d k]

/-! ### MC_PORT (11_memory_controllers.md, R318) -/

/-- latency target in ns, R311; ignored for ports 5 and 6. -/
def MC_PORT.TARGET (g i : Nat) : Field :=
  ⟨0x321040 + 262144 * (g / 3) + 4096 * (g % 3) + 8 * i, 31, 16, .rw, .num (if i = 0 ∨ i = 7 then 60 else if i = 1 ∨ i = 3 then 500 else if i = 2 then 80 else if i = 4 then 400 else 0), .num (if i = 0 ∨ i = 7 then 60 else if i = 1 ∨ i = 3 then 500 else if i = 2 then 80 else if i = 4 then 400 else 0), .keep⟩

/-- priority among equal urgency; 15 highest. -/
def MC_PORT.PRI (g i : Nat) : Field :=
  ⟨0x321040 + 262144 * (g / 3) + 4096 * (g % 3) + 8 * i, 3, 0, .rw, .num 8, .num 8, .keep⟩

/-- The fields of MC_PORT. -/
def MC_PORT.fields (g i : Nat) : List Field :=
  [MC_PORT.TARGET g i,
   MC_PORT.PRI g i]

/-! ### MC_CTL (11_memory_controllers.md, R318) -/

/-- rebuild rate in GB/s; 0 acts as 1. -/
def MC_CTL.REBUILD (k : Nat) : Field :=
  ⟨0x321100 + 262144 * (k / 6) + 4096 * (k % 6 / 2) + 256 * (k % 2), 47, 40, .rw, .num 10, .num 10, .keep⟩

/-- patrol pass time in hours; below 24 acts as 24. -/
def MC_CTL.PASSH (k : Nat) : Field :=
  ⟨0x321100 + 262144 * (k / 6) + 4096 * (k % 6 / 2) + 256 * (k % 2), 39, 32, .rw, .num 24, .num 24, .keep⟩

/-- corrected events per hour that mark a device failed, R313; 0 turns marking off. -/
def MC_CTL.CETHR (k : Nat) : Field :=
  ⟨0x321100 + 262144 * (k / 6) + 4096 * (k % 6 / 2) + 256 * (k % 2), 31, 24, .rw, .num 64, .num 64, .keep⟩

/-- idle DRAM clocks before power-down; 0 turns it off. -/
def MC_CTL.PDT (k : Nat) : Field :=
  ⟨0x321100 + 262144 * (k / 6) + 4096 * (k % 6 / 2) + 256 * (k % 2), 23, 8, .rw, .num 64, .num 64, .keep⟩

/-- 1: patrol scrub runs. -/
def MC_CTL.SCRUBEN (k : Nat) : Field :=
  ⟨0x321100 + 262144 * (k / 6) + 4096 * (k % 6 / 2) + 256 * (k % 2), 0, 0, .rw, .num 1, .num 1, .keep⟩

/-- The fields of MC_CTL. -/
def MC_CTL.fields (k : Nat) : List Field :=
  [MC_CTL.REBUILD k,
   MC_CTL.PASSH k,
   MC_CTL.CETHR k,
   MC_CTL.PDT k,
   MC_CTL.SCRUBEN k]

/-! ### MC_STAT (11_memory_controllers.md, R318) -/

/-- forced refreshes, saturating. -/
def MC_STAT.FORCED (k : Nat) : Field :=
  ⟨0x321108 + 262144 * (k / 6) + 4096 * (k % 6 / 2) + 256 * (k % 2), 63, 48, .rs, .num 0, .num 0, .keep⟩

/-- hottest DIMM sensor of the channel, in °C plus 64. -/
def MC_STAT.DTEMP (k : Nat) : Field :=
  ⟨0x321108 + 262144 * (k / 6) + 4096 * (k % 6 / 2) + 256 * (k % 2), 47, 40, .ro, .num 0, .num 0, .keep⟩

/-- bit r: rank r has a device marked failed. -/
def MC_STAT.MARKED (k : Nat) : Field :=
  ⟨0x321108 + 262144 * (k / 6) + 4096 * (k % 6 / 2) + 256 * (k % 2), 35, 32, .ro, .num 0, .num 0, .keep⟩

/-- data rate: 0 none, 1 4800, 2 5200, 3 5600, 4 6400 MT/s. -/
def MC_STAT.RATE (k : Nat) : Field :=
  ⟨0x321108 + 262144 * (k / 6) + 4096 * (k % 6 / 2) + 256 * (k % 2), 31, 24, .ro, .num 0, .num 0, .keep⟩

/-- last step or command: 0 none, 1 done, 2 refused, 3 SPD unreadable, 4 population rule, 5 no power good, 6 training failed, 7 zero fill failed. -/
def MC_STAT.RESULT (k : Nat) : Field :=
  ⟨0x321108 + 262144 * (k / 6) + 4096 * (k % 6 / 2) + 256 * (k % 2), 23, 20, .ro, .num 0, .num 0, .keep⟩

/-- training step reached, R306. -/
def MC_STAT.STEP (k : Nat) : Field :=
  ⟨0x321108 + 262144 * (k / 6) + 4096 * (k % 6 / 2) + 256 * (k % 2), 19, 16, .ro, .num 0, .num 0, .keep⟩

/-- a replacement reached step 8. -/
def MC_STAT.DONE (k : Nat) : Field :=
  ⟨0x321108 + 262144 * (k / 6) + 4096 * (k % 6 / 2) + 256 * (k % 2), 8, 8, .w1c, .num 0, .num 0, .keep⟩

/-- bit t: slot t in service. -/
def MC_STAT.SLOTS (k : Nat) : Field :=
  ⟨0x321108 + 262144 * (k / 6) + 4096 * (k % 6 / 2) + 256 * (k % 2), 5, 4, .ro, .num 0, .num 0, .keep⟩

/-- 0 vacant, 1 IN_SERVICE, 2 SINGLE, 3 OUT, 4 TRAINING, 5 REBUILDING. -/
def MC_STAT.STATE (k : Nat) : Field :=
  ⟨0x321108 + 262144 * (k / 6) + 4096 * (k % 6 / 2) + 256 * (k % 2), 2, 0, .ro, .num 0, .num 0, .keep⟩

/-- The fields of MC_STAT. -/
def MC_STAT.fields (k : Nat) : List Field :=
  [MC_STAT.FORCED k,
   MC_STAT.DTEMP k,
   MC_STAT.MARKED k,
   MC_STAT.RATE k,
   MC_STAT.RESULT k,
   MC_STAT.STEP k,
   MC_STAT.DONE k,
   MC_STAT.SLOTS k,
   MC_STAT.STATE k]

/-! ### MC_CMD (11_memory_controllers.md, R318) -/

/-- slot t for REMOVE. -/
def MC_CMD.SLOT (k : Nat) : Field :=
  ⟨0x321110 + 262144 * (k / 6) + 4096 * (k % 6 / 2) + 256 * (k % 2), 8, 8, .wo, .num 0, .num 0, .keep⟩

/-- 1 REMOVE; 2 INSERT; 0 and 3 refused. -/
def MC_CMD.OP (k : Nat) : Field :=
  ⟨0x321110 + 262144 * (k / 6) + 4096 * (k % 6 / 2) + 256 * (k % 2), 1, 0, .wo, .num 0, .num 0, .keep⟩

/-- The fields of MC_CMD. -/
def MC_CMD.fields (k : Nat) : List Field :=
  [MC_CMD.SLOT k,
   MC_CMD.OP k]

/-! ### MC_ECC (11_memory_controllers.md, R318) -/

/-- uncorrectable sectors, saturating. -/
def MC_ECC.UNCORR (k : Nat) : Field :=
  ⟨0x321118 + 262144 * (k / 6) + 4096 * (k % 6 / 2) + 256 * (k % 2), 63, 48, .rs, .num 0, .keep, .keep⟩

/-- sectors corrected by the scrubber, saturating. -/
def MC_ECC.SCRUBFIX (k : Nat) : Field :=
  ⟨0x321118 + 262144 * (k / 6) + 4096 * (k % 6 / 2) + 256 * (k % 2), 47, 32, .rs, .num 0, .keep, .keep⟩

/-- corrected reads, saturating. -/
def MC_ECC.CORR (k : Nat) : Field :=
  ⟨0x321118 + 262144 * (k / 6) + 4096 * (k % 6 / 2) + 256 * (k % 2), 31, 0, .rs, .num 0, .keep, .keep⟩

/-- The fields of MC_ECC. -/
def MC_ECC.fields (k : Nat) : List Field :=
  [MC_ECC.UNCORR k,
   MC_ECC.SCRUBFIX k,
   MC_ECC.CORR k]

/-! ### MC_ERRADDR (11_memory_controllers.md, R318) -/

/-- rank and device of the last uncorrectable sector. -/
def MC_ERRADDR.RANKDEV (k : Nat) : Field :=
  ⟨0x321120 + 262144 * (k / 6) + 4096 * (k % 6 / 2) + 256 * (k % 2), 47, 40, .ro, .num 0, .keep, .keep⟩

/-- channel address of the last uncorrectable sector. -/
def MC_ERRADDR.ADDR (k : Nat) : Field :=
  ⟨0x321120 + 262144 * (k / 6) + 4096 * (k % 6 / 2) + 256 * (k % 2), 39, 0, .ro, .num 0, .keep, .keep⟩

/-- The fields of MC_ERRADDR. -/
def MC_ERRADDR.fields (k : Nat) : List Field :=
  [MC_ERRADDR.RANKDEV k,
   MC_ERRADDR.ADDR k]

/-! ### MC_REF (11_memory_controllers.md, R318) -/

/-- 1 while tREFI is halved. -/
def MC_REF.HALVED (k : Nat) : Field :=
  ⟨0x321128 + 262144 * (k / 6) + 4096 * (k % 6 / 2) + 256 * (k % 2), 8, 8, .ro, .num 0, .num 0, .keep⟩

/-- largest refresh debt of any rank in tREFI. -/
def MC_REF.DEBT (k : Nat) : Field :=
  ⟨0x321128 + 262144 * (k / 6) + 4096 * (k % 6 / 2) + 256 * (k % 2), 2, 0, .ro, .num 0, .num 0, .keep⟩

/-- The fields of MC_REF. -/
def MC_REF.fields (k : Nat) : List Field :=
  [MC_REF.HALVED k,
   MC_REF.DEBT k]

/-! ### MC_SCRUB (11_memory_controllers.md, R318) -/

/-- passes completed, saturating. -/
def MC_SCRUB.PASSES (k : Nat) : Field :=
  ⟨0x321130 + 262144 * (k / 6) + 4096 * (k % 6 / 2) + 256 * (k % 2), 63, 48, .ro, .num 0, .num 0, .keep⟩

/-- channel address the scrubber reaches next. -/
def MC_SCRUB.ADDR (k : Nat) : Field :=
  ⟨0x321130 + 262144 * (k / 6) + 4096 * (k % 6 / 2) + 256 * (k % 2), 39, 0, .ro, .num 0, .num 0, .keep⟩

/-- The fields of MC_SCRUB. -/
def MC_SCRUB.fields (k : Nat) : List Field :=
  [MC_SCRUB.PASSES k,
   MC_SCRUB.ADDR k]

/-! ### TAILOR_SPARECTL (12_lockstep_retry_sparing.md, R342) -/

/-- retries per hour on one physical pair that start a move, R325; 0 turns this off. -/
def TAILOR_SPARECTL.RATETHR : Field :=
  ⟨0x11000, 23, 16, .rw, .num 16, .num 16, .keep⟩

/-- physical pair for OP. -/
def TAILOR_SPARECTL.PAIR : Field :=
  ⟨0x11000, 13, 8, .wo, .num 0, .num 0, .keep⟩

/-- 1 MOVE; 2 REINSTATE; 0 and 3 do nothing. -/
def TAILOR_SPARECTL.OP : Field :=
  ⟨0x11000, 3, 2, .wo, .num 0, .num 0, .keep⟩

/-- 1: a persistent mismatch starts a move, R328. -/
def TAILOR_SPARECTL.AUTO : Field :=
  ⟨0x11000, 0, 0, .rw, .num 1, .num 1, .keep⟩

/-- The fields of TAILOR_SPARECTL. -/
def TAILOR_SPARECTL.fields : List Field :=
  [TAILOR_SPARECTL.RATETHR,
   TAILOR_SPARECTL.PAIR,
   TAILOR_SPARECTL.OP,
   TAILOR_SPARECTL.AUTO]

/-! ### TAILOR_SPARESTAT (12_lockstep_retry_sparing.md, R342) -/

/-- 0 none; 1 moved; 2 refused, busy; 3 no spare, R334; 4 refused, pair state; 5 reinstated; 6 self-test failed. -/
def TAILOR_SPARESTAT.RESULT : Field :=
  ⟨0x11008, 51, 48, .ro, .num 0, .num 0, .keep⟩

/-- physical pair of the last move's destination. -/
def TAILOR_SPARESTAT.TO : Field :=
  ⟨0x11008, 45, 40, .ro, .num 0, .num 0, .keep⟩

/-- physical pair of the last move's source. -/
def TAILOR_SPARESTAT.FROM : Field :=
  ⟨0x11008, 37, 32, .ro, .num 0, .num 0, .keep⟩

/-- 1 while a move or REINSTATE runs. -/
def TAILOR_SPARESTAT.BUSY : Field :=
  ⟨0x11008, 31, 31, .ro, .num 0, .num 0, .keep⟩

/-- physical pairs FAILED. -/
def TAILOR_SPARESTAT.FAILED : Field :=
  ⟨0x11008, 23, 18, .ro, .boot, .boot, .keep⟩

/-- physical pairs SPARE. -/
def TAILOR_SPARESTAT.SPARES : Field :=
  ⟨0x11008, 17, 12, .ro, .boot, .boot, .keep⟩

/-- slots in service. -/
def TAILOR_SPARESTAT.INSERVICE : Field :=
  ⟨0x11008, 11, 6, .ro, .boot, .boot, .keep⟩

/-- enabled count of R6. -/
def TAILOR_SPARESTAT.ENABLED : Field :=
  ⟨0x11008, 5, 0, .ro, .fuse, .fuse, .keep⟩

/-- The fields of TAILOR_SPARESTAT. -/
def TAILOR_SPARESTAT.fields : List Field :=
  [TAILOR_SPARESTAT.RESULT,
   TAILOR_SPARESTAT.TO,
   TAILOR_SPARESTAT.FROM,
   TAILOR_SPARESTAT.BUSY,
   TAILOR_SPARESTAT.FAILED,
   TAILOR_SPARESTAT.SPARES,
   TAILOR_SPARESTAT.INSERVICE,
   TAILOR_SPARESTAT.ENABLED]

/-! ### TAILOR_DBGCTL (12_lockstep_retry_sparing.md, R342) -/

/-- partition whose contexts may be debugged. -/
def TAILOR_DBGCTL.PART : Field :=
  ⟨0x11010, 23, 16, .rw, .num 0, .num 0, .keep⟩

/-- 1: every partition may be debugged. -/
def TAILOR_DBGCTL.ANYPART : Field :=
  ⟨0x11010, 9, 9, .rw, .num 0, .num 0, .keep⟩

/-- 1: the firmware context and T0 may be debugged. -/
def TAILOR_DBGCTL.FWCTX : Field :=
  ⟨0x11010, 8, 8, .rw, .num 0, .num 0, .keep⟩

/-- 1: BOOT_SEL = 0b11. -/
def TAILOR_DBGCTL.SERVICE : Field :=
  ⟨0x11010, 1, 1, .ro, .strap, .strap, .keep⟩

/-- 1: debug as permitted by PART, ANYPART and FWCTX. -/
def TAILOR_DBGCTL.EN : Field :=
  ⟨0x11010, 0, 0, .rw, .num 0, .num 0, .keep⟩

/-- The fields of TAILOR_DBGCTL. -/
def TAILOR_DBGCTL.fields : List Field :=
  [TAILOR_DBGCTL.PART,
   TAILOR_DBGCTL.ANYPART,
   TAILOR_DBGCTL.FWCTX,
   TAILOR_DBGCTL.SERVICE,
   TAILOR_DBGCTL.EN]

/-! ### TAILOR_SLOT (12_lockstep_retry_sparing.md, R342) -/

/-- 1: slot k is in service. -/
def TAILOR_SLOT.SERVING (k : Nat) : Field :=
  ⟨0x11100 + 8 * k, 15, 15, .ro, .boot, .boot, .keep⟩

/-- physical pair serving slot k, when SERVING = 1. -/
def TAILOR_SLOT.PHYS (k : Nat) : Field :=
  ⟨0x11100 + 8 * k, 5, 0, .ro, .boot, .boot, .keep⟩

/-- The fields of TAILOR_SLOT. -/
def TAILOR_SLOT.fields (k : Nat) : List Field :=
  [TAILOR_SLOT.SERVING k,
   TAILOR_SLOT.PHYS k]

/-! ### TAILOR_PHYS (12_lockstep_retry_sparing.md, R342) -/

/-- 1: pair p is recorded failed, R335. -/
def TAILOR_PHYS.FAILREC (p : Nat) : Field :=
  ⟨0x11300 + 8 * p, 8, 8, .rk, .keep, .keep, .keep⟩

/-- 0 SERVING, 1 SPARE, 2 MOVING_OUT, 3 MOVING_IN, 4 FAILED, 5 TESTING; 6 and 7 reserved. -/
def TAILOR_PHYS.STATE (p : Nat) : Field :=
  ⟨0x11300 + 8 * p, 2, 0, .ro, .boot, .boot, .keep⟩

/-- The fields of TAILOR_PHYS. -/
def TAILOR_PHYS.fields (p : Nat) : List Field :=
  [TAILOR_PHYS.FAILREC p,
   TAILOR_PHYS.STATE p]

/-! ### RING_CTL (13_rings_doorbells_completions.md, R376) -/

/-- open transactions allowed; 0 acts as 1. -/
def RING_CTL.OUTMAX (r : Nat) : Field :=
  ⟨0xC0000 + 64 * r, 47, 32, .rw, .num 0, .num 0, .keep⟩

/-- bound channel. -/
def RING_CTL.CHAN (r : Nat) : Field :=
  ⟨0xC0000 + 64 * r, 15, 8, .rw, .num 0, .num 0, .keep⟩

/-- bound partition. -/
def RING_CTL.PART (r : Nat) : Field :=
  ⟨0xC0000 + 64 * r, 7, 0, .rw, .num 0, .num 0, .keep⟩

/-- The fields of RING_CTL. -/
def RING_CTL.fields (r : Nat) : List Field :=
  [RING_CTL.OUTMAX r,
   RING_CTL.CHAN r,
   RING_CTL.PART r]

/-! ### RING_MOD (13_rings_doorbells_completions.md, R376) -/

/-- moderation time in µs; 0 signals every entry. -/
def RING_MOD.TIME (r : Nat) : Field :=
  ⟨0xC0018 + 64 * r, 31, 16, .rw, .num 0, .num 0, .keep⟩

/-- entries per event; 0 acts as 1. -/
def RING_MOD.COUNT (r : Nat) : Field :=
  ⟨0xC0018 + 64 * r, 7, 0, .rw, .num 1, .num 1, .keep⟩

/-- The fields of RING_MOD. -/
def RING_MOD.fields (r : Nat) : List Field :=
  [RING_MOD.TIME r,
   RING_MOD.COUNT r]

/-! ### RING_STAT (13_rings_doorbells_completions.md, R376) -/

/-- final entries owed, R359. -/
def RING_STAT.OWED (r : Nat) : Field :=
  ⟨0xC0020 + 64 * r, 63, 48, .ro, .num 0, .num 0, .keep⟩

/-- transactions that have passed validation under R358 and are not yet retired. -/
def RING_STAT.OPEN (r : Nat) : Field :=
  ⟨0xC0020 + 64 * r, 31, 16, .ro, .num 0, .num 0, .keep⟩

/-- 1: a ring write faulted, R348. -/
def RING_STAT.STOPPED (r : Nat) : Field :=
  ⟨0xC0020 + 64 * r, 3, 3, .ro, .num 0, .num 0, .num 0⟩

/-- 0 UNBOUND, 1 BINDING, 2 RECOVERING, 3 BOUND, 4 UNBINDING. -/
def RING_STAT.STATE (r : Nat) : Field :=
  ⟨0xC0020 + 64 * r, 2, 0, .ro, .num 0, .num 0, .keep⟩

/-- The fields of RING_STAT. -/
def RING_STAT.fields (r : Nat) : List Field :=
  [RING_STAT.OWED r,
   RING_STAT.OPEN r,
   RING_STAT.STOPPED r,
   RING_STAT.STATE r]

/-! ### RING_CMD (13_rings_doorbells_completions.md, R376) -/

/-- 0 none; 1 done; 2 refused, state; 3 refused, partition not ACTIVE; 4 refused, ring size or alignment; 5 refused, CR smaller than 2 × OUTMAX + 16; 6 refused, OPEN ≠ 0; 7 refused, binding differs from the journal. -/
def RING_CMD.RESULT (r : Nat) : Field :=
  ⟨0xC0038 + 64 * r, 11, 8, .ro, .num 0, .num 0, .keep⟩

/-- 1 BIND; 2 UNBIND; 3 RESUME after R348. -/
def RING_CMD.OP (r : Nat) : Field :=
  ⟨0xC0038 + 64 * r, 1, 0, .wo, .num 0, .num 0, .keep⟩

/-- The fields of RING_CMD. -/
def RING_CMD.fields (r : Nat) : List Field :=
  [RING_CMD.RESULT r,
   RING_CMD.OP r]

/-! ### RING_CRBASE (13_rings_doorbells_completions.md, R376) -/

/-- PR of the ring. -/
def RING_CRBASE.BASE (r : Nat) : Field :=
  ⟨0xC0008 + 64 * r, 51, 12, .rw, .num 0, .num 0, .keep⟩

/-- slots = 64 × 2^SIZE; 10–15 refuse BIND. -/
def RING_CRBASE.SIZE (r : Nat) : Field :=
  ⟨0xC0008 + 64 * r, 3, 0, .rw, .num 0, .num 0, .keep⟩

/-- The fields of RING_CRBASE. -/
def RING_CRBASE.fields (r : Nat) : List Field :=
  [RING_CRBASE.BASE r,
   RING_CRBASE.SIZE r]

/-! ### RING_IRBASE (13_rings_doorbells_completions.md, R376) -/

/-- PR of the ring. -/
def RING_IRBASE.BASE (r : Nat) : Field :=
  ⟨0xC0010 + 64 * r, 51, 12, .rw, .num 0, .num 0, .keep⟩

/-- IRBASE only: 1 the IR exists; reserved in CRBASE. -/
def RING_IRBASE.EN (r : Nat) : Field :=
  ⟨0xC0010 + 64 * r, 4, 4, .rw, .num 0, .num 0, .keep⟩

/-- slots = 64 × 2^SIZE; 10–15 refuse BIND. -/
def RING_IRBASE.SIZE (r : Nat) : Field :=
  ⟨0xC0010 + 64 * r, 3, 0, .rw, .num 0, .num 0, .keep⟩

/-- The fields of RING_IRBASE. -/
def RING_IRBASE.fields (r : Nat) : List Field :=
  [RING_IRBASE.BASE r,
   RING_IRBASE.EN r,
   RING_IRBASE.SIZE r]

/-! ### RING_CRIDX (13_rings_doorbells_completions.md, R376) -/

/-- consumer phase. -/
def RING_CRIDX.CPH (r : Nat) : Field :=
  ⟨0xC0028 + 64 * r, 48, 48, .ro, .num 1, .num 1, .keep⟩

/-- consumer index. -/
def RING_CRIDX.CONS (r : Nat) : Field :=
  ⟨0xC0028 + 64 * r, 47, 32, .ro, .num 0, .num 0, .keep⟩

/-- producer phase. -/
def RING_CRIDX.PPH (r : Nat) : Field :=
  ⟨0xC0028 + 64 * r, 16, 16, .ro, .num 1, .num 1, .keep⟩

/-- producer index. -/
def RING_CRIDX.PROD (r : Nat) : Field :=
  ⟨0xC0028 + 64 * r, 15, 0, .ro, .num 0, .num 0, .keep⟩

/-- The fields of RING_CRIDX. -/
def RING_CRIDX.fields (r : Nat) : List Field :=
  [RING_CRIDX.CPH r,
   RING_CRIDX.CONS r,
   RING_CRIDX.PPH r,
   RING_CRIDX.PROD r]

/-! ### RING_IRIDX (13_rings_doorbells_completions.md, R376) -/

/-- consumer phase. -/
def RING_IRIDX.CPH (r : Nat) : Field :=
  ⟨0xC0030 + 64 * r, 48, 48, .ro, .num 1, .num 1, .keep⟩

/-- consumer index. -/
def RING_IRIDX.CONS (r : Nat) : Field :=
  ⟨0xC0030 + 64 * r, 47, 32, .ro, .num 0, .num 0, .keep⟩

/-- producer phase. -/
def RING_IRIDX.PPH (r : Nat) : Field :=
  ⟨0xC0030 + 64 * r, 16, 16, .ro, .num 1, .num 1, .keep⟩

/-- producer index. -/
def RING_IRIDX.PROD (r : Nat) : Field :=
  ⟨0xC0030 + 64 * r, 15, 0, .ro, .num 0, .num 0, .keep⟩

/-- The fields of RING_IRIDX. -/
def RING_IRIDX.fields (r : Nat) : List Field :=
  [RING_IRIDX.CPH r,
   RING_IRIDX.CONS r,
   RING_IRIDX.PPH r,
   RING_IRIDX.PROD r]

/-! ### CHAN_RINGCTL (13_rings_doorbells_completions.md, R377) -/

/-- default answer timeout in ms; 0 no timeout. -/
def CHAN_RINGCTL.ATDEF (n : Nat) : Field :=
  ⟨0x100000 + 1024 * n, 47, 32, .rw, .num 0, .num 0, .keep⟩

/-- 1: inbound transactions go to INRING. -/
def CHAN_RINGCTL.INEN (n : Nat) : Field :=
  ⟨0x100000 + 1024 * n, 28, 28, .rw, .num 0, .num 0, .keep⟩

/-- inbound ring pair of the channel. -/
def CHAN_RINGCTL.INRING (n : Nat) : Field :=
  ⟨0x100000 + 1024 * n, 27, 16, .rw, .num 0, .num 0, .keep⟩

/-- re-attach wait in seconds, R368. -/
def CHAN_RINGCTL.REATTACH (n : Nat) : Field :=
  ⟨0x100000 + 1024 * n, 15, 0, .rw, .num 65535, .num 65535, .keep⟩

/-- The fields of CHAN_RINGCTL. -/
def CHAN_RINGCTL.fields (n : Nat) : List Field :=
  [CHAN_RINGCTL.ATDEF n,
   CHAN_RINGCTL.INEN n,
   CHAN_RINGCTL.INRING n,
   CHAN_RINGCTL.REATTACH n]

/-! ### CHAN_RINGSTAT (13_rings_doorbells_completions.md, R377) -/

/-- answers discarded under R367; saturates at 65,535. -/
def CHAN_RINGSTAT.LATE (n : Nat) : Field :=
  ⟨0x100008 + 1024 * n, 63, 48, .rs, .num 0, .num 0, .keep⟩

/-- seconds left in WAITING. -/
def CHAN_RINGSTAT.WAITLEFT (n : Nat) : Field :=
  ⟨0x100008 + 1024 * n, 31, 16, .ro, .num 0, .num 0, .keep⟩

/-- 0 UP, 1 WAITING, 2 DETACHED; set at boot under R368. -/
def CHAN_RINGSTAT.ATTACH (n : Nat) : Field :=
  ⟨0x100008 + 1024 * n, 1, 0, .ro, .boot, .boot, .keep⟩

/-- The fields of CHAN_RINGSTAT. -/
def CHAN_RINGSTAT.fields (n : Nat) : List Field :=
  [CHAN_RINGSTAT.LATE n,
   CHAN_RINGSTAT.WAITLEFT n,
   CHAN_RINGSTAT.ATTACH n]

/-! ### CHAN_CTL (16_cuff_ports_and_links.md, R478) -/

/-- priority at the channel data arbiter, R463. -/
def CHAN_CTL.TXPRI (n : Nat) : Field :=
  ⟨0x100010 + 1024 * n, 34, 32, .rw, .num 0, .num 0, .keep⟩

/-- acknowledgement timeout in µs, R452; 0 acts as 1. -/
def CHAN_CTL.ACKTO (n : Nat) : Field :=
  ⟨0x100010 + 1024 * n, 23, 16, .rw, .num 20, .num 20, .keep⟩

/-- 1: lanes train only for an adapter named by sideband, R470. -/
def CHAN_CTL.SBREQ (n : Nat) : Field :=
  ⟨0x100010 + 1024 * n, 11, 11, .rw, .num 1, .num 1, .keep⟩

/-- R465, R466. -/
def CHAN_CTL.CLAIMMODE (n : Nat) : Field :=
  ⟨0x100010 + 1024 * n, 10, 10, .rw, .num 0, .num 0, .keep⟩

/-- 1: the channel is enabled. -/
def CHAN_CTL.EN (n : Nat) : Field :=
  ⟨0x100010 + 1024 * n, 8, 8, .rw, .boot, .boot, .keep⟩

/-- The fields of CHAN_CTL. -/
def CHAN_CTL.fields (n : Nat) : List Field :=
  [CHAN_CTL.TXPRI n,
   CHAN_CTL.ACKTO n,
   CHAN_CTL.SBREQ n,
   CHAN_CTL.CLAIMMODE n,
   CHAN_CTL.EN n]

/-! ### CHAN_STAT (16_cuff_ports_and_links.md, R478) -/

/-- repeated inbound TSNs discarded, R462; saturating. -/
def CHAN_STAT.INDUP (n : Nat) : Field :=
  ⟨0x100018 + 1024 * n, 63, 48, .rs, .num 0, .num 0, .keep⟩

/-- missed copies, R445; saturating. -/
def CHAN_STAT.PATHMISS (n : Nat) : Field :=
  ⟨0x100018 + 1024 * n, 47, 32, .rs, .num 0, .num 0, .keep⟩

/-- inbound transactions held, R461. -/
def CHAN_STAT.HOLDIN (n : Nat) : Field :=
  ⟨0x100018 + 1024 * n, 18, 18, .ro, .num 0, .num 0, .keep⟩

/-- R466. -/
def CHAN_STAT.FENCED (n : Nat) : Field :=
  ⟨0x100018 + 1024 * n, 17, 17, .ro, .num 0, .num 0, .keep⟩

/-- skew outside ±2,000 ns, R445. -/
def CHAN_STAT.SKEWERR (n : Nat) : Field :=
  ⟨0x100018 + 1024 * n, 16, 16, .w1c, .num 0, .num 0, .keep⟩

/-- 0 dual-send, 1 split. -/
def CHAN_STAT.MODE (n : Nat) : Field :=
  ⟨0x100018 + 1024 * n, 7, 6, .ro, .num 0, .num 0, .keep⟩

/-- bit 0: lane A up; bit 1: lane B up. -/
def CHAN_STAT.PATHS (n : Nat) : Field :=
  ⟨0x100018 + 1024 * n, 5, 4, .ro, .num 0, .num 0, .keep⟩

/-- The fields of CHAN_STAT. -/
def CHAN_STAT.fields (n : Nat) : List Field :=
  [CHAN_STAT.INDUP n,
   CHAN_STAT.PATHMISS n,
   CHAN_STAT.HOLDIN n,
   CHAN_STAT.FENCED n,
   CHAN_STAT.SKEWERR n,
   CHAN_STAT.MODE n,
   CHAN_STAT.PATHS n]

/-! ### CHAN_CLAIM (16_cuff_ports_and_links.md, R478) -/

/-- claim number, R464. -/
def CHAN_CLAIM.CLAIM (n : Nat) : Field :=
  ⟨0x100020 + 1024 * n, 15, 0, .rk, .keep, .keep, .keep⟩

/-- The fields of CHAN_CLAIM. -/
def CHAN_CLAIM.fields (n : Nat) : List Field :=
  [CHAN_CLAIM.CLAIM n]

/-! ### CHAN_CMD (16_cuff_ports_and_links.md, R478) -/

/-- 0 none; 1 done; 2 refused, a lane not ACTIVE; 3 in progress; 4 refused, Keep endurance; 5 refused, channel not enabled; 6 refused, a mode change in progress, R457. -/
def CHAN_CMD.RESULT (n : Nat) : Field :=
  ⟨0x100028 + 1024 * n, 11, 8, .ro, .num 0, .num 0, .keep⟩

/-- 1 DUAL; 2 SPLIT; 3 TAKE. -/
def CHAN_CMD.OP (n : Nat) : Field :=
  ⟨0x100028 + 1024 * n, 1, 0, .wo, .num 0, .num 0, .keep⟩

/-- The fields of CHAN_CMD. -/
def CHAN_CMD.fields (n : Nat) : List Field :=
  [CHAN_CMD.RESULT n,
   CHAN_CMD.OP n]

/-! ### CHAN_ADAPTER (16_cuff_ports_and_links.md, R478) -/

/-- provisional ID of the adapter serving the channel. -/
def CHAN_ADAPTER.PID (n : Nat) : Field :=
  ⟨0x100038 + 1024 * n, 63, 16, .ro, .num 0, .num 0, .keep⟩

/-- 1: an accepted identity names the channel. -/
def CHAN_ADAPTER.VALID (n : Nat) : Field :=
  ⟨0x100038 + 1024 * n, 15, 15, .ro, .num 0, .num 0, .keep⟩

/-- dynamic address. -/
def CHAN_ADAPTER.DADDR (n : Nat) : Field :=
  ⟨0x100038 + 1024 * n, 14, 8, .ro, .num 0, .num 0, .keep⟩

/-- 0: bus 2; 1: bus 3. -/
def CHAN_ADAPTER.BUS (n : Nat) : Field :=
  ⟨0x100038 + 1024 * n, 1, 1, .ro, .num 0, .num 0, .keep⟩

/-- 1: an identity naming the channel was rejected, R471. -/
def CHAN_ADAPTER.IDERR (n : Nat) : Field :=
  ⟨0x100038 + 1024 * n, 0, 0, .ro, .num 0, .num 0, .keep⟩

/-- The fields of CHAN_ADAPTER. -/
def CHAN_ADAPTER.fields (n : Nat) : List Field :=
  [CHAN_ADAPTER.PID n,
   CHAN_ADAPTER.VALID n,
   CHAN_ADAPTER.DADDR n,
   CHAN_ADAPTER.BUS n,
   CHAN_ADAPTER.IDERR n]

/-! ### CHAN_INTSN (16_cuff_ports_and_links.md, R478) -/

/-- highest inbound TSN delivered in this EPOCH, R462. -/
def CHAN_INTSN.INTSN (n : Nat) : Field :=
  ⟨0x100030 + 1024 * n, 63, 0, .ro, .num 0, .num 0, .keep⟩

/-- The fields of CHAN_INTSN. -/
def CHAN_INTSN.fields (n : Nat) : List Field :=
  [CHAN_INTSN.INTSN n]

/-! ### PART_JQUOTA (13_rings_doorbells_completions.md, R378) -/

/-- unretired records allowed to the partition; 0 no limit. -/
def PART_JQUOTA.JQUOTA (n : Nat) : Field :=
  ⟨0x200300 + 1024 * n, 31, 0, .rw, .num 0, .num 0, .keep⟩

/-- The fields of PART_JQUOTA. -/
def PART_JQUOTA.fields (n : Nat) : List Field :=
  [PART_JQUOTA.JQUOTA n]

/-! ### PART_JOPEN (13_rings_doorbells_completions.md, R378) -/

/-- unretired records of the partition, and its doorbells that have passed validation and await their record, R358. -/
def PART_JOPEN.JOPEN (n : Nat) : Field :=
  ⟨0x200308 + 1024 * n, 31, 0, .ro, .num 0, .keep, .keep⟩

/-- The fields of PART_JOPEN. -/
def PART_JOPEN.fields (n : Nat) : List Field :=
  [PART_JOPEN.JOPEN n]

/-! ### PART_REFLOST (13_rings_doorbells_completions.md, R378) -/

/-- doorbells discarded under R359; saturates at 65,535. -/
def PART_REFLOST.REFLOST (n : Nat) : Field :=
  ⟨0x200310 + 1024 * n, 15, 0, .rs, .num 0, .num 0, .num 0⟩

/-- The fields of PART_REFLOST. -/
def PART_REFLOST.fields (n : Nat) : List Field :=
  [PART_REFLOST.REFLOST n]

/-! ### HEM_STAT (14_hem_journal_and_windows.md, R409) -/

/-- last command or GOWN write: 0 none; 1 done; 2 refused, state; 3 refused, granule mapped or BUSY; 4 rejoin self-test failed. -/
def HEM_STAT.RESULT : Field :=
  ⟨0x180000, 11, 8, .ro, .num 0, .num 0, .keep⟩

/-- a damaged record was found, R396. -/
def HEM_STAT.DAMAGED : Field :=
  ⟨0x180000, 5, 5, .w1c, .num 0, .num 0, .keep⟩

/-- 1 while landing is stopped under R390. -/
def HEM_STAT.FULL : Field :=
  ⟨0x180000, 4, 4, .ro, .num 0, .num 0, .keep⟩

/-- 1 while a rejoin runs. -/
def HEM_STAT.REJOIN : Field :=
  ⟨0x180000, 3, 3, .ro, .num 0, .num 0, .keep⟩

/-- H1 in service. -/
def HEM_STAT.H1OK : Field :=
  ⟨0x180000, 2, 2, .ro, .boot, .boot, .keep⟩

/-- H0 in service. -/
def HEM_STAT.H0OK : Field :=
  ⟨0x180000, 1, 1, .ro, .boot, .boot, .keep⟩

/-- single-copy mode. -/
def HEM_STAT.SINGLE : Field :=
  ⟨0x180000, 0, 0, .ro, .boot, .boot, .keep⟩

/-- The fields of HEM_STAT. -/
def HEM_STAT.fields : List Field :=
  [HEM_STAT.RESULT,
   HEM_STAT.DAMAGED,
   HEM_STAT.FULL,
   HEM_STAT.REJOIN,
   HEM_STAT.H1OK,
   HEM_STAT.H0OK,
   HEM_STAT.SINGLE]

/-! ### HEM_CMD (14_hem_journal_and_windows.md, R409) -/

/-- 0 H0, 1 H1. -/
def HEM_CMD.DIE : Field :=
  ⟨0x180008, 4, 4, .wo, .num 0, .num 0, .keep⟩

/-- 1 RETIRE; 2 REJOIN; 0 and 3 do nothing. -/
def HEM_CMD.OP : Field :=
  ⟨0x180008, 1, 0, .wo, .num 0, .num 0, .keep⟩

/-- The fields of HEM_CMD. -/
def HEM_CMD.fields : List Field :=
  [HEM_CMD.DIE,
   HEM_CMD.OP]

/-! ### HEM_JPTR (14_hem_journal_and_windows.md, R409) -/

/-- oldest slot not RETIRED or CARRIED. -/
def HEM_JPTR.TAIL : Field :=
  ⟨0x180010, 53, 32, .ro, .boot, .boot, .keep⟩

/-- next slot to receive a record. -/
def HEM_JPTR.HEAD : Field :=
  ⟨0x180010, 21, 0, .ro, .boot, .boot, .keep⟩

/-- The fields of HEM_JPTR. -/
def HEM_JPTR.fields : List Field :=
  [HEM_JPTR.TAIL,
   HEM_JPTR.HEAD]

/-! ### HEM_JCTL (14_hem_journal_and_windows.md, R409) -/

/-- free slots below which carries run, R391. -/
def HEM_JCTL.CARRYTHR : Field :=
  ⟨0x180018, 53, 32, .rw, .num 262144, .num 262144, .keep⟩

/-- free slots kept for carries, R390; values below 1,024 act as 1,024. -/
def HEM_JCTL.RESERVE : Field :=
  ⟨0x180018, 21, 0, .rw, .num 4096, .num 4096, .keep⟩

/-- The fields of HEM_JCTL. -/
def HEM_JCTL.fields : List Field :=
  [HEM_JCTL.CARRYTHR,
   HEM_JCTL.RESERVE]

/-! ### HEM_JSTAT (14_hem_journal_and_windows.md, R409) -/

/-- stops of landing under R390, saturating. -/
def HEM_JSTAT.FULLEV : Field :=
  ⟨0x180020, 63, 48, .rs, .num 0, .num 0, .keep⟩

/-- carries, saturating. -/
def HEM_JSTAT.CARRIES : Field :=
  ⟨0x180020, 47, 32, .rs, .num 0, .num 0, .keep⟩

/-- free slots now, 0–4,194,304. -/
def HEM_JSTAT.FREE : Field :=
  ⟨0x180020, 22, 0, .ro, .boot, .boot, .keep⟩

/-- The fields of HEM_JSTAT. -/
def HEM_JSTAT.fields : List Field :=
  [HEM_JSTAT.FULLEV,
   HEM_JSTAT.CARRIES,
   HEM_JSTAT.FREE]

/-! ### HEM_LAT (14_hem_journal_and_windows.md, R409) -/

/-- longest wear stall, in ns, R403. -/
def HEM_LAT.MAXSTALL : Field :=
  ⟨0x180040, 47, 32, .rs, .num 0, .num 0, .keep⟩

/-- longest mark write, in ns, R392. -/
def HEM_LAT.MAXMARK : Field :=
  ⟨0x180040, 31, 16, .rs, .num 0, .num 0, .keep⟩

/-- longest landing-to-acceptance, in ns, R383. -/
def HEM_LAT.MAXACC : Field :=
  ⟨0x180040, 15, 0, .rs, .num 0, .num 0, .keep⟩

/-- The fields of HEM_LAT. -/
def HEM_LAT.fields : List Field :=
  [HEM_LAT.MAXSTALL,
   HEM_LAT.MAXMARK,
   HEM_LAT.MAXACC]

/-! ### HEM_WLCTL (14_hem_journal_and_windows.md, R409) -/

/-- days per patrol rewrite pass; 0 acts as 7, values above 14 act as 14. -/
def HEM_WLCTL.PATROLD : Field :=
  ⟨0x180048, 39, 32, .rw, .num 7, .num 7, .keep⟩

/-- writes above the region average that start a move, R403. -/
def HEM_WLCTL.WLTHR : Field :=
  ⟨0x180048, 31, 0, .rw, .num 1048576, .num 1048576, .keep⟩

/-- The fields of HEM_WLCTL. -/
def HEM_WLCTL.fields : List Field :=
  [HEM_WLCTL.PATROLD,
   HEM_WLCTL.WLTHR]

/-! ### HEM_TSNNEXT (14_hem_journal_and_windows.md, R409) -/

/-- the next TSN. -/
def HEM_TSNNEXT.TSNNEXT : Field :=
  ⟨0x180028, 63, 0, .ro, .boot, .boot, .keep⟩

/-- The fields of HEM_TSNNEXT. -/
def HEM_TSNNEXT.fields : List Field :=
  [HEM_TSNNEXT.TSNNEXT]

/-! ### HEM_TSNCEIL (14_hem_journal_and_windows.md, R409) -/

/-- the ceiling of R386. -/
def HEM_TSNCEIL.TSNCEIL : Field :=
  ⟨0x180030, 63, 0, .rk, .keep, .keep, .keep⟩

/-- The fields of HEM_TSNCEIL. -/
def HEM_TSNCEIL.fields : List Field :=
  [HEM_TSNCEIL.TSNCEIL]

/-! ### HEM_SINGLETSN (14_hem_journal_and_windows.md, R409) -/

/-- the marker of R406, or 0 while both dies are in service. -/
def HEM_SINGLETSN.SINGLETSN : Field :=
  ⟨0x180038, 63, 0, .ro, .boot, .boot, .keep⟩

/-- The fields of HEM_SINGLETSN. -/
def HEM_SINGLETSN.fields : List Field :=
  [HEM_SINGLETSN.SINGLETSN]

/-! ### HEM_DIE (14_hem_journal_and_windows.md, R409) -/

/-- writes to the most-written frame, in units of 2^20. -/
def HEM_DIE.WEARMAX (i : Nat) : Field :=
  ⟨0x180050 + 8 * i, 63, 32, .ro, .keep, .keep, .keep⟩

/-- uncorrectable words, saturating. -/
def HEM_DIE.UNCORR (i : Nat) : Field :=
  ⟨0x180050 + 8 * i, 31, 16, .rs, .num 0, .keep, .keep⟩

/-- corrected words, saturating. -/
def HEM_DIE.CORR (i : Nat) : Field :=
  ⟨0x180050 + 8 * i, 15, 0, .rs, .num 0, .keep, .keep⟩

/-- The fields of HEM_DIE. -/
def HEM_DIE.fields (i : Nat) : List Field :=
  [HEM_DIE.WEARMAX i,
   HEM_DIE.UNCORR i,
   HEM_DIE.CORR i]

/-! ### HEM_GOWN (14_hem_journal_and_windows.md, R409) -/

/-- 1: the granule is owned, R398. Granule `g`. -/
def HEM_GOWN.VALID (g : Nat) : Field :=
  ⟨0x180100 + 8 * (g / 4), 16 * (g % 4) + 15, 16 * (g % 4) + 15, .rw, .keep, .keep, .keep⟩

/-- 1 while the granule is being zeroed. Granule `g`. -/
def HEM_GOWN.BUSY (g : Nat) : Field :=
  ⟨0x180100 + 8 * (g / 4), 16 * (g % 4) + 14, 16 * (g % 4) + 14, .ro, .num 0, .num 0, .keep⟩

/-- owning partition. Granule `g`. -/
def HEM_GOWN.OWNER (g : Nat) : Field :=
  ⟨0x180100 + 8 * (g / 4), 16 * (g % 4) + 7, 16 * (g % 4), .rw, .keep, .keep, .keep⟩

/-- The fields of HEM_GOWN. -/
def HEM_GOWN.fields (j : Nat) : List Field :=
  [HEM_GOWN.VALID (4 * j + 0),
   HEM_GOWN.BUSY (4 * j + 0),
   HEM_GOWN.OWNER (4 * j + 0),
   HEM_GOWN.VALID (4 * j + 1),
   HEM_GOWN.BUSY (4 * j + 1),
   HEM_GOWN.OWNER (4 * j + 1),
   HEM_GOWN.VALID (4 * j + 2),
   HEM_GOWN.BUSY (4 * j + 2),
   HEM_GOWN.OWNER (4 * j + 2),
   HEM_GOWN.VALID (4 * j + 3),
   HEM_GOWN.BUSY (4 * j + 3),
   HEM_GOWN.OWNER (4 * j + 3)]

/-! ### PART_HWINA (14_hem_journal_and_windows.md, R410) -/

/-- PR bits [45:21] of the window's first byte. -/
def PART_HWINA.PRBASE (n k : Nat) : Field :=
  ⟨0x200180 + 1024 * n + 16 * k, 45, 21, .rw, .num 0, .num 0, .keep⟩

/-- 1: mapped; set only under R399. -/
def PART_HWINA.VALID (n k : Nat) : Field :=
  ⟨0x200180 + 1024 * n + 16 * k, 0, 0, .rw, .num 0, .num 0, .keep⟩

/-- The fields of PART_HWINA. -/
def PART_HWINA.fields (n k : Nat) : List Field :=
  [PART_HWINA.PRBASE n k,
   PART_HWINA.VALID n k]

/-! ### PART_HWINB (14_hem_journal_and_windows.md, R410) -/

/-- granules, 1–768. -/
def PART_HWINB.COUNT (n k : Nat) : Field :=
  ⟨0x200188 + 1024 * n + 16 * k, 25, 16, .rw, .num 0, .num 0, .keep⟩

/-- first granule, 0–767. -/
def PART_HWINB.GRAN (n k : Nat) : Field :=
  ⟨0x200188 + 1024 * n + 16 * k, 9, 0, .rw, .num 0, .num 0, .keep⟩

/-- The fields of PART_HWINB. -/
def PART_HWINB.fields (n k : Nat) : List Field :=
  [PART_HWINB.COUNT n k,
   PART_HWINB.GRAN n k]

/-! ### PART_HWINSTAT (14_hem_journal_and_windows.md, R410) -/

/-- last HWIN write: 0 none; 1 mapped; 2 granule not owned by n, or BUSY; 3 GRAN + COUNT above 768, or COUNT 0; 4 PR range overlaps another window; 5 HWINB written while VALID; 6 unmapped, by a write of HWINA with VALID = 0; where several checks fail, the first in the order of R399. -/
def PART_HWINSTAT.RESULT (n : Nat) : Field :=
  ⟨0x200200 + 1024 * n, 3, 0, .ro, .num 0, .num 0, .keep⟩

/-- The fields of PART_HWINSTAT. -/
def PART_HWINSTAT.fields (n : Nat) : List Field :=
  [PART_HWINSTAT.RESULT n]

/-! ### TRIAD_STAT (15_channel_triad_and_buffers.md, R435) -/

/-- restarts under R423, saturating. -/
def TRIAD_STAT.RESTARTS : Field :=
  ⟨0x80000, 47, 32, .ro, .num 0, .keep, .keep⟩

/-- 1: doorbells land. -/
def TRIAD_STAT.ACCEPTING : Field :=
  ⟨0x80000, 8, 8, .ro, .boot, .boot, .keep⟩

/-- 0 TRIAD, 1 PAIR, 2 STOPPED, 3 RESTARTING. -/
def TRIAD_STAT.MODE : Field :=
  ⟨0x80000, 2, 0, .ro, .boot, .boot, .keep⟩

/-- The fields of TRIAD_STAT. -/
def TRIAD_STAT.fields : List Field :=
  [TRIAD_STAT.RESTARTS,
   TRIAD_STAT.ACCEPTING,
   TRIAD_STAT.MODE]

/-! ### TRIAD_CTL (15_channel_triad_and_buffers.md, R435) -/

/-- ejections per hour that make a member FAILED, R417; 0 acts as 1. -/
def TRIAD_CTL.DISSMAX : Field :=
  ⟨0x80008, 15, 8, .rw, .num 3, .num 3, .keep⟩

/-- 1: an OUT member rejoins by itself, R419. -/
def TRIAD_CTL.AUTOREJOIN : Field :=
  ⟨0x80008, 0, 0, .rw, .num 1, .num 1, .keep⟩

/-- The fields of TRIAD_CTL. -/
def TRIAD_CTL.fields : List Field :=
  [TRIAD_CTL.DISSMAX,
   TRIAD_CTL.AUTOREJOIN]

/-! ### TRIAD_CMD (15_channel_triad_and_buffers.md, R435) -/

/-- 0 none; 1 done; 2 refused, mode or member state; 3 waiting for a switch; 4 self-test failed. -/
def TRIAD_CMD.RESULT : Field :=
  ⟨0x80010, 11, 8, .ro, .num 0, .num 0, .keep⟩

/-- member 0–2; 3 refused. -/
def TRIAD_CMD.MEMBER : Field :=
  ⟨0x80010, 5, 4, .wo, .num 0, .num 0, .keep⟩

/-- 1 REJOIN; 2 EJECT; 0 and 3 do nothing. -/
def TRIAD_CMD.OP : Field :=
  ⟨0x80010, 1, 0, .wo, .num 0, .num 0, .keep⟩

/-- The fields of TRIAD_CMD. -/
def TRIAD_CMD.fields : List Field :=
  [TRIAD_CMD.RESULT,
   TRIAD_CMD.MEMBER,
   TRIAD_CMD.OP]

/-! ### TRIAD_FWCTL (15_channel_triad_and_buffers.md, R435) -/

/-- module-physical address of the image to load. -/
def TRIAD_FWCTL.ADDR : Field :=
  ⟨0x80040, 51, 12, .rw, .num 0, .num 0, .keep⟩

/-- 1 LOAD, R424; 2 SWITCH, R425; 3 discard STAGED. -/
def TRIAD_FWCTL.OP : Field :=
  ⟨0x80040, 1, 0, .wo, .num 0, .num 0, .keep⟩

/-- The fields of TRIAD_FWCTL. -/
def TRIAD_FWCTL.fields : List Field :=
  [TRIAD_FWCTL.ADDR,
   TRIAD_FWCTL.OP]

/-! ### TRIAD_FWSTAT (15_channel_triad_and_buffers.md, R435) -/

/-- 1: STAGED holds an image. -/
def TRIAD_FWSTAT.SVALID : Field :=
  ⟨0x80048, 41, 41, .ro, .num 0, .num 0, .keep⟩

/-- 1 while a load or switch runs. -/
def TRIAD_FWSTAT.BUSY : Field :=
  ⟨0x80048, 40, 40, .ro, .num 0, .num 0, .keep⟩

/-- 0 none; 1 loaded; 2 switched; 3 refused, busy or member TESTING or COPYING; 4 refused, nothing staged; 5 refused, state format differs; 6 image CRC or format bad; 7 refused, triad STOPPED or RESTARTING. -/
def TRIAD_FWSTAT.RESULT : Field :=
  ⟨0x80048, 35, 32, .ro, .num 0, .num 0, .keep⟩

/-- version in STAGED. -/
def TRIAD_FWSTAT.STAGED : Field :=
  ⟨0x80048, 31, 16, .ro, .num 0, .num 0, .keep⟩

/-- version in ACTIVE. -/
def TRIAD_FWSTAT.ACTIVE : Field :=
  ⟨0x80048, 15, 0, .ro, .boot, .boot, .keep⟩

/-- The fields of TRIAD_FWSTAT. -/
def TRIAD_FWSTAT.fields : List Field :=
  [TRIAD_FWSTAT.SVALID,
   TRIAD_FWSTAT.BUSY,
   TRIAD_FWSTAT.RESULT,
   TRIAD_FWSTAT.STAGED,
   TRIAD_FWSTAT.ACTIVE]

/-! ### TRIAD_VOTESTAT (15_channel_triad_and_buffers.md, R435) -/

/-- input batches offered again under R414, saturating. -/
def TRIAD_VOTESTAT.AGREEFAIL : Field :=
  ⟨0x80058, 63, 48, .rs, .num 0, .keep, .keep⟩

/-- ejections of T2, saturating. -/
def TRIAD_VOTESTAT.DISS2 : Field :=
  ⟨0x80058, 47, 32, .rs, .num 0, .keep, .keep⟩

/-- ejections of T1, saturating. -/
def TRIAD_VOTESTAT.DISS1 : Field :=
  ⟨0x80058, 31, 16, .rs, .num 0, .keep, .keep⟩

/-- ejections of T0, saturating. -/
def TRIAD_VOTESTAT.DISS0 : Field :=
  ⟨0x80058, 15, 0, .rs, .num 0, .keep, .keep⟩

/-- The fields of TRIAD_VOTESTAT. -/
def TRIAD_VOTESTAT.fields : List Field :=
  [TRIAD_VOTESTAT.AGREEFAIL,
   TRIAD_VOTESTAT.DISS2,
   TRIAD_VOTESTAT.DISS1,
   TRIAD_VOTESTAT.DISS0]

/-! ### TRIAD_MEMBER (15_channel_triad_and_buffers.md, R435) -/

/-- cause of the last ejection, R417; 0 none. -/
def TRIAD_MEMBER.CAUSE (m : Nat) : Field :=
  ⟨0x80018 + 8 * m, 23, 16, .ro, .num 0, .num 0, .keep⟩

/-- ejections in the last hour, R417. -/
def TRIAD_MEMBER.DISSENTS (m : Nat) : Field :=
  ⟨0x80018 + 8 * m, 15, 8, .ro, .num 0, .num 0, .keep⟩

/-- 0 VOTING, 1 OUT, 2 TESTING, 3 COPYING, 4 PROBATION, 5 FAILED. -/
def TRIAD_MEMBER.STATE (m : Nat) : Field :=
  ⟨0x80018 + 8 * m, 2, 0, .ro, .boot, .boot, .keep⟩

/-- The fields of TRIAD_MEMBER. -/
def TRIAD_MEMBER.fields (m : Nat) : List Field :=
  [TRIAD_MEMBER.CAUSE m,
   TRIAD_MEMBER.DISSENTS m,
   TRIAD_MEMBER.STATE m]

/-! ### TRIAD_FWSWTSN (15_channel_triad_and_buffers.md, R435) -/

/-- the TSN S of the last switch, R425. -/
def TRIAD_FWSWTSN.FWSWTSN : Field :=
  ⟨0x80050, 63, 0, .ro, .num 0, .num 0, .keep⟩

/-- The fields of TRIAD_FWSWTSN. -/
def TRIAD_FWSWTSN.fields : List Field :=
  [TRIAD_FWSWTSN.FWSWTSN]

/-! ### TRIAD_CHPOOL (15_channel_triad_and_buffers.md, R435) -/

/-- inbound pool of channel n, R430. -/
def TRIAD_CHPOOL.POOL (n : Nat) : Field :=
  ⟨0x80100 + 8 * n, 11, 0, .rw, .boot, .boot, .keep⟩

/-- The fields of TRIAD_CHPOOL. -/
def TRIAD_CHPOOL.fields (n : Nat) : List Field :=
  [TRIAD_CHPOOL.POOL n]

/-! ### POOL_BASE (15_channel_triad_and_buffers.md, R435) -/

/-- module-physical address of buffer 0. -/
def POOL_BASE.ADDR (p : Nat) : Field :=
  ⟨0xA0000 + 32 * p, 51, 11, .rw, .boot, .boot, .keep⟩

/-- The fields of POOL_BASE. -/
def POOL_BASE.fields (p : Nat) : List Field :=
  [POOL_BASE.ADDR p]

/-! ### POOL_CFG (15_channel_triad_and_buffers.md, R435) -/

/-- 1: the pool is in use, R434. -/
def POOL_CFG.VALID (p : Nat) : Field :=
  ⟨0xA0008 + 32 * p, 63, 63, .rw, .boot, .boot, .keep⟩

/-- owning partition. -/
def POOL_CFG.PART (p : Nat) : Field :=
  ⟨0xA0008 + 32 * p, 47, 40, .rw, .boot, .boot, .keep⟩

/-- buffer size 2^(11 + SIZE) bytes; 6 and 7 refuse VALID. -/
def POOL_CFG.SIZE (p : Nat) : Field :=
  ⟨0xA0008 + 32 * p, 34, 32, .rw, .boot, .boot, .keep⟩

/-- buffers, 1–1,048,576. -/
def POOL_CFG.COUNT (p : Nat) : Field :=
  ⟨0xA0008 + 32 * p, 20, 0, .rw, .boot, .boot, .keep⟩

/-- The fields of POOL_CFG. -/
def POOL_CFG.fields (p : Nat) : List Field :=
  [POOL_CFG.VALID p,
   POOL_CFG.PART p,
   POOL_CFG.SIZE p,
   POOL_CFG.COUNT p]

/-! ### POOL_STBASE (15_channel_triad_and_buffers.md, R435) -/

/-- module-physical address of the state table. -/
def POOL_STBASE.ADDR (p : Nat) : Field :=
  ⟨0xA0010 + 32 * p, 51, 12, .rw, .boot, .boot, .keep⟩

/-- The fields of POOL_STBASE. -/
def POOL_STBASE.fields (p : Nat) : List Field :=
  [POOL_STBASE.ADDR p]

/-! ### POOL_STAT (15_channel_triad_and_buffers.md, R435) -/

/-- 1 while the state table is initialised. -/
def POOL_STAT.BUSY (p : Nat) : Field :=
  ⟨0xA0018 + 32 * p, 63, 63, .ro, .num 0, .num 0, .keep⟩

/-- last write: 0 none; 1 done; 2 refused, pool in use; 3 refused, size, alignment or count. -/
def POOL_STAT.RESULT (p : Nat) : Field :=
  ⟨0xA0018 + 32 * p, 59, 56, .ro, .num 0, .num 0, .keep⟩

/-- buffers in the free list. -/
def POOL_STAT.FREECNT (p : Nat) : Field :=
  ⟨0xA0018 + 32 * p, 52, 32, .ro, .boot, .boot, .keep⟩

/-- QUARANTINED buffers, R431. -/
def POOL_STAT.QUAR (p : Nat) : Field :=
  ⟨0xA0018 + 32 * p, 31, 16, .ro, .num 0, .num 0, .keep⟩

/-- FREEs refused with BUF_STATE, saturating. -/
def POOL_STAT.BADFREE (p : Nat) : Field :=
  ⟨0xA0018 + 32 * p, 15, 0, .rs, .num 0, .num 0, .keep⟩

/-- The fields of POOL_STAT. -/
def POOL_STAT.fields (p : Nat) : List Field :=
  [POOL_STAT.BUSY p,
   POOL_STAT.RESULT p,
   POOL_STAT.FREECNT p,
   POOL_STAT.QUAR p,
   POOL_STAT.BADFREE p]

/-! ### LANE_CTL (16_cuff_ports_and_links.md, R477) -/

/-- seconds in DOWN before DETECT; 0 stays DOWN. -/
def LANE_CTL.RETRY (m : Nat) : Field :=
  ⟨0x140000 + 512 * m, 63, 56, .rw, .num 1, .num 1, .keep⟩

/-- µs out of ACTIVE before DOWN, R444. -/
def LANE_CTL.LOSSTO (m : Nat) : Field :=
  ⟨0x140000 + 512 * m, 47, 32, .rw, .num 100, .num 100, .keep⟩

/-- seconds between recalibrations; 0 only on demand. -/
def LANE_CTL.RECALPER (m : Nat) : Field :=
  ⟨0x140000 + 512 * m, 31, 24, .rw, .num 60, .num 60, .keep⟩

/-- bit g − 1: Cuff-g allowed. -/
def LANE_CTL.GENMASK (m : Nat) : Field :=
  ⟨0x140000 + 512 * m, 10, 8, .rw, .boot, .boot, .keep⟩

/-- 0 AUTO; 1–3 Cuff-1 to Cuff-3. -/
def LANE_CTL.GEN (m : Nat) : Field :=
  ⟨0x140000 + 512 * m, 5, 4, .rw, .boot, .boot, .keep⟩

/-- 1: the lane may train. -/
def LANE_CTL.EN (m : Nat) : Field :=
  ⟨0x140000 + 512 * m, 0, 0, .rw, .boot, .boot, .keep⟩

/-- The fields of LANE_CTL. -/
def LANE_CTL.fields (m : Nat) : List Field :=
  [LANE_CTL.RETRY m,
   LANE_CTL.LOSSTO m,
   LANE_CTL.RECALPER m,
   LANE_CTL.GENMASK m,
   LANE_CTL.GEN m,
   LANE_CTL.EN m]

/-! ### LANE_STAT (16_cuff_ports_and_links.md, R477) -/

/-- 0 none; 1 lock lost; 2 replay limit; 3 adapter removed; 4 training failed; 5 firmware; 6 provisional ID mismatch. -/
def LANE_STAT.DOWNCAUSE (m : Nat) : Field :=
  ⟨0x140008 + 512 * m, 15, 12, .ro, .num 0, .num 0, .keep⟩

/-- generation in use; 0 none. -/
def LANE_STAT.CURGEN (m : Nat) : Field :=
  ⟨0x140008 + 512 * m, 9, 8, .ro, .num 0, .num 0, .keep⟩

/-- 0 OFF, 1 DETECT, 2 TRAIN, 3 ALIGN, 4 ACTIVE, 5 LOWPOWER, 6 RECAL, 7 DOWN. -/
def LANE_STAT.STATE (m : Nat) : Field :=
  ⟨0x140008 + 512 * m, 3, 0, .ro, .num 0, .num 0, .keep⟩

/-- The fields of LANE_STAT. -/
def LANE_STAT.fields (m : Nat) : List Field :=
  [LANE_STAT.DOWNCAUSE m,
   LANE_STAT.CURGEN m,
   LANE_STAT.STATE m]

/-! ### LANE_CMD (16_cuff_ports_and_links.md, R477) -/

/-- 0 none; 1 done; 2 refused, state; 3 waiting, R468. -/
def LANE_CMD.RESULT (m : Nat) : Field :=
  ⟨0x140010 + 512 * m, 11, 8, .ro, .num 0, .num 0, .keep⟩

/-- 1 RETRAIN; 2 RECAL; 3 DOWN; 4 SNAP; others do nothing. -/
def LANE_CMD.OP (m : Nat) : Field :=
  ⟨0x140010 + 512 * m, 2, 0, .wo, .num 0, .num 0, .keep⟩

/-- The fields of LANE_CMD. -/
def LANE_CMD.fields (m : Nat) : List Field :=
  [LANE_CMD.RESULT m,
   LANE_CMD.OP m]

/-! ### LANE_FSN (16_cuff_ports_and_links.md, R477) -/

/-- next FSN expected on the lane. -/
def LANE_FSN.RXNEXT (m : Nat) : Field :=
  ⟨0x140018 + 512 * m, 63, 32, .ro, .num 0, .num 0, .keep⟩

/-- next FSN to send on the lane. -/
def LANE_FSN.TXNEXT (m : Nat) : Field :=
  ⟨0x140018 + 512 * m, 31, 0, .ro, .num 0, .num 0, .keep⟩

/-- The fields of LANE_FSN. -/
def LANE_FSN.fields (m : Nat) : List Field :=
  [LANE_FSN.RXNEXT m,
   LANE_FSN.TXNEXT m]

/-! ### LANE_SKEW (16_cuff_ports_and_links.md, R477) -/

/-- 1: both lanes of the channel hold marker lock. -/
def LANE_SKEW.VALID (m : Nat) : Field :=
  ⟨0x140020 + 512 * m, 32, 32, .ro, .num 0, .num 0, .keep⟩

/-- channel skew of R445, in ns, two's complement; the same in both lanes. -/
def LANE_SKEW.SKEW (m : Nat) : Field :=
  ⟨0x140020 + 512 * m, 31, 0, .ro, .num 0, .num 0, .keep⟩

/-- The fields of LANE_SKEW. -/
def LANE_SKEW.fields (m : Nat) : List Field :=
  [LANE_SKEW.VALID m,
   LANE_SKEW.SKEW m]

/-! ### LANE_ERR (16_cuff_ports_and_links.md, R477) -/

/-- frames discarded under R447. -/
def LANE_ERR.CRCERR (m : Nat) : Field :=
  ⟨0x140028 + 512 * m, 63, 48, .rs, .num 0, .keep, .keep⟩

/-- replays started. -/
def LANE_ERR.REPLAYS (m : Nat) : Field :=
  ⟨0x140028 + 512 * m, 47, 32, .rs, .num 0, .keep, .keep⟩

/-- Cuff-3: FEC symbols corrected, in units of 1,024; Cuff-1: code violations. -/
def LANE_ERR.CORR (m : Nat) : Field :=
  ⟨0x140028 + 512 * m, 31, 16, .rs, .num 0, .keep, .keep⟩

/-- losses of any lock. -/
def LANE_ERR.UNLOCKS (m : Nat) : Field :=
  ⟨0x140028 + 512 * m, 15, 0, .rs, .num 0, .keep, .keep⟩

/-- The fields of LANE_ERR. -/
def LANE_ERR.fields (m : Nat) : List Field :=
  [LANE_ERR.CRCERR m,
   LANE_ERR.REPLAYS m,
   LANE_ERR.CORR m,
   LANE_ERR.UNLOCKS m]

/-! ### LANE_TXBYTES (16_cuff_ports_and_links.md, R477) -/

/-- the live counter has wrapped since this bit was last cleared. -/
def LANE_TXBYTES.WRAPPED (m : Nat) : Field :=
  ⟨0x140030 + 512 * m, 63, 63, .w1c, .num 0, .keep, .keep⟩

/-- bytes or frames at the last SNAP; the live counter wraps modulo 2^48. -/
def LANE_TXBYTES.COUNT (m : Nat) : Field :=
  ⟨0x140030 + 512 * m, 47, 0, .ro, .num 0, .keep, .keep⟩

/-- The fields of LANE_TXBYTES. -/
def LANE_TXBYTES.fields (m : Nat) : List Field :=
  [LANE_TXBYTES.WRAPPED m,
   LANE_TXBYTES.COUNT m]

/-! ### LANE_RXBYTES (16_cuff_ports_and_links.md, R477) -/

/-- the live counter has wrapped since this bit was last cleared. -/
def LANE_RXBYTES.WRAPPED (m : Nat) : Field :=
  ⟨0x140038 + 512 * m, 63, 63, .w1c, .num 0, .keep, .keep⟩

/-- bytes or frames at the last SNAP; the live counter wraps modulo 2^48. -/
def LANE_RXBYTES.COUNT (m : Nat) : Field :=
  ⟨0x140038 + 512 * m, 47, 0, .ro, .num 0, .keep, .keep⟩

/-- The fields of LANE_RXBYTES. -/
def LANE_RXBYTES.fields (m : Nat) : List Field :=
  [LANE_RXBYTES.WRAPPED m,
   LANE_RXBYTES.COUNT m]

/-! ### LANE_TXFRAMES (16_cuff_ports_and_links.md, R477) -/

/-- the live counter has wrapped since this bit was last cleared. -/
def LANE_TXFRAMES.WRAPPED (m : Nat) : Field :=
  ⟨0x140040 + 512 * m, 63, 63, .w1c, .num 0, .keep, .keep⟩

/-- bytes or frames at the last SNAP; the live counter wraps modulo 2^48. -/
def LANE_TXFRAMES.COUNT (m : Nat) : Field :=
  ⟨0x140040 + 512 * m, 47, 0, .ro, .num 0, .keep, .keep⟩

/-- The fields of LANE_TXFRAMES. -/
def LANE_TXFRAMES.fields (m : Nat) : List Field :=
  [LANE_TXFRAMES.WRAPPED m,
   LANE_TXFRAMES.COUNT m]

/-! ### LANE_RXFRAMES (16_cuff_ports_and_links.md, R477) -/

/-- the live counter has wrapped since this bit was last cleared. -/
def LANE_RXFRAMES.WRAPPED (m : Nat) : Field :=
  ⟨0x140048 + 512 * m, 63, 63, .w1c, .num 0, .keep, .keep⟩

/-- bytes or frames at the last SNAP; the live counter wraps modulo 2^48. -/
def LANE_RXFRAMES.COUNT (m : Nat) : Field :=
  ⟨0x140048 + 512 * m, 47, 0, .ro, .num 0, .keep, .keep⟩

/-- The fields of LANE_RXFRAMES. -/
def LANE_RXFRAMES.fields (m : Nat) : List Field :=
  [LANE_RXFRAMES.WRAPPED m,
   LANE_RXFRAMES.COUNT m]

/-! ### TAILOR_ROLLCTL (16_cuff_ports_and_links.md, R479) -/

/-- 1: start a pass, or schedule one more when a pass runs. -/
def TAILOR_ROLLCTL.GO : Field :=
  ⟨0x12000, 1, 1, .wo, .num 0, .num 0, .keep⟩

/-- 1: passes start on the triggers of R472. -/
def TAILOR_ROLLCTL.AUTO : Field :=
  ⟨0x12000, 0, 0, .rw, .num 1, .num 1, .keep⟩

/-- The fields of TAILOR_ROLLCTL. -/
def TAILOR_ROLLCTL.fields : List Field :=
  [TAILOR_ROLLCTL.GO,
   TAILOR_ROLLCTL.AUTO]

/-! ### TAILOR_ROLLSTAT (16_cuff_ports_and_links.md, R479) -/

/-- passes completed, saturating. -/
def TAILOR_ROLLSTAT.PASSES : Field :=
  ⟨0x12008, 63, 48, .rs, .num 0, .num 0, .keep⟩

/-- adapters addressed on bus 3. -/
def TAILOR_ROLLSTAT.ADAPT3 : Field :=
  ⟨0x12008, 47, 40, .ro, .num 0, .num 0, .keep⟩

/-- adapters addressed on bus 2. -/
def TAILOR_ROLLSTAT.ADAPT2 : Field :=
  ⟨0x12008, 39, 32, .ro, .num 0, .num 0, .keep⟩

/-- rounds made void, R473; saturating. -/
def TAILOR_ROLLSTAT.DISCARDED : Field :=
  ⟨0x12008, 31, 16, .rs, .num 0, .num 0, .keep⟩

/-- 1: one more pass is scheduled. -/
def TAILOR_ROLLSTAT.AGAIN : Field :=
  ⟨0x12008, 1, 1, .ro, .num 0, .num 0, .keep⟩

/-- 1 while a pass runs. -/
def TAILOR_ROLLSTAT.BUSY : Field :=
  ⟨0x12008, 0, 0, .ro, .num 0, .num 0, .keep⟩

/-- The fields of TAILOR_ROLLSTAT. -/
def TAILOR_ROLLSTAT.fields : List Field :=
  [TAILOR_ROLLSTAT.PASSES,
   TAILOR_ROLLSTAT.ADAPT3,
   TAILOR_ROLLSTAT.ADAPT2,
   TAILOR_ROLLSTAT.DISCARDED,
   TAILOR_ROLLSTAT.AGAIN,
   TAILOR_ROLLSTAT.BUSY]

/-! ### PLEAT_CTL (17_pleat_compression.md, R498) -/

/-- block size code for in-line frames, R490; 5–7 act as 4. -/
def PLEAT_CTL.INBLK : Field :=
  ⟨0x190000, 18, 16, .rw, .num 2, .num 2, .keep⟩

/-- engines guaranteed to waiting memory-to-memory jobs, R482. -/
def PLEAT_CTL.M2MMIN : Field :=
  ⟨0x190000, 13, 8, .rw, .num 4, .num 4, .keep⟩

/-- 1: jobs are granted. -/
def PLEAT_CTL.EN : Field :=
  ⟨0x190000, 0, 0, .rw, .num 1, .num 1, .keep⟩

/-- The fields of PLEAT_CTL. -/
def PLEAT_CTL.fields : List Field :=
  [PLEAT_CTL.INBLK,
   PLEAT_CTL.M2MMIN,
   PLEAT_CTL.EN]

/-! ### PLEAT_STAT (17_pleat_compression.md, R498) -/

/-- failed comparisons, R488; saturating. -/
def PLEAT_STAT.VERIFYFAIL : Field :=
  ⟨0x190008, 63, 48, .rs, .num 0, .keep, .keep⟩

/-- memory-to-memory commands waiting or running. -/
def PLEAT_STAT.QUEUED : Field :=
  ⟨0x190008, 47, 32, .ro, .num 0, .num 0, .keep⟩

/-- bit e: engine e in service. -/
def PLEAT_STAT.ENGUP : Field :=
  ⟨0x190008, 31, 0, .ro, .boot, .boot, .keep⟩

/-- The fields of PLEAT_STAT. -/
def PLEAT_STAT.fields : List Field :=
  [PLEAT_STAT.VERIFYFAIL,
   PLEAT_STAT.QUEUED,
   PLEAT_STAT.ENGUP]

/-! ### PLEAT_FWSUB (17_pleat_compression.md, R498) -/

/-- module-physical address bits [51:6] of the command block. -/
def PLEAT_FWSUB.ADDR : Field :=
  ⟨0x190010, 51, 6, .wo, .num 0, .num 0, .keep⟩

/-- The fields of PLEAT_FWSUB. -/
def PLEAT_FWSUB.fields : List Field :=
  [PLEAT_FWSUB.ADDR]

/-! ### CLOAK_FWSUB (17_pleat_compression.md, R498) -/

/-- module-physical address bits [51:6] of the command block. -/
def CLOAK_FWSUB.ADDR : Field :=
  ⟨0x1A0018, 51, 6, .wo, .num 0, .num 0, .keep⟩

/-- The fields of CLOAK_FWSUB. -/
def CLOAK_FWSUB.fields : List Field :=
  [CLOAK_FWSUB.ADDR]

/-! ### PLEAT_FWRES (17_pleat_compression.md, R498) -/

/-- commands of the submitter queued or running. -/
def PLEAT_FWRES.OPEN : Field :=
  ⟨0x190018, 24, 16, .ro, .num 0, .num 0, .num 0⟩

/-- last submission, R495; 0 none. -/
def PLEAT_FWRES.RESULT : Field :=
  ⟨0x190018, 3, 0, .ro, .num 0, .num 0, .num 0⟩

/-- The fields of PLEAT_FWRES. -/
def PLEAT_FWRES.fields : List Field :=
  [PLEAT_FWRES.OPEN,
   PLEAT_FWRES.RESULT]

/-! ### PART_PLEATRES (17_pleat_compression.md, R498) -/

/-- commands of the submitter queued or running. -/
def PART_PLEATRES.OPEN (n : Nat) : Field :=
  ⟨0x200070 + 1024 * n, 24, 16, .ro, .num 0, .num 0, .num 0⟩

/-- last submission, R495; 0 none. -/
def PART_PLEATRES.RESULT (n : Nat) : Field :=
  ⟨0x200070 + 1024 * n, 3, 0, .ro, .num 0, .num 0, .num 0⟩

/-- The fields of PART_PLEATRES. -/
def PART_PLEATRES.fields (n : Nat) : List Field :=
  [PART_PLEATRES.OPEN n,
   PART_PLEATRES.RESULT n]

/-! ### CLOAK_FWRES (17_pleat_compression.md, R498) -/

/-- commands of the submitter queued or running. -/
def CLOAK_FWRES.OPEN : Field :=
  ⟨0x1A0020, 24, 16, .ro, .num 0, .num 0, .num 0⟩

/-- last submission, R495; 0 none. -/
def CLOAK_FWRES.RESULT : Field :=
  ⟨0x1A0020, 3, 0, .ro, .num 0, .num 0, .num 0⟩

/-- The fields of CLOAK_FWRES. -/
def CLOAK_FWRES.fields : List Field :=
  [CLOAK_FWRES.OPEN,
   CLOAK_FWRES.RESULT]

/-! ### PART_CLOAKRES (17_pleat_compression.md, R498) -/

/-- commands of the submitter queued or running. -/
def PART_CLOAKRES.OPEN (n : Nat) : Field :=
  ⟨0x200080 + 1024 * n, 24, 16, .ro, .num 0, .num 0, .num 0⟩

/-- last submission, R495; 0 none. -/
def PART_CLOAKRES.RESULT (n : Nat) : Field :=
  ⟨0x200080 + 1024 * n, 3, 0, .ro, .num 0, .num 0, .num 0⟩

/-- The fields of PART_CLOAKRES. -/
def PART_CLOAKRES.fields (n : Nat) : List Field :=
  [PART_CLOAKRES.OPEN n,
   PART_CLOAKRES.RESULT n]

/-! ### PLEAT_ENG (17_pleat_compression.md, R498) -/

/-- failed comparisons on this engine, saturating. -/
def PLEAT_ENG.MISMATCH (e : Nat) : Field :=
  ⟨0x190100 + 8 * e, 63, 48, .rs, .num 0, .keep, .keep⟩

/-- 1 Unit reset; 2 take out of service; 0 and 3 do nothing. -/
def PLEAT_ENG.OP (e : Nat) : Field :=
  ⟨0x190100 + 8 * e, 9, 8, .wo, .num 0, .num 0, .keep⟩

/-- 0 IDLE, 1 BUSY, 2 OUT. -/
def PLEAT_ENG.STATE (e : Nat) : Field :=
  ⟨0x190100 + 8 * e, 1, 0, .ro, .num 0, .num 0, .keep⟩

/-- The fields of PLEAT_ENG. -/
def PLEAT_ENG.fields (e : Nat) : List Field :=
  [PLEAT_ENG.MISMATCH e,
   PLEAT_ENG.OP e,
   PLEAT_ENG.STATE e]

/-! ### CLOAK_LANE (17_pleat_compression.md, R498) -/

/-- failed comparisons on this engine, saturating. -/
def CLOAK_LANE.MISMATCH (l : Nat) : Field :=
  ⟨0x1A0100 + 8 * l, 63, 48, .rs, .num 0, .keep, .keep⟩

/-- 1 Unit reset; 2 take out of service; 0 and 3 do nothing. -/
def CLOAK_LANE.OP (l : Nat) : Field :=
  ⟨0x1A0100 + 8 * l, 9, 8, .wo, .num 0, .num 0, .keep⟩

/-- 0 IDLE, 1 BUSY, 2 OUT. -/
def CLOAK_LANE.STATE (l : Nat) : Field :=
  ⟨0x1A0100 + 8 * l, 1, 0, .ro, .num 0, .num 0, .keep⟩

/-- The fields of CLOAK_LANE. -/
def CLOAK_LANE.fields (l : Nat) : List Field :=
  [CLOAK_LANE.MISMATCH l,
   CLOAK_LANE.OP l,
   CLOAK_LANE.STATE l]

/-! ### PART_PLEATSUB (17_pleat_compression.md, R499) -/

/-- PR bits [45:6] of the command block, R492. -/
def PART_PLEATSUB.ADDR (n : Nat) : Field :=
  ⟨0x200068 + 1024 * n, 45, 6, .wo, .num 0, .num 0, .num 0⟩

/-- The fields of PART_PLEATSUB. -/
def PART_PLEATSUB.fields (n : Nat) : List Field :=
  [PART_PLEATSUB.ADDR n]

/-! ### PART_CLOAKSUB (18_cloak_cipher.md, R520) -/

/-- partition-real address bits [45:6] of the command block, R515. -/
def PART_CLOAKSUB.ADDR (n : Nat) : Field :=
  ⟨0x200078 + 1024 * n, 45, 6, .wo, .num 0, .num 0, .num 0⟩

/-- The fields of PART_CLOAKSUB. -/
def PART_CLOAKSUB.fields (n : Nat) : List Field :=
  [PART_CLOAKSUB.ADDR n]

/-! ### CLOAK_CTL (18_cloak_cipher.md, R519) -/

/-- lanes guaranteed to waiting commands, R514. -/
def CLOAK_CTL.M2MMIN : Field :=
  ⟨0x1A0000, 13, 8, .rw, .num 4, .num 4, .keep⟩

/-- 1: units are granted. -/
def CLOAK_CTL.EN : Field :=
  ⟨0x1A0000, 0, 0, .rw, .num 1, .num 1, .keep⟩

/-- The fields of CLOAK_CTL. -/
def CLOAK_CTL.fields : List Field :=
  [CLOAK_CTL.M2MMIN,
   CLOAK_CTL.EN]

/-! ### CLOAK_STAT (18_cloak_cipher.md, R519) -/

/-- failed checks, R513; saturating. -/
def CLOAK_STAT.CHECKFAIL : Field :=
  ⟨0x1A0008, 63, 48, .rs, .num 0, .keep, .keep⟩

/-- rollovers, R510; saturating. -/
def CLOAK_STAT.ROLLS : Field :=
  ⟨0x1A0008, 47, 32, .rs, .num 0, .keep, .keep⟩

/-- commands waiting or running. -/
def CLOAK_STAT.QUEUED : Field :=
  ⟨0x1A0008, 31, 16, .ro, .num 0, .num 0, .keep⟩

/-- The fields of CLOAK_STAT. -/
def CLOAK_STAT.fields : List Field :=
  [CLOAK_STAT.CHECKFAIL,
   CLOAK_STAT.ROLLS,
   CLOAK_STAT.QUEUED]

/-! ### CLOAK_SLOTBASE (18_cloak_cipher.md, R519) -/

/-- module-physical address of the slot table, R504. -/
def CLOAK_SLOTBASE.ADDR : Field :=
  ⟨0x1A0010, 51, 12, .rw, .boot, .boot, .keep⟩

/-- 1: ADDR holds a slot table. -/
def CLOAK_SLOTBASE.VALID : Field :=
  ⟨0x1A0010, 0, 0, .rw, .boot, .boot, .keep⟩

/-- The fields of CLOAK_SLOTBASE. -/
def CLOAK_SLOTBASE.fields : List Field :=
  [CLOAK_SLOTBASE.ADDR,
   CLOAK_SLOTBASE.VALID]

/-! ### CLOAK_BOOTNO (18_cloak_cipher.md, R519) -/

/-- boot number of R503. -/
def CLOAK_BOOTNO.BOOTNO : Field :=
  ⟨0x1A0028, 29, 0, .rk, .keep, .keep, .keep⟩

/-- The fields of CLOAK_BOOTNO. -/
def CLOAK_BOOTNO.fields : List Field :=
  [CLOAK_BOOTNO.BOOTNO]

/-! ### CLOAK_CACHE (18_cloak_cipher.md, R519) -/

/-- derivations, R508; saturating. -/
def CLOAK_CACHE.MISS : Field :=
  ⟨0x1A0030, 63, 32, .rs, .num 0, .num 0, .keep⟩

/-- cache hits; saturating. -/
def CLOAK_CACHE.HIT : Field :=
  ⟨0x1A0030, 31, 0, .rs, .num 0, .num 0, .keep⟩

/-- The fields of CLOAK_CACHE. -/
def CLOAK_CACHE.fields : List Field :=
  [CLOAK_CACHE.MISS,
   CLOAK_CACHE.HIT]

/-! ### CLOAK_ROOTCTL (18_cloak_cipher.md, R519) -/

/-- expected KCV for LOCK. -/
def CLOAK_ROOTCTL.KCVEXP : Field :=
  ⟨0x1A0040, 31, 8, .wo, .num 0, .num 0, .keep⟩

/-- 1 ADD; 2 LOCK; 3 CLEAR; 0 does nothing. -/
def CLOAK_ROOTCTL.OP : Field :=
  ⟨0x1A0040, 1, 0, .wo, .num 0, .num 0, .keep⟩

/-- The fields of CLOAK_ROOTCTL. -/
def CLOAK_ROOTCTL.fields : List Field :=
  [CLOAK_ROOTCTL.KCVEXP,
   CLOAK_ROOTCTL.OP]

/-! ### CLOAK_ROOTSTAT (18_cloak_cipher.md, R519) -/

/-- KCV of the accumulated key when LOADED, of the fused key when LOCKED; 0 otherwise. -/
def CLOAK_ROOTSTAT.KCV : Field :=
  ⟨0x1A0048, 63, 40, .ro, .fuse, .fuse, .keep⟩

/-- 0 none; 1 done; 2 refused, not a service boot; 3 refused, locked; 4 KCV mismatch; 5 fuse failure; 6 refused, no shares. -/
def CLOAK_ROOTSTAT.RESULT : Field :=
  ⟨0x1A0048, 11, 8, .ro, .num 0, .num 0, .keep⟩

/-- shares added, saturating at 15. -/
def CLOAK_ROOTSTAT.SHARES : Field :=
  ⟨0x1A0048, 7, 4, .ro, .num 0, .num 0, .keep⟩

/-- 0 OPEN, 1 LOADED, 2 LOCKED, 3 LOCKFAIL. -/
def CLOAK_ROOTSTAT.STATE : Field :=
  ⟨0x1A0048, 1, 0, .ro, .fuse, .fuse, .keep⟩

/-- The fields of CLOAK_ROOTSTAT. -/
def CLOAK_ROOTSTAT.fields : List Field :=
  [CLOAK_ROOTSTAT.KCV,
   CLOAK_ROOTSTAT.RESULT,
   CLOAK_ROOTSTAT.SHARES,
   CLOAK_ROOTSTAT.STATE]

/-! ### CLOAK_SLOTCMD (18_cloak_cipher.md, R519) -/

/-- 0 none; 1 done; 2 refused, SLOTBASE not valid; 3 refused, slot pinned; 4 refused, entry invalid; 5 refused, busy. -/
def CLOAK_SLOTCMD.RESULT : Field :=
  ⟨0x1A0070, 27, 24, .ro, .num 0, .num 0, .keep⟩

/-- 1 LOAD; others do nothing. -/
def CLOAK_SLOTCMD.OP : Field :=
  ⟨0x1A0070, 17, 16, .wo, .num 0, .num 0, .keep⟩

/-- slot 0–4,095. -/
def CLOAK_SLOTCMD.SLOT : Field :=
  ⟨0x1A0070, 11, 0, .wo, .num 0, .num 0, .keep⟩

/-- The fields of CLOAK_SLOTCMD. -/
def CLOAK_SLOTCMD.fields : List Field :=
  [CLOAK_SLOTCMD.RESULT,
   CLOAK_SLOTCMD.OP,
   CLOAK_SLOTCMD.SLOT]

/-! ### CLOAK_LANEUP (18_cloak_cipher.md, R519) -/

/-- bit l is 1 when lane l is in service. -/
def CLOAK_LANEUP.LANEUP : Field :=
  ⟨0x1A0038, 63, 0, .ro, .boot, .boot, .keep⟩

/-- The fields of CLOAK_LANEUP. -/
def CLOAK_LANEUP.fields : List Field :=
  [CLOAK_LANEUP.LANEUP]

/-! ### CLOAK_ROOTSHARE (18_cloak_cipher.md, R519) -/

/-- share bits [64i + 63:64i]. -/
def CLOAK_ROOTSHARE.SHARE (i : Nat) : Field :=
  ⟨0x1A0050 + 8 * i, 63, 0, .wo, .num 0, .num 0, .keep⟩

/-- The fields of CLOAK_ROOTSHARE. -/
def CLOAK_ROOTSHARE.fields (i : Nat) : List Field :=
  [CLOAK_ROOTSHARE.SHARE i]

/-! ### CLOAK_SLOTST (18_cloak_cipher.md, R519) -/

/-- USED ÷ limit, in units of 2^−24, saturating. -/
def CLOAK_SLOTST.FRAC (k : Nat) : Field :=
  ⟨0x1A1000 + 8 * k, 63, 40, .ro, .boot, .boot, .keep⟩

/-- unretired records naming the slot, R505. -/
def CLOAK_SLOTST.PINS (k : Nat) : Field :=
  ⟨0x1A1000 + 8 * k, 39, 16, .ro, .boot, .boot, .keep⟩

/-- GEN mod 4. -/
def CLOAK_SLOTST.EPOCH (k : Nat) : Field :=
  ⟨0x1A1000 + 8 * k, 5, 4, .ro, .boot, .boot, .keep⟩

/-- 1: the next generation is derived, R510. -/
def CLOAK_SLOTST.NEXT (k : Nat) : Field :=
  ⟨0x1A1000 + 8 * k, 2, 2, .ro, .num 0, .num 0, .keep⟩

/-- 0 EMPTY, 1 READY, 2 SPENT. -/
def CLOAK_SLOTST.STATE (k : Nat) : Field :=
  ⟨0x1A1000 + 8 * k, 1, 0, .ro, .boot, .boot, .keep⟩

/-- The fields of CLOAK_SLOTST. -/
def CLOAK_SLOTST.fields (k : Nat) : List Field :=
  [CLOAK_SLOTST.FRAC k,
   CLOAK_SLOTST.PINS k,
   CLOAK_SLOTST.EPOCH k,
   CLOAK_SLOTST.NEXT k,
   CLOAK_SLOTST.STATE k]

/-! ### SEAM_CTL (19_seam_complex_and_time.md, R545) -/

/-- µs of silence before an automatic takeover, R535. -/
def SEAM_CTL.TAKEWAIT : Field :=
  ⟨0x1B0000, 55, 48, .rw, .num 6, .num 6, .keep⟩

/-- µs of silence before an owner stops output, R534; 0 acts as 1. -/
def SEAM_CTL.HOLDTIME : Field :=
  ⟨0x1B0000, 47, 40, .rw, .num 2, .num 2, .keep⟩

/-- CMAC slot for HELLO, R526. -/
def SEAM_CTL.AUTHSLOT : Field :=
  ⟨0x1B0000, 27, 16, .rw, .boot, .boot, .keep⟩

/-- modules in the complex, minus 1. -/
def SEAM_CTL.SIZE : Field :=
  ⟨0x1B0000, 3, 2, .rw, .boot, .boot, .keep⟩

/-- 1: Seam in use. -/
def SEAM_CTL.EN : Field :=
  ⟨0x1B0000, 0, 0, .rw, .boot, .boot, .keep⟩

/-- The fields of SEAM_CTL. -/
def SEAM_CTL.fields : List Field :=
  [SEAM_CTL.TAKEWAIT,
   SEAM_CTL.HOLDTIME,
   SEAM_CTL.AUTHSLOT,
   SEAM_CTL.SIZE,
   SEAM_CTL.EN]

/-! ### SEAM_STAT (19_seam_complex_and_time.md, R545) -/

/-- bit s: a port to module s is UP. -/
def SEAM_STAT.REACH : Field :=
  ⟨0x1B0008, 11, 8, .ro, .num 0, .num 0, .keep⟩

/-- SEAM_ID. -/
def SEAM_STAT.SELF : Field :=
  ⟨0x1B0008, 1, 0, .ro, .strap, .strap, .keep⟩

/-- The fields of SEAM_STAT. -/
def SEAM_STAT.fields : List Field :=
  [SEAM_STAT.REACH,
   SEAM_STAT.SELF]

/-! ### SEAM_TODCTL (19_seam_complex_and_time.md, R545) -/

/-- ppm, R542; values above 10,000 act as 10,000. -/
def SEAM_TODCTL.SLEWFAST : Field :=
  ⟨0x1B0010, 63, 48, .rw, .num 500, .num 500, .keep⟩

/-- ppm within GUARD; values above 50 act as 50. -/
def SEAM_TODCTL.SLEW : Field :=
  ⟨0x1B0010, 39, 32, .rw, .num 50, .num 50, .keep⟩

/-- guard time in units of 10 ns. -/
def SEAM_TODCTL.GUARD : Field :=
  ⟨0x1B0010, 27, 16, .rw, .num 200, .num 200, .keep⟩

/-- sync period in units of 25 µs; 0 acts as 1. -/
def SEAM_TODCTL.SYNCPER : Field :=
  ⟨0x1B0010, 15, 8, .rw, .num 5, .num 5, .keep⟩

/-- R540; 3 acts as 0. -/
def SEAM_TODCTL.ROLE : Field :=
  ⟨0x1B0010, 3, 2, .rw, .boot, .boot, .keep⟩

/-- 1: TOD maintained. -/
def SEAM_TODCTL.EN : Field :=
  ⟨0x1B0010, 0, 0, .rw, .boot, .boot, .keep⟩

/-- The fields of SEAM_TODCTL. -/
def SEAM_TODCTL.fields : List Field :=
  [SEAM_TODCTL.SLEWFAST,
   SEAM_TODCTL.SLEW,
   SEAM_TODCTL.GUARD,
   SEAM_TODCTL.SYNCPER,
   SEAM_TODCTL.ROLE,
   SEAM_TODCTL.EN]

/-! ### SEAM_TODSTAT (19_seam_complex_and_time.md, R545) -/

/-- SEAM_ID of the master. -/
def SEAM_TODSTAT.MASTER : Field :=
  ⟨0x1B0018, 15, 14, .ro, .num 0, .num 0, .keep⟩

/-- 0 none, 1 PPS_IN, 2 TODSET, 3 Seam. -/
def SEAM_TODSTAT.SOURCE : Field :=
  ⟨0x1B0018, 13, 12, .ro, .num 0, .num 0, .keep⟩

/-- last TODSET: 0 none, 1 done, 2 refused, backward, 3 refused, role, 4 waiting for PPS_IN, 5 refused, not a whole second under ROLE 1. -/
def SEAM_TODSTAT.SETRES : Field :=
  ⟨0x1B0018, 11, 8, .ro, .num 0, .num 0, .keep⟩

/-- R543; reads 0 from boot when SEAM.CTL.SIZE = 0. -/
def SEAM_TODSTAT.REFUSING : Field :=
  ⟨0x1B0018, 2, 2, .ro, .num 1, .num 1, .keep⟩

/-- R543. -/
def SEAM_TODSTAT.UNCERTAIN : Field :=
  ⟨0x1B0018, 1, 1, .ro, .num 1, .num 1, .keep⟩

/-- 1: TOD is valid. -/
def SEAM_TODSTAT.VALID : Field :=
  ⟨0x1B0018, 0, 0, .ro, .num 0, .num 0, .keep⟩

/-- The fields of SEAM_TODSTAT. -/
def SEAM_TODSTAT.fields : List Field :=
  [SEAM_TODSTAT.MASTER,
   SEAM_TODSTAT.SOURCE,
   SEAM_TODSTAT.SETRES,
   SEAM_TODSTAT.REFUSING,
   SEAM_TODSTAT.UNCERTAIN,
   SEAM_TODSTAT.VALID]

/-! ### SEAM_MIRCTL (19_seam_complex_and_time.md, R545) -/

/-- mirror host, R529. -/
def SEAM_MIRCTL.PARTNER : Field :=
  ⟨0x1B0038, 5, 4, .rw, .boot, .boot, .keep⟩

/-- 1: mirroring on. -/
def SEAM_MIRCTL.EN : Field :=
  ⟨0x1B0038, 0, 0, .rw, .boot, .boot, .keep⟩

/-- The fields of SEAM_MIRCTL. -/
def SEAM_MIRCTL.fields : List Field :=
  [SEAM_MIRCTL.PARTNER,
   SEAM_MIRCTL.EN]

/-! ### SEAM_MIRSTAT (19_seam_complex_and_time.md, R545) -/

/-- messages not yet acknowledged, R529. -/
def SEAM_MIRSTAT.LAG : Field :=
  ⟨0x1B0040, 63, 32, .ro, .num 0, .num 0, .keep⟩

/-- R531. -/
def SEAM_MIRSTAT.GAP : Field :=
  ⟨0x1B0040, 2, 2, .ro, .num 0, .num 0, .keep⟩

/-- mirroring stopped under R530 or R543. -/
def SEAM_MIRSTAT.REFUSED : Field :=
  ⟨0x1B0040, 1, 1, .ro, .num 0, .num 0, .keep⟩

/-- 1: the mirror holds every unretired record. -/
def SEAM_MIRSTAT.UP : Field :=
  ⟨0x1B0040, 0, 0, .ro, .num 0, .num 0, .keep⟩

/-- The fields of SEAM_MIRSTAT. -/
def SEAM_MIRSTAT.fields : List Field :=
  [SEAM_MIRSTAT.LAG,
   SEAM_MIRSTAT.GAP,
   SEAM_MIRSTAT.REFUSED,
   SEAM_MIRSTAT.UP]

/-! ### SEAM_TXMSG (19_seam_complex_and_time.md, R545) -/

/-- module-physical address bits [51:6] of the message block, R538. -/
def SEAM_TXMSG.ADDR : Field :=
  ⟨0x1B0048, 51, 6, .wo, .num 0, .num 0, .keep⟩

/-- The fields of SEAM_TXMSG. -/
def SEAM_TXMSG.fields : List Field :=
  [SEAM_TXMSG.ADDR]

/-! ### SEAM_TXRES (19_seam_complex_and_time.md, R545) -/

/-- 0 none; 1 queued; 2 refused, module unreachable; 3 refused, REFUSING; 4 refused, format; 5 delivered. -/
def SEAM_TXRES.RESULT : Field :=
  ⟨0x1B0050, 3, 0, .ro, .num 0, .num 0, .keep⟩

/-- The fields of SEAM_TXRES. -/
def SEAM_TXRES.fields : List Field :=
  [SEAM_TXRES.RESULT]

/-! ### SEAM_RXWIN (19_seam_complex_and_time.md, R545) -/

/-- module-physical base of the 64 KiB receive window. -/
def SEAM_RXWIN.ADDR : Field :=
  ⟨0x1B0058, 51, 16, .rw, .boot, .boot, .keep⟩

/-- 0: RWRITE frames are discarded and counted in PORT[p].ERR. -/
def SEAM_RXWIN.VALID : Field :=
  ⟨0x1B0058, 0, 0, .rw, .boot, .boot, .keep⟩

/-- The fields of SEAM_RXWIN. -/
def SEAM_RXWIN.fields : List Field :=
  [SEAM_RXWIN.ADDR,
   SEAM_RXWIN.VALID]

/-! ### SEAM_TODSET (19_seam_complex_and_time.md, R545) -/

/-- takes a TOD under R540. -/
def SEAM_TODSET.TODSET : Field :=
  ⟨0x1B0020, 63, 0, .wo, .num 0, .num 0, .keep⟩

/-- The fields of SEAM_TODSET. -/
def SEAM_TODSET.fields : List Field :=
  [SEAM_TODSET.TODSET]

/-! ### SEAM_TODOFFS (19_seam_complex_and_time.md, R545) -/

/-- last measured offset, two's complement, in units of 2^-12 us. -/
def SEAM_TODOFFS.TODOFFS : Field :=
  ⟨0x1B0028, 63, 0, .ro, .num 0, .num 0, .keep⟩

/-- The fields of SEAM_TODOFFS. -/
def SEAM_TODOFFS.fields : List Field :=
  [SEAM_TODOFFS.TODOFFS]

/-! ### SEAM_PPSSTAMP (19_seam_complex_and_time.md, R545) -/

/-- TOD of the last PPS_IN rising edge. -/
def SEAM_PPSSTAMP.PPSSTAMP : Field :=
  ⟨0x1B0030, 63, 0, .ro, .num 0, .num 0, .keep⟩

/-- The fields of SEAM_PPSSTAMP. -/
def SEAM_PPSSTAMP.fields : List Field :=
  [SEAM_PPSSTAMP.PPSSTAMP]

/-! ### SEAM_PORT_CTL (19_seam_complex_and_time.md, R545) -/

/-- seconds in DOWN before retraining; 0 stays DOWN. -/
def SEAM_PORT_CTL.RETRY (p : Nat) : Field :=
  ⟨0x1B0100 + 32 * p, 63, 56, .rw, .num 1, .num 1, .keep⟩

/-- R526. -/
def SEAM_PORT_CTL.RXSLOT (p : Nat) : Field :=
  ⟨0x1B0100 + 32 * p, 39, 28, .rw, .boot, .boot, .keep⟩

/-- R526. -/
def SEAM_PORT_CTL.TXSLOT (p : Nat) : Field :=
  ⟨0x1B0100 + 32 * p, 27, 16, .rw, .boot, .boot, .keep⟩

/-- 1: the port may come up. -/
def SEAM_PORT_CTL.EN (p : Nat) : Field :=
  ⟨0x1B0100 + 32 * p, 0, 0, .rw, .boot, .boot, .keep⟩

/-- The fields of SEAM_PORT_CTL. -/
def SEAM_PORT_CTL.fields (p : Nat) : List Field :=
  [SEAM_PORT_CTL.RETRY p,
   SEAM_PORT_CTL.RXSLOT p,
   SEAM_PORT_CTL.TXSLOT p,
   SEAM_PORT_CTL.EN p]

/-! ### SEAM_PORT_STAT (19_seam_complex_and_time.md, R545) -/

/-- 0 none; 1 lock lost; 2 replay limit; 3 training failed; 4 lane skew; 5 same SEAM_ID; 6 authentication; 7 firmware; 8 Cloak check; 9 complex size. -/
def SEAM_PORT_STAT.DOWNCAUSE (p : Nat) : Field :=
  ⟨0x1B0108 + 32 * p, 15, 12, .ro, .num 0, .num 0, .keep⟩

/-- SEAM_ID of the peer. -/
def SEAM_PORT_STAT.PEER (p : Nat) : Field :=
  ⟨0x1B0108 + 32 * p, 9, 8, .ro, .num 0, .num 0, .keep⟩

/-- 0 OFF, 1 TRAIN, 2 DESKEW, 3 HELLO, 4 UP, 5 DOWN. -/
def SEAM_PORT_STAT.STATE (p : Nat) : Field :=
  ⟨0x1B0108 + 32 * p, 2, 0, .ro, .num 0, .num 0, .keep⟩

/-- The fields of SEAM_PORT_STAT. -/
def SEAM_PORT_STAT.fields (p : Nat) : List Field :=
  [SEAM_PORT_STAT.DOWNCAUSE p,
   SEAM_PORT_STAT.PEER p,
   SEAM_PORT_STAT.STATE p]

/-! ### SEAM_PORT_ERR (19_seam_complex_and_time.md, R545) -/

/-- frames whose tag or CMAC failed. -/
def SEAM_PORT_ERR.AUTHFAIL (p : Nat) : Field :=
  ⟨0x1B0110 + 32 * p, 63, 48, .rs, .num 0, .keep, .keep⟩

/-- frames discarded under R524. -/
def SEAM_PORT_ERR.BADFRAME (p : Nat) : Field :=
  ⟨0x1B0110 + 32 * p, 47, 32, .rs, .num 0, .keep, .keep⟩

/-- replays started. -/
def SEAM_PORT_ERR.REPLAYS (p : Nat) : Field :=
  ⟨0x1B0110 + 32 * p, 31, 16, .rs, .num 0, .keep, .keep⟩

/-- losses of any lock. -/
def SEAM_PORT_ERR.UNLOCKS (p : Nat) : Field :=
  ⟨0x1B0110 + 32 * p, 15, 0, .rs, .num 0, .keep, .keep⟩

/-- The fields of SEAM_PORT_ERR. -/
def SEAM_PORT_ERR.fields (p : Nat) : List Field :=
  [SEAM_PORT_ERR.AUTHFAIL p,
   SEAM_PORT_ERR.BADFRAME p,
   SEAM_PORT_ERR.REPLAYS p,
   SEAM_PORT_ERR.UNLOCKS p]

/-! ### SEAM_MIRSRC (19_seam_complex_and_time.md, R545) -/

/-- 1: host the mirror of module s. -/
def SEAM_MIRSRC.EN (k : Nat) : Field :=
  ⟨0x1B0200 + 8 * k, 63, 63, .rw, .boot, .boot, .keep⟩

/-- 2^(12 + SLOTS) slots; 11–15 leave EN ignored. -/
def SEAM_MIRSRC.SLOTS (k : Nat) : Field :=
  ⟨0x1B0200 + 8 * k, 27, 24, .rw, .boot, .boot, .keep⟩

/-- first granule of the region, R530. -/
def SEAM_MIRSRC.GRAN (k : Nat) : Field :=
  ⟨0x1B0200 + 8 * k, 9, 0, .rw, .boot, .boot, .keep⟩

/-- The fields of SEAM_MIRSRC. -/
def SEAM_MIRSRC.fields (k : Nat) : List Field :=
  [SEAM_MIRSRC.EN k,
   SEAM_MIRSRC.SLOTS k,
   SEAM_MIRSRC.GRAN k]

/-! ### SEAM_MIREP (19_seam_complex_and_time.md, R545) -/

/-- mirror epoch of source s, R530. -/
def SEAM_MIREP.EPOCH (k : Nat) : Field :=
  ⟨0x1B0220 + 8 * k, 31, 0, .rk, .keep, .keep, .keep⟩

/-- The fields of SEAM_MIREP. -/
def SEAM_MIREP.fields (k : Nat) : List Field :=
  [SEAM_MIREP.EPOCH k]

/-! ### SEAM_CHSUCC (19_seam_complex_and_time.md, R545) -/

/-- successor for OWNER; owner for STANDBY. -/
def SEAM_CHSUCC.PEER (n : Nat) : Field :=
  ⟨0x1B1000 + 8 * n, 13, 12, .rw, .boot, .boot, .keep⟩

/-- 1: automatic takeover, R535. -/
def SEAM_CHSUCC.AUTO (n : Nat) : Field :=
  ⟨0x1B1000 + 8 * n, 8, 8, .rw, .boot, .boot, .keep⟩

/-- 0 ALONE, 1 OWNER, 2 STANDBY; 3 acts as 0. -/
def SEAM_CHSUCC.ROLE (n : Nat) : Field :=
  ⟨0x1B1000 + 8 * n, 1, 0, .rw, .boot, .boot, .keep⟩

/-- The fields of SEAM_CHSUCC. -/
def SEAM_CHSUCC.fields (n : Nat) : List Field :=
  [SEAM_CHSUCC.PEER n,
   SEAM_CHSUCC.AUTO n,
   SEAM_CHSUCC.ROLE n]

/-! ### FAULT_STAT (20_fault_handling.md, R564) -/

/-- fault states of replays only, saturating. -/
def FAULT_STAT.REPLAYEND : Field :=
  ⟨0x20000, 63, 48, .rs, .num 0, .keep, .keep⟩

/-- ms left in the quiet period. -/
def FAULT_STAT.QUIETLEFT : Field :=
  ⟨0x20000, 47, 32, .ro, .num 0, .num 0, .keep⟩

/-- records in the queue, 0–256. -/
def FAULT_STAT.QUEUED : Field :=
  ⟨0x20000, 16, 8, .ro, .num 0, .num 0, .keep⟩

/-- 1: MINSET ≠ 0. -/
def FAULT_STAT.NOSERVICE : Field :=
  ⟨0x20000, 4, 4, .ro, .num 0, .num 0, .keep⟩

/-- 1: the log is in use. -/
def FAULT_STAT.LOGVALID : Field :=
  ⟨0x20000, 3, 3, .ro, .num 0, .num 0, .keep⟩

/-- 1: a checkstop awaits RESUME. -/
def FAULT_STAT.CHECKSTOP : Field :=
  ⟨0x20000, 2, 2, .ro, .num 0, .num 0, .keep⟩

/-- 1: FAIL_N is low under R559. -/
def FAULT_STAT.ATTEND : Field :=
  ⟨0x20000, 1, 1, .ro, .num 0, .num 0, .keep⟩

/-- 1: fault state active. -/
def FAULT_STAT.FSTATE : Field :=
  ⟨0x20000, 0, 0, .ro, .num 0, .num 0, .keep⟩

/-- The fields of FAULT_STAT. -/
def FAULT_STAT.fields : List Field :=
  [FAULT_STAT.REPLAYEND,
   FAULT_STAT.QUIETLEFT,
   FAULT_STAT.QUEUED,
   FAULT_STAT.NOSERVICE,
   FAULT_STAT.LOGVALID,
   FAULT_STAT.CHECKSTOP,
   FAULT_STAT.ATTEND,
   FAULT_STAT.FSTATE]

/-! ### FAULT_CTL (20_fault_handling.md, R564) -/

/-- threshold of source 0x2003, in units of 256 records. -/
def FAULT_CTL.NEARFULL : Field :=
  ⟨0x20008, 63, 56, .rw, .num 192, .num 192, .keep⟩

/-- Tailor watchdog in ms; 0 off. -/
def FAULT_CTL.WDOG : Field :=
  ⟨0x20008, 47, 32, .rw, .num 500, .num 500, .keep⟩

/-- quiet period in ms, R558; 0 acts as 1. -/
def FAULT_CTL.QUIET : Field :=
  ⟨0x20008, 31, 16, .rw, .num 1000, .num 1000, .keep⟩

/-- 1: send source 0x2000. -/
def FAULT_CTL.CSIG : Field :=
  ⟨0x20008, 2, 2, .rw, .num 0, .num 0, .keep⟩

/-- 1: replay allowed, R562. -/
def FAULT_CTL.REPLAYEN : Field :=
  ⟨0x20008, 1, 1, .rw, .num 0, .num 0, .keep⟩

/-- 1: contained faults drive FAIL_N. -/
def FAULT_CTL.FAILU : Field :=
  ⟨0x20008, 0, 0, .rw, .num 0, .num 0, .keep⟩

/-- The fields of FAULT_CTL. -/
def FAULT_CTL.fields : List Field :=
  [FAULT_CTL.NEARFULL,
   FAULT_CTL.WDOG,
   FAULT_CTL.QUIET,
   FAULT_CTL.CSIG,
   FAULT_CTL.REPLAYEN,
   FAULT_CTL.FAILU]

/-! ### FAULT_CMD (20_fault_handling.md, R564) -/

/-- 0 none; 1 done; 2 refused, no checkstop. -/
def FAULT_CMD.RESULT : Field :=
  ⟨0x20010, 11, 8, .ro, .num 0, .num 0, .keep⟩

/-- 1 RESUME, R551; others do nothing. -/
def FAULT_CMD.OP : Field :=
  ⟨0x20010, 1, 0, .wo, .num 0, .num 0, .keep⟩

/-- The fields of FAULT_CMD. -/
def FAULT_CMD.fields : List Field :=
  [FAULT_CMD.RESULT,
   FAULT_CMD.OP]

/-! ### FAULT_LOGBASE (20_fault_handling.md, R564) -/

/-- first granule of the log, 0–766, R553; 767–1,023 leave VALID ignored. -/
def FAULT_LOGBASE.GRAN : Field :=
  ⟨0x20018, 10, 1, .rw, .boot, .boot, .keep⟩

/-- 1: the log is in use. -/
def FAULT_LOGBASE.VALID : Field :=
  ⟨0x20018, 0, 0, .rw, .boot, .boot, .keep⟩

/-- The fields of FAULT_LOGBASE. -/
def FAULT_LOGBASE.fields : List Field :=
  [FAULT_LOGBASE.GRAN,
   FAULT_LOGBASE.VALID]

/-! ### FAULT_LOGHEAD (20_fault_handling.md, R564) -/

/-- 1: no unread record. -/
def FAULT_LOGHEAD.EMPTY : Field :=
  ⟨0x20020, 16, 16, .ro, .num 1, .num 1, .keep⟩

/-- slot of the oldest unread record. -/
def FAULT_LOGHEAD.SLOT : Field :=
  ⟨0x20020, 15, 0, .ro, .num 0, .num 0, .keep⟩

/-- The fields of FAULT_LOGHEAD. -/
def FAULT_LOGHEAD.fields : List Field :=
  [FAULT_LOGHEAD.EMPTY,
   FAULT_LOGHEAD.SLOT]

/-! ### FAULT_LOGSTAT (20_fault_handling.md, R564) -/

/-- contained and fatal records lost, saturating. -/
def FAULT_LOGSTAT.SLOST : Field :=
  ⟨0x20030, 63, 48, .rs, .num 0, .num 0, .keep⟩

/-- corrected events not logged, saturating. -/
def FAULT_LOGSTAT.CDROP : Field :=
  ⟨0x20030, 47, 32, .rs, .num 0, .num 0, .keep⟩

/-- unread contained and fatal records. -/
def FAULT_LOGSTAT.UNREADS : Field :=
  ⟨0x20030, 16, 0, .ro, .boot, .boot, .keep⟩

/-- The fields of FAULT_LOGSTAT. -/
def FAULT_LOGSTAT.fields : List Field :=
  [FAULT_LOGSTAT.SLOST,
   FAULT_LOGSTAT.CDROP,
   FAULT_LOGSTAT.UNREADS]

/-! ### FAULT_RECOV (20_fault_handling.md, R564) -/

/-- fault states ended, R558; saturating. -/
def FAULT_RECOV.RECOV : Field :=
  ⟨0x20038, 15, 0, .rk, .keep, .keep, .keep⟩

/-- The fields of FAULT_RECOV. -/
def FAULT_RECOV.fields : List Field :=
  [FAULT_RECOV.RECOV]

/-! ### FAULT_REPLAY (20_fault_handling.md, R564) -/

/-- module-physical address bits [51:6] of the record. -/
def FAULT_REPLAY.ADDR : Field :=
  ⟨0x20050, 51, 6, .wo, .num 0, .num 0, .keep⟩

/-- R562. -/
def FAULT_REPLAY.RESULT : Field :=
  ⟨0x20050, 3, 1, .ro, .num 0, .num 0, .keep⟩

/-- 1: replay the record. -/
def FAULT_REPLAY.GO : Field :=
  ⟨0x20050, 0, 0, .wo, .num 0, .num 0, .keep⟩

/-- The fields of FAULT_REPLAY. -/
def FAULT_REPLAY.fields : List Field :=
  [FAULT_REPLAY.ADDR,
   FAULT_REPLAY.RESULT,
   FAULT_REPLAY.GO]

/-! ### FAULT_LOGACK (20_fault_handling.md, R564) -/

/-- SEQ up to which records are read, R555. -/
def FAULT_LOGACK.LOGACK : Field :=
  ⟨0x20028, 63, 0, .rw, .keep, .keep, .keep⟩

/-- The fields of FAULT_LOGACK. -/
def FAULT_LOGACK.fields : List Field :=
  [FAULT_LOGACK.LOGACK]

/-! ### FAULT_LASTF (20_fault_handling.md, R564) -/

/-- location code of the last fatal record that is not a replay, R559. -/
def FAULT_LASTF.LASTF : Field :=
  ⟨0x20040, 63, 0, .rk, .keep, .keep, .keep⟩

/-- The fields of FAULT_LASTF. -/
def FAULT_LASTF.fields : List Field :=
  [FAULT_LASTF.LASTF]

/-! ### FAULT_MINSET (20_fault_handling.md, R564) -/

/-- the bits of R560. -/
def FAULT_MINSET.MINSET : Field :=
  ⟨0x20048, 7, 0, .ro, .boot, .boot, .keep⟩

/-- The fields of FAULT_MINSET. -/
def FAULT_MINSET.fields : List Field :=
  [FAULT_MINSET.MINSET]

/-! ### FAULT_PET (20_fault_handling.md, R564) -/

/-- any write restarts the watchdog. -/
def FAULT_PET.PET : Field :=
  ⟨0x20058, 63, 0, .wo, .num 0, .num 0, .keep⟩

/-- The fields of FAULT_PET. -/
def FAULT_PET.fields : List Field :=
  [FAULT_PET.PET]

/-! ### PART_FAULTS (20_fault_handling.md, R565) -/

/-- contained faults charged to n, saturating. -/
def PART_FAULTS.FAULTS (n : Nat) : Field :=
  ⟨0x200088 + 1024 * n, 15, 0, .rs, .num 0, .num 0, .num 0⟩

/-- The fields of PART_FAULTS. -/
def PART_FAULTS.fields (n : Nat) : List Field :=
  [PART_FAULTS.FAULTS n]

/-! ### PART_FAULTSIG (20_fault_handling.md, R565) -/

/-- 1: signal under R557. -/
def PART_FAULTSIG.EN (n : Nat) : Field :=
  ⟨0x200090 + 1024 * n, 16, 16, .rw, .num 0, .num 0, .num 0⟩

/-- software source sent to Collar. -/
def PART_FAULTSIG.SOURCE (n : Nat) : Field :=
  ⟨0x200090 + 1024 * n, 15, 0, .rw, .num 0, .num 0, .num 0⟩

/-- The fields of PART_FAULTSIG. -/
def PART_FAULTSIG.fields (n : Nat) : List Field :=
  [PART_FAULTSIG.EN n,
   PART_FAULTSIG.SOURCE n]

/-! ### APRON_ID (21_apron_keep_and_lifetime.md, R584) -/

/-- fuse map version. -/
def APRON_ID.ROMVER : Field :=
  ⟨0x0, 23, 16, .ro, .fuse, .fuse, .keep⟩

/-- 1: -K order suffix. -/
def APRON_ID.K : Field :=
  ⟨0x0, 15, 15, .ro, .fuse, .fuse, .keep⟩

/-- 0 TK-256-40; 1 TK-256-44. -/
def APRON_ID.ORDER : Field :=
  ⟨0x0, 14, 14, .ro, .fuse, .fuse, .keep⟩

/-- owner root key state, encoded as CLOAK.ROOTSTAT.STATE. -/
def APRON_ID.ROOTKEY : Field :=
  ⟨0x0, 13, 12, .ro, .fuse, .fuse, .keep⟩

/-- physical pairs SPARE now. -/
def APRON_ID.SPARES : Field :=
  ⟨0x0, 11, 6, .ro, .boot, .boot, .keep⟩

/-- enabled count of R6. -/
def APRON_ID.ENABLED : Field :=
  ⟨0x0, 5, 0, .ro, .fuse, .fuse, .keep⟩

/-- The fields of APRON_ID. -/
def APRON_ID.fields : List Field :=
  [APRON_ID.ROMVER,
   APRON_ID.K,
   APRON_ID.ORDER,
   APRON_ID.ROOTKEY,
   APRON_ID.SPARES,
   APRON_ID.ENABLED]

/-! ### APRON_STAT (21_apron_keep_and_lifetime.md, R584) -/

/-- a Keep write was refused, R574. -/
def APRON_STAT.REFUSED : Field :=
  ⟨0x10, 5, 5, .w1c, .keep, .keep, .keep⟩

/-- the alarm fired, R571. -/
def APRON_STAT.ALARMHIT : Field :=
  ⟨0x10, 4, 4, .w1c, .keep, .keep, .keep⟩

/-- measured Sloe error beyond ±100 ppm, R568. -/
def APRON_STAT.SLOEBAD : Field :=
  ⟨0x10, 3, 3, .w1c, .keep, .keep, .keep⟩

/-- 1: running from the internal oscillator. -/
def APRON_STAT.INTOSC : Field :=
  ⟨0x10, 2, 2, .ro, .keep, .keep, .keep⟩

/-- 1: the calendar was taken from valid TOD since the island's power-up, R569. -/
def APRON_STAT.CALVALID : Field :=
  ⟨0x10, 1, 1, .ro, .keep, .keep, .keep⟩

/-- 1: the Sloe oscillator runs. -/
def APRON_STAT.SLOEOK : Field :=
  ⟨0x10, 0, 0, .ro, .keep, .keep, .keep⟩

/-- The fields of APRON_STAT. -/
def APRON_STAT.fields : List Field :=
  [APRON_STAT.REFUSED,
   APRON_STAT.ALARMHIT,
   APRON_STAT.SLOEBAD,
   APRON_STAT.INTOSC,
   APRON_STAT.CALVALID,
   APRON_STAT.SLOEOK]

/-! ### APRON_CAL (21_apron_keep_and_lifetime.md, R584) -/

/-- calendar seconds from 2000-01-01 TAI, R567. -/
def APRON_CAL.SECONDS : Field :=
  ⟨0x18, 47, 0, .ro, .keep, .keep, .keep⟩

/-- The fields of APRON_CAL. -/
def APRON_CAL.fields : List Field :=
  [APRON_CAL.SECONDS]

/-! ### APRON_ALARM (21_apron_keep_and_lifetime.md, R584) -/

/-- 1: armed; cleared on firing. -/
def APRON_ALARM.EN : Field :=
  ⟨0x20, 63, 63, .rw, .keep, .keep, .keep⟩

/-- calendar second of the alarm. -/
def APRON_ALARM.SECONDS : Field :=
  ⟨0x20, 47, 0, .rw, .keep, .keep, .keep⟩

/-- The fields of APRON_ALARM. -/
def APRON_ALARM.fields : List Field :=
  [APRON_ALARM.EN,
   APRON_ALARM.SECONDS]

/-! ### APRON_TRIM (21_apron_keep_and_lifetime.md, R584) -/

/-- 1: trim from measurement, R568. -/
def APRON_TRIM.AUTO : Field :=
  ⟨0x28, 16, 16, .rw, .keep, .keep, .keep⟩

/-- correction in units of 0.01 ppm, two's complement; values beyond ±20,000 act as ±20,000. -/
def APRON_TRIM.TRIM : Field :=
  ⟨0x28, 15, 0, .rw, .keep, .keep, .keep⟩

/-- The fields of APRON_TRIM. -/
def APRON_TRIM.fields : List Field :=
  [APRON_TRIM.AUTO,
   APRON_TRIM.TRIM]

/-! ### APRON_SLOEMEAS (21_apron_keep_and_lifetime.md, R584) -/

/-- windows measured since Cold reset, saturating. -/
def APRON_SLOEMEAS.WINDOWS : Field :=
  ⟨0x30, 63, 48, .ro, .num 0, .num 0, .keep⟩

/-- last measured Sloe error in units of 0.01 ppm, two's complement. -/
def APRON_SLOEMEAS.ERROR : Field :=
  ⟨0x30, 31, 0, .ro, .num 0, .num 0, .keep⟩

/-- The fields of APRON_SLOEMEAS. -/
def APRON_SLOEMEAS.fields : List Field :=
  [APRON_SLOEMEAS.WINDOWS,
   APRON_SLOEMEAS.ERROR]

/-! ### APRON_KEEPSTAT (21_apron_keep_and_lifetime.md, R584) -/

/-- entry whose counter last passed 9,000,000,000, R574. -/
def APRON_KEEPSTAT.NEARENT : Field :=
  ⟨0x38, 43, 32, .ro, .keep, .keep, .keep⟩

/-- 1: a Keep counter has passed 9,000,000,000 since this bit was last cleared; KEEPCNT.NEAR gives the same for each entry. -/
def APRON_KEEPSTAT.NEAR : Field :=
  ⟨0x38, 28, 28, .w1c, .keep, .keep, .keep⟩

/-- entry of the last refused write. -/
def APRON_KEEPSTAT.LASTREF : Field :=
  ⟨0x38, 27, 16, .ro, .keep, .keep, .keep⟩

/-- Keep writes waiting in the island, 0–16. -/
def APRON_KEEPSTAT.QUEUED : Field :=
  ⟨0x38, 4, 0, .ro, .num 0, .num 0, .keep⟩

/-- The fields of APRON_KEEPSTAT. -/
def APRON_KEEPSTAT.fields : List Field :=
  [APRON_KEEPSTAT.NEARENT,
   APRON_KEEPSTAT.NEAR,
   APRON_KEEPSTAT.LASTREF,
   APRON_KEEPSTAT.QUEUED]

/-! ### APRON_KEEPSEL (21_apron_keep_and_lifetime.md, R584) -/

/-- Keep entry read through KEEPCNT, 0–2,047. -/
def APRON_KEEPSEL.ENTRY : Field :=
  ⟨0x40, 10, 0, .rw, .num 0, .num 0, .keep⟩

/-- The fields of APRON_KEEPSEL. -/
def APRON_KEEPSEL.fields : List Field :=
  [APRON_KEEPSEL.ENTRY]

/-! ### APRON_KEEPCNT (21_apron_keep_and_lifetime.md, R584) -/

/-- 1: the entry refuses writes, R574 or R575. -/
def APRON_KEEPCNT.RATED : Field :=
  ⟨0x48, 63, 63, .ro, .keep, .keep, .keep⟩

/-- 1: the counter has passed 9,000,000,000. -/
def APRON_KEEPCNT.NEAR : Field :=
  ⟨0x48, 62, 62, .ro, .keep, .keep, .keep⟩

/-- 1: the entry is uncorrectable, R575. -/
def APRON_KEEPCNT.UNCORR : Field :=
  ⟨0x48, 61, 61, .ro, .keep, .keep, .keep⟩

/-- accepted writes of entry KEEPSEL.ENTRY; reads 0 for a reserved entry. -/
def APRON_KEEPCNT.COUNT : Field :=
  ⟨0x48, 39, 0, .ro, .keep, .keep, .keep⟩

/-- The fields of APRON_KEEPCNT. -/
def APRON_KEEPCNT.fields : List Field :=
  [APRON_KEEPCNT.RATED,
   APRON_KEEPCNT.NEAR,
   APRON_KEEPCNT.UNCORR,
   APRON_KEEPCNT.COUNT]

/-! ### APRON_LIFECTL (21_apron_keep_and_lifetime.md, R584) -/

/-- 1 while a flush runs; at most 2 ms. -/
def APRON_LIFECTL.BUSY : Field :=
  ⟨0x50, 1, 1, .ro, .num 0, .num 0, .keep⟩

/-- 1: flush every lifetime word, R582. -/
def APRON_LIFECTL.FLUSH : Field :=
  ⟨0x50, 0, 0, .wo, .num 0, .num 0, .keep⟩

/-- The fields of APRON_LIFECTL. -/
def APRON_LIFECTL.fields : List Field :=
  [APRON_LIFECTL.BUSY,
   APRON_LIFECTL.FLUSH]

/-! ### APRON_SERIAL (21_apron_keep_and_lifetime.md, R584) -/

/-- module serial number. -/
def APRON_SERIAL.SERIAL : Field :=
  ⟨0x8, 63, 0, .ro, .fuse, .fuse, .keep⟩

/-- The fields of APRON_SERIAL. -/
def APRON_SERIAL.fields : List Field :=
  [APRON_SERIAL.SERIAL]

/-! ### APRON_KEEPFW (21_apron_keep_and_lifetime.md, R584) -/

/-- firmware value held in Keep entry 1,024 + k. -/
def APRON_KEEPFW.VALUE (k : Nat) : Field :=
  ⟨0x2000 + 8 * k, 63, 0, .rwk, .keep, .keep, .keep⟩

/-- The fields of APRON_KEEPFW. -/
def APRON_KEEPFW.fields (k : Nat) : List Field :=
  [APRON_KEEPFW.VALUE k]

/-! ### TAILOR_RESETCTL (22_boot_reset_live_change.md, R605) -/

/-- must be 0xA5 for OP to act. -/
def TAILOR_RESETCTL.CONFIRM : Field :=
  ⟨0x13000, 15, 8, .wo, .num 0, .num 0, .keep⟩

/-- 1 Module reset; others do nothing. -/
def TAILOR_RESETCTL.OP : Field :=
  ⟨0x13000, 1, 0, .wo, .num 0, .num 0, .keep⟩

/-- The fields of TAILOR_RESETCTL. -/
def TAILOR_RESETCTL.fields : List Field :=
  [TAILOR_RESETCTL.CONFIRM,
   TAILOR_RESETCTL.OP]

/-! ### TAILOR_RESETSTAT (22_boot_reset_live_change.md, R605) -/

/-- 0 Cold, 1 Module. -/
def TAILOR_RESETSTAT.KIND : Field :=
  ⟨0x13008, 8, 8, .ro, .boot, .boot, .keep⟩

/-- R586. -/
def TAILOR_RESETSTAT.CAUSE : Field :=
  ⟨0x13008, 3, 0, .ro, .boot, .boot, .keep⟩

/-- The fields of TAILOR_RESETSTAT. -/
def TAILOR_RESETSTAT.fields : List Field :=
  [TAILOR_RESETSTAT.KIND,
   TAILOR_RESETSTAT.CAUSE]

/-! ### TAILOR_BOOTSTAT (22_boot_reset_live_change.md, R605) -/

/-- refused configuration records, saturating. -/
def TAILOR_BOOTSTAT.CFGERR : Field :=
  ⟨0x13010, 63, 48, .ro, .boot, .boot, .keep⟩

/-- VERSION of the image booted. -/
def TAILOR_BOOTSTAT.IMGVER : Field :=
  ⟨0x13010, 47, 32, .ro, .boot, .boot, .keep⟩

/-- image B: 0 not tried; codes of R596. -/
def TAILOR_BOOTSTAT.RESULTB : Field :=
  ⟨0x13010, 27, 24, .ro, .boot, .boot, .keep⟩

/-- image A, as RESULTB. -/
def TAILOR_BOOTSTAT.RESULTA : Field :=
  ⟨0x13010, 23, 20, .ro, .boot, .boot, .keep⟩

/-- 0 A, 1 B. -/
def TAILOR_BOOTSTAT.IMAGE : Field :=
  ⟨0x13010, 16, 16, .ro, .boot, .boot, .keep⟩

/-- last boot step reached, R589. -/
def TAILOR_BOOTSTAT.STEP : Field :=
  ⟨0x13010, 3, 0, .ro, .boot, .boot, .keep⟩

/-- The fields of TAILOR_BOOTSTAT. -/
def TAILOR_BOOTSTAT.fields : List Field :=
  [TAILOR_BOOTSTAT.CFGERR,
   TAILOR_BOOTSTAT.IMGVER,
   TAILOR_BOOTSTAT.RESULTB,
   TAILOR_BOOTSTAT.RESULTA,
   TAILOR_BOOTSTAT.IMAGE,
   TAILOR_BOOTSTAT.STEP]

/-! ### TAILOR_IMGCHK (22_boot_reset_live_change.md, R605) -/

/-- module-physical address bits [51:6] of the image. -/
def TAILOR_IMGCHK.ADDR : Field :=
  ⟨0x13018, 51, 6, .wo, .num 0, .num 0, .keep⟩

/-- expected TYPE, 1–5. -/
def TAILOR_IMGCHK.TYPE : Field :=
  ⟨0x13018, 5, 3, .wo, .num 0, .num 0, .keep⟩

/-- 1: check, R599. -/
def TAILOR_IMGCHK.GO : Field :=
  ⟨0x13018, 0, 0, .wo, .num 0, .num 0, .keep⟩

/-- The fields of TAILOR_IMGCHK. -/
def TAILOR_IMGCHK.fields : List Field :=
  [TAILOR_IMGCHK.ADDR,
   TAILOR_IMGCHK.TYPE,
   TAILOR_IMGCHK.GO]

/-! ### TAILOR_IMGRES (22_boot_reset_live_change.md, R605) -/

/-- VERSION of the image checked. -/
def TAILOR_IMGRES.VERSION : Field :=
  ⟨0x13020, 63, 48, .ro, .num 0, .num 0, .keep⟩

/-- STATEFMT of a triad section. -/
def TAILOR_IMGRES.STATEFMT : Field :=
  ⟨0x13020, 47, 40, .ro, .num 0, .num 0, .keep⟩

/-- 1 while a check runs. -/
def TAILOR_IMGRES.BUSY : Field :=
  ⟨0x13020, 8, 8, .ro, .num 0, .num 0, .keep⟩

/-- 0 none; codes 1–8 of R596; 9 refused, busy. -/
def TAILOR_IMGRES.RESULT : Field :=
  ⟨0x13020, 3, 0, .ro, .num 0, .num 0, .keep⟩

/-- The fields of TAILOR_IMGRES. -/
def TAILOR_IMGRES.fields : List Field :=
  [TAILOR_IMGRES.VERSION,
   TAILOR_IMGRES.STATEFMT,
   TAILOR_IMGRES.BUSY,
   TAILOR_IMGRES.RESULT]

/-! ### TAILOR_TFWCTL (22_boot_reset_live_change.md, R605) -/

/-- module-physical address bits [51:6] of a TYPE 5 image. -/
def TAILOR_TFWCTL.ADDR : Field :=
  ⟨0x13028, 51, 6, .rw, .num 0, .num 0, .keep⟩

/-- 1: the Tailor firmware has reached its stop point, R601. -/
def TAILOR_TFWCTL.READY : Field :=
  ⟨0x13028, 2, 2, .wo, .num 0, .num 0, .keep⟩

/-- 1 RESTART; others do nothing. -/
def TAILOR_TFWCTL.OP : Field :=
  ⟨0x13028, 1, 0, .wo, .num 0, .num 0, .keep⟩

/-- The fields of TAILOR_TFWCTL. -/
def TAILOR_TFWCTL.fields : List Field :=
  [TAILOR_TFWCTL.ADDR,
   TAILOR_TFWCTL.READY,
   TAILOR_TFWCTL.OP]

/-! ### TAILOR_TFWSTAT (22_boot_reset_live_change.md, R605) -/

/-- ms allowed for step 2 of R601; 0 acts as 1. -/
def TAILOR_TFWSTAT.QUIESCE : Field :=
  ⟨0x13030, 63, 56, .rw, .num 10, .num 10, .keep⟩

/-- 0 none; 1 started; 2 refused, image not checked; 3 refused, move in progress; 4 failed, restarted from CUR; 5 refused, busy. -/
def TAILOR_TFWSTAT.RESULT : Field :=
  ⟨0x13030, 11, 8, .ro, .num 0, .num 0, .keep⟩

/-- 1 while a restart runs. -/
def TAILOR_TFWSTAT.BUSY : Field :=
  ⟨0x13030, 0, 0, .ro, .num 0, .num 0, .keep⟩

/-- The fields of TAILOR_TFWSTAT. -/
def TAILOR_TFWSTAT.fields : List Field :=
  [TAILOR_TFWSTAT.QUIESCE,
   TAILOR_TFWSTAT.RESULT,
   TAILOR_TFWSTAT.BUSY]

/-! ### TAILOR_UNITRST (22_boot_reset_live_change.md, R605) -/

/-- 0 none; 1 done; 2 refused, state; 3 refused, number out of range; 4 refused, KIND not 1 or 2. -/
def TAILOR_UNITRST.RESULT : Field :=
  ⟨0x13038, 19, 16, .ro, .num 0, .num 0, .keep⟩

/-- 1 physical core pair; 2 lane; others refused with RESULT 4. -/
def TAILOR_UNITRST.KIND : Field :=
  ⟨0x13038, 12, 10, .wo, .num 0, .num 0, .keep⟩

/-- pair 0–47 or lane 0–511. -/
def TAILOR_UNITRST.NUM : Field :=
  ⟨0x13038, 9, 0, .wo, .num 0, .num 0, .keep⟩

/-- The fields of TAILOR_UNITRST. -/
def TAILOR_UNITRST.fields : List Field :=
  [TAILOR_UNITRST.RESULT,
   TAILOR_UNITRST.KIND,
   TAILOR_UNITRST.NUM]

/-! ### TAILOR_FLASHCMD (22_boot_reset_live_change.md, R605) -/

/-- 1 erase the 64 KiB sector at ADDR; 2 program the 256-byte page at ADDR from FLASHSRC; 3 read 256 bytes at ADDR into FLASHSRC; 0 nothing. -/
def TAILOR_FLASHCMD.OP : Field :=
  ⟨0x13040, 33, 32, .wo, .num 0, .num 0, .keep⟩

/-- flash address bits [31:8]. -/
def TAILOR_FLASHCMD.ADDR : Field :=
  ⟨0x13040, 31, 8, .wo, .num 0, .num 0, .keep⟩

/-- 0 none; 1 done; 2 refused, busy; 3 flash reported an error. -/
def TAILOR_FLASHCMD.RESULT : Field :=
  ⟨0x13040, 7, 4, .ro, .num 0, .num 0, .keep⟩

/-- 1 while a command runs. -/
def TAILOR_FLASHCMD.BUSY : Field :=
  ⟨0x13040, 0, 0, .ro, .num 0, .num 0, .keep⟩

/-- The fields of TAILOR_FLASHCMD. -/
def TAILOR_FLASHCMD.fields : List Field :=
  [TAILOR_FLASHCMD.OP,
   TAILOR_FLASHCMD.ADDR,
   TAILOR_FLASHCMD.RESULT,
   TAILOR_FLASHCMD.BUSY]

/-! ### TAILOR_FLASHSRC (22_boot_reset_live_change.md, R605) -/

/-- module-physical address bits [51:8] of the 256-byte buffer in cacheable memory. -/
def TAILOR_FLASHSRC.ADDR : Field :=
  ⟨0x13048, 51, 8, .rw, .num 0, .num 0, .keep⟩

/-- The fields of TAILOR_FLASHSRC. -/
def TAILOR_FLASHSRC.fields : List Field :=
  [TAILOR_FLASHSRC.ADDR]

/-! ### DIR_INFO (24_control_window_map.md, R627) -/

/-- layout of the window, 0x01. -/
def DIR_INFO.FORMAT : Field :=
  ⟨0x7FF200, 15, 8, .ro, .num 1, .num 1, .keep⟩

/-- entries in DIR. -/
def DIR_INFO.ENTRIES : Field :=
  ⟨0x7FF200, 7, 0, .ro, .num 16, .num 16, .keep⟩

/-- The fields of DIR_INFO. -/
def DIR_INFO.fields : List Field :=
  [DIR_INFO.FORMAT,
   DIR_INFO.ENTRIES]

/-! ### DIR_ID (24_control_window_map.md, R627) -/

/-- register layout of the block, 0x01. -/
def DIR_ID.LAYOUT (k : Nat) : Field :=
  ⟨0x7FF000 + 32 * k, 15, 8, .ro, .fuse, .fuse, .keep⟩

/-- k. -/
def DIR_ID.BLOCK (k : Nat) : Field :=
  ⟨0x7FF000 + 32 * k, 7, 0, .ro, .fuse, .fuse, .keep⟩

/-- The fields of DIR_ID. -/
def DIR_ID.fields (k : Nat) : List Field :=
  [DIR_ID.LAYOUT k,
   DIR_ID.BLOCK k]

/-! ### DIR_GEOM (24_control_window_map.md, R627) -/

/-- size of one element, in units of 512 bytes. -/
def DIR_GEOM.STRIDE (k : Nat) : Field :=
  ⟨0x7FF008 + 32 * k, 63, 48, .ro, .fuse, .fuse, .keep⟩

/-- elements; 1 for a block that is not an array. -/
def DIR_GEOM.COUNT (k : Nat) : Field :=
  ⟨0x7FF008 + 32 * k, 41, 32, .ro, .fuse, .fuse, .keep⟩

/-- window offset of element 0. -/
def DIR_GEOM.OFFSET (k : Nat) : Field :=
  ⟨0x7FF008 + 32 * k, 22, 0, .ro, .fuse, .fuse, .keep⟩

/-- The fields of DIR_GEOM. -/
def DIR_GEOM.fields (k : Nat) : List Field :=
  [DIR_GEOM.STRIDE k,
   DIR_GEOM.COUNT k,
   DIR_GEOM.OFFSET k]

/-! ### DIR_REACH (24_control_window_map.md, R627) -/

/-- 0 firmware context only; 1 firmware context, and partition n for element n; 2 and 3 unused. -/
def DIR_REACH.REACH (k : Nat) : Field :=
  ⟨0x7FF010 + 32 * k, 1, 0, .ro, .fuse, .fuse, .keep⟩

/-- The fields of DIR_REACH. -/
def DIR_REACH.fields (k : Nat) : List Field :=
  [DIR_REACH.REACH k]

/-! ### DIR_PLACE (24_control_window_map.md, R627) -/

/-- 1: the die or dies of the block are in service; 0: some element follows R623. -/
def DIR_PLACE.UP (k : Nat) : Field :=
  ⟨0x7FF018 + 32 * k, 4, 4, .ro, .boot, .boot, .keep⟩

/-- die number of R23; 0xE: by element, die d for WEFT[d], and die 5 or 6 for LANE[m] under R618. -/
def DIR_PLACE.DIE (k : Nat) : Field :=
  ⟨0x7FF018 + 32 * k, 3, 0, .ro, .fuse, .fuse, .keep⟩

/-- The fields of DIR_PLACE. -/
def DIR_PLACE.fields (k : Nat) : List Field :=
  [DIR_PLACE.UP k,
   DIR_PLACE.DIE k]

/-! ### PART_CTXPC (07_pockets_and_contexts.md, R232) -/

/-- start PC for START. -/
def PART_CTXPC.CTXPC (n : Nat) : Field :=
  ⟨0x200020 + 1024 * n, 63, 0, .rw, .num 0, .num 0, .num 0⟩

/-- The fields of PART_CTXPC. -/
def PART_CTXPC.fields (n : Nat) : List Field :=
  [PART_CTXPC.CTXPC n]

/-! ### PART_CTXARG (07_pockets_and_contexts.md, R232) -/

/-- start argument for START. -/
def PART_CTXARG.CTXARG (n : Nat) : Field :=
  ⟨0x200028 + 1024 * n, 63, 0, .rw, .num 0, .num 0, .num 0⟩

/-- The fields of PART_CTXARG. -/
def PART_CTXARG.fields (n : Nat) : List Field :=
  [PART_CTXARG.CTXARG n]

/-! ### PART_OWN (07_pockets_and_contexts.md, R232) -/

/-- bit c mod 64 of OWN[floor(c / 64)] is 1 when n owns context c. -/
def PART_OWN.OWN (n k : Nat) : Field :=
  ⟨0x200100 + 1024 * n + 8 * k, 63, 0, .ro, .num 0, .num 0, .keep⟩

/-- The fields of PART_OWN. -/
def PART_OWN.fields (n k : Nat) : List Field :=
  [PART_OWN.OWN n k]

/-! ### COLLAR_SWGRP (08_collar_interrupts.md, R248) -/

/-- 1: end service of source FSRC, R242. -/
def COLLAR_SWGRP.FORCE (g : Nat) : Field :=
  ⟨0x41000 + 8 * g, 63, 63, .wo, .num 0, .num 0, .num 0⟩

/-- 1: events are taken. -/
def COLLAR_SWGRP.EN (g : Nat) : Field :=
  ⟨0x41000 + 8 * g, 45, 45, .rw, .num 0, .num 0, .keep⟩

/-- 1: owned by the firmware context. -/
def COLLAR_SWGRP.FWOWN (g : Nat) : Field :=
  ⟨0x41000 + 8 * g, 44, 44, .rw, .num 0, .num 0, .keep⟩

/-- priority, R237. -/
def COLLAR_SWGRP.PRI (g : Nat) : Field :=
  ⟨0x41000 + 8 * g, 43, 40, .rw, .num 0, .num 0, .keep⟩

/-- owning partition when FWOWN = 0. -/
def COLLAR_SWGRP.OWNER (g : Nat) : Field :=
  ⟨0x41000 + 8 * g, 39, 32, .rw, .num g, .num g, .keep⟩

/-- source number minus 0x4000 minus 64g. -/
def COLLAR_SWGRP.FSRC (g : Nat) : Field :=
  ⟨0x41000 + 8 * g, 27, 22, .wo, .num 0, .num 0, .keep⟩

/-- target core pair. -/
def COLLAR_SWGRP.PAIR (g : Nat) : Field :=
  ⟨0x41000 + 8 * g, 21, 16, .rw, .num 0, .num 0, .keep⟩

/-- target Pockets, R236. -/
def COLLAR_SWGRP.MASK (g : Nat) : Field :=
  ⟨0x41000 + 8 * g, 15, 0, .rw, .num 0, .num 0, .keep⟩

/-- The fields of COLLAR_SWGRP. -/
def COLLAR_SWGRP.fields (g : Nat) : List Field :=
  [COLLAR_SWGRP.FORCE g,
   COLLAR_SWGRP.EN g,
   COLLAR_SWGRP.FWOWN g,
   COLLAR_SWGRP.PRI g,
   COLLAR_SWGRP.OWNER g,
   COLLAR_SWGRP.FSRC g,
   COLLAR_SWGRP.PAIR g,
   COLLAR_SWGRP.MASK g]

/-! ### COLLAR_SWPEND (08_collar_interrupts.md, R248) -/

/-- bit k is PEND of source 0x4000 + 64j + k. -/
def COLLAR_SWPEND.PEND (j : Nat) : Field :=
  ⟨0x42000 + 8 * j, 63, 0, .ro, .num 0, .num 0, .keep⟩

/-- The fields of COLLAR_SWPEND. -/
def COLLAR_SWPEND.fields (j : Nat) : List Field :=
  [COLLAR_SWPEND.PEND j]

/-! ### COLLAR_SWSERV (08_collar_interrupts.md, R248) -/

/-- bit k is SERV of source 0x4000 + 64j + k. -/
def COLLAR_SWSERV.SERV (j : Nat) : Field :=
  ⟨0x42800 + 8 * j, 63, 0, .ro, .num 0, .num 0, .keep⟩

/-- The fields of COLLAR_SWSERV. -/
def COLLAR_SWSERV.fields (j : Nat) : List Field :=
  [COLLAR_SWSERV.SERV j]

/-! ### COLLAR_LOST (08_collar_interrupts.md, R248) -/

/-- LOST of source 8j + 7. -/
def COLLAR_LOST.LOST7 (j : Nat) : Field :=
  ⟨0x70000 + 8 * j, 63, 56, .rs, .num 0, .num 0, .num 0⟩

/-- LOST of source 8j + 6. -/
def COLLAR_LOST.LOST6 (j : Nat) : Field :=
  ⟨0x70000 + 8 * j, 55, 48, .rs, .num 0, .num 0, .num 0⟩

/-- LOST of source 8j + 5. -/
def COLLAR_LOST.LOST5 (j : Nat) : Field :=
  ⟨0x70000 + 8 * j, 47, 40, .rs, .num 0, .num 0, .num 0⟩

/-- LOST of source 8j + 4. -/
def COLLAR_LOST.LOST4 (j : Nat) : Field :=
  ⟨0x70000 + 8 * j, 39, 32, .rs, .num 0, .num 0, .num 0⟩

/-- LOST of source 8j + 3. -/
def COLLAR_LOST.LOST3 (j : Nat) : Field :=
  ⟨0x70000 + 8 * j, 31, 24, .rs, .num 0, .num 0, .num 0⟩

/-- LOST of source 8j + 2. -/
def COLLAR_LOST.LOST2 (j : Nat) : Field :=
  ⟨0x70000 + 8 * j, 23, 16, .rs, .num 0, .num 0, .num 0⟩

/-- LOST of source 8j + 1. -/
def COLLAR_LOST.LOST1 (j : Nat) : Field :=
  ⟨0x70000 + 8 * j, 15, 8, .rs, .num 0, .num 0, .num 0⟩

/-- LOST of source 8j + 0. -/
def COLLAR_LOST.LOST0 (j : Nat) : Field :=
  ⟨0x70000 + 8 * j, 7, 0, .rs, .num 0, .num 0, .num 0⟩

/-- The fields of COLLAR_LOST. -/
def COLLAR_LOST.fields (j : Nat) : List Field :=
  [COLLAR_LOST.LOST7 j,
   COLLAR_LOST.LOST6 j,
   COLLAR_LOST.LOST5 j,
   COLLAR_LOST.LOST4 j,
   COLLAR_LOST.LOST3 j,
   COLLAR_LOST.LOST2 j,
   COLLAR_LOST.LOST1 j,
   COLLAR_LOST.LOST0 j]

/-! ### CSTORE_SMICRO (06_control_store_and_classic_mode.md, R192) -/

/-- a micro-word. -/
def CSTORE_SMICRO.WORD (k : Nat) : Field :=
  ⟨0x410000 + 8 * k, 23, 0, .rw, .boot, .boot, .keep⟩

/-- The fields of CSTORE_SMICRO. -/
def CSTORE_SMICRO.fields (k : Nat) : List Field :=
  [CSTORE_SMICRO.WORD k]

/-! ### CSTORE_SNANO (06_control_store_and_classic_mode.md, R192) -/

/-- nano-word bits [64w + 63:64w]; bits [175:128] of it in [47:0] of the third. -/
def CSTORE_SNANO.WORD (k w : Nat) : Field :=
  ⟨0x412000 + 32 * k + 8 * w, if w = 2 then 47 else 63, 0, .rw, .boot, .boot, .keep⟩

/-- The fields of CSTORE_SNANO. -/
def CSTORE_SNANO.fields (k w : Nat) : List Field :=
  [CSTORE_SNANO.WORD k w]

/-! ### LIFE_POWERON (21_apron_keep_and_lifetime.md, R578) -/

/-- Cold resets. -/
def LIFE_POWERON.COLDRESETS : Field :=
  ⟨0x8000, 63, 32, .ro, .keep, .keep, .keep⟩

/-- hours with VIN48 above the release, outside Vault. -/
def LIFE_POWERON.HOURS : Field :=
  ⟨0x8000, 31, 0, .ro, .keep, .keep, .keep⟩

/-- The fields of LIFE_POWERON. -/
def LIFE_POWERON.fields : List Field :=
  [LIFE_POWERON.COLDRESETS,
   LIFE_POWERON.HOURS]

/-! ### LIFE_VAULT (21_apron_keep_and_lifetime.md, R578) -/

/-- Vault entries. -/
def LIFE_VAULT.ENTRIES : Field :=
  ⟨0x8008, 63, 32, .ro, .keep, .keep, .keep⟩

/-- hours in Vault. -/
def LIFE_VAULT.HOURS : Field :=
  ⟨0x8008, 31, 0, .ro, .keep, .keep, .keep⟩

/-- The fields of LIFE_VAULT. -/
def LIFE_VAULT.fields : List Field :=
  [LIFE_VAULT.ENTRIES,
   LIFE_VAULT.HOURS]

/-! ### LIFE_STOPS (21_apron_keep_and_lifetime.md, R578) -/

/-- island power-ups after a loss. -/
def LIFE_STOPS.BLACKOUT : Field :=
  ⟨0x8010, 63, 48, .ro, .keep, .keep, .keep⟩

/-- thermal stops. -/
def LIFE_STOPS.THERMAL : Field :=
  ⟨0x8010, 47, 32, .ro, .keep, .keep, .keep⟩

/-- overvoltage stops. -/
def LIFE_STOPS.OVER : Field :=
  ⟨0x8010, 31, 16, .ro, .keep, .keep, .keep⟩

/-- undervoltage stops. -/
def LIFE_STOPS.UNDER : Field :=
  ⟨0x8010, 15, 0, .ro, .keep, .keep, .keep⟩

/-- The fields of LIFE_STOPS. -/
def LIFE_STOPS.fields : List Field :=
  [LIFE_STOPS.BLACKOUT,
   LIFE_STOPS.THERMAL,
   LIFE_STOPS.OVER,
   LIFE_STOPS.UNDER]

/-! ### LIFE_RESETS (21_apron_keep_and_lifetime.md, R578) -/

/-- compute checkstops of R274. -/
def LIFE_RESETS.CHECKSTOPS : Field :=
  ⟨0x8018, 63, 32, .ro, .keep, .keep, .keep⟩

/-- Module resets. -/
def LIFE_RESETS.MODULE : Field :=
  ⟨0x8018, 31, 0, .ro, .keep, .keep, .keep⟩

/-- The fields of LIFE_RESETS. -/
def LIFE_RESETS.fields : List Field :=
  [LIFE_RESETS.CHECKSTOPS,
   LIFE_RESETS.MODULE]

/-! ### LIFE_THERM (21_apron_keep_and_lifetime.md, R578) -/

/-- minutes powered with group g in band b. -/
def LIFE_THERM.MINUTES (g b : Nat) : Field :=
  ⟨0x8100 + 64 * g + 8 * b, 31, 0, .ro, .keep, .keep, .keep⟩

/-- The fields of LIFE_THERM. -/
def LIFE_THERM.fields (g b : Nat) : List Field :=
  [LIFE_THERM.MINUTES g b]

/-! ### LIFE_VTHERM (21_apron_keep_and_lifetime.md, R578) -/

/-- minutes in Vault with H0 in band b. -/
def LIFE_VTHERM.MINUTES (b : Nat) : Field :=
  ⟨0x8400 + 8 * b, 31, 0, .ro, .keep, .keep, .keep⟩

/-- The fields of LIFE_VTHERM. -/
def LIFE_VTHERM.fields (b : Nat) : List Field :=
  [LIFE_VTHERM.MINUTES b]

/-! ### LIFE_DIMM0 (21_apron_keep_and_lifetime.md, R580) -/

/-- SPD serial number. -/
def LIFE_DIMM0.SPDSERIAL (k : Nat) : Field :=
  ⟨0x9000 + 32 * k, 47, 16, .ro, .keep, .keep, .keep⟩

/-- SPD module manufacturer ID. -/
def LIFE_DIMM0.SPDMANUF (k : Nat) : Field :=
  ⟨0x9000 + 32 * k, 15, 0, .ro, .keep, .keep, .keep⟩

/-- The fields of LIFE_DIMM0. -/
def LIFE_DIMM0.fields (k : Nat) : List Field :=
  [LIFE_DIMM0.SPDSERIAL k,
   LIFE_DIMM0.SPDMANUF k]

/-! ### LIFE_LANE0 (21_apron_keep_and_lifetime.md, R581) -/

/-- last generation used. -/
def LIFE_LANE0.LASTGEN (m : Nat) : Field :=
  ⟨0xA000 + 32 * m, 33, 32, .ro, .keep, .keep, .keep⟩

/-- hours up, under R438. -/
def LIFE_LANE0.HOURS (m : Nat) : Field :=
  ⟨0xA000 + 32 * m, 31, 0, .ro, .keep, .keep, .keep⟩

/-- The fields of LIFE_LANE0. -/
def LIFE_LANE0.fields (m : Nat) : List Field :=
  [LIFE_LANE0.LASTGEN m,
   LIFE_LANE0.HOURS m]

/-! ### LIFE_DIMM1 (21_apron_keep_and_lifetime.md, R580) -/

/-- the DIMMs fitted in this slot. -/
def LIFE_DIMM1.SWAPS (k : Nat) : Field :=
  ⟨0x9008 + 32 * k, 47, 32, .ro, .keep, .keep, .keep⟩

/-- hours in service. -/
def LIFE_DIMM1.HOURS (k : Nat) : Field :=
  ⟨0x9008 + 32 * k, 31, 0, .ro, .keep, .keep, .keep⟩

/-- The fields of LIFE_DIMM1. -/
def LIFE_DIMM1.fields (k : Nat) : List Field :=
  [LIFE_DIMM1.SWAPS k,
   LIFE_DIMM1.HOURS k]

/-! ### LIFE_LANE1 (21_apron_keep_and_lifetime.md, R581) -/

/-- trainings begun. -/
def LIFE_LANE1.TRAININGS (m : Nat) : Field :=
  ⟨0xA008 + 32 * m, 63, 32, .ro, .keep, .keep, .keep⟩

/-- entries to DOWN. -/
def LIFE_LANE1.DOWNS (m : Nat) : Field :=
  ⟨0xA008 + 32 * m, 31, 0, .ro, .keep, .keep, .keep⟩

/-- The fields of LIFE_LANE1. -/
def LIFE_LANE1.fields (m : Nat) : List Field :=
  [LIFE_LANE1.TRAININGS m,
   LIFE_LANE1.DOWNS m]

/-! ### LIFE_DIMM2 (21_apron_keep_and_lifetime.md, R580) -/

/-- corrected reads. -/
def LIFE_DIMM2.CORR (k : Nat) : Field :=
  ⟨0x9010 + 32 * k, 47, 0, .ro, .keep, .keep, .keep⟩

/-- The fields of LIFE_DIMM2. -/
def LIFE_DIMM2.fields (k : Nat) : List Field :=
  [LIFE_DIMM2.CORR k]

/-! ### LIFE_LANE2 (21_apron_keep_and_lifetime.md, R581) -/

/-- FEC symbols corrected on Cuff-3, or code violations on Cuff-1, in units of 2^10. -/
def LIFE_LANE2.CORR (m : Nat) : Field :=
  ⟨0xA010 + 32 * m, 47, 0, .ro, .keep, .keep, .keep⟩

/-- The fields of LIFE_LANE2. -/
def LIFE_LANE2.fields (m : Nat) : List Field :=
  [LIFE_LANE2.CORR m]

/-! ### LIFE_DIMM3 (21_apron_keep_and_lifetime.md, R580) -/

/-- devices marked failed, R313. -/
def LIFE_DIMM3.MARKED (k : Nat) : Field :=
  ⟨0x9018 + 32 * k, 47, 32, .ro, .keep, .keep, .keep⟩

/-- uncorrectable sectors. -/
def LIFE_DIMM3.UNCORR (k : Nat) : Field :=
  ⟨0x9018 + 32 * k, 31, 0, .ro, .keep, .keep, .keep⟩

/-- The fields of LIFE_DIMM3. -/
def LIFE_DIMM3.fields (k : Nat) : List Field :=
  [LIFE_DIMM3.MARKED k,
   LIFE_DIMM3.UNCORR k]

/-! ### LIFE_LANE3 (21_apron_keep_and_lifetime.md, R581) -/

/-- recalibrations. -/
def LIFE_LANE3.RECALS (m : Nat) : Field :=
  ⟨0xA018 + 32 * m, 63, 32, .ro, .keep, .keep, .keep⟩

/-- DOWN with DOWNCAUSE 2. -/
def LIFE_LANE3.REPLAYDOWNS (m : Nat) : Field :=
  ⟨0xA018 + 32 * m, 31, 0, .ro, .keep, .keep, .keep⟩

/-- The fields of LIFE_LANE3. -/
def LIFE_LANE3.fields (m : Nat) : List Field :=
  [LIFE_LANE3.RECALS m,
   LIFE_LANE3.REPLAYDOWNS m]

/-- The fields of the register at window offset `o` in the APRON block; none where the block holds no register (R17). -/
def apronFields (o : Nat) : List Field :=
  if o = 0x0 then APRON_ID.fields else
  if o = 0x10 then APRON_STAT.fields else
  if o = 0x18 then APRON_CAL.fields else
  if o = 0x20 then APRON_ALARM.fields else
  if o = 0x28 then APRON_TRIM.fields else
  if o = 0x30 then APRON_SLOEMEAS.fields else
  if o = 0x38 then APRON_KEEPSTAT.fields else
  if o = 0x40 then APRON_KEEPSEL.fields else
  if o = 0x48 then APRON_KEEPCNT.fields else
  if o = 0x50 then APRON_LIFECTL.fields else
  if o = 0x8 then APRON_SERIAL.fields else
  if 0x2000 ≤ o ∧ (o - 0x2000) / 8 < 1024 ∧ ((o - 0x2000) % 8) = 0 then APRON_KEEPFW.fields (((o - 0x2000) / 8)) else
  if o = 0x8000 then LIFE_POWERON.fields else
  if o = 0x8008 then LIFE_VAULT.fields else
  if o = 0x8010 then LIFE_STOPS.fields else
  if o = 0x8018 then LIFE_RESETS.fields else
  if 0x8100 ≤ o ∧ (o - 0x8100) / 64 < 9 ∧ ((o - 0x8100) % 64) / 8 < 8 ∧ (((o - 0x8100) % 64) % 8) = 0 then LIFE_THERM.fields (((o - 0x8100) / 64)) ((((o - 0x8100) % 64) / 8)) else
  if 0x8400 ≤ o ∧ (o - 0x8400) / 8 < 8 ∧ ((o - 0x8400) % 8) = 0 then LIFE_VTHERM.fields (((o - 0x8400) / 8)) else
  if 0x9000 ≤ o ∧ (o - 0x9000) / 32 < 48 ∧ ((o - 0x9000) % 32) = 0 then LIFE_DIMM0.fields (((o - 0x9000) / 32)) else
  if 0xA000 ≤ o ∧ (o - 0xA000) / 32 < 512 ∧ ((o - 0xA000) % 32) = 0 then LIFE_LANE0.fields (((o - 0xA000) / 32)) else
  if 0x9008 ≤ o ∧ (o - 0x9008) / 32 < 48 ∧ ((o - 0x9008) % 32) = 0 then LIFE_DIMM1.fields (((o - 0x9008) / 32)) else
  if 0xA008 ≤ o ∧ (o - 0xA008) / 32 < 512 ∧ ((o - 0xA008) % 32) = 0 then LIFE_LANE1.fields (((o - 0xA008) / 32)) else
  if 0x9010 ≤ o ∧ (o - 0x9010) / 32 < 48 ∧ ((o - 0x9010) % 32) = 0 then LIFE_DIMM2.fields (((o - 0x9010) / 32)) else
  if 0xA010 ≤ o ∧ (o - 0xA010) / 32 < 512 ∧ ((o - 0xA010) % 32) = 0 then LIFE_LANE2.fields (((o - 0xA010) / 32)) else
  if 0x9018 ≤ o ∧ (o - 0x9018) / 32 < 48 ∧ ((o - 0x9018) % 32) = 0 then LIFE_DIMM3.fields (((o - 0x9018) / 32)) else
  if 0xA018 ≤ o ∧ (o - 0xA018) / 32 < 512 ∧ ((o - 0xA018) % 32) = 0 then LIFE_LANE3.fields (((o - 0xA018) / 32)) else
  []

/-- The fields of the register at window offset `o` in the TAILOR block; none where the block holds no register (R17). -/
def tailorFields (o : Nat) : List Field :=
  if o = 0x11000 then TAILOR_SPARECTL.fields else
  if o = 0x11008 then TAILOR_SPARESTAT.fields else
  if o = 0x11010 then TAILOR_DBGCTL.fields else
  if 0x11100 ≤ o ∧ (o - 0x11100) / 8 < 48 ∧ ((o - 0x11100) % 8) = 0 then TAILOR_SLOT.fields (((o - 0x11100) / 8)) else
  if 0x11300 ≤ o ∧ (o - 0x11300) / 8 < 48 ∧ ((o - 0x11300) % 8) = 0 then TAILOR_PHYS.fields (((o - 0x11300) / 8)) else
  if o = 0x12000 then TAILOR_ROLLCTL.fields else
  if o = 0x12008 then TAILOR_ROLLSTAT.fields else
  if o = 0x13000 then TAILOR_RESETCTL.fields else
  if o = 0x13008 then TAILOR_RESETSTAT.fields else
  if o = 0x13010 then TAILOR_BOOTSTAT.fields else
  if o = 0x13018 then TAILOR_IMGCHK.fields else
  if o = 0x13020 then TAILOR_IMGRES.fields else
  if o = 0x13028 then TAILOR_TFWCTL.fields else
  if o = 0x13030 then TAILOR_TFWSTAT.fields else
  if o = 0x13038 then TAILOR_UNITRST.fields else
  if o = 0x13040 then TAILOR_FLASHCMD.fields else
  if o = 0x13048 then TAILOR_FLASHSRC.fields else
  []

/-- The fields of the register at window offset `o` in the FAULT block; none where the block holds no register (R17). -/
def faultFields (o : Nat) : List Field :=
  if o = 0x20000 then FAULT_STAT.fields else
  if o = 0x20008 then FAULT_CTL.fields else
  if o = 0x20010 then FAULT_CMD.fields else
  if o = 0x20018 then FAULT_LOGBASE.fields else
  if o = 0x20020 then FAULT_LOGHEAD.fields else
  if o = 0x20030 then FAULT_LOGSTAT.fields else
  if o = 0x20038 then FAULT_RECOV.fields else
  if o = 0x20050 then FAULT_REPLAY.fields else
  if o = 0x20028 then FAULT_LOGACK.fields else
  if o = 0x20040 then FAULT_LASTF.fields else
  if o = 0x20048 then FAULT_MINSET.fields else
  if o = 0x20058 then FAULT_PET.fields else
  []

/-- The fields of the register at window offset `o` in the POWER block; none where the block holds no register (R17). -/
def powerFields (o : Nat) : List Field :=
  if o = 0x30000 then POWER_STATE.fields else
  if o = 0x30008 then POWER_CTL.fields else
  if o = 0x30018 then POWER_TEFF.fields else
  if o = 0x30020 then POWER_INPUT.fields else
  if o = 0x30028 then POWER_STATUS.fields else
  if o = 0x30030 then POWER_WAKE.fields else
  if o = 0x30010 then POWER_LTRFW.fields else
  if 0x30040 ≤ o ∧ (o - 0x30040) / 8 < 12 ∧ ((o - 0x30040) % 8) = 0 then POWER_CLUSTER.fields (((o - 0x30040) / 8)) else
  []

/-- The fields of the register at window offset `o` in the COLLAR block; none where the block holds no register (R17). -/
def collarFields (o : Nat) : List Field :=
  if 0x50000 ≤ o ∧ (o - 0x50000) / 8 < 13056 ∧ ((o - 0x50000) % 8) = 0 then
    -- a reserved source has no register (R233, R248)
    if (0x1200 ≤ (o - 0x50000) / 8 ∧ (o - 0x50000) / 8 < 0x2000) ∨ (0x2100 ≤ (o - 0x50000) / 8 ∧ (o - 0x50000) / 8 < 0x3000) then []
    else COLLAR_SRC.fields (((o - 0x50000) / 8)) else
  if o = 0x40000 then COLLAR_CTL.fields else
  if o = 0x40008 then COLLAR_STAT.fields else
  if o = 0x40010 then COLLAR_SEND.fields else
  if o = 0x40020 then COLLAR_FWEOS.fields else
  if o = 0x40018 then COLLAR_FWCLAIM.fields else
  if o = 0x40028 then COLLAR_FWTIMER.fields else
  if 0x41000 ≤ o ∧ (o - 0x41000) / 8 < 256 ∧ ((o - 0x41000) % 8) = 0 then COLLAR_SWGRP.fields (((o - 0x41000) / 8)) else
  if 0x42000 ≤ o ∧ (o - 0x42000) / 8 < 256 ∧ ((o - 0x42000) % 8) = 0 then COLLAR_SWPEND.fields (((o - 0x42000) / 8)) else
  if 0x42800 ≤ o ∧ (o - 0x42800) / 8 < 256 ∧ ((o - 0x42800) % 8) = 0 then COLLAR_SWSERV.fields (((o - 0x42800) / 8)) else
  if 0x70000 ≤ o ∧ (o - 0x70000) / 8 < 4096 ∧ ((o - 0x70000) % 8) = 0 then COLLAR_LOST.fields (((o - 0x70000) / 8)) else
  []

/-- The fields of the register at window offset `o` in the TRIAD block; none where the block holds no register (R17). -/
def triadFields (o : Nat) : List Field :=
  if 0xC0000 ≤ o ∧ (o - 0xC0000) / 64 < 4096 ∧ ((o - 0xC0000) % 64) = 0 then RING_CTL.fields (((o - 0xC0000) / 64)) else
  if 0xC0018 ≤ o ∧ (o - 0xC0018) / 64 < 4096 ∧ ((o - 0xC0018) % 64) = 0 then RING_MOD.fields (((o - 0xC0018) / 64)) else
  if 0xC0020 ≤ o ∧ (o - 0xC0020) / 64 < 4096 ∧ ((o - 0xC0020) % 64) = 0 then RING_STAT.fields (((o - 0xC0020) / 64)) else
  if 0xC0038 ≤ o ∧ (o - 0xC0038) / 64 < 4096 ∧ ((o - 0xC0038) % 64) = 0 then RING_CMD.fields (((o - 0xC0038) / 64)) else
  if 0xC0008 ≤ o ∧ (o - 0xC0008) / 64 < 4096 ∧ ((o - 0xC0008) % 64) = 0 then RING_CRBASE.fields (((o - 0xC0008) / 64)) else
  if 0xC0010 ≤ o ∧ (o - 0xC0010) / 64 < 4096 ∧ ((o - 0xC0010) % 64) = 0 then RING_IRBASE.fields (((o - 0xC0010) / 64)) else
  if 0xC0028 ≤ o ∧ (o - 0xC0028) / 64 < 4096 ∧ ((o - 0xC0028) % 64) = 0 then RING_CRIDX.fields (((o - 0xC0028) / 64)) else
  if 0xC0030 ≤ o ∧ (o - 0xC0030) / 64 < 4096 ∧ ((o - 0xC0030) % 64) = 0 then RING_IRIDX.fields (((o - 0xC0030) / 64)) else
  if o = 0x80000 then TRIAD_STAT.fields else
  if o = 0x80008 then TRIAD_CTL.fields else
  if o = 0x80010 then TRIAD_CMD.fields else
  if o = 0x80040 then TRIAD_FWCTL.fields else
  if o = 0x80048 then TRIAD_FWSTAT.fields else
  if o = 0x80058 then TRIAD_VOTESTAT.fields else
  if 0x80018 ≤ o ∧ (o - 0x80018) / 8 < 3 ∧ ((o - 0x80018) % 8) = 0 then TRIAD_MEMBER.fields (((o - 0x80018) / 8)) else
  if o = 0x80050 then TRIAD_FWSWTSN.fields else
  if 0x80100 ≤ o ∧ (o - 0x80100) / 8 < 256 ∧ ((o - 0x80100) % 8) = 0 then TRIAD_CHPOOL.fields (((o - 0x80100) / 8)) else
  if 0xA0000 ≤ o ∧ (o - 0xA0000) / 32 < 4096 ∧ ((o - 0xA0000) % 32) = 0 then POOL_BASE.fields (((o - 0xA0000) / 32)) else
  if 0xA0008 ≤ o ∧ (o - 0xA0008) / 32 < 4096 ∧ ((o - 0xA0008) % 32) = 0 then POOL_CFG.fields (((o - 0xA0008) / 32)) else
  if 0xA0010 ≤ o ∧ (o - 0xA0010) / 32 < 4096 ∧ ((o - 0xA0010) % 32) = 0 then POOL_STBASE.fields (((o - 0xA0010) / 32)) else
  if 0xA0018 ≤ o ∧ (o - 0xA0018) / 32 < 4096 ∧ ((o - 0xA0018) % 32) = 0 then POOL_STAT.fields (((o - 0xA0018) / 32)) else
  []

/-- The fields of the register at window offset `o` in the CHAN block; none where the block holds no register (R17). -/
def chanFields (o : Nat) : List Field :=
  if 0x100000 ≤ o ∧ (o - 0x100000) / 1024 < 256 ∧ ((o - 0x100000) % 1024) = 0 then CHAN_RINGCTL.fields (((o - 0x100000) / 1024)) else
  if 0x100008 ≤ o ∧ (o - 0x100008) / 1024 < 256 ∧ ((o - 0x100008) % 1024) = 0 then CHAN_RINGSTAT.fields (((o - 0x100008) / 1024)) else
  if 0x100010 ≤ o ∧ (o - 0x100010) / 1024 < 256 ∧ ((o - 0x100010) % 1024) = 0 then CHAN_CTL.fields (((o - 0x100010) / 1024)) else
  if 0x100018 ≤ o ∧ (o - 0x100018) / 1024 < 256 ∧ ((o - 0x100018) % 1024) = 0 then CHAN_STAT.fields (((o - 0x100018) / 1024)) else
  if 0x100020 ≤ o ∧ (o - 0x100020) / 1024 < 256 ∧ ((o - 0x100020) % 1024) = 0 then CHAN_CLAIM.fields (((o - 0x100020) / 1024)) else
  if 0x100028 ≤ o ∧ (o - 0x100028) / 1024 < 256 ∧ ((o - 0x100028) % 1024) = 0 then CHAN_CMD.fields (((o - 0x100028) / 1024)) else
  if 0x100038 ≤ o ∧ (o - 0x100038) / 1024 < 256 ∧ ((o - 0x100038) % 1024) = 0 then CHAN_ADAPTER.fields (((o - 0x100038) / 1024)) else
  if 0x100030 ≤ o ∧ (o - 0x100030) / 1024 < 256 ∧ ((o - 0x100030) % 1024) = 0 then CHAN_INTSN.fields (((o - 0x100030) / 1024)) else
  []

/-- The fields of the register at window offset `o` in the LANE block; none where the block holds no register (R17). -/
def laneFields (o : Nat) : List Field :=
  if 0x140000 ≤ o ∧ (o - 0x140000) / 512 < 512 ∧ ((o - 0x140000) % 512) = 0 then LANE_CTL.fields (((o - 0x140000) / 512)) else
  if 0x140008 ≤ o ∧ (o - 0x140008) / 512 < 512 ∧ ((o - 0x140008) % 512) = 0 then LANE_STAT.fields (((o - 0x140008) / 512)) else
  if 0x140010 ≤ o ∧ (o - 0x140010) / 512 < 512 ∧ ((o - 0x140010) % 512) = 0 then LANE_CMD.fields (((o - 0x140010) / 512)) else
  if 0x140018 ≤ o ∧ (o - 0x140018) / 512 < 512 ∧ ((o - 0x140018) % 512) = 0 then LANE_FSN.fields (((o - 0x140018) / 512)) else
  if 0x140020 ≤ o ∧ (o - 0x140020) / 512 < 512 ∧ ((o - 0x140020) % 512) = 0 then LANE_SKEW.fields (((o - 0x140020) / 512)) else
  if 0x140028 ≤ o ∧ (o - 0x140028) / 512 < 512 ∧ ((o - 0x140028) % 512) = 0 then LANE_ERR.fields (((o - 0x140028) / 512)) else
  if 0x140030 ≤ o ∧ (o - 0x140030) / 512 < 512 ∧ ((o - 0x140030) % 512) = 0 then LANE_TXBYTES.fields (((o - 0x140030) / 512)) else
  if 0x140038 ≤ o ∧ (o - 0x140038) / 512 < 512 ∧ ((o - 0x140038) % 512) = 0 then LANE_RXBYTES.fields (((o - 0x140038) / 512)) else
  if 0x140040 ≤ o ∧ (o - 0x140040) / 512 < 512 ∧ ((o - 0x140040) % 512) = 0 then LANE_TXFRAMES.fields (((o - 0x140040) / 512)) else
  if 0x140048 ≤ o ∧ (o - 0x140048) / 512 < 512 ∧ ((o - 0x140048) % 512) = 0 then LANE_RXFRAMES.fields (((o - 0x140048) / 512)) else
  []

/-- The fields of the register at window offset `o` in the HEM block; none where the block holds no register (R17). -/
def hemFields (o : Nat) : List Field :=
  if o = 0x180000 then HEM_STAT.fields else
  if o = 0x180008 then HEM_CMD.fields else
  if o = 0x180010 then HEM_JPTR.fields else
  if o = 0x180018 then HEM_JCTL.fields else
  if o = 0x180020 then HEM_JSTAT.fields else
  if o = 0x180040 then HEM_LAT.fields else
  if o = 0x180048 then HEM_WLCTL.fields else
  if o = 0x180028 then HEM_TSNNEXT.fields else
  if o = 0x180030 then HEM_TSNCEIL.fields else
  if o = 0x180038 then HEM_SINGLETSN.fields else
  if 0x180050 ≤ o ∧ (o - 0x180050) / 8 < 2 ∧ ((o - 0x180050) % 8) = 0 then HEM_DIE.fields (((o - 0x180050) / 8)) else
  if 0x180100 ≤ o ∧ (o - 0x180100) / 8 < 192 ∧ ((o - 0x180100) % 8) = 0 then HEM_GOWN.fields (((o - 0x180100) / 8)) else
  []

/-- The fields of the register at window offset `o` in the PLEAT block; none where the block holds no register (R17). -/
def pleatFields (o : Nat) : List Field :=
  if o = 0x190000 then PLEAT_CTL.fields else
  if o = 0x190008 then PLEAT_STAT.fields else
  if o = 0x190010 then PLEAT_FWSUB.fields else
  if o = 0x190018 then PLEAT_FWRES.fields else
  if 0x190100 ≤ o ∧ (o - 0x190100) / 8 < 32 ∧ ((o - 0x190100) % 8) = 0 then PLEAT_ENG.fields (((o - 0x190100) / 8)) else
  []

/-- The fields of the register at window offset `o` in the CLOAK block; none where the block holds no register (R17). -/
def cloakFields (o : Nat) : List Field :=
  if o = 0x1A0018 then CLOAK_FWSUB.fields else
  if o = 0x1A0020 then CLOAK_FWRES.fields else
  if 0x1A0100 ≤ o ∧ (o - 0x1A0100) / 8 < 64 ∧ ((o - 0x1A0100) % 8) = 0 then CLOAK_LANE.fields (((o - 0x1A0100) / 8)) else
  if o = 0x1A0000 then CLOAK_CTL.fields else
  if o = 0x1A0008 then CLOAK_STAT.fields else
  if o = 0x1A0010 then CLOAK_SLOTBASE.fields else
  if o = 0x1A0028 then CLOAK_BOOTNO.fields else
  if o = 0x1A0030 then CLOAK_CACHE.fields else
  if o = 0x1A0040 then CLOAK_ROOTCTL.fields else
  if o = 0x1A0048 then CLOAK_ROOTSTAT.fields else
  if o = 0x1A0070 then CLOAK_SLOTCMD.fields else
  if o = 0x1A0038 then CLOAK_LANEUP.fields else
  if 0x1A0050 ≤ o ∧ (o - 0x1A0050) / 8 < 4 ∧ ((o - 0x1A0050) % 8) = 0 then CLOAK_ROOTSHARE.fields (((o - 0x1A0050) / 8)) else
  if 0x1A1000 ≤ o ∧ (o - 0x1A1000) / 8 < 4096 ∧ ((o - 0x1A1000) % 8) = 0 then CLOAK_SLOTST.fields (((o - 0x1A1000) / 8)) else
  []

/-- The fields of the register at window offset `o` in the SEAM block; none where the block holds no register (R17). -/
def seamFields (o : Nat) : List Field :=
  if o = 0x1B0000 then SEAM_CTL.fields else
  if o = 0x1B0008 then SEAM_STAT.fields else
  if o = 0x1B0010 then SEAM_TODCTL.fields else
  if o = 0x1B0018 then SEAM_TODSTAT.fields else
  if o = 0x1B0038 then SEAM_MIRCTL.fields else
  if o = 0x1B0040 then SEAM_MIRSTAT.fields else
  if o = 0x1B0048 then SEAM_TXMSG.fields else
  if o = 0x1B0050 then SEAM_TXRES.fields else
  if o = 0x1B0058 then SEAM_RXWIN.fields else
  if o = 0x1B0020 then SEAM_TODSET.fields else
  if o = 0x1B0028 then SEAM_TODOFFS.fields else
  if o = 0x1B0030 then SEAM_PPSSTAMP.fields else
  if 0x1B0100 ≤ o ∧ (o - 0x1B0100) / 32 < 4 ∧ ((o - 0x1B0100) % 32) = 0 then SEAM_PORT_CTL.fields (((o - 0x1B0100) / 32)) else
  if 0x1B0108 ≤ o ∧ (o - 0x1B0108) / 32 < 4 ∧ ((o - 0x1B0108) % 32) = 0 then SEAM_PORT_STAT.fields (((o - 0x1B0108) / 32)) else
  if 0x1B0110 ≤ o ∧ (o - 0x1B0110) / 32 < 4 ∧ ((o - 0x1B0110) % 32) = 0 then SEAM_PORT_ERR.fields (((o - 0x1B0110) / 32)) else
  if 0x1B0200 ≤ o ∧ (o - 0x1B0200) / 8 < 4 ∧ ((o - 0x1B0200) % 8) = 0 then SEAM_MIRSRC.fields (((o - 0x1B0200) / 8)) else
  if 0x1B0220 ≤ o ∧ (o - 0x1B0220) / 8 < 4 ∧ ((o - 0x1B0220) % 8) = 0 then SEAM_MIREP.fields (((o - 0x1B0220) / 8)) else
  if 0x1B1000 ≤ o ∧ (o - 0x1B1000) / 8 < 256 ∧ ((o - 0x1B1000) % 8) = 0 then SEAM_CHSUCC.fields (((o - 0x1B1000) / 8)) else
  []

/-- The fields of the register at window offset `o` in the PART block; none where the block holds no register (R17). -/
def partFields (o : Nat) : List Field :=
  if 0x200040 ≤ o ∧ (o - 0x200040) / 1024 < 256 ∧ ((o - 0x200040) % 1024) = 0 then PART_LTR.fields (((o - 0x200040) / 1024)) else
  if 0x200000 ≤ o ∧ (o - 0x200000) / 1024 < 256 ∧ ((o - 0x200000) % 1024) = 0 then PART_STATE.fields (((o - 0x200000) / 1024)) else
  if 0x200008 ≤ o ∧ (o - 0x200008) / 1024 < 256 ∧ ((o - 0x200008) % 1024) = 0 then PART_CTL.fields (((o - 0x200008) / 1024)) else
  if 0x200010 ≤ o ∧ (o - 0x200010) / 1024 < 256 ∧ ((o - 0x200010) % 1024) = 0 then PART_ROOT2.fields (((o - 0x200010) / 1024)) else
  if 0x200018 ≤ o ∧ (o - 0x200018) / 1024 < 256 ∧ ((o - 0x200018) % 1024) = 0 then PART_PRIMAX.fields (((o - 0x200018) / 1024)) else
  if 0x200030 ≤ o ∧ (o - 0x200030) / 1024 < 256 ∧ ((o - 0x200030) % 1024) = 0 then PART_CTXCMD.fields (((o - 0x200030) / 1024)) else
  if 0x200038 ≤ o ∧ (o - 0x200038) / 1024 < 256 ∧ ((o - 0x200038) % 1024) = 0 then PART_CTXRES.fields (((o - 0x200038) / 1024)) else
  if 0x200058 ≤ o ∧ (o - 0x200058) / 1024 < 256 ∧ ((o - 0x200058) % 1024) = 0 then PART_COLSEND.fields (((o - 0x200058) / 1024)) else
  if 0x200050 ≤ o ∧ (o - 0x200050) / 1024 < 256 ∧ ((o - 0x200050) % 1024) = 0 then PART_EOS.fields (((o - 0x200050) / 1024)) else
  if 0x200048 ≤ o ∧ (o - 0x200048) / 1024 < 256 ∧ ((o - 0x200048) % 1024) = 0 then PART_CLAIM.fields (((o - 0x200048) / 1024)) else
  if 0x200060 ≤ o ∧ (o - 0x200060) / 1024 < 256 ∧ ((o - 0x200060) % 1024) = 0 then PART_TIMER.fields (((o - 0x200060) / 1024)) else
  if 0x200300 ≤ o ∧ (o - 0x200300) / 1024 < 256 ∧ ((o - 0x200300) % 1024) = 0 then PART_JQUOTA.fields (((o - 0x200300) / 1024)) else
  if 0x200308 ≤ o ∧ (o - 0x200308) / 1024 < 256 ∧ ((o - 0x200308) % 1024) = 0 then PART_JOPEN.fields (((o - 0x200308) / 1024)) else
  if 0x200310 ≤ o ∧ (o - 0x200310) / 1024 < 256 ∧ ((o - 0x200310) % 1024) = 0 then PART_REFLOST.fields (((o - 0x200310) / 1024)) else
  if 0x200180 ≤ o ∧ (o - 0x200180) / 1024 < 256 ∧ ((o - 0x200180) % 1024) / 16 < 8 ∧ (((o - 0x200180) % 1024) % 16) = 0 then PART_HWINA.fields (((o - 0x200180) / 1024)) ((((o - 0x200180) % 1024) / 16)) else
  if 0x200188 ≤ o ∧ (o - 0x200188) / 1024 < 256 ∧ ((o - 0x200188) % 1024) / 16 < 8 ∧ (((o - 0x200188) % 1024) % 16) = 0 then PART_HWINB.fields (((o - 0x200188) / 1024)) ((((o - 0x200188) % 1024) / 16)) else
  if 0x200200 ≤ o ∧ (o - 0x200200) / 1024 < 256 ∧ ((o - 0x200200) % 1024) = 0 then PART_HWINSTAT.fields (((o - 0x200200) / 1024)) else
  if 0x200070 ≤ o ∧ (o - 0x200070) / 1024 < 256 ∧ ((o - 0x200070) % 1024) = 0 then PART_PLEATRES.fields (((o - 0x200070) / 1024)) else
  if 0x200080 ≤ o ∧ (o - 0x200080) / 1024 < 256 ∧ ((o - 0x200080) % 1024) = 0 then PART_CLOAKRES.fields (((o - 0x200080) / 1024)) else
  if 0x200068 ≤ o ∧ (o - 0x200068) / 1024 < 256 ∧ ((o - 0x200068) % 1024) = 0 then PART_PLEATSUB.fields (((o - 0x200068) / 1024)) else
  if 0x200078 ≤ o ∧ (o - 0x200078) / 1024 < 256 ∧ ((o - 0x200078) % 1024) = 0 then PART_CLOAKSUB.fields (((o - 0x200078) / 1024)) else
  if 0x200088 ≤ o ∧ (o - 0x200088) / 1024 < 256 ∧ ((o - 0x200088) % 1024) = 0 then PART_FAULTS.fields (((o - 0x200088) / 1024)) else
  if 0x200090 ≤ o ∧ (o - 0x200090) / 1024 < 256 ∧ ((o - 0x200090) % 1024) = 0 then PART_FAULTSIG.fields (((o - 0x200090) / 1024)) else
  if 0x200020 ≤ o ∧ (o - 0x200020) / 1024 < 256 ∧ ((o - 0x200020) % 1024) = 0 then PART_CTXPC.fields (((o - 0x200020) / 1024)) else
  if 0x200028 ≤ o ∧ (o - 0x200028) / 1024 < 256 ∧ ((o - 0x200028) % 1024) = 0 then PART_CTXARG.fields (((o - 0x200028) / 1024)) else
  if 0x200100 ≤ o ∧ (o - 0x200100) / 1024 < 256 ∧ ((o - 0x200100) % 1024) / 8 < 12 ∧ (((o - 0x200100) % 1024) % 8) = 0 then PART_OWN.fields (((o - 0x200100) / 1024)) ((((o - 0x200100) % 1024) / 8)) else
  []

/-- The fields of the register at window offset `o` in the WEFT block; none where the block holds no register (R17). -/
def weftFields (o : Nat) : List Field :=
  if 0x308000 ≤ o ∧ (o - 0x308000) / 262144 < 4 ∧ ((o - 0x308000) % 262144) / 8 < 12 ∧ (((o - 0x308000) % 262144) % 8) = 0 then WEFT_SCHED.fields (12 * ((o - 0x308000) / 262144) + (((o - 0x308000) % 262144) / 8)) else
  if 0x300200 ≤ o ∧ (o - 0x300200) / 262144 < 4 ∧ ((o - 0x300200) % 262144) / 8 < 12 ∧ (((o - 0x300200) % 262144) % 8) = 0 then WEFT_L2CTL.fields (12 * ((o - 0x300200) / 262144) + (((o - 0x300200) % 262144) / 8)) else
  if 0x300300 ≤ o ∧ (o - 0x300300) / 262144 < 4 ∧ ((o - 0x300300) % 262144) / 8 < 12 ∧ (((o - 0x300300) % 262144) % 8) = 0 then WEFT_L2STAT.fields (12 * ((o - 0x300300) / 262144) + (((o - 0x300300) % 262144) / 8)) else
  if 0x300400 ≤ o ∧ (o - 0x300400) / 262144 < 4 ∧ ((o - 0x300400) % 262144) / 8 < 12 ∧ (((o - 0x300400) % 262144) % 8) = 0 then WEFT_LOCK.fields (12 * ((o - 0x300400) / 262144) + (((o - 0x300400) % 262144) / 8)) else
  if 0x310000 ≤ o ∧ (o - 0x310000) / 262144 < 4 ∧ ((o - 0x310000) % 262144) / 32 < 192 ∧ (((o - 0x310000) % 262144) % 32) = 0 then POCKET_CTL.fields (192 * ((o - 0x310000) / 262144) + (((o - 0x310000) % 262144) / 32)) else
  if 0x310008 ≤ o ∧ (o - 0x310008) / 262144 < 4 ∧ ((o - 0x310008) % 262144) / 32 < 192 ∧ (((o - 0x310008) % 262144) % 32) = 0 then POCKET_SAVE.fields (192 * ((o - 0x310008) / 262144) + (((o - 0x310008) % 262144) / 32)) else
  if 0x310010 ≤ o ∧ (o - 0x310010) / 262144 < 4 ∧ ((o - 0x310010) % 262144) / 32 < 192 ∧ (((o - 0x310010) % 262144) % 32) = 0 then POCKET_CMD.fields (192 * ((o - 0x310010) / 262144) + (((o - 0x310010) % 262144) / 32)) else
  if 0x310018 ≤ o ∧ (o - 0x310018) / 262144 < 4 ∧ ((o - 0x310018) % 262144) / 32 < 192 ∧ (((o - 0x310018) % 262144) % 32) = 0 then POCKET_STAT.fields (192 * ((o - 0x310018) / 262144) + (((o - 0x310018) % 262144) / 32)) else
  if 0x300100 ≤ o ∧ (o - 0x300100) / 262144 < 4 ∧ ((o - 0x300100) % 262144) = 0 then WEFT_L3CTL.fields (((o - 0x300100) / 262144)) else
  if 0x300108 ≤ o ∧ (o - 0x300108) / 262144 < 4 ∧ ((o - 0x300108) % 262144) = 0 then WEFT_L3STAT.fields (((o - 0x300108) / 262144)) else
  if 0x300110 ≤ o ∧ (o - 0x300110) / 262144 < 4 ∧ ((o - 0x300110) % 262144) = 0 then WEFT_COHCTL.fields (((o - 0x300110) / 262144)) else
  if 0x300118 ≤ o ∧ (o - 0x300118) / 262144 < 4 ∧ ((o - 0x300118) % 262144) = 0 then WEFT_COHSTAT.fields (((o - 0x300118) / 262144)) else
  if 0x301000 ≤ o ∧ (o - 0x301000) / 262144 < 4 ∧ ((o - 0x301000) % 262144) / 16 < 64 ∧ (((o - 0x301000) % 262144) % 16) = 0 then WEFT_PRIVBASE.fields (((o - 0x301000) / 262144)) ((((o - 0x301000) % 262144) / 16)) else
  if 0x301008 ≤ o ∧ (o - 0x301008) / 262144 < 4 ∧ ((o - 0x301008) % 262144) / 16 < 64 ∧ (((o - 0x301008) % 262144) % 16) = 0 then WEFT_PRIVLIM.fields (((o - 0x301008) / 262144)) ((((o - 0x301008) % 262144) / 16)) else
  if 0x320000 ≤ o ∧ (o - 0x320000) / 262144 < 4 ∧ ((o - 0x320000) % 262144) / 16 < 16 ∧ (((o - 0x320000) % 262144) % 16) = 0 then WEFT_MAPA.fields (((o - 0x320000) / 262144)) ((((o - 0x320000) % 262144) / 16)) else
  if 0x320008 ≤ o ∧ (o - 0x320008) / 262144 < 4 ∧ ((o - 0x320008) % 262144) / 16 < 16 ∧ (((o - 0x320008) % 262144) % 16) = 0 then WEFT_MAPB.fields (((o - 0x320008) / 262144)) ((((o - 0x320008) % 262144) / 16)) else
  if 0x321040 ≤ o ∧ (o - 0x321040) / 262144 < 4 ∧ ((o - 0x321040) % 262144) / 4096 < 3 ∧ (((o - 0x321040) % 262144) % 4096) / 8 < 8 ∧ ((((o - 0x321040) % 262144) % 4096) % 8) = 0 then MC_PORT.fields (3 * ((o - 0x321040) / 262144) + (((o - 0x321040) % 262144) / 4096)) (((((o - 0x321040) % 262144) % 4096) / 8)) else
  if 0x321100 ≤ o ∧ (o - 0x321100) / 262144 < 4 ∧ ((o - 0x321100) % 262144) / 4096 < 3 ∧ (((o - 0x321100) % 262144) % 4096) / 256 < 2 ∧ ((((o - 0x321100) % 262144) % 4096) % 256) = 0 then MC_CTL.fields (6 * ((o - 0x321100) / 262144) + 2 * (((o - 0x321100) % 262144) / 4096) + ((((o - 0x321100) % 262144) % 4096) / 256)) else
  if 0x321108 ≤ o ∧ (o - 0x321108) / 262144 < 4 ∧ ((o - 0x321108) % 262144) / 4096 < 3 ∧ (((o - 0x321108) % 262144) % 4096) / 256 < 2 ∧ ((((o - 0x321108) % 262144) % 4096) % 256) = 0 then MC_STAT.fields (6 * ((o - 0x321108) / 262144) + 2 * (((o - 0x321108) % 262144) / 4096) + ((((o - 0x321108) % 262144) % 4096) / 256)) else
  if 0x321110 ≤ o ∧ (o - 0x321110) / 262144 < 4 ∧ ((o - 0x321110) % 262144) / 4096 < 3 ∧ (((o - 0x321110) % 262144) % 4096) / 256 < 2 ∧ ((((o - 0x321110) % 262144) % 4096) % 256) = 0 then MC_CMD.fields (6 * ((o - 0x321110) / 262144) + 2 * (((o - 0x321110) % 262144) / 4096) + ((((o - 0x321110) % 262144) % 4096) / 256)) else
  if 0x321118 ≤ o ∧ (o - 0x321118) / 262144 < 4 ∧ ((o - 0x321118) % 262144) / 4096 < 3 ∧ (((o - 0x321118) % 262144) % 4096) / 256 < 2 ∧ ((((o - 0x321118) % 262144) % 4096) % 256) = 0 then MC_ECC.fields (6 * ((o - 0x321118) / 262144) + 2 * (((o - 0x321118) % 262144) / 4096) + ((((o - 0x321118) % 262144) % 4096) / 256)) else
  if 0x321120 ≤ o ∧ (o - 0x321120) / 262144 < 4 ∧ ((o - 0x321120) % 262144) / 4096 < 3 ∧ (((o - 0x321120) % 262144) % 4096) / 256 < 2 ∧ ((((o - 0x321120) % 262144) % 4096) % 256) = 0 then MC_ERRADDR.fields (6 * ((o - 0x321120) / 262144) + 2 * (((o - 0x321120) % 262144) / 4096) + ((((o - 0x321120) % 262144) % 4096) / 256)) else
  if 0x321128 ≤ o ∧ (o - 0x321128) / 262144 < 4 ∧ ((o - 0x321128) % 262144) / 4096 < 3 ∧ (((o - 0x321128) % 262144) % 4096) / 256 < 2 ∧ ((((o - 0x321128) % 262144) % 4096) % 256) = 0 then MC_REF.fields (6 * ((o - 0x321128) / 262144) + 2 * (((o - 0x321128) % 262144) / 4096) + ((((o - 0x321128) % 262144) % 4096) / 256)) else
  if 0x321130 ≤ o ∧ (o - 0x321130) / 262144 < 4 ∧ ((o - 0x321130) % 262144) / 4096 < 3 ∧ (((o - 0x321130) % 262144) % 4096) / 256 < 2 ∧ ((((o - 0x321130) % 262144) % 4096) % 256) = 0 then MC_SCRUB.fields (6 * ((o - 0x321130) / 262144) + 2 * (((o - 0x321130) % 262144) / 4096) + ((((o - 0x321130) % 262144) % 4096) / 256)) else
  []

/-- The fields of the register at window offset `o` in the CSTORE block; none where the block holds no register (R17). -/
def cstoreFields (o : Nat) : List Field :=
  if o = 0x400000 then CSTORE_STAGECTL.fields else
  if o = 0x400008 then CSTORE_APPLY.fields else
  if o = 0x400010 then CSTORE_STAT.fields else
  if 0x400100 ≤ o ∧ (o - 0x400100) / 8 < 48 ∧ ((o - 0x400100) % 8) = 0 then CSTORE_VER.fields (((o - 0x400100) / 8)) else
  if 0x414000 ≤ o ∧ (o - 0x414000) / 8 < 64 ∧ ((o - 0x414000) % 8) = 0 then CSTORE_SMATCH.fields (((o - 0x414000) / 8)) else
  if 0x410000 ≤ o ∧ (o - 0x410000) / 8 < 1024 ∧ ((o - 0x410000) % 8) = 0 then CSTORE_SMICRO.fields (((o - 0x410000) / 8)) else
  if 0x412000 ≤ o ∧ (o - 0x412000) / 32 < 256 ∧ ((o - 0x412000) % 32) / 8 < 3 ∧ (((o - 0x412000) % 32) % 8) = 0 then CSTORE_SNANO.fields (((o - 0x412000) / 32)) ((((o - 0x412000) % 32) / 8)) else
  []

/-- The fields of the register at window offset `o` in the DIR block; none where the block holds no register (R17). -/
def dirFields (o : Nat) : List Field :=
  if o = 0x7FF200 then DIR_INFO.fields else
  if 0x7FF000 ≤ o ∧ (o - 0x7FF000) / 32 < 16 ∧ ((o - 0x7FF000) % 32) = 0 then DIR_ID.fields (((o - 0x7FF000) / 32)) else
  if 0x7FF008 ≤ o ∧ (o - 0x7FF008) / 32 < 16 ∧ ((o - 0x7FF008) % 32) = 0 then DIR_GEOM.fields (((o - 0x7FF008) / 32)) else
  if 0x7FF010 ≤ o ∧ (o - 0x7FF010) / 32 < 16 ∧ ((o - 0x7FF010) % 32) = 0 then DIR_REACH.fields (((o - 0x7FF010) / 32)) else
  if 0x7FF018 ≤ o ∧ (o - 0x7FF018) / 32 < 16 ∧ ((o - 0x7FF018) % 32) = 0 then DIR_PLACE.fields (((o - 0x7FF018) / 32)) else
  []

/-- The fields of the register at window offset `o` (R618, R625, R628). -/
def regFields (o : Nat) : List Field :=
  if o < 0x10000 then apronFields o else
  if 0x10000 ≤ o ∧ o < 0x20000 then tailorFields o else
  if 0x20000 ≤ o ∧ o < 0x30000 then faultFields o else
  if 0x30000 ≤ o ∧ o < 0x40000 then powerFields o else
  if 0x40000 ≤ o ∧ o < 0x80000 then collarFields o else
  if 0x80000 ≤ o ∧ o < 0x100000 then triadFields o else
  if 0x100000 ≤ o ∧ o < 0x140000 then chanFields o else
  if 0x140000 ≤ o ∧ o < 0x180000 then laneFields o else
  if 0x180000 ≤ o ∧ o < 0x190000 then hemFields o else
  if 0x190000 ≤ o ∧ o < 0x1A0000 then pleatFields o else
  if 0x1A0000 ≤ o ∧ o < 0x1B0000 then cloakFields o else
  if 0x1B0000 ≤ o ∧ o < 0x1C0000 then seamFields o else
  if 0x200000 ≤ o ∧ o < 0x240000 then partFields o else
  if 0x300000 ≤ o ∧ o < 0x400000 then weftFields o else
  if 0x400000 ≤ o ∧ o < 0x420000 then cstoreFields o else
  if 0x7FF000 ≤ o ∧ o < 0x800000 then dirFields o else
  []

end Sys2Proof.Machine
end

