-- ==== Sys2Proof/Machine/State.lean ====
section
/-! DEFINITION. The state of the module as plain data, the ways a step can stop, and the state after reset.
Every piece of state the spec names is here; INVENTORY.md lists each with its rule and reset value. The value
after `:=` in a structure is the field's value in `State.reset`. Register fields of the control window live in
`State.fields`, one entry for each field whose value differs from its Cold reset value (Regs.lean). -/

namespace Sys2Proof.Machine

/-! ### Power, board and test port (02_power_input_and_states.md, 03_module_lands_and_board.md) -/

/-- Where the module stands between power-on and service (R41, R45, R63, R66, R76, R80, R81, R589). -/
inductive Phase where
  /-- every rail but the Apron pre-regulator is off: below the release, or after a stop of R45 -/
  | off
  /-- the input soft-start ramp of R42, before a Cold reset (`true`) or a Module reset (`false`) -/
  | softStart (cold : Bool)
  /-- a Cold reset has been taken and the boot has not begun -/
  | coldReset
  /-- a Module reset has been taken and the boot has not begun -/
  | moduleReset
  /-- boot step 2 found no REFCLK and retries each second (R81) -/
  | lockWait
  /-- the boot ended without service (R590), or FTM_N was 0 (R80) -/
  | bootFailed
  /-- a service boot (R592): only the Tailor runs -/
  | service
  /-- booted: POWER.STATE says which of the power states holds -/
  | run
  /-- overvoltage shutdown: waiting for the fall through 77.0 V (R41) -/
  | overvoltage
  /-- thermal stop: waiting for 140 °C (R66) -/
  | thermal
  /-- Vault: only the Apron island is powered (R49) -/
  | vault
deriving DecidableEq, Repr

/-- The 48 V input and the temperature and cap limits of the clusters. -/
structure PowerState where
  /-- where the module stands; reset: a Cold reset has been taken (R10) -/
  phase : Phase := .coldReset
  /-- the sensed voltage of pair A and pair B in mV (R41); DESIGN CHOICE 48,000, log entry 5 -/
  vinA : Nat := 48000
  vinB : Nat := 48000
  /-- the power cap in mW (R43) -/
  cap : Nat := 1350000
  /-- the temperature limit of each cluster's clock in MHz (R64) -/
  tempLimit : AMap Nat := []
  /-- the power-cap limit of each cluster's clock in MHz (R65) -/
  capLimit : AMap Nat := []
  /-- the highest and the lowest die sensor in °C + 64 as last sampled (R66); DESIGN CHOICE 25 °C, log entry 5 -/
  hottest : Nat := 89
  coldest : Nat := 89
  /-- CAUSE of the reset in progress, and whether it is a Module reset (R586); they enter RESETSTAT at boot -/
  cause : Nat := 1
  module : Bool := false
deriving DecidableEq, Repr

/-- The lands of 03_module_lands_and_board.md that are not registers. -/
structure Pins where
  /-- RESET_N high (R84) -/
  resetN : Bool := true
  /-- FAIL_N high (R84, R559) -/
  failN : Bool := true
  /-- READY high (R84) -/
  ready : Bool := false
  /-- WAKE_N high, as last sampled at an event (R84) -/
  wakeN : Bool := true
  /-- PPS_IN and PPS_OUT: a rising edge has been seen, has been driven (R83) -/
  ppsIn : Bool := false
  ppsOut : Bool := false
  /-- every output land and CML transmitter is high-impedance (R76) -/
  hiZ : Bool := true
  /-- REFCLK is present (R81) -/
  refclk : Bool := true
  /-- filtered PRSNT_N of the channels: listed 1 where an adapter is fitted, that is, the land is low (R88) -/
  present : AMap Bool := []
  /-- DIMM_PWREN of slot s (R86) -/
  dimmPwr : AMap Bool := []
  /-- DDR_RESET_N of channel k is high (R77, R78) -/
  ddrResetN : AMap Bool := []
  /-- the straps as sampled at the last Cold reset (R79) -/
  bootSel : Nat := 0
  vaultAllow : Bool := false
  ftmN : Bool := true
deriving DecidableEq, Repr

/-- The instructions of the test port (R91). -/
inductive TapInstr where
  | idcode | samplePreload | extest | clamp | highz | bypass | debug (code : Nat)
deriving DecidableEq, Repr

/-- The test port (R91, R92). -/
structure TapState where
  /-- the instruction register's selection; IDCODE after test-logic reset (R91) -/
  ir : TapInstr := .idcode
  /-- the boundary register's update cells, cell 0 next to TDI (R92); DESIGN CHOICE 0, log entry 7 -/
  boundary : AMap Bool := []
  /-- the captured value last shifted out on TDO: up to 6,611 bits -/
  capture : List Bool := []
  /-- outputs are driven from the boundary register (EXTEST, CLAMP) or held off (HIGHZ) -/
  drive : Bool := false
  allHighZ : Bool := false
deriving DecidableEq, Repr

/-! ### Contexts (04_native_architecture.md) -/

/-- The system registers of one level: S.x at 0x010–0x018 or F.x at 0x020–0x029 (R100). -/
structure SysRegs where
  vbar : Word := 0
  rpc : Word := 0
  rst : Word := 0
  cause : Word := 0
  faddr : Word := 0
  scr0 : Word := 0
  scr1 : Word := 0
  root : Word := 0
  /-- F.FPR, at F only -/
  fpr : Word := 0
  /-- F.CTX, at F only -/
  ctx : Word := 0
deriving DecidableEq, Repr

/-- What a SAVEM or LOADM in progress keeps between its units beside rd and ra (R222, R223). -/
structure BlockProg where
  /-- the items held for the final commit of a LOADM: item number to value -/
  held : AMap Word := []
  /-- the items done when the block it is in was entered by its last commit -/
  entered : Option Nat := none
deriving DecidableEq, Repr

/-- The architected state of one context (R96) with the entries its Pocket keeps (R183, R204). -/
structure Ctx where
  /-- g1–g31; g0 reads as zero and is never listed (R93) -/
  g : AMap Word := []
  /-- f0–f31 (R94) -/
  f : AMap Word := []
  pc : Word := 0
  st : Word := 0
  fcsr : Word := 0
  dcr : Word := 0
  cyc : Word := 0
  /-- the S registers -/
  sr : SysRegs := {}
  /-- the F registers (firmware context) -/
  fr : SysRegs := {}
  /-- abandonment entry of the lower level, P or F, and of S: the PC of the abandoned instruction (R183) -/
  abandonLow : Option Word := none
  abandonS : Option Word := none
  /-- the wide part is zero and lies in no bank and not yet in the save area (START, a zeroed Pocket: R209, R219) -/
  wideZero : Bool := true
  /-- what each SAVEM or LOADM in progress keeps between its units, by the instruction's PC (R222, R223) -/
  blocks : AMap BlockProg := []
deriving DecidableEq, Repr

/-- A stop of a partition context that waits for its firmware Pocket (R124, R217): the fields PARTX sets. -/
structure PartxEntry where
  ctx : Nat
  cause : Word
  faddr : Word
  fpr : Word
deriving DecidableEq, Repr

/-- A command a partition has written to CTXCMD, with the CTXPC and CTXARG captured at the write (R232). -/
structure CtxCmd where
  part : Nat
  ctx : Nat
  op : Nat
  pc : Word
  arg : Word
deriving DecidableEq, Repr

/-- A command that has reached a Pocket whose slot moves, and waits for the end of the move (R331): firmware's, or a CTXCMD. -/
inductive HeldCmd where
  | fw (ctx op : Nat)
  | part (cmd : CtxCmd)
deriving DecidableEq, Repr

/-! ### Collar (08_collar_interrupts.md) -/

structure CollarState where
  /-- PENDING sources, the longest pending first (R237) -/
  ages : List Nat := []
  /-- the holder of a software source in service (R238) -/
  swHolder : AMap Nat := []
  /-- the deadline of each context's timer; 0 disarmed (R246) -/
  timers : AMap Nat := []
deriving DecidableEq, Repr

/-! ### Fault collector (20_fault_handling.md) -/

/-- A fault record without its CRC (R552). -/
structure FaultRec where
  loc : Nat
  seq : Nat := 0
  tod : Nat := 0
  ctx : Option Nat := none
  part : Option Nat := none
  replay : Bool := false
  todu : Bool := false
  lostBefore : Bool := false
  d0 : Nat := 0
  d1 : Nat := 0
  d2 : Nat := 0
  /-- it carries a location code of R630: its macro, array and cell fields are 0 -/
  bare : Bool := false
deriving DecidableEq, Repr

structure FaultState where
  /-- records that wait for the log, oldest first, at most 256 (R553) -/
  queue : List FaultRec := []
  /-- the next SEQ (R552); set at boot above the highest valid SEQ of the log -/
  seqNext : Nat := 1
  /-- the log slots in Hem memory (R553): slot to record; kept by every reset -/
  log : AMap (Option FaultRec) := []
  /-- records were lost since the previous record (R554) -/
  lost : Bool := false
  /-- the Apron island's mirror of "the queue holds a record" (R553) -/
  mirrorQueued : Bool := false
  /-- the Apron island itself lost power since the last boot (R553) -/
  islandLost : Bool := false
  /-- the fault state holds a fatal event of action 0x8 or 0x9 (R559) -/
  holdsFatal : Bool := false
  /-- every event of the fault state was a replay (R558) -/
  onlyReplays : Bool := true
  /-- QUIET ms have passed since the last contained or fatal event of the fault state (R558) -/
  quietOver : Bool := false
  /-- a boot has failed (R559) -/
  bootFail : Bool := false
  /-- CDROP or SLOST has risen since its last read (R556) -/
  lostNoted : Bool := false
deriving DecidableEq, Repr

/-! ### Apron island (21_apron_keep_and_lifetime.md) -/

/-- The write counter and ECC state of one Keep entry; its value is the field it holds (R572, R575). -/
structure KeepMeta where
  count : Nat := 0
  uncorr : Bool := false
  /-- the NEAR record of R574 has been raised for the entry -/
  near : Bool := false
deriving DecidableEq, Repr

structure ApronState where
  /-- VIN48 is at or above 9.0 V (R47, R566) -/
  powered : Bool := true
  /-- the Apron time count in units of 2^-12 µs, and its fraction in units of 2^-24 (R567) -/
  count : Nat := 0
  frac : Nat := 0
  /-- CALFLOOR in calendar seconds, and whether it is uncorrectable (R569) -/
  calfloor : Nat := 0
  calfloorBad : Bool := false
  /-- Keep entries by entry number (R572) -/
  keep : AMap KeepMeta := []
  /-- the lifetime words as last flushed to MRAM (R582); the LIFE fields hold the flushed value plus the counts -/
  lifeFlushed : AMap Nat := []
deriving DecidableEq, Repr

/-! ### Core pairs (06, 12) -/

/-- A store to memory in a pair's store buffer (R282): the context, the address, the bytes, the memory type, and whether it is
one operation that clears the poison of the sectors it covers (R258). -/
structure MemStore where
  ctx : Nat
  mp : Nat
  bytes : List Byte
  uncached : Bool := false
  whole : Bool := false
deriving DecidableEq, Repr

/-- A posted store to device memory that its destination has not acted on (R283); `st64`: one ST64. -/
structure DevStore where
  ctx : Nat
  mp : Nat
  bytes : List Byte
  st64 : Bool := false
deriving DecidableEq, Repr

/-- The patch a core pair's Damson holds: micro-words, nano-words and match registers by index, each with its even-parity bit
above its top bit (R170, R187, R189). -/
structure Damson where
  micro : AMap Nat := []
  nano : AMap Nat := []
  mtch : AMap Nat := []
deriving DecidableEq, Repr

/-- A cached stage 1 leaf (R115): the pair that holds it, its tags, the page and the leaf entry. -/
structure Tlb1 where
  pair : Nat
  part : Nat
  asid : Nat
  /-- first virtual address of the page, and the page's size as a power of two -/
  va : Nat
  bits : Nat
  leaf : Nat
  /-- where the leaf was read: module-physical address, for the DIRTY update (R113) -/
  at_ : Nat
deriving DecidableEq, Repr

/-- A cached stage 2 leaf (R115). -/
structure Tlb2 where
  pair : Nat
  part : Nat
  pr : Nat
  bits : Nat
  leaf : Nat
  at_ : Nat
deriving DecidableEq, Repr

/-- A store that a routine has made and not committed (R179): the pieces it was translated to, as module-physical address,
memory type and length, and its bytes; `st64`: it is one ST64. -/
structure UStore where
  pieces : List (Nat × Nat × Nat)
  bytes : List Byte
  st64 : Bool := false
deriving DecidableEq, Repr

/-- A routine of the control store that has fetched a Damson word (R171–R186): the instruction it runs, and the working state
that is part of no context (R179). -/
structure Routine where
  ctx : Nat
  /-- the PC and the words of the instruction, by which the next command finds it again -/
  pc : Word
  cls : Bool
  ir : Nat
  ir2 : Nat
  /-- the micro address of the next word -/
  addr : Nat
  /-- t0 to t15 -/
  temps : AMap Word := []
  /-- the micro-flags, in the places of ST -/
  flags : Word
  loop : Nat := 0
  /-- the return stack, the last address first -/
  ret : List Nat := []
  /-- the decimal carry vector: bit k, the carry out of nibble k -/
  carry : Nat := 0
  dbad : Bool := false
  /-- the last address check failed -/
  chk : Bool := false
  /-- memory data returned by the last load -/
  data : Word := 0
  /-- the pending-store list -/
  stores : List UStore := []
  /-- floating exceptions raised, for FCSR at the commit -/
  raised : Nat := 0
  /-- a register field that the last nano-word named under XMODE is outside the Classic range -/
  outside : Bool := false
  /-- the commit micro-word has run, and the PC it set, if it set one -/
  committed : Bool := false
  target : Option Word := none
  /-- a Damson word has been fetched -/
  patched : Bool := false
deriving DecidableEq, Repr

/-- What a core pair holds beside its Pockets. -/
structure CoreState where
  /-- Damson of each physical pair (R187) -/
  damson : AMap Damson := []
  /-- the patched routine in progress of a physical pair (R179) -/
  routines : AMap (Option Routine) := []
  /-- context of a slot waiting for its firmware Pocket, in the order of the stops (R217): slot to entries -/
  partx : AMap (List PartxEntry) := []
  /-- READY Pockets of a slot, the longest READY first (R211): slot to contexts -/
  ready : AMap (List Nat) := []
  /-- wide banks of a slot, the least recently used first (R204, R215): slot to contexts -/
  banks : AMap (List Nat) := []
  /-- the running Pocket's slice has ended (R212): slot to flag -/
  sliceOver : AMap Bool := []
  /-- cached translations (R115): stage 1 and stage 2 leaves -/
  tlb1 : List Tlb1 := []
  tlb2 : List Tlb2 := []
  /-- gating of a slot (R218): 0 running, 1 clock-gated, 2 power-gated -/
  gate : AMap Nat := []
  /-- TOD of each retry of a physical pair, for the hour of R325 -/
  retryTods : AMap (List Nat) := []
  /-- CTXCMD commands written and not carried out, in order (R232) -/
  ctxCmds : List CtxCmd := []
  /-- commands for Pockets of a moving slot, in arrival order (R331) -/
  heldCmds : List HeldCmd := []
  /-- partitions whose DESTROY (1) or Partition reset (2) waits for a move to end (R228, R331) -/
  partWaits : AMap Nat := []
  /-- a PERSIST of a pair waits for its acknowledgement (R293): pair to the context and its PC -/
  persistWait : AMap (Option (Nat × Word)) := []
  /-- moves that have carried out step 1 and wait for the Tailor, in that order (R331, R601): the pair, whether the move is planned,
  and what it meets -/
  heldMoves : List (Nat × Bool × MoveIn) := []
  /-- device stores that are posted and not performed, oldest first (R283): in a pair's device queue or on Stitch -/
  devq : List DevStore := []
deriving DecidableEq, Repr

/-! ### Debug (12_lockstep_retry_sparing.md, R337–R341) -/

/-- A debug action that waits for the selected Pocket's next commit point (R338). -/
inductive DbgAction where
  | halt | resume | step
  | dreg (reg : Nat) (write : Bool) (value : Word)
  | dmem (addr : Nat) (size : Nat) (mp : Bool) (write : Bool) (value : Word)
  | dbrk (idx : Nat) (pc : Word) (en : Bool)
deriving DecidableEq, Repr

structure DebugState where
  /-- T0 is selected (DSEL [15]), and the selected context otherwise; DESIGN CHOICE false and 0, log entry 4 -/
  selT0 : Bool := false
  sel : Nat := 0
  /-- RESULT of the last action (R341) -/
  result : Nat := 0
  /-- the value the last DREG or DMEM read returned -/
  value : Word := 0
  /-- the action that waits to be applied, and the context it is for -/
  pend : Option (Nat × DbgAction) := none
  /-- debug-halted contexts: halt cause + 4 × breakpoint index (R340) -/
  halted : AMap Nat := []
  /-- breakpoints: context × 4 + index to the PC, while enabled (R340) -/
  bps : AMap (Option Word) := []
  /-- a context that a STEP runs for one instruction (R339) -/
  stepping : AMap Bool := []
  /-- a context resumed at a breakpoint passes it once -/
  passBp : AMap Bool := []
deriving DecidableEq, Repr

/-! ### Caches, coherence and memory (09, 10, 11, 14) -/

/-- The state of a sector in a caching agent (R256). -/
inductive CState where
  | m | o | e | s | i
deriving DecidableEq, Repr

/-- A directory entry (R259): the holder of M, O or E with its state, and the sharers. -/
structure DirEntry where
  owner : Option Nat := none
  st : CState := .i
  sharers : List Nat := []
deriving DecidableEq, Repr

/-- The requests of caching and non-caching agents (R261, R263). -/
inductive ReqKind where
  | readS | readM | upgrade | writeBack | clean | evictNotice | readCur | writeFull | writePart
deriving DecidableEq, Repr

/-- A transaction a home has accepted for a sector and not completed (R262, R264). -/
structure HomeTxn where
  requester : Nat
  kind : ReqKind
  /-- the holder the request was forwarded to and has not answered -/
  fwd : Option Nat := none
  /-- the holders whose invalidation acknowledgement is outstanding -/
  inv : List Nat := []
  /-- the poison that came with the data for the requester (R257) -/
  po : Bool := false
deriving DecidableEq, Repr

/-- A request that has been answered with NACK and will be sent again (R264, R265). -/
structure NackedReq where
  requester : Nat
  sector : Nat
  kind : ReqKind
  count : Nat
  persistent : Bool := false
  /-- a write's first address and bytes -/
  addr : Nat := 0
  data : List Byte := []
deriving DecidableEq, Repr

/-- Memory, caches and coherence. Keys: a DRAM byte is channel × 2^40 + channel address; a sector is its
module-physical address ÷ 64. -/
structure MemState where
  /-- DRAM bytes by channel and channel address; unlisted bytes read 0: the zero fill of R306, log entry 8 -/
  dram : AMap Byte := []
  /-- poisoned DRAM sectors by channel × 2^34 + channel address ÷ 64 (R257, R312) -/
  dramPoison : AMap Bool := []
  /-- dirty L3 bytes by module-physical address (R254) -/
  l3data : AMap (Option Byte) := []
  /-- L3 sectors: 1 clean, 2 dirty with respect to DRAM (R254) -/
  l3 : AMap Nat := []
  /-- L3 lines of a set, most recently used first: die × 2^14 + slice × 2^10 + set to lines of 256 bytes, each with its way;
  way group g is ways 4g to 4g + 3 (R250) -/
  l3sets : AMap (List (Nat × Nat)) := []
  /-- dirty L3 sectors that DRAM has not accepted yet, oldest first, at most 32 (R266): die × 16 + slice to sectors -/
  l3evict : AMap (List Nat) := []
  /-- dirty L2 and Tailor-cache bytes by module-physical address (R256) -/
  cdata : AMap (Option Byte) := []
  /-- poison of a sector as L3 holds it, where that differs from DRAM (R257) -/
  l3poison : AMap (Option Bool) := []
  /-- the poison bit of a copy (R257): sector × 64 + caching agent -/
  cpoison : AMap Bool := []
  /-- directory entries by sector (R259) -/
  dir : AMap DirEntry := []
  /-- the sectors with an entry in a home's directory, the least recently allocated first (R260): die × 16 + slice, 64 for the
  Hem home -/
  dirOrder : AMap (List Nat) := []
  /-- sectors of an L1 set, most recently used first: (pair × 2 + 1 for data, 0 for instructions) × 2^8 + set (R250). The Main
  and the Checker of a pair hold the same sectors (R322). -/
  l1 : AMap (List Nat) := []
  /-- L2 lines of a set, most recently used first: pair × 2^11 + set to lines of 128 bytes (R250) -/
  l2sets : AMap (List Nat) := []
  /-- dirty sectors of each agent, the least recently written first (R253) -/
  dirty : AMap (List Nat) := []
  /-- home transactions in progress by sector (R264) -/
  txns : AMap (Option HomeTxn) := []
  /-- requests that received NACK and will be retried, and persistent requests, in arrival order (R264, R265) -/
  nacked : List NackedReq := []
  /-- the 16-bit shift register of each requester (R264) -/
  lfsr : AMap Nat := []
  /-- sectors in the eviction buffer of an agent whose write-back is not acknowledged, oldest first, at most 16, each with
  whether the home has taken it (R266): agent to sectors -/
  evict : AMap (List (Nat × Bool)) := []
  /-- the next set of the walker that drains an L2 (R276): pair to set -/
  walk : AMap Nat := []
  /-- a set request met a drain in progress (R278): key (L2: pair; L3 group: 64 + die × 4 + group) -/
  reEnable : AMap Bool := []
  /-- the L2s that an entry of Nap or deeper has drained, by physical pair (R279) -/
  napL2 : List Nat := []
  /-- a clear met POWERING (R278) -/
  clearLater : AMap Bool := []
  /-- the compute domain is checkstopped (R274) -/
  checkstop : Bool := false
  /-- a Weft die out of service (R305, R623); a Port die out of service (R623) -/
  weftOut : AMap Bool := []
  portOut : AMap Bool := []
  /-- the REFsb commands that a rank owes, four for each tREFI of debt: channel × 8 + rank (R307) -/
  refDebt : AMap Nat := []
  /-- a rank in precharge power-down (R310) -/
  rankDown : AMap Bool := []
  /-- a channel at half its transfer slots (R309) -/
  halfRate : AMap Bool := []
  /-- the device marked failed of a rank (R313): channel × 8 + rank to device + 1 -/
  marked : AMap Nat := []
  /-- TOD of the corrected events of a device within the hour (R313): (channel × 8 + rank) × 32 + device -/
  ceHour : AMap (List Nat) := []
  /-- the DIMM in a slot, as its SPD was last read (R301, R306) -/
  dimms : AMap (Option DimmIn) := []
  /-- the capacity of a channel in GiB, as training found it (R306, R314) -/
  chanGiB : AMap Nat := []
  /-- the L3 set an L3 slice scrubs next (R314): die × 16 + slice -/
  l3scrub : AMap Nat := []
  /-- window bytes as H0 and as H1 hold them, by window offset (R397); DESIGN CHOICE 0 at first use, log entry 9 -/
  h0 : AMap Byte := []
  h1 : AMap Byte := []
  /-- window bytes the Hem home has taken and that are not yet durable (R255, R293) -/
  winFlight : AMap (Option Byte) := []
  /-- window sectors not yet durable: window offset ÷ 64 to the agents that wrote them, plus 1 (R293) -/
  winPend : AMap (List Nat) := []
  /-- stores of contexts that have committed and are not performed, oldest first (R282): physical pair to stores -/
  sbuf : AMap (List MemStore) := []
  /-- the durable poison map of the windows by window offset ÷ 64 (R401) -/
  winPoison : AMap Bool := []
deriving DecidableEq, Repr


/-! ### Rings, journal, triad and pools (13, 14, 15) -/

/-- A doorbell the Hub has taken and the triad has not decided, or that has passed validation and waits for journal
space (R358). -/
structure Doorbell where
  ring : Nat
  /-- the context that rang, none for a Hub agent -/
  ctx : Option Nat
  /-- not one ST64 to offset 0x000 (R350) -/
  bad : Bool := false
  /-- the inline descriptor (R352): eight words -/
  words : List Word
  /-- it has passed every check of R358 -/
  passed : Bool := false
  /-- it reached the Hub in Shutter (R55) -/
  shutter : Bool := false
deriving DecidableEq, Repr

/-- A journal record as one Hem die holds it (R387). -/
structure JRec where
  hdr : Nat
  tsn : Nat
  tod : Nat
  pass : Nat
  crc : Nat
  /-- the inline descriptor as it landed -/
  desc : List Word
  sent : Nat := 0
  answered : Nat := 0
  retired : Nat := 0
  /-- 8-byte words with uncorrectable ECC on this die, by offset ÷ 8 (R380, R396) -/
  unc : List Nat := []
deriving DecidableEq, Repr

/-- A record that has been issued and whose durability vote has not passed (R382, R384). -/
structure Flight where
  slot : Nat
  jr : JRec
  /-- H0 and H1 have reported it durable -/
  d0 : Bool := false
  d1 : Bool := false
deriving DecidableEq, Repr

/-- Where an accepted transaction stands between acceptance and retirement (R32, R356, R392). -/
inductive TxnStage where
  /-- waiting for its ring pair to be bound again (R374, R394) -/
  | unbound
  /-- chained descriptors and payload are being read (R357) -/
  | fetch
  /-- the payload is at Pleat or at Cloak (R490, R502) -/
  | compress | encrypt
  /-- ready to be sent: its channel is not UP, or its SENT mark is not durable (R392) -/
  | ready
  /-- frames queued or sent; the answer is awaited -/
  | sent
  /-- the reply is at Cloak or at Pleat (R502, R491) -/
  | decrypt | decompress
  /-- the outcome is decided; its ANSWERED mark is issued and not durable -/
  | settled
  /-- ANSWERED is durable -/
  | answered
deriving DecidableEq, Repr

/-- An accepted transaction as the triad's state memory holds it (R411). -/
structure Txn where
  slot : Nat
  hdr : Nat
  desc : List Word
  stage : TxnStage := .fetch
  /-- chained descriptors read so far, and the PR of the next -/
  chain : Nat := 0
  next : Nat := 0
  /-- gather and scatter segments in order: PR address and length (R355) -/
  gather : List (Nat × Nat) := []
  scatter : List (Nat × Nat) := []
  /-- the outbound payload as gathered, then compressed, then encrypted -/
  payload : List Nat := []
  comp : Bool := false
  enc : Bool := false
  /-- the SENT word issued, and whether the mark is durable (R389) -/
  sentWord : Nat := 0
  sentDur : Bool := false
  /-- answer fragments taken: fragment number and bytes (R460) -/
  frags : List (Nat × List Nat) := []
  fragsN : Nat := 0
  astatus : Nat := 0
  reply : List Nat := []
  /-- the ANSWERED word issued, and the DETAIL of the final entry -/
  ansWord : Nat := 0
  detail : Nat := 0
  /-- its final entry has been written; its RETIRED mark has been issued -/
  final : Bool := false
  retire : Bool := false
  /-- it is driven again (R37), and its entry carries REPOSTED (R36, R373) -/
  redrive : Bool := false
  reposted : Bool := false
  /-- in split mode, the lane it was given to (R456) -/
  lane : Option Nat := none
  /-- the FSN of its LAST frame on path A and on path B, once chosen (R460) -/
  lastA : Option Nat := none
  lastB : Option Nat := none
  /-- its chain or payload was lost with DRAM at a Module or Cold reset (R37, R394) -/
  dataLost : Bool := false
  /-- XTS blocks reserved in the slot's USED (R511) -/
  reserved : Nat := 0
deriving DecidableEq, Repr

/-- An entry to be written to a ring: its ring, four words without PHASE, and what moderation needs (R370). -/
structure RingEntry where
  ir : Bool := false
  words : List Nat
  /-- the TSN of a final entry, 0 for others -/
  final : Nat := 0
  /-- a refusal, a control entry or an entry of RECOVERING, or the final entry of an URGENT transaction -/
  now : Bool := false
deriving DecidableEq, Repr

/-- What the triad keeps of a ring pair beside its registers. -/
structure RingState where
  /-- P: entries since the last event (R370) -/
  p : Nat := 0
  /-- the moderation timer is armed, and the TOD at which it was armed -/
  armed : Bool := false
  armedAt : Nat := 0
  /-- entries that wait because a ring write faulted (R348) -/
  waiting : List RingEntry := []
  /-- CR slots that hold final entries not acknowledged: slot and TSN (R369) -/
  finals : List (Nat × Nat) := []
deriving DecidableEq, Repr

/-- An inbound transaction of a channel (R430, R461, R462). -/
structure Inbound where
  tsn : Nat
  opcode : Nat
  total : Nat
  /-- lane of its most recent REQ frame (R456) -/
  lane : Nat
  pool : Nat
  index : Nat
  gen : Nat
  owner : Nat
  /-- fragments taken -/
  frags : Nat := 0
  /-- delivered on the IR of `ring` -/
  delivered : Bool := false
  ring : Nat := 0
  /-- the TSN of the ANSWER order that answers it -/
  answer : Option Nat := none
deriving DecidableEq, Repr

/-- A firmware image of the triad: its version and state format (R424). -/
structure TriadImage where
  version : Nat
  format : Nat
deriving DecidableEq, Repr

structure TriadState where
  /-- the doorbell queue; the first 512 lie in the Hub, the rest wait on Stitch (R358) -/
  dbq : List Doorbell := []
  /-- records in the accept path, in TSN order -/
  flights : List Flight := []
  /-- accepted transactions not retired, by TSN -/
  txns : AMap (Option Txn) := []
  /-- the journal slots of H0 and H1 (R379) -/
  j0 : AMap (Option JRec) := []
  j1 : AMap (Option JRec) := []
  /-- the allocation PASS (R387) -/
  jpass : Nat := 0
  /-- the clean-stop mark in the metadata of the Hem dies (R61, R379) -/
  cleanStop : Bool := false
  /-- the die named retired in the other's metadata (R406): 0 none, 1 H0, 2 H1 -/
  retiredDie : Nat := 0
  /-- HEM.SINGLETSN as the metadata holds it (R406) -/
  singleMeta : Nat := 0
  /-- writes to each 4 KiB frame of the two Hem dies: die × 2^19 + frame (R403) -/
  wear : AMap Nat := []
  /-- writes to every frame of a 2 MiB granule of die space by zeroing: die × 2^10 + granule (R398, R403) -/
  wearG : AMap Nat := []
  /-- granules whose zeroing is in progress: the word written to GOWN for each (R398) -/
  zeroing : AMap Nat := []
  /-- the sector the patrol rewrites next (R405) -/
  patrol : Nat := 0
  rings : AMap RingState := []
  /-- inbound transactions by channel, oldest first -/
  inbound : AMap (List Inbound) := []
  /-- inbound TSNs delivered in this EPOCH that have been answered and retired, or ended (R462) -/
  inDone : AMap (List Nat) := []
  /-- the free list of each pool, head first (R429); log entry 21 -/
  poolFree : AMap (List Nat) := []
  /-- quarantined buffers (R431): pool × 2^20 + index -/
  quar : AMap Bool := []
  /-- TODs of the ejections of each member within the hour (R417) -/
  ejections : AMap (List Nat) := []
  /-- a batch that has been offered and on which no agreement was reached (R414) -/
  offeredAgain : Bool := false
  /-- the member whose rejoin waits for a Tailor restart to end, and whether it will pass its self-test (R419, R426) -/
  rejoinWaits : Option (Nat × Bool × CopyIn) := none
  /-- the members whose state memory equals, word for word, the state that the triad keeps (R411, R421) -/
  inStep : List Nat := [0, 1, 2]
  /-- ACTIVE and STAGED images (R424) -/
  active : TriadImage := { version := 0, format := 0 }
  staged : Option TriadImage := none
  /-- agreed-cycle count: unknown but for being read by debug; T0's firmware PC likewise (R426) -/
  cycles : Nat := 0
deriving DecidableEq, Repr

/-! ### Lanes and channels (16) -/

structure LaneState where
  /-- frames for this lane that have no FSN yet: split mode, in class order (R463) -/
  queue : List CuffFrame := []
  /-- unsequenced frames to send -/
  unseq : List CuffFrame := []
  /-- sequenced frames of the channel that this lane has not sent yet, with their FSN (dual-send, R455) -/
  behind : List CuffFrame := []
  /-- the replay buffer: sent and not acknowledged, oldest first (R452) -/
  sent : List CuffFrame := []
  /-- frames to be sent again, oldest first -/
  replay : List CuffFrame := []
  /-- times the oldest unacknowledged frame has been replayed without an advance -/
  replays : Nat := 0
  /-- ACKFSN and CREDIT of the latest header received -/
  ackSeen : Nat := 0xFFFFFFFF
  credit : Nat := 0
  /-- frames received ahead of a gap (split mode, R454) -/
  held : List CuffFrame := []
  /-- code alignment, marker lock, and a LINKINFO since the last lock (R444) -/
  codeLock : Bool := false
  markerLock : Bool := false
  linkInfo : Bool := false
  /-- words 0 and 3 of the last LINKINFO received on the lane since the last lock -/
  lastInfo : Option (Nat × Nat) := none
  /-- marker count sent next, and the last received, with how many in a row were missing or misplaced -/
  txCount : Nat := 0
  rxCount : Option Nat := none
  missed : Nat := 0
  /-- arrival − TS of the last 16 markers, newest first, in units of 2^-12 µs modulo 2^28 -/
  stamps : List Nat := []
  /-- live counters (R477): bytes and frames sent and received -/
  txBytes : Nat := 0
  rxBytes : Nat := 0
  txFrames : Nat := 0
  rxFrames : Nat := 0
  /-- symbols corrected, or code violations, not yet a whole unit of 1,024 (R477, R581) -/
  corrRest : Nat := 0
  /-- a recalibration waits for a quiet lane (R468), and one under way is a full one -/
  recalWaits : Bool := false
  recalFull : Bool := false
  /-- the peer has announced a pause (R468) -/
  peerPause : Bool := false
deriving DecidableEq, Repr

structure ChanState where
  /-- frames of the channel that have no FSN yet: dual-send, in class order (R455, R463) -/
  queue : List CuffFrame := []
  /-- the channel's next FSN to assign and to expect in dual-send (R451, R454) -/
  txNext : Nat := 0
  rxNext : Nat := 0
  /-- frames received ahead of a gap (dual-send) -/
  held : List CuffFrame := []
  /-- the mode a change in progress leads to (R457): 0 none, 1 dual-send, 2 split -/
  change : Nat := 0
  /-- LOWTSN last sent in this EPOCH (R459) -/
  lowTsn : Nat := 0
  /-- the next FSN the peer last reported on each path (R449, R457): path to FSN -/
  peerNext : AMap Nat := []
deriving DecidableEq, Repr

/-- An adapter of the sideband roll-call (R470, R471). -/
structure Adapter where
  bus : Nat
  addr : Nat
  pid : Nat
  chans : List Nat
deriving DecidableEq, Repr

structure LinkState where
  lanes : AMap LaneState := []
  chans : AMap ChanState := []
  /-- targets addressed on the sideband buses -/
  adapters : List Adapter := []
  /-- EPOCH of LINKINFO: changes at each Module and Cold reset (R449) -/
  epoch : Nat := 0
deriving DecidableEq, Repr

/-! ### Pleat and Cloak (17, 18) -/

/-- A memory-to-memory command as it was read at submission (R492, R515): its submitter and its block of 64 bytes. -/
structure EngCmd where
  part : Option Nat
  /-- the address of the block, for a submission that waits for a place -/
  addr : Nat := 0
  block : List Nat := []
deriving DecidableEq, Repr

/-- A stream context as the module wrote it last (R493): the stream it holds and the header bytes. -/
structure StreamCtx where
  fmt : Nat
  blk : Nat
  /-- OP of the stream: 1 compress, 2 decompress -/
  op : Nat := 1
  /-- its dictionary, the source bytes taken so far, the flush positions among them, and the output bytes written so far -/
  dict : List Nat := []
  inp : List Nat := []
  flushes : List Nat := []
  produced : Nat := 0
  header : List Nat
deriving DecidableEq, Repr

/-- A key slot as the Hub keeps it (R504, R505). -/
structure KeySlot where
  cfg : Nat := 0
  gen : Nat := 0
  idlo : Nat := 0
  idhi : Nat := 0
  used : Nat := 0
  /-- an opener's old generation, usable for 64 µs after a change (R510) -/
  old : Option Nat := none
deriving DecidableEq, Repr

structure EngineState where
  /-- Pleat commands queued, in submission order, and submissions that wait for a place (R496) -/
  pleatQ : List EngCmd := []
  pleatWait : List EngCmd := []
  /-- stream contexts by module-physical address (R493) -/
  streams : AMap (Option StreamCtx) := []
  cloakQ : List EngCmd := []
  cloakWait : List EngCmd := []
  /-- TODs of the failed comparisons of each engine, and of the failed checks of each lane, within the hour -/
  pleatFails : AMap (List Nat) := []
  cloakFails : AMap (List Nat) := []
  /-- key slots loaded (R505) -/
  slots : AMap KeySlot := []
  /-- the derived-key cache of each lane group: slot and GEN, the most recently used first (R508) -/
  cache : AMap (List (Nat × Nat)) := []
  /-- GCM seals are refused (R503) -/
  sealOff : Bool := false
  /-- the accumulator of R517 and the fused owner root key -/
  accum : List Nat := []
  root : List Nat := []
deriving DecidableEq, Repr

/-! ### Seam and time-of-day (19) -/

/-- A message of this module for another: its type and plaintext payload; once sent, its SEQ and its port. -/
structure SeamMsg where
  type : Nat
  payload : List Nat
  seq : Nat := 0
  port : Nat := 0
  /-- it is the firmware message of TXMSG (R538) -/
  txm : Bool := false
deriving DecidableEq, Repr

/-- What a Seam port holds beside its registers. -/
structure SeamPort where
  /-- unsequenced frames to send -/
  unseq : List SeamMsg := []
  /-- a HELLO, a HELLOACK has been received and passed since the port entered step 3 (R527) -/
  gotHello : Bool := false
  gotAck : Bool := false
  /-- times the port has replayed without an advance of the acknowledgement (R452) -/
  replays : Nat := 0
  /-- the frame it sent last -/
  lastTx : Option SeamFrame := none
  /-- the exchange of R542: sync number, t1, t2, t3 -/
  sync : Nat := 0
  t1 : Nat := 0
  t2 : Nat := 0
  t3 : Nat := 0
deriving DecidableEq, Repr

/-- What the module holds for each other module of the complex (R525). -/
structure SeamPair where
  /-- the BOOTNO, and the TXGEN, of its last HELLO -/
  bootno : Option Nat := none
  txgen : Nat := 0
  /-- sequenced frames that have no SEQ yet -/
  pend : List SeamMsg := []
  /-- sequenced frames sent and not acknowledged, oldest first, and those to be sent again -/
  sent : List SeamMsg := []
  replay : List SeamMsg := []
  /-- the next SEQ to assign and the next expected -/
  txNext : Nat := 1
  rxNext : Nat := 1
  /-- frames received ahead of a gap: SEQ, type, payload -/
  held : List (Nat × Nat × List Nat) := []
  ackSeen : Nat := 0
  credit : Nat := 0
  /-- its last BEAT: its age in units of 100 ns; PARK since its last HELLO (R537) -/
  age : Nat := 0
  parked : Bool := false
  /-- TOD of the last frame heard from it, and silence for HOLDTIME since (R534) -/
  heard : Nat := 0
  silent : Bool := false
  /-- SEQs of mirror messages that no MIRACK has acknowledged (R529) -/
  mir : List Nat := []
  /-- its HELLO says that it hosts no mirror for this module (R528) -/
  noHost : Bool := false
deriving DecidableEq, Repr

structure SeamState where
  ports : AMap SeamPort := []
  pairs : AMap SeamPair := []
  /-- accepted records held back by MIRSTAT.GAP (R531): TSNs in order -/
  mirHeld : List Nat := []
  /-- hosting of a source has stopped: its MIREP write was refused (R530) -/
  hostOff : AMap Bool := []
  /-- the highest SEQ of mirror messages stored for a source (R525) -/
  mirTop : AMap Nat := []
  /-- the TODSET that waits for PPS_IN (R540) -/
  todWait : Option Nat := none
  /-- the ROLE of the master that is followed, while it is reachable (R541) -/
  masterRole : Option Nat := none
  /-- a measurement, or a master's TODSET, since boot (R543) -/
  measured : Bool := false
deriving DecidableEq, Repr

/-! ### Tailor memory and boot flash (22) -/

/-- The Tailor's SRAM (R588), what it remembers of image checks (R599), and the boot flash (R593). -/
structure TailorState where
  /-- the execution area, and the image banks CUR and ALT -/
  exec : List Nat := []
  cur : List Nat := []
  alt : List Nat := []
  /-- the triad bank: the triad section; the boot bank: the configuration and patch sections -/
  triadBank : List Nat := []
  config : List Nat := []
  patch : List Nat := []
  /-- address of the last image of each TYPE that passed IMGCHK, plus 1 (R599) -/
  imgOk : AMap Nat := []
  /-- a flash command in progress: OP, flash address, FLASHSRC address -/
  flashOp : Option (Nat × Nat × Nat) := none
  /-- the flash: bytes that are not erased; its density in bytes, DESIGN CHOICE 128 MiB, log entry 25 -/
  flash : AMap Byte := []
  flashSize : Nat := 134217728
  /-- TOD of the last failed Tailor restart, plus 1 (R549) -/
  lastFail : Nat := 0
  /-- address of the image of the restart in progress (R601) -/
  restartAt : Nat := 0
deriving DecidableEq, Repr
/-! ### The whole state -/

/-- The state of the module. -/
structure State where
  /-- the commands that wait, first in, first out -/
  pending : List Instr := []
  /-- register fields that differ from their Cold reset value, by `Field.key` (Regs.lean) -/
  fields : AMap Nat := []
  power : PowerState := {}
  pins : Pins := {}
  tap : TapState := {}
  /-- contexts 0–767 by number (R21) -/
  ctxs : AMap Ctx := []
  core : CoreState := {}
  collar : CollarState := {}
  faults : FaultState := {}
  apron : ApronState := {}
  mem : MemState := {}
  dbg : DebugState := {}
  triad : TriadState := {}
  link : LinkState := {}
  eng : EngineState := {}
  seam : SeamState := {}
  tailor : TailorState := {}
  /-- the module's time-of-day in units of 2^-12 µs (R100, R539) -/
  tod : Nat := 0
  /-- MODEL FIELD, not the spec's: how many free values have been drawn; the next one is
  `Config.freeWord fresh` (log entry 1). Reset: DESIGN CHOICE 0. -/
  fresh : Nat := 0
deriving DecidableEq, Repr

/-- Reasons a step can stop with a fault. No command of this module ends in one: every event the spec describes
has an effect in the state (a fault record, an exception entry), which is a next state. -/
inductive Fault where
  /-- never raised: the type must have a constructor. Safe. -/
  | none
deriving DecidableEq, Repr

/-- Reasons a command is refused by the model. -/
inductive Refusal where
  /-- raised by `exec` for a command that has no meaning yet. Safe: the machine stops where the hardware goes on. -/
  | notModelled (mnemonic : String)
deriving DecidableEq, Repr

/-- The identity fields of a TK-256-44-K (R5, R577): ORDER = 1, K = 1, ENABLED = 44 in APRON.ID and
TAILOR.SPARESTAT; the root key is OPEN. DESIGN CHOICE among the four order numbers, log entry 10. -/
def resetFields : AMap Nat :=
  [(0, 44), (14, 1), (15, 1), (0x11008 * 64, 44)]

/-- The module right after a Cold reset, before the boot (R10, R12, R585): every register field at its Cold reset
entry, every Pocket zeroed, every cache and directory invalid, DRAM holding nothing, the queue empty. -/
def State.reset : State := { fields := resetFields }

end Sys2Proof.Machine
end

