-- ==== Sys2Proof/Machine/Ops.lean ====
section
/-! DEFINITION. The named operations every family shares: register fields, contexts, Pocket states, Keep writes,
fault events, Collar events, taking an exception. -/

namespace Sys2Proof.Machine

/-! ### Register fields (00_scope.md, R12, R14) -/

/-- The value of a register field. -/
def State.fget (s : State) (f : Field) : Nat := AMap.get f.dflt s.fields f.key

/-- The module sets a register field; the value is taken modulo the field's width. -/
def State.fset (s : State) (f : Field) (v : Nat) : State :=
  { s with fields := AMap.set f.dflt s.fields f.key (v % 2 ^ f.width) }

/-- A one-bit field as a truth value. -/
def State.fbit (s : State) (f : Field) : Bool := s.fget f == 1

/-- Set a one-bit field. -/
def State.fsetB (s : State) (f : Field) (b : Bool) : State := s.fset f (bnat b)

/-- Count `n` events in a saturating field. -/
def State.fcount (s : State) (f : Field) (n : Nat) : State :=
  s.fset f (satAdd (2 ^ f.width - 1) (s.fget f) n)

/-- Draw a free value (log entry 1). -/
def State.draw (s : State) : Word × State :=
  (Config.freeWord s.fresh, { s with fresh := s.fresh + 1 })

/-- Bring time-of-day forward by the unknown time since the last look (log entry 11). -/
def State.look (s : State) : State :=
  if s.fbit SEAM_TODCTL.EN then
    { s with tod := s.tod + Config.freeElapsed s.fresh, fresh := s.fresh + 1 }
  else s

/-! ### Contexts, slots and pairs (R21, R203) -/

/-- The state of context `c`. -/
def State.ctx (s : State) (c : Nat) : Ctx := AMap.get {} s.ctxs c

/-- Replace the state of context `c`. -/
def State.setCtx (s : State) (c : Nat) (x : Ctx) : State :=
  { s with ctxs := AMap.set {} s.ctxs c x }

/-- Pocket 15 of every slot is the firmware context (R203). -/
def isFw (c : Nat) : Bool := c % 16 == 15

/-- The slot (core pair number) of a context (R21). -/
def slotOf (c : Nat) : Nat := c / 16

/-- The partition that owns context `c`, if any. -/
def State.partOf (s : State) (c : Nat) : Option Nat :=
  if isFw c then none else if s.fbit (POCKET_CTL.OWNED c) then some (s.fget (POCKET_CTL.OWNER c)) else none

/-- The physical pair that serves slot `k` (R327). -/
def State.physOf (s : State) (k : Nat) : Nat := s.fget (TAILOR_SLOT.PHYS k)

/-- Read general register `r` of a context: g0 reads as zero (R93). -/
def Ctx.readG (x : Ctx) (r : Nat) : Word := if r % 32 = 0 then 0 else AMap.get 0 x.g (r % 32)

/-- Write general register `r`: a write to g0 is discarded (R93). -/
def Ctx.writeG (x : Ctx) (r : Nat) (v : Word) : Ctx :=
  if r % 32 = 0 then x else { x with g := AMap.set 0 x.g (r % 32) v }

/-- Read floating register `r` (R94). -/
def Ctx.readF (x : Ctx) (r : Nat) : Word := AMap.get 0 x.f (r % 32)

/-- Write floating register `r` (R94). -/
def Ctx.writeF (x : Ctx) (r : Nat) (v : Word) : Ctx := { x with f := AMap.set 0 x.f (r % 32) v }

/-! ### Pocket states (07_pockets_and_contexts.md, R209) -/

/-- POCKET.STAT.STATE codes (R231). -/
def pkFree : Nat := 0
def pkStopped : Nat := 1
def pkBlocked : Nat := 2
def pkReady : Nat := 3
def pkRunning : Nat := 4

/-- The state code of Pocket `c`. -/
def State.pk (s : State) (c : Nat) : Nat := s.fget (POCKET_STAT.STATE c)

/-- The READY Pockets of slot `k`, the longest READY first (R211). -/
def State.readyList (s : State) (k : Nat) : List Nat := AMap.get [] s.core.ready k

/-- Set the READY list of slot `k`. -/
def State.setReady (s : State) (k : Nat) (l : List Nat) : State :=
  { s with core := { s.core with ready := AMap.set [] s.core.ready k l } }

/-- A Pocket that does not run any more abandons its routine (R182): the routines without that of context `c`. -/
def CoreState.abandonRoutine (x : CoreState) (c : Nat) : CoreState :=
  { x with routines := x.routines.filter fun e => e.2.all fun r => r.ctx != c }

/-- Put Pocket `c` into state `st`, keeping the READY list: a Pocket that becomes READY is the youngest (R211). -/
def State.setPk (s : State) (c st : Nat) : State :=
  let s1 := s.fset (POCKET_STAT.STATE c) st
  let s1 := { s1 with core := if st = pkRunning then s1.core else s1.core.abandonRoutine c }
  let l := (s1.readyList (slotOf c)).filter (· ≠ c)
  s1.setReady (slotOf c) (if st = pkReady then (if s.pk c = pkReady then s1.readyList (slotOf c) else l ++ [c]) else l)

/-- A Pocket made runnable (R214): its pair leaves clock or power gating (R218). -/
def State.makeReady (s : State) (c : Nat) : State :=
  let s := s.setPk c pkReady
  { s with core := { s.core with gate := AMap.set 0 s.core.gate (slotOf c) 0 } }

/-- Is the module in service so that units on the dies act (R49, R589)? -/
def State.up (s : State) : Bool := s.power.phase == .run

/-- Power state codes (POWER.STATE.CUR). -/
def State.cur (s : State) : Nat := s.fget POWER_STATE.CUR

/-- Are the Weft dies powered and not checkstopped, so that core pairs act (R49, R274)? -/
def State.coresUp (s : State) : Bool := s.up && s.cur == 0 && !s.fbit POWER_STATE.MOVING && !s.mem.checkstop

/-- A wake event in Park, Nap or Drowse: the exit to Run begins (R52). An entry that is under way is abandoned at
its next step boundary (R50). -/
def State.wake (s : State) : State :=
  if s.up && decide (1 ≤ s.cur ∧ s.cur ≤ 3) then
    (s.fset POWER_STATE.GOAL 0).fset POWER_STATE.MOVING 1
  else s

/-- Does Shutter hold, or an entry to it, with no exit begun? -/
def State.shutterHolds (s : State) : Bool :=
  (s.cur == 4 && !s.fbit POWER_STATE.MOVING) || (s.fbit POWER_STATE.MOVING && s.fget POWER_STATE.GOAL == 4)

/-- A wake event of kind `kind` (POWER.WAKE.CAUSE) whose enable is `en` (R52, R56): it also ends Shutter, and abandons an
entry to Shutter, when the enable is 1. -/
def State.wakeBy (s : State) (kind : Nat) (en : Field) : State :=
  if s.up && s.shutterHolds && s.fbit en then
    ((s.fset POWER_STATE.GOAL 0).fset POWER_STATE.MOVING 1).fset POWER_WAKE.CAUSE kind
  else s.wake

/-- Does the module accept nothing because of Shutter or of a Vault entry (R49, R61 step 2)? -/
def State.closed (s : State) : Bool := s.cur == 4 || (s.fbit POWER_STATE.MOVING && s.fget POWER_STATE.GOAL == 5)

/-- Is the Hub powered, so that the fault collector takes events? -/
def State.hubOn (s : State) : Bool :=
  match s.power.phase with
  | .off | .softStart _ | .overvoltage | .thermal | .vault => false
  | _ => true

/-- An event for context `c` (R216): its EVENT latch is set; BLOCKED becomes READY. -/
def State.eventFor (s : State) (c : Nat) : State :=
  let s := s.fset (POCKET_STAT.EVENT c) 1
  if s.pk c = pkBlocked then s.makeReady c else s

/-! ### Keep writes (21_apron_keep_and_lifetime.md, R572–R575) -/

/-- The rating of a Keep entry and the count that raises NEAR (R15, R574). -/
def keepRating : Nat := 10000000000
def keepNear : Nat := 9000000000

/-- The Keep entry that holds an RK or RWK field (R572); none for other fields. -/
def keepEntry (f : Field) : Option Nat :=
  let o := f.off
  if o = 0x30028 ∧ f.lo = 8 then some 0
  else if o = 0x180030 then some 1
  else if o = 0x1A0028 then some 2
  else if o = 0x20038 then some 3
  else if o = 0x20040 then some 4
  else if 0x1B0220 ≤ o ∧ o < 0x1B0240 then some (8 + (o - 0x1B0220) / 8)
  else if 0x11300 ≤ o ∧ o < 0x11480 ∧ f.lo = 8 then some (64 + (o - 0x11300) / 8)
  else if 0x100000 ≤ o ∧ o < 0x140000 ∧ o % 1024 = 0x20 then some (256 + (o - 0x100000) / 1024)
  else if 0x2000 ≤ o ∧ o < 0x4000 then some (1024 + (o - 0x2000) / 8)
  else none

/-- The counter and ECC state of a Keep entry. -/
def State.keepMeta (s : State) (e : Nat) : KeepMeta := AMap.get {} s.apron.keep e

/-- Set the counter and ECC state of a Keep entry. -/
def State.setKeepMeta (s : State) (e : Nat) (m : KeepMeta) : State :=
  { s with apron := { s.apron with keep := AMap.set {} s.apron.keep e m } }

/-- The value a Keep field reads: 0 while its entry is uncorrectable (R575). -/
def State.kget (s : State) (f : Field) : Nat :=
  match keepEntry f with
  | some e => if (s.keepMeta e).uncorr then 0 else s.fget f
  | none => s.fget f

/-! ### Collar events (08_collar_interrupts.md) -/

/-- Software sources (R233). -/
def isSw (src : Nat) : Bool := decide (0x4000 ≤ src ∧ src ≤ 0x7FFF)

/-- Every source that is not reserved (R233, R556). -/
def sourceKnown (src : Nat) : Bool :=
  decide (src ≤ 0x0FFF) || decide (0x1000 ≤ src ∧ src ≤ 0x11FF) || decide (0x2000 ≤ src ∧ src ≤ 0x20FF)
    || decide (0x3000 ≤ src ∧ src ≤ 0x32FF) || isSw src

/-- The software group of a source. -/
def swGroup (src : Nat) : Nat := (src - 0x4000) / 64

/-- The bit of a software source in its group's PEND and SERV words. -/
def swBit (src : Nat) : Nat := (src - 0x4000) % 64

/-- Is the source a context timer (R233, R246)? -/
def isTimer (src : Nat) : Bool := decide (0x3000 ≤ src ∧ src ≤ 0x32FF)

/-- PEND of a source (R238, R248). -/
def State.srcPend (s : State) (src : Nat) : Bool :=
  if isSw src then bitOf (s.fget (COLLAR_SWPEND.PEND (swGroup src))) (swBit src)
  else s.fbit (COLLAR_SRC.PEND src)

/-- SERV of a source. -/
def State.srcServ (s : State) (src : Nat) : Bool :=
  if isSw src then bitOf (s.fget (COLLAR_SWSERV.SERV (swGroup src))) (swBit src)
  else s.fbit (COLLAR_SRC.SERV src)

/-- A number with bit `k` set to `b`. -/
def setBitNat (n k : Nat) (b : Bool) : Nat :=
  if bitOf n k == b then n else if b then n + 2 ^ k else n - 2 ^ k

/-- Set PEND of a source and its place among the ages. -/
def State.setPend (s : State) (src : Nat) (b : Bool) : State :=
  let s := if isSw src then
      s.fset (COLLAR_SWPEND.PEND (swGroup src)) (setBitNat (s.fget (COLLAR_SWPEND.PEND (swGroup src))) (swBit src) b)
    else s.fsetB (COLLAR_SRC.PEND src) b
  let rest := s.collar.ages.filter (· ≠ src)
  { s with collar := { s.collar with ages := if b then rest ++ [src] else rest } }

/-- Set SERV of a source. -/
def State.setServ (s : State) (src : Nat) (b : Bool) : State :=
  if isSw src then
    s.fset (COLLAR_SWSERV.SERV (swGroup src)) (setBitNat (s.fget (COLLAR_SWSERV.SERV (swGroup src))) (swBit src) b)
  else s.fsetB (COLLAR_SRC.SERV src) b

/-- The holder of a source in service. -/
def State.srcHolder (s : State) (src : Nat) : Nat :=
  if isSw src then AMap.get 0 s.collar.swHolder src else s.fget (COLLAR_SRC.HOLDER src)

/-- Set the holder of a source. -/
def State.setHolder (s : State) (src c : Nat) : State :=
  if isSw src then { s with collar := { s.collar with swHolder := AMap.set 0 s.collar.swHolder src c } }
  else s.fset (COLLAR_SRC.HOLDER src) c

/-- EN, FWOWN, PRI, OWNER, PAIR and MASK of a source; a timer's target is its context, fixed, and fault sources are
the firmware's (R233, R236, R246, R248). -/
def State.srcEn (s : State) (src : Nat) : Bool :=
  if isTimer src then s.fbit (COLLAR_SRC.EN src) else
  if isSw src then s.fbit (COLLAR_SWGRP.EN (swGroup src)) else s.fbit (COLLAR_SRC.EN src)
def State.srcPri (s : State) (src : Nat) : Nat :=
  if isSw src then s.fget (COLLAR_SWGRP.PRI (swGroup src)) else s.fget (COLLAR_SRC.PRI src)
def State.srcFwOwn (s : State) (src : Nat) : Bool :=
  if isTimer src then isFw (src - 0x3000)
  else if decide (0x2000 ≤ src ∧ src ≤ 0x20FF) then true
  else if isSw src then s.fbit (COLLAR_SWGRP.FWOWN (swGroup src)) else s.fbit (COLLAR_SRC.FWOWN src)
def State.srcOwner (s : State) (src : Nat) : Option Nat :=
  if s.srcFwOwn src then none
  else if isTimer src then s.partOf (src - 0x3000)
  else some (if isSw src then s.fget (COLLAR_SWGRP.OWNER (swGroup src)) else s.fget (COLLAR_SRC.OWNER src))
def State.srcPair (s : State) (src : Nat) : Nat :=
  if isTimer src then slotOf (src - 0x3000)
  else if isSw src then s.fget (COLLAR_SWGRP.PAIR (swGroup src)) else s.fget (COLLAR_SRC.PAIR src)
def State.srcMask (s : State) (src : Nat) : Nat :=
  if isTimer src then 2 ^ ((src - 0x3000) % 16)
  else if isSw src then s.fget (COLLAR_SWGRP.MASK (swGroup src)) else s.fget (COLLAR_SRC.MASK src)

/-- Does source `src` target context `c` (R236)? A core pair above 47 holds no context. -/
def State.targets (s : State) (src c : Nat) : Bool :=
  decide (c < 768) && s.srcPair src == slotOf c && bitOf (s.srcMask src) (c % 16)
    && (if s.srcFwOwn src then isFw c else !isFw c && (s.srcOwner src).isSome && s.srcOwner src == s.partOf c)

/-- The target contexts of a source. -/
def State.targetsOf (s : State) (src : Nat) : List Nat :=
  (upFrom (s.srcPair src * 16) 16).filter (s.targets src)

/-- Is partition `n` being destroyed, so that events for its sources are discarded (R228, R247)? -/
def State.destroying (s : State) (n : Nat) : Bool := s.fget (PART_STATE.STATE n) == 2

/-- Count the PENDING sources with no target context in COLLAR.STAT.NOTGT (R236, R248). -/
def State.updNotgt (s : State) : State :=
  s.fset COLLAR_STAT.NOTGT ((s.collar.ages.filter (fun x => (s.targetsOf x).isEmpty)).length)

/-- Delivery to the targets of a source that has become PENDING (R244, R245): every target's EVENT latch is set;
in Park, Nap and Drowse the delivery is a wake event. -/
def State.deliver (s : State) (src : Nat) : State :=
  let ts := s.targetsOf src
  let s1 := ts.foldl State.eventFor s
  if ts.any (fun c => s.pk c != pkFree && s.pk c != pkStopped) then s1.wake else s1

/-- LOST of a source (R248). -/
def lostField (src : Nat) : Field := ⟨0x70000 + 8 * (src / 8), 8 * (src % 8) + 7, 8 * (src % 8), .rs, .num 0, .num 0, .num 0⟩

/-- An event reaches Collar for a source (R238). -/
def State.collarEvent (s : State) (src : Nat) : State :=
  if !sourceKnown src then s
  else if (s.srcOwner src).any s.destroying then s
  else if s.srcServ src then (if s.srcEn src then s.fcount (lostField src) 1 else s)
  else if s.srcPend src then s
  else if s.srcEn src then ((s.setPend src true).deliver src).updNotgt
  else s

/-! ### Fault records (20_fault_handling.md) -/

/-- A location code (R547, R548, R26): action, die, tile, unit; the macro, array and cell fields in `rest`. -/
def locCode (action die tile unit : Nat) (rest : Nat := 0) : Nat :=
  action * 2 ^ 60 + die * 2 ^ 56 + tile * 2 ^ 48 + unit * 2 ^ 40 + rest

/-- The action code of a location code. -/
def FaultRec.action (r : FaultRec) : Nat := r.loc / 2 ^ 60 % 16

/-- Is the record's class corrected, contained or fatal (R546, R547)? -/
def FaultRec.corrected (r : FaultRec) : Bool := r.action < 4
def FaultRec.fatal (r : FaultRec) : Bool := 8 ≤ r.action

/-- Has the boot reached the step from which the module gives service (R84, R589 step 11)? -/
def State.booted (s : State) : Bool := s.power.phase == .run && s.fget TAILOR_BOOTSTAT.STEP == 11

/-- FAIL_N follows the fault state, FAILU, the minimum set and a failed boot (R559), while the module drives its lands
(R76); READY is high from step 11 of the boot on, and low while the minimum set is not met (R84). -/
def State.updFail (s : State) : State :=
  let fs := s.fbit FAULT_STAT.FSTATE
  let low := !s.pins.hiZ && ((fs && s.faults.holdsFatal) || (s.fbit FAULT_CTL.FAILU && fs)
    || s.fget FAULT_MINSET.MINSET != 0 || s.faults.bootFail)
  let s := s.fsetB FAULT_STAT.ATTEND low
  let s := s.fsetB FAULT_STAT.NOSERVICE (s.fget FAULT_MINSET.MINSET != 0)
  { s with pins := { s.pins with failN := !low,
                                 ready := !s.pins.hiZ && s.booted && s.fget FAULT_MINSET.MINSET == 0 } }

/-- A software or hardware event that could not be logged is counted (R553, R556): CDROP or SLOST, and the first
since their last read is noted for source 0x2007. -/
def State.countLost (s : State) (corrected : Bool) : State :=
  let s := if corrected then s.fcount FAULT_LOGSTAT.CDROP 1 else s.fcount FAULT_LOGSTAT.SLOST 1
  let first := !s.faults.lostNoted
  let s := { s with faults := { s.faults with lost := true, lostNoted := true } }
  if first then s.collarEvent 0x2007 else s

/-- Does every slot of the log hold a contained or fatal record that is unread (R554)? Corrected events are then not logged. -/
def State.logFull (s : State) : Bool :=
  let ack := s.fget FAULT_LOGACK.LOGACK
  decide (65536 ≤ s.faults.log.length) && s.faults.log.all fun e => match e.2 with
    | some r => !r.corrected && decide (ack < r.seq)
    | none => true

/-- A new record enters the collector's queue (R552, R553): SEQ, TOD and TODU are set; a full queue of 256 drops it. Without
power on the Hub there is no collector. -/
def State.queueRec (s : State) (r : FaultRec) : State :=
  let s := s.look
  if !s.hubOn then s
  else if 256 ≤ s.faults.queue.length ∨ (s.logFull && r.corrected) then s.countLost r.corrected
  else
    let r := { r with seq := s.faults.seqNext, tod := s.tod, todu := s.fbit SEAM_TODSTAT.UNCERTAIN }
    let q := s.faults.queue ++ [r]
    { s with faults := { s.faults with queue := q, seqNext := s.faults.seqNext + 1, mirrorQueued := true } }.fset
      FAULT_STAT.QUEUED q.length

/-- The macro, array and cell fields of a record's location (R548, R630): given for a DDR-5 channel unit, 0 for a record of
R630 and for a tile as a whole, and design coordinates of the fault, a free value, for every other unit (log entry 1). -/
def State.coords (s : State) (r : FaultRec) : State × FaultRec :=
  let die := bitsOf r.loc 59 56
  let unit := bitsOf r.loc 47 40
  let chan := decide (die < 4) && decide (0x28 ≤ unit ∧ unit ≤ 0x2D)
  let whole := unit == 0 && (decide (die < 4) || die == 0xF)
  if r.bare || chan || whole || r.loc % 2 ^ 40 != 0 then (s, r)
  else
    let (w, s) := s.draw
    (s, { r with loc := r.loc + w.toNat % 2 ^ 40 })

/-- A corrected-class event: a record, and nothing else (R546, R558). -/
def State.raiseC (s : State) (r : FaultRec) : State :=
  let (s, r) := s.coords r
  s.queueRec r

/-- A Keep write of `v` to an RK or RWK field (R573–R575): an equal value is not performed and not counted; a rated
or uncorrectable entry refuses, keeps its value and raises a corrected-class event; otherwise the value and the
counter are written together. The second part says whether the entry now holds `v`. -/
def State.keepWrite (s : State) (f : Field) (v : Nat) : State × Bool :=
  match keepEntry f with
  | none => (s.fset f v, true)
  | some e =>
    let m := s.keepMeta e
    if !m.uncorr && s.fget f == v % 2 ^ f.width then (s, true)
    else if m.uncorr || decide (keepRating ≤ m.count) then
      let s := s.fset APRON_STAT.REFUSED 1
      let s := s.fset APRON_KEEPSTAT.LASTREF e
      (s.raiseC { loc := locCode 0x3 4 0xFF 0x1A, d2 := e }, false)
    else
      let near := !m.near && decide (keepNear ≤ m.count + 1)
      let s := (s.fset f v).setKeepMeta e { m with count := m.count + 1, near := m.near || near }
      if near then
        let s := (s.fset APRON_KEEPSTAT.NEAR 1).fset APRON_KEEPSTAT.NEARENT e
        (s.raiseC { loc := locCode 0x3 4 0xFF 0x1A, d2 := e }, true)
      else (s, true)

/-! ### The minimum set and the fault state -/

/-- The fault state ends when the quiet period is over, no checkstop awaits RESUME, the minimum set is met and no member is
TESTING or COPYING (R558). -/
def State.faultEnd (s : State) : State :=
  if s.faults.quietOver && s.fbit FAULT_STAT.FSTATE && !s.fbit FAULT_STAT.CHECKSTOP && s.fget FAULT_MINSET.MINSET == 0
      && (List.range 3).all (fun m => s.fget (TRIAD_MEMBER.STATE m) != 2 && s.fget (TRIAD_MEMBER.STATE m) != 3) then
    let rep := s.faults.onlyReplays
    let s := (s.fset FAULT_STAT.FSTATE 0).fset FAULT_STAT.QUIETLEFT 0
    let s := { s with faults := { s.faults with holdsFatal := false, onlyReplays := true, quietOver := false } }
    let s := if rep then s.fcount FAULT_STAT.REPLAYEND 1
      else if s.kget FAULT_RECOV.RECOV < 65535 then (s.keepWrite FAULT_RECOV.RECOV (s.kget FAULT_RECOV.RECOV + 1)).1
      else s
    (s.collarEvent 0x2004).updFail
  else s

/-- The minimum set shown and acted upon (R559, R560): FAULT.MINSET, the outputs, source 0x2005 at a change. No doorbell lands while
an element lacks; the bits return by firmware's procedures for the units, and doorbells land again when none is left (log entry
138). -/
def State.setMinset (s : State) (m : Nat) : State :=
  if s.fget FAULT_MINSET.MINSET = m then s
  else
    let s := (s.fset FAULT_MINSET.MINSET m).updFail
    let s := if m ≠ 0 then s.fset TRIAD_STAT.ACCEPTING 0
      else if s.booted && decide (s.fget TRIAD_STAT.MODE ≤ 1) then s.fset TRIAD_STAT.ACCEPTING 1 else s
    (s.collarEvent 0x2005).faultEnd

/-- The elements of the minimum set that the state shows by itself (R560): a Weft die behind Stitch, two members VOTING,
one Hem die, one Port die, one slot served, one DDR-5 channel with a DIMM in service. -/
def State.updMinset (s : State) : State :=
  let m := s.fget FAULT_MINSET.MINSET
  let voting := ((List.range 3).filter fun k => s.fget (TRIAD_MEMBER.STATE k) == 0).length
  let m := setBitNat m 1 ((List.range 4).all fun d => AMap.get false s.mem.weftOut d)
  let m := setBitNat m 3 (voting < 2)
  let m := setBitNat m 4 (!s.fbit HEM_STAT.H0OK && !s.fbit HEM_STAT.H1OK)
  let m := setBitNat m 5 ((List.range 2).all fun d => AMap.get false s.mem.portOut d)
  let m := setBitNat m 6 ((List.range 48).all fun k => !s.fbit (TAILOR_SLOT.SERVING k))
  let m := setBitNat m 7 ((List.range 24).all fun c => s.fget (MC_STAT.STATE c) == 0 || s.fget (MC_STAT.STATE c) == 3
    || AMap.get false s.mem.weftOut (c / 6))
  s.setMinset m

/-- A contained or fatal event at the collector (R557, R558, R559): the partition is charged and signalled, the fault
state starts or is extended, a fatal record that is no replay is kept in FAULT.LASTF, the record is queued. The
checkstop and the Module reset that actions 0x8 and 0xA start are made where the event is raised. -/
def State.raise (s : State) (r : FaultRec) : State :=
  if r.corrected then s.raiseC r
  else
    let (s, r) := s.coords r
    let s := match (if r.fatal then none else r.part) with
      | none => s
      | some n =>
        -- a replay sends, and charges no fault (R562)
        let s := if r.replay then s else s.fcount (PART_FAULTS.FAULTS n) 1
        let src := s.fget (PART_FAULTSIG.SOURCE n)
        if s.fbit (PART_FAULTSIG.EN n) && isSw src && s.srcOwner src == some n then s.collarEvent src else s
    let first := !s.fbit FAULT_STAT.FSTATE
    let s := (s.fset FAULT_STAT.FSTATE 1).fset FAULT_STAT.QUIETLEFT
      (if s.fget FAULT_CTL.QUIET = 0 then 1 else s.fget FAULT_CTL.QUIET)
    let f := s.faults
    let s := { s with faults := { f with
      quietOver := false
      onlyReplays := (first || f.onlyReplays) && r.replay
      holdsFatal := (!first && f.holdsFatal) || r.action == 8 || r.action == 9 } }
    let s := if r.fatal && !r.replay then (s.keepWrite FAULT_LASTF.LASTF r.loc).1 else s
    (s.queueRec r).updFail

/-- The location of the physical pair that runs context `c` (R27, R630). -/
def State.ctxLoc (s : State) (action c unit : Nat) : Nat :=
  let p := s.physOf (slotOf c)
  locCode action (p / 12) (p % 12) unit

/-- A contained-class fault charged to context `c` (R549, R630): an invalid access, or poison it consumed. -/
def State.ctxFault (s : State) (c addr : Nat) : State :=
  s.raise { loc := s.ctxLoc 0x4 c 0, ctx := some c, part := s.partOf c, d0 := addr }

/-- An invalid access found by a Hub agent for partition `n`, or for none (R549, R630). -/
def State.hubFault (s : State) (part : Option Nat) (tile unit addr : Nat) (d2 : Nat := 0) : State :=
  s.raise { loc := locCode (if part.isSome then 0x5 else 0x6) 4 tile unit, part := part, d0 := addr, d2 := d2, bare := true }

end Sys2Proof.Machine
end

