-- ==== Sys2Proof/Machine/Memory.lean ====
section
/-! DEFINITION. Memory as agents see it: the spaces of module-physical memory, the memory map, DRAM, L3, the Hem
window home, the caches of R256 with their directory, and coherent reads and writes of contexts and Hub agents.
09_caches_and_coherence.md, 10_ordering_and_barriers.md, 11_memory_controllers.md, 14 (R397, R400). -/

namespace Sys2Proof.Machine

/-- Change the memory part of the state. -/
def State.onMem (s : State) (f : MemState → MemState) : State := { s with mem := f s.mem }

/-! ### The spaces of module-physical memory (R616, R629) -/

inductive Space where
  | dram | window | reserved | doorbell | control
deriving DecidableEq, Repr

def windowBase : Nat := 0xFFFFF80000000
def reservedBase : Nat := 0xFFFFFE0000000
def doorbellBase : Nat := 0xFFFFFFE800000
def controlBase : Nat := 0xFFFFFFF800000

/-- The space of a module-physical address. -/
def spaceOf (a : Nat) : Space :=
  if a < windowBase then .dram
  else if a < reservedBase then .window
  else if a < doorbellBase then .reserved
  else if a < controlBase then .doorbell
  else .control

/-- Device memory: the doorbell pages and the control window (R620); the reserved range too with F.ROOT.EN = 0
(R108). -/
def Space.device : Space → Bool
  | .doorbell => true
  | .control => true
  | _ => false

/-! ### The memory map (R303, R304) -/

/-- Where a DRAM byte lies: the channel (the even one of a mirrored pair), its mirror partner and the channel
address. -/
structure Place where
  chan : Nat
  mirror : Option Nat
  ca : Nat
deriving DecidableEq, Repr

/-- The channels of a mask in ascending order; for a mirrored region, the even channels of its pairs. -/
def maskChans (mirror : Bool) (mask : Nat) : List Nat :=
  if mirror then ((List.range 12).map (2 * ·)).filter (bitOf mask) else (List.range 24).filter (bitOf mask)

/-- Is region `k` in use? The four WEFT blocks hold one table (R303): die 0's copy is its home in this model. -/
def State.regionOk (s : State) (k : Nat) : Bool := s.fbit (WEFT_MAPA.VALID 0 k) && !s.fbit (WEFT_MAPB.BAD 0 k)

/-- The region that covers a DRAM address: the valid one with the lowest number (R303). -/
def State.regionOf (s : State) (a : Nat) : Option Nat :=
  firstThat (fun k => s.regionOk k && decide (s.fget (WEFT_MAPA.BASE 0 k) ≤ a / 2 ^ 30)
    && decide (a / 2 ^ 30 ≤ s.fget (WEFT_MAPB.LIMIT 0 k))) (List.range 16)

/-- The place of a DRAM address (R304); none where no region covers it (R305, R617). -/
def State.place (s : State) (a : Nat) : Option Place :=
  if a < windowBase then
    match s.regionOf a with
    | none => none
    | some k =>
      let mirror := s.fbit (WEFT_MAPA.MIRROR 0 k)
      let chs := maskChans mirror (s.fget (WEFT_MAPB.CHMASK 0 k))
      let g := (a - s.fget (WEFT_MAPA.BASE 0 k) * 2 ^ 30) / 4096
      let ch := chs.getD (g % chs.length) 0
      some { chan := ch, mirror := if mirror then some (ch + 1) else none,
             ca := s.fget (WEFT_MAPA.CHOFF 0 k) * 2 ^ 30 + g / chs.length * 4096 + a % 4096 }
  else none

/-- The home die of a place (R304). -/
def Place.die (p : Place) : Nat := p.chan / 6

/-- The home slice of an address (R251). -/
def sliceOf (a : Nat) : Nat :=
  ((((bitsOf a 11 8) ^^^ (bitsOf a 15 12)) ^^^ (bitsOf a 19 16)) ^^^ (bitsOf a 23 20)) ^^^ (bitsOf a 27 24)

/-- The die and tile of a sector's home (R27, R251, R255): a Weft die and slice, or the Hem home on the Hub. -/
def State.homeOf (s : State) (sec : Nat) : Nat × Nat :=
  match s.place (sec * 64) with
  | some p => (p.die, 16 + sliceOf (sec * 64))
  | none => (4, 0xFF)

/-- Is an address answered as memory that exists: a covered DRAM address whose home die is in service, or a Hem
window (R305)? -/
def State.served (s : State) (a : Nat) : Bool :=
  match spaceOf a with
  | .dram => (match s.place a with
    | some p => !(AMap.get false s.mem.weftOut p.die)
    | none => false)
  | .window => true
  | _ => false

/-! ### DRAM (R312, R315, R316) -/

/-- The channel a read of a place goes to: the even channel, or its partner while the even one does not serve. -/
def State.readChan (s : State) (p : Place) : Nat :=
  match p.mirror with
  | none => p.chan
  | some m => if 3 ≤ s.fget (MC_STAT.STATE p.chan) then m else p.chan

/-- The channels a write of a place goes to. -/
def State.writeChans (s : State) (p : Place) : List Nat :=
  match p.mirror with
  | none => [p.chan]
  | some m => [p.chan, m].filter (fun c => s.fget (MC_STAT.STATE c) ≠ 3 && s.fget (MC_STAT.STATE c) ≠ 4)

def dramKey (ch ca : Nat) : Nat := ch * 2 ^ 40 + ca
def poisonKey (ch ca : Nat) : Nat := ch * 2 ^ 34 + ca / 64

/-- A byte of DRAM. -/
def State.dramByte (s : State) (p : Place) : Byte := AMap.get 0 s.mem.dram (dramKey (s.readChan p) p.ca)

/-- Write a byte of DRAM. -/
def State.setDram (s : State) (p : Place) (b : Byte) : State :=
  (s.writeChans p).foldl (fun t c => t.onMem fun m => { m with dram := AMap.set 0 m.dram (dramKey c p.ca) b }) s

/-- Poison of a DRAM sector. -/
def State.dramPois (s : State) (p : Place) : Bool := AMap.get false s.mem.dramPoison (poisonKey (s.readChan p) p.ca)

/-- Write or clear the poison pattern of a DRAM sector (R312). -/
def State.setDramPois (s : State) (p : Place) (b : Bool) : State :=
  (s.writeChans p).foldl (fun t c => t.onMem fun m =>
    { m with dramPoison := AMap.set false m.dramPoison (poisonKey c p.ca) b }) s

/-! ### L3 (R250, R251, R254, R276) -/

/-- The state of way group `g` of die `d`. -/
def State.gstate (s : State) (d g : Nat) : Nat := s.fget (WEFT_L3STAT.GSTATE d) / 4 ^ g % 4

/-- Set the state of a way group. -/
def State.setGstate (s : State) (d g v : Nat) : State :=
  let f := WEFT_L3STAT.GSTATE d
  s.fset f (s.fget f - s.gstate d g * 4 ^ g + v * 4 ^ g)

/-- Way `w` of a die's L3 sets may be allocated: its group is ON. -/
def State.wayOn (s : State) (d w : Nat) : Bool := s.gstate d (w / 4) == 1

/-- Does a group of die `d` drain: DRAINING or INVALIDATING? -/
def State.l3Draining (s : State) (d : Nat) : Bool := (List.range 4).any fun g => s.gstate d g == 2

def l3setKey (d a : Nat) : Nat := d * 2 ^ 14 + sliceOf a * 2 ^ 10 + bitsOf a 21 12

/-- The home of a sector as a key: die × 16 + slice, or 64 for the Hem home. -/
def State.homeKey (s : State) (sec : Nat) : Nat :=
  match s.place (sec * 64) with
  | some p => p.die * 16 + sliceOf (sec * 64)
  | none => 64

/-- Write the bytes an L3 sector holds dirty to DRAM, with its poison. -/
def State.l3Clean (s : State) (sec : Nat) : State :=
  match s.place (sec * 64) with
  | none => s
  | some p0 =>
    let s := (upFrom (sec * 64) 64).foldl (fun t a =>
      match AMap.get none t.mem.l3data a, t.place a with
      | some b, some p => (t.setDram p b).onMem fun m => { m with l3data := AMap.erase a m.l3data }
      | _, _ => t) s
    let s := match AMap.get none s.mem.l3poison sec with
      | some b => (s.setDramPois p0 b).onMem fun m => { m with l3poison := AMap.erase sec m.l3poison }
      | none => s
    s.onMem fun m => { m with l3 := if AMap.get 0 m.l3 sec = 2 then AMap.set 0 m.l3 sec 1 else m.l3 }

/-- Drop an L3 sector with whatever it holds dirty. -/
def State.l3Drop (s : State) (sec : Nat) : State :=
  s.onMem fun m => { m with
    l3data := AMap.keep (fun a => a / 64 ≠ sec) m.l3data
    l3poison := AMap.erase sec m.l3poison
    l3 := AMap.erase sec m.l3 }

/-- DRAM accepts a sector of the L3 eviction buffer, which frees its entry (R266). -/
def State.l3Accept (s : State) (sec : Nat) : State :=
  let k := s.homeKey sec
  ((s.l3Clean sec).l3Drop sec).onMem fun m =>
    { m with l3evict := AMap.set [] m.l3evict k ((AMap.get [] m.l3evict k).filter (· ≠ sec)) }

/-- Is a sector in its slice's eviction buffer? -/
def State.l3Leaving (s : State) (sec : Nat) : Bool := (AMap.get [] s.mem.l3evict (s.homeKey sec)).contains sec

/-- A sector of an L3 victim: a dirty one goes to the eviction buffer of 32, whose oldest entry ends first when it is full
(R266); a clean one is dropped. -/
def State.l3Evict (s : State) (sec : Nat) : State :=
  if AMap.get 0 s.mem.l3 sec ≠ 2 then s.l3Drop sec
  else
    let k := s.homeKey sec
    let l := AMap.get [] s.mem.l3evict k
    let s := if 32 ≤ l.length then s.l3Accept (l.headD sec) else s
    s.onMem fun m => { m with l3evict := AMap.set [] m.l3evict k (AMap.get [] m.l3evict k ++ [sec]) }

/-- A read or write-back reaches the home (R254): it waits for its sector to leave the eviction buffer (R267); the sector is
allocated in a way of a group that is ON, and its line becomes the most recently used; the victim is the line least recently
used among those ways. `true` when L3 holds the sector afterwards. -/
def State.l3Touch (s : State) (sec : Nat) : State × Bool :=
  match s.place (sec * 64) with
  | none => (s, false)
  | some p =>
    let d := p.die
    let s := if s.l3Leaving sec then s.l3Accept sec else s
    let key := l3setKey d (sec * 64)
    let line := sec / 4
    let lines := AMap.get [] s.mem.l3sets key
    let hold (s : State) (l : List (Nat × Nat)) : State := s.onMem fun m => { m with
      l3sets := AMap.set [] m.l3sets key l
      l3 := if AMap.get 0 m.l3 sec = 0 then AMap.set 0 m.l3 sec 1 else m.l3 }
    match firstThat (fun e => e.1 == line) lines with
    | some e =>
      if AMap.get 0 s.mem.l3 sec = 0 && !s.wayOn d e.2 then (s, false)
      else (hold s (e :: lines.filter fun x => x.1 != line), true)
    | none =>
      let free := firstThat (fun w => s.wayOn d w && !lines.any fun x => x.2 == w) (List.range 16)
      let victim := (lines.filter fun x => s.wayOn d x.2).getLast?
      match free, victim with
      | some w, _ => (hold s ((line, w) :: lines), true)
      | none, some v =>
        let s := (upFrom (4 * v.1) 4).foldl (fun (t : State) x => if AMap.get 0 t.mem.l3 x = 0 then t else t.l3Evict x) s
        (hold s ((line, v.2) :: lines.filter fun x => x != v), true)
      | none, none => (s, false)

/-! ### The walker of a drain (R276, R277) -/

/-- The walker's next set: of an L2 by its pair, of die `d`'s L3 under 48 + d. -/
def State.walkPos (s : State) (i : Nat) : Nat := AMap.get 0 s.mem.walk i
def State.setWalk (s : State) (i v : Nat) : State := s.onMem fun m => { m with walk := AMap.set 0 m.walk i v }

/-- Every dirty sector of the draining groups in the L3 sets from `a` to before `b` is cleaned. -/
def State.l3CleanSets (s : State) (d a b : Nat) : State :=
  let sets := s.mem.l3sets.filter fun e => e.1 / 2 ^ 14 == d && decide (a ≤ e.1 % 2 ^ 10 ∧ e.1 % 2 ^ 10 < b)
  sets.foldl (fun s e => (e.2.filter fun x => s.gstate d (x.2 / 4) == 2).foldl (fun s x =>
    (upFrom (4 * x.1) 4).foldl State.l3Clean s) s) s

/-- The walker of die `d`'s L3 has gone on by a free number of sets since the last look (R277, log entry 128); past the last
set the groups are INVALIDATING. -/
def State.l3Walk (s : State) (d : Nat) : State :=
  if !s.l3Draining d then s
  else
    let a := s.walkPos (48 + d)
    let (w, s) := s.draw
    let b := a + w.toNat % (1025 - a)
    ((s.l3CleanSets d a b).setWalk (48 + d) b).fset (WEFT_L3STAT.WALKSET d) (min b 1023)

/-- A write-back has put a sector into die `d`'s L3: in a draining group whose set the walker has passed it is written to DRAM
at once (R277). -/
def State.l3Pass (s : State) (d sec : Nat) : State :=
  if !s.l3Draining d then s
  else
    let s := s.l3Walk d
    let way := ((AMap.get [] s.mem.l3sets (l3setKey d (sec * 64))).filter fun e => e.1 == sec / 4).headD (0, 0)
    if s.gstate d (way.2 / 4) == 2 && decide (bitsOf (sec * 64) 21 12 < s.walkPos (48 + d)) then s.l3Clean sec else s

/-! ### The Hem home's windows (R255, R397, R401) -/

/-- Window offset of an address. -/
def winOff (a : Nat) : Nat := a - windowBase

/-- A byte of window space as the Hem home answers it. -/
def State.winByte (s : State) (a : Nat) : Byte :=
  match AMap.get none s.mem.winFlight (winOff a) with
  | some b => b
  | none => AMap.get 0 (if s.fbit HEM_STAT.H0OK then s.mem.h0 else s.mem.h1) (winOff a)

/-- The Hem home takes a byte (R255): it is in flight until it is durable (R293). -/
def State.setWin (s : State) (agent a : Nat) (b : Byte) : State :=
  s.onMem fun m => { m with winFlight := AMap.set none m.winFlight (winOff a) (some b)
                            winPend := AMap.set [] m.winPend (winOff a / 64)
                              ((AMap.get [] m.winPend (winOff a / 64)).filter (· ≠ agent + 1) ++ [agent + 1]) }

/-- Frames of the journal region of a Hem die, and of the whole die (R379, R403). -/
def jFrames : Nat := 131072
def hemFrames : Nat := 524288

/-- Writes to frame `f` of Hem die `i` (R403). -/
def State.wearOf (s : State) (i f : Nat) : Nat :=
  AMap.get 0 s.triad.wear (i * hemFrames + f) + AMap.get 0 s.triad.wearG (i * 1024 + f / 512)

/-- HEM.DIE.WEARMAX follows the most-written frame, in units of 2^20 (R404). -/
def State.noteWear (s : State) (i f : Nat) : State :=
  let w := min (s.wearOf i f / 2 ^ 20) (2 ^ 32 - 1)
  if s.fget (HEM_DIE.WEARMAX i) < w then s.fset (HEM_DIE.WEARMAX i) w else s

/-- One unit is written at offset `off` of Hem die `i`: the die counts it for the frame (R403). -/
def State.wearWrite (s : State) (i off : Nat) : State :=
  let k := i * hemFrames + off / 4096 % hemFrames
  let s := { s with triad := { s.triad with wear := AMap.set 0 s.triad.wear k (AMap.get 0 s.triad.wear k + 1) } }
  s.noteWear i (off / 4096 % hemFrames)

/-- Granule `g` of the die space of die `i` is written whole: 64 sectors in each frame (R398, R403). -/
def State.wearGran (s : State) (i g : Nat) : State :=
  let k := i * 1024 + g
  let s := { s with triad := { s.triad with wearG := AMap.set 0 s.triad.wearG k (AMap.get 0 s.triad.wearG k + 64) } }
  s.noteWear i (g * 512)

/-- Every Hem window write of the sectors that `p` picks by one of their writers becomes durable on every die in service
(R293, R401). -/
def State.winDurable (s : State) (p : Nat → Nat → Bool) : State :=
  let secs := (s.mem.winPend.filter (fun e => e.2.any (p e.1))).map (·.1)
  let moved := s.mem.winFlight.filter (fun e => secs.contains (e.1 / 64))
  let put (on : Bool) (h : AMap Byte) : AMap Byte :=
    if on then moved.foldl (fun h e => match e.2 with
      | some b => AMap.set 0 h e.1 b
      | none => h) h else h
  let s := [0, 1].foldl (fun s i =>
    if s.fbit (if i = 0 then HEM_STAT.H0OK else HEM_STAT.H1OK) || s.fbit HEM_STAT.REJOIN then
      secs.foldl (fun s k => s.wearWrite i (2 ^ 29 + k * 64)) s
    else s) s
  s.onMem fun m => { m with
    h0 := put (s.fbit HEM_STAT.H0OK) m.h0
    h1 := put (s.fbit HEM_STAT.H1OK) m.h1
    winFlight := m.winFlight.filter (fun e => !secs.contains (e.1 / 64))
    winPend := m.winPend.filter (fun e => !secs.contains e.1) }

/-! ### The home's copy of a sector -/

/-- A byte as the home holds it: L3 over DRAM, or the Hem home. An address that nothing serves has no byte and
reads 0 with poison (R305). -/
def State.homeByte (s : State) (a : Nat) : Byte :=
  match spaceOf a with
  | .window => s.winByte a
  | _ => match AMap.get none s.mem.l3data a with
    | some b => b
    | none => (match s.place a with
      | some p => s.dramByte p
      | none => 0)

/-- Poison of a sector as the home holds it. -/
def State.homePois (s : State) (sec : Nat) : Bool :=
  if !s.served (sec * 64) then true
  else match spaceOf (sec * 64) with
  | .window => AMap.get false s.mem.winPoison (winOff (sec * 64) / 64)
  | _ => match AMap.get none s.mem.l3poison sec with
    | some b => b
    | none => (match s.place (sec * 64) with
      | some p => s.dramPois p
      | none => true)

/-- Set or clear the poison of the home's copy: in L3 when present, otherwise in DRAM; durably for a window. -/
def State.setHomePois (s : State) (sec : Nat) (b : Bool) : State :=
  match spaceOf (sec * 64) with
  | .window => s.onMem fun m => { m with winPoison := AMap.set false m.winPoison (winOff (sec * 64) / 64) b }
  | _ => match s.place (sec * 64) with
    | none => s
    | some p =>
      if AMap.get 0 s.mem.l3 sec ≠ 0 then
        s.onMem fun m => { m with l3poison := AMap.set none m.l3poison sec (if s.dramPois p == b then none else some b)
                                  l3 := AMap.set 0 m.l3 sec 2 }
      else s.setDramPois p b

/-- The home takes bytes of a sector from an agent (R254, R255): into L3 when it allocates, else into DRAM; into the
Hem home's copies for a window. -/
def State.homePut (s : State) (agent sec : Nat) (bs : List (Nat × Byte)) : State :=
  match spaceOf (sec * 64) with
  | .window => bs.foldl (fun t e => t.setWin agent e.1 e.2) s
  | .dram =>
    let (s, inL3) := s.l3Touch sec
    if inL3 then
      let s := s.onMem fun m => { m with
        l3data := bs.foldl (fun l e => AMap.set none l e.1 (some e.2)) m.l3data
        l3 := AMap.set 0 m.l3 sec 2 }
      s.l3Pass (s.homeOf sec).1 sec
    else bs.foldl (fun t e => match t.place e.1 with
      | some p => t.setDram p e.2
      | none => t) s
  | _ => s

/-! ### The caches of R256 and their directory -/

/-- The directory entry of a sector. -/
def State.dirOf (s : State) (sec : Nat) : DirEntry := AMap.get {} s.mem.dir sec

/-- The state of a sector in caching agent `p` (R256, R259). -/
def State.cst (s : State) (p sec : Nat) : CState :=
  let e := s.dirOf sec
  if e.owner == some p then e.st else if e.sharers.contains p then .s else .i

/-- Set a directory entry; an entry with no holder is no entry. -/
def State.setDir (s : State) (sec : Nat) (e : DirEntry) : State :=
  s.onMem fun m => { m with dir := AMap.set {} m.dir sec (match e.owner with
    | none => { e with st := .i }
    | some _ => e) }

/-- The bytes of a sector that its M or O holder holds. -/
def State.dirtyBytes (s : State) (sec : Nat) : List (Nat × Byte) :=
  (upFrom (sec * 64) 64).filterMap fun a => (AMap.get none s.mem.cdata a).map fun b => (a, b)

/-- The poison bit of agent `p`'s copy of a sector (R257). -/
def State.copyPois (s : State) (p sec : Nat) : Bool := AMap.get false s.mem.cpoison (sec * 64 + p)
def State.setCopyPois (s : State) (p sec : Nat) (b : Bool) : State :=
  s.onMem fun m => { m with cpoison := AMap.set false m.cpoison (sec * 64 + p) b }

/-- Poison of a sector's current value: the copy in M, O or E, else the home's (R256, R257). -/
def State.curPois (s : State) (sec : Nat) : Bool :=
  match (s.dirOf sec).owner with
  | some q => s.copyPois q sec
  | none => s.homePois sec

/-- L2STAT.DIRTY of a pair follows its dirty sectors. -/
def State.countDirty (s : State) (p : Nat) : State :=
  if p < 48 then s.fset (WEFT_L2STAT.DIRTY p) (min 4095 (AMap.get [] s.mem.dirty p).length) else s

/-- The sector is among the dirty ones of agent `p` no longer. -/
def State.undirty (s : State) (p sec : Nat) : State :=
  (s.onMem fun m => { m with dirty := AMap.set [] m.dirty p ((AMap.get [] m.dirty p).filter (· ≠ sec)) }).countDirty p

/-- The caches hold no bytes of the sector that differ from the home's. -/
def State.dropBytes (s : State) (sec : Nat) : State := s.onMem fun m => { m with cdata := AMap.keep (fun a => a / 64 ≠ sec) m.cdata }

/-- The home receives the dirty value of a sector from agent `p`, with its poison. A home whose die is lost takes nothing: the
write is discarded with a contained-class fault (R305). -/
def State.wbData (s : State) (p sec : Nat) : State :=
  let s :=
    if !s.served (sec * 64) then s.raise { loc := if p < 48 then locCode 0x6 (p / 12) (p % 12) 0 else locCode 0x6 4 0xFF 0x05, d0 := sec * 64, bare := true }
    else
      let po := s.copyPois p sec
      let s := s.homePut p sec (s.dirtyBytes sec)
      if s.homePois sec == po then s else s.setHomePois sec po
  (s.dropBytes sec).undirty p sec

/-- Clean (R261): M → E, O → S, the data at the home. -/
def State.cleanAt (s : State) (p sec : Nat) : State :=
  let e := s.dirOf sec
  if e.owner == some p && (e.st == .m || e.st == .o) then
    let s := s.wbData p sec
    if e.st == .m then s.setDir sec { e with st := .e }
    else s.setDir sec { owner := none, st := .i, sharers := p :: e.sharers }
  else s

/-- The L2 set of a sector as a key. -/
def l2Key (p sec : Nat) : Nat := p * 2 ^ 11 + bitsOf (sec * 64) 17 7

/-- The L1 sets of a sector as keys: instructions or data (R250). -/
def l1Key (p sec : Nat) (data : Bool) : Nat := (p * 2 + bnat data) * 2 ^ 8 + (if data then sec % 128 else sec % 256)

/-- Agent `p` holds the sector no longer: its copy's poison goes; an L2 line with no valid sector leaves its set, and the pair's
L1 caches drop the sector (R252). -/
def State.dropCopy (s : State) (p sec : Nat) : State :=
  let s := s.setCopyPois p sec false
  if p < 48 then
    let other := if sec % 2 = 0 then sec + 1 else sec - 1
    let without (m : AMap (List Nat)) (k x : Nat) : AMap (List Nat) := AMap.set [] m k ((AMap.get [] m k).filter (· ≠ x))
    s.onMem fun m => { m with
      l1 := without (without m.l1 (l1Key p sec true) sec) (l1Key p sec false) sec
      l2sets := if s.cst p other == .i then without m.l2sets (l2Key p sec) (sec / 2) else m.l2sets }
  else s

/-- The home transaction of a sector, if one is open (R264). -/
def State.txnOf (s : State) (sec : Nat) : Option HomeTxn := AMap.get none s.mem.txns sec

/-- A directory entry that names no holder is freed, unless a transaction of its sector is open. -/
def State.dirFree (s : State) (sec : Nat) : State :=
  if s.dirOf sec = {} && (s.txnOf sec).isNone then
    let k := s.homeKey sec
    (s.dropBytes sec).onMem fun m => { m with dirOrder := AMap.set [] m.dirOrder k ((AMap.get [] m.dirOrder k).filter (· ≠ sec)) }
  else s

/-- Agent `p` gives up its copy: write-back when it is dirty, notice otherwise (R256, R261). -/
def State.leave (s : State) (p sec : Nat) : State :=
  let e := s.dirOf sec
  let s := if e.owner == some p && (e.st == .m || e.st == .o) then s.wbData p sec else s
  let s := s.setDir sec { owner := if e.owner == some p then none else e.owner, st := e.st,
                          sharers := e.sharers.filter (· ≠ p) }
  (s.dropCopy p sec).dirFree sec

/-- Agent `p`'s copy is gone without a write-back (R273 to R275). Where others share a dirty sector, they keep its bytes. -/
def State.forget (s : State) (p sec : Nat) : State :=
  let e := s.dirOf sec
  let s := if e.owner == some p && (e.st == .m || e.st == .o) then
      (if e.sharers.isEmpty then s.dropBytes sec else s).undirty p sec
    else s
  let s := s.setDir sec { owner := if e.owner == some p then none else e.owner, st := e.st,
                          sharers := e.sharers.filter (· ≠ p) }
  (s.dropCopy p sec).dirFree sec

/-! ### Eviction buffers (R266, R267) -/

/-- The sectors of an agent's eviction buffer, oldest first, and whether the home has taken each. -/
def State.evictOf (s : State) (p : Nat) : List (Nat × Bool) := AMap.get [] s.mem.evict p
def State.setEvict (s : State) (p : Nat) (l : List (Nat × Bool)) : State := s.onMem fun m => { m with evict := AMap.set [] m.evict p l }

/-- The write-back of a sector from the buffer of agent `p` reaches its home; a home that no longer names the writer discards
it (R267). -/
def State.evictHome (s : State) (p sec : Nat) : State :=
  (s.leave p sec).setEvict p ((s.evictOf p).map fun e => if e.1 = sec then (sec, true) else e)

/-- The home's acknowledgement frees the entry. -/
def State.evictAck (s : State) (p sec : Nat) : State := s.setEvict p ((s.evictOf p).filter fun e => e.1 != sec)

/-- A write-back in the buffer is carried to its end. -/
def State.evictFinish (s : State) (p sec : Nat) : State :=
  match firstThat (fun e => e.1 == sec) (s.evictOf p) with
  | none => s
  | some e => (if e.2 then s else s.evictHome p sec).evictAck p sec

/-- A sector enters the buffer of 16; with none free it waits for the oldest to end. -/
def State.evictPush (s : State) (p sec : Nat) (taken : Bool) : State :=
  let s := match s.evictOf p with
    | e :: _ => if 16 ≤ (s.evictOf p).length then s.evictFinish p e.1 else s
    | [] => s
  s.setEvict p (s.evictOf p ++ [(sec, taken)])

/-- Agent `p` writes a dirty sector back through its buffer and keeps it clean (R253, R277). -/
def State.cleanVia (s : State) (p sec : Nat) : State := (s.evictPush p sec true).cleanAt p sec

/-- Agent `p` evicts a sector (R256): a dirty one waits in its buffer for its home, a clean one is a notice to the home. -/
def State.evictSector (s : State) (p sec : Nat) : State :=
  let c := s.cst p sec
  if c == .m || c == .o then (s.undirty p sec).evictPush p sec false
  else if c == .i then s else s.leave p sec

/-! ### The L2 and its lines (R250, R253) -/

/-- Is a line of a pair's L2 clean? -/
def State.lineClean (s : State) (p line : Nat) : Bool :=
  (upFrom (2 * line) 2).all fun x => s.cst p x != .m && s.cst p x != .o

/-- A sector is allocated in a pair's L2 (R250): its line becomes the most recently used, and a set of more than 16
lines gives up its least recently used clean line, or its least recently used line where none is clean. -/
def State.l2Touch (s : State) (p sec : Nat) : State :=
  if 48 ≤ p then s
  else
    let key := l2Key p sec
    let line := sec / 2
    let lines := line :: (AMap.get [] s.mem.l2sets key).filter (· ≠ line)
    let s := s.onMem fun m => { m with l2sets := AMap.set [] m.l2sets key lines }
    if lines.length ≤ 16 then s
    else
      let old := (lines.drop 1).reverse
      let victim := ((firstThat (s.lineClean p) old).orElse fun _ => old.head?).getD line
      let s := (upFrom (2 * victim) 2).foldl (fun t x => t.evictSector p x) s
      s.onMem fun m => { m with l2sets := AMap.set [] m.l2sets key (lines.filter (· ≠ victim)) }

/-- An L1 cache of the pair takes a sector that its L2 holds (R250, R252): 4 ways of instructions, 8 of data. -/
def State.l1Touch (s : State) (p sec : Nat) (data : Bool) : State :=
  if p < 48 && s.cst p sec != .i then
    let k := l1Key p sec data
    let l := (sec :: (AMap.get [] s.mem.l1 k).filter (· ≠ sec)).take (if data then 8 else 4)
    s.onMem fun m => { m with l1 := AMap.set [] m.l1 k l }
  else s

/-- The dirty limit of a pair in sectors (R253, R280). -/
def State.dlim (s : State) (p : Nat) : Nat :=
  let d := s.fget (WEFT_L2CTL.DLIM p)
  64 * (if d = 0 ∨ 32 < d then 16 else d)

/-- A sector becomes the most recently written dirty sector of its agent; beyond the limits of R253 and R293 the least
recently written one is written back through the buffer and kept clean. -/
def State.noteDirty (s : State) (p sec : Nat) : State :=
  let l := (AMap.get [] s.mem.dirty p).filter (· ≠ sec) ++ [sec]
  let s := (s.onMem fun m => { m with dirty := AMap.set [] m.dirty p l }).countDirty p
  if 48 ≤ p then s
  else
    let wins := l.filter fun x => spaceOf (x * 64) == .window
    let s := if 256 < wins.length then s.cleanVia p (wins.headD sec) else s
    let l := AMap.get [] s.mem.dirty p
    if s.dlim p < l.length then s.cleanVia p (l.headD sec) else s

/-- L2STAT.STATE codes of a pair: 0 DISABLED, 1 ENABLED, 2 DRAINING, 3 INVALIDATING (R276). -/
def State.l2st (s : State) (p : Nat) : Nat := if p < 48 then s.fget (WEFT_L2STAT.STATE p) else 1

/-- The walker of a draining L2 has gone on by a free number of its 2,048 sets since the last look, and cleaned them; past the
last one the L2 is INVALIDATING (R276, R277, log entry 128). -/
def State.l2Walk (s : State) (p : Nat) : State :=
  if s.l2st p ≠ 2 then s
  else
    let a := s.walkPos p
    let (w, s) := s.draw
    let b := a + w.toNat % (2049 - a)
    let passed := (AMap.get [] s.mem.dirty p).filter fun x => decide (bitsOf (x * 64) 17 7 < b)
    let s := (passed.foldl (fun t x => t.cleanVia p x) s).setWalk p b
    if b = 2048 then s.fset (WEFT_L2STAT.STATE p) 3 else s

/-- A store of pair `p` has written a sector: in a set the walker of its drain has passed it is written back at once and kept
clean (R277). -/
def State.l2Pass (s : State) (p sec : Nat) : State :=
  if s.l2st p ≠ 2 ∧ s.l2st p ≠ 3 then s
  else
    let s := s.l2Walk p
    if s.l2st p == 3 || decide (bitsOf (sec * 64) 17 7 < s.walkPos p) then s.cleanVia p sec else s

/-! ### Requests at the home (R260–R264) -/

/-- Change a counter of the COHSTAT of a sector's home die; the Hem home has none. -/
def State.cohCount (s : State) (sec : Nat) (f : Nat → Field) (n : Nat := 1) : State :=
  let d := (s.homeOf sec).1
  if d < 4 then s.fcount (f d) n else s

/-- A copy of every caching agent of a sector becomes I, dirty data first going home. -/
def State.recallAll (s : State) (sec : Nat) : State :=
  let e := s.dirOf sec
  let s := match e.owner with
    | some q => s.leave q sec
    | none => s
  e.sharers.foldl (fun t q => t.leave q sec) s

/-- The ways of a directory set (R259). The set of a sector in its home is `Config.dirSet`. -/
def dirWays : Nat := 16

/-- A new directory entry (R259, R260): where its set is full, the home recalls the least recently allocated entry of the set
that no transaction holds. -/
def State.dirAlloc (s : State) (sec : Nat) : State :=
  let k := s.homeKey sec
  let l := AMap.get [] s.mem.dirOrder k
  if l.contains sec then s
  else
    let same := if l.length < dirWays then [] else l.filter fun x => Config.dirSet x == Config.dirSet sec
    let s := match firstThat (fun x => (s.txnOf x).isNone) (if same.length < dirWays then [] else same) with
      | some x => (s.recallAll x).cohCount x WEFT_COHSTAT.RECALL
      | none => s
    s.onMem fun m => { m with dirOrder := AMap.set [] m.dirOrder k (AMap.get [] m.dirOrder k ++ [sec]) }

/-- Close the home transaction of a sector. -/
def State.endTxn (s : State) (sec : Nat) : State :=
  (s.onMem fun m => { m with txns := AMap.erase sec m.txns }).dirFree sec

/-- A forwarded request at the holder of M, O or E (R261, R262, R294): the holder's own change of state. The dirty
value goes on to the requester of a ReadM or an Upgrade; for a Hem window it also goes to the Hem home. -/
def State.forwarded (s : State) (q sec : Nat) (k : ReqKind) : State :=
  let e := s.dirOf sec
  let dirtyWin := spaceOf (sec * 64) == .window && (e.st == .m || e.st == .o)
  if e.owner ≠ some q then s
  else match k with
  | .readS =>
    if e.st == .e then s.setDir sec { owner := none, st := .i, sharers := q :: e.sharers }
    else if dirtyWin then
      let po := s.copyPois q sec
      (s.homePut q sec (s.dirtyBytes sec)).setHomePois sec po |>.setDir sec { e with st := .o }
    else s.setDir sec { e with st := .o }
  | .readM | .upgrade =>
    let s := if dirtyWin then
        let po := s.copyPois q sec
        (s.homePut q sec (s.dirtyBytes sec)).setHomePois sec po
      else s
    ((s.undirty q sec).setDir sec { e with owner := none, st := .i }).dropCopy q sec
  | .writePart => s.leave q sec
  | _ => s

/-- The requester's copy is final (R261, R262), with the poison `po` that came with its data. A sector held M counts among the
dirty ones of its holder. -/
def State.grant (s : State) (p sec : Nat) (k : ReqKind) (po : Bool) : State :=
  let s := s.dirAlloc sec
  let e := s.dirOf sec
  match k with
  | .readS =>
    let s := if e.owner.isNone && e.sharers.isEmpty then s.setDir sec { owner := some p, st := .e, sharers := [] }
      else s.setDir sec { e with sharers := p :: e.sharers.filter (· ≠ p) }
    (s.setCopyPois p sec po).l2Touch p sec
  | .readM | .upgrade =>
    let others := (e.owner.toList ++ e.sharers).filter (· ≠ p)
    let s := s.setDir sec { owner := some p, st := .m, sharers := [] }
    let s := others.foldl (fun t q => t.dropCopy q sec) s
    ((s.setCopyPois p sec po).l2Touch p sec).noteDirty p sec
  | _ => s

/-- The poison that comes with the data of a request of agent `p` that takes a sector over: its own copy's, else the current
value's. -/
def State.takePois (s : State) (p sec : Nat) : Bool := if s.cst p sec == .i then s.curPois sec else s.copyPois p sec

/-- Carry an open home transaction of a sector to its end (R262, R264) for an access that meets it, which the home answers
with NACK until then, a free number of times (log entry 42): the holder answers, the invalidations are acknowledged, the
requester's state is final. -/
def State.settle (s : State) (sec : Nat) : State :=
  match s.txnOf sec with
  | none => s
  | some t =>
    let (w, s) := s.draw
    let s := s.cohCount sec WEFT_COHSTAT.NACK (1 + w.toNat % 63)
    let po := match t.fwd with
      | some q => s.copyPois q sec
      | none => t.po
    let s := match t.fwd with
      | some q => s.forwarded q sec t.kind
      | none => s
    let s := t.inv.foldl (fun u q => u.leave q sec) s
    (s.grant t.requester sec t.kind po).endTxn sec

/-- ReadS of agent `p` for a sector it does not hold. -/
def State.readShared (s : State) (p sec : Nat) : State :=
  let po := s.curPois sec
  let s := (s.l3Touch sec).1
  let s := match (s.dirOf sec).owner with
    | some q => s.forwarded q sec .readS
    | none => s
  s.grant p sec .readS po

/-- ReadM or Upgrade of agent `p`: it ends in M (R261). A sector it holds M or E takes no request. -/
def State.readOwn (s : State) (p sec : Nat) : State :=
  let e := s.dirOf sec
  let po := s.takePois p sec
  let s := if s.cst p sec == .i then (s.l3Touch sec).1 else s
  let s := match e.owner with
    | some q => if q = p then s else s.forwarded q sec .readM
    | none => s
  s.grant p sec .readM po

/-! ### Current values (R256) -/

/-- The current value of a byte: the M or O holder's, else the home's. -/
def State.cur8 (s : State) (a : Nat) : Byte :=
  match AMap.get none s.mem.cdata a with
  | some b => b
  | none => s.homeByte a

/-- The current value of `n` bytes. -/
def State.curBytes (s : State) (a n : Nat) : List Byte := (upFrom a n).map s.cur8

/-! ### Accesses of the caching agents -/

/-- The pieces of an access by sector: sector, first address, bytes. -/
def sectorPieces (a n : Nat) : List (Nat × Nat × Nat) :=
  if n = 0 then []
  else (upFrom (a / 64) ((a + n - 1) / 64 - a / 64 + 1)).map fun sec =>
    let lo := max a (sec * 64)
    let hi := min (a + n) (sec * 64 + 64)
    (sec, lo, hi - lo)

/-- An access of agent `p` waits for its sector to leave its eviction buffer (R267) and for the sector's transaction to end. -/
def State.meet (s : State) (p sec : Nat) : State := (s.evictFinish p sec).settle sec

/-- The sector is brought where a load of agent `p` reads it (R261, R278); uncached accesses and a disabled L2 use
ReadCur, which changes no L2. -/
def State.loadSector (s : State) (p sec : Nat) (uncached : Bool) : State :=
  let s := s.meet p sec
  if !s.served (sec * 64) then s
  else if s.cst p sec != .i && !uncached then s.l2Touch p sec
  else if uncached || s.l2st p != 1 then (s.l3Touch sec).1
  else s.readShared p sec

/-- The poison that a load of agent `p` finds in a sector: its own copy's, else the current value's. -/
def State.loadPois (s : State) (p sec : Nat) (uncached : Bool) : Bool :=
  if uncached then s.curPois sec else s.takePois p sec

/-- A store of agent `p` into one sector: `bs` from address `a` on. `whole` says that all 64 bytes are written in one
operation, which clears poison (R258). -/
def State.storeSector (s : State) (p sec a : Nat) (bs : List Byte) (uncached whole : Bool) : State :=
  let s := s.meet p sec
  let es := (upFrom a bs.length).zip bs
  if uncached || (s.l2st p != 1 && s.cst p sec == .i) then
    -- WritePart or WriteFull at the home (R263)
    let s := s.recallAll sec
    let s := s.homePut p sec es
    if whole then s.setHomePois sec false else s
  else
    let s := s.readOwn p sec
    let s := s.onMem fun m => { m with cdata := es.foldl (fun l e => AMap.set none l e.1 (some e.2)) m.cdata }
    let s := if whole then s.setCopyPois p sec false else s
    (s.noteDirty p sec).l2Pass p sec

/-! ### Window owner checks (R400) -/

/-- The granule of a window address. -/
def granuleOf (a : Nat) : Nat := winOff a / 2 ^ 21

/-- May an accessor reach an address: a partition its own granules, the firmware every granule (R400)? -/
def State.mayReach (s : State) (part : Option Nat) (a : Nat) : Bool :=
  match spaceOf a with
  | .window => (match part with
    | none => true
    | some n => s.fbit (HEM_GOWN.VALID (granuleOf a)) && s.fget (HEM_GOWN.OWNER (granuleOf a)) == n)
  | _ => true

/-! ### Accesses of contexts -/

/-- The caching agent of a context: its physical pair (R327). -/
def State.agentOf (s : State) (c : Nat) : Nat := s.physOf (slotOf c)

/-- A read by context `c` of `n` bytes at a module-physical address: the state, the bytes, and whether any piece was
poison (R257, R305, R400, R629). -/
def State.ctxRead (s : State) (c a n : Nat) (uncached : Bool := false) : State × List Byte × Bool :=
  let step (acc : State × List Byte × Bool) (pc : Nat × Nat × Nat) : State × List Byte × Bool :=
    let (s, bs, po) := acc
    let (sec, lo, k) := pc
    if !s.mayReach (s.partOf c) lo then (s.ctxFault c lo, bs ++ List.replicate k 0, true)
    else
      let s := s.loadSector (s.agentOf c) sec uncached
      (s, bs ++ s.curBytes lo k, po || s.loadPois (s.agentOf c) sec uncached)
  (sectorPieces a n).foldl step (s, [], false)

/-- A write by context `c` (R305, R400, R629): a piece that nothing serves or that the Hem home refuses is discarded
with a contained-class fault; the other pieces are written. -/
def State.ctxWrite (s : State) (c a : Nat) (bs : List Byte) (uncached whole : Bool := false) : State :=
  (sectorPieces a bs.length).foldl (fun s pc =>
    let (sec, lo, k) := pc
    if !s.mayReach (s.partOf c) lo || !s.served lo then s.ctxFault c lo
    else s.storeSector (s.agentOf c) sec lo ((bs.drop (lo - a)).take k) uncached (whole && k == 64)) s

/-! ### The store buffer of a pair (R281, R282) -/

/-- The stores of a physical pair that have committed and are not performed, oldest first. -/
def State.sbufOf (s : State) (p : Nat) : List MemStore := AMap.get [] s.mem.sbuf p
def State.setSbuf (s : State) (p : Nat) (l : List MemStore) : State := s.onMem fun m => { m with sbuf := AMap.set [] m.sbuf p l }

/-- A committed store enters its pair's store buffer (R282). -/
def State.sbPut (s : State) (m : MemStore) : State := s.setSbuf (s.agentOf m.ctx) (s.sbufOf (s.agentOf m.ctx) ++ [m])

/-- The oldest `n` stores of a pair's buffer are performed, in order. -/
def State.sbPerform (s : State) (p : Nat) : Nat → State
  | 0 => s
  | n + 1 => match s.sbufOf p with
    | [] => s
    | m :: rest => ((s.setSbuf p rest).ctxWrite m.ctx m.mp m.bytes m.uncached m.whole).sbPerform p n

/-- Every store of a pair is performed; every store of every pair. -/
def State.sbFlush (s : State) (p : Nat) : State := s.sbPerform p (s.sbufOf p).length
def State.sbFlushAll (s : State) : State := s.mem.sbuf.foldl (fun s e => s.sbFlush e.1) s

/-- The number of stores up to and with the last one of context `c`. -/
def lastOf (c : Nat) : List MemStore → Nat
  | [] => 0
  | m :: rest => let k := lastOf c rest; if 0 < k then k + 1 else if m.ctx = c then 1 else 0

/-- Every store of context `c` is performed, with those before it in the buffer. -/
def State.sbOwn (s : State) (c : Nat) : State := s.sbPerform (s.agentOf c) (lastOf c (s.sbufOf (s.agentOf c)))

/-- Stores that wait go on being performed: of each pair a free number of the oldest (R282, log entry 27). -/
def State.sbProgress (s : State) : State :=
  s.mem.sbuf.foldl (fun s e =>
    let (w, s) := s.draw
    s.sbPerform e.1 (w.toNat % (e.2.length + 1))) s

/-- The byte at `a` that the youngest of the stores `l` of context `c` wrote. -/
def sbByte (c a : Nat) (l : List MemStore) : Option Byte :=
  l.foldl (fun o m => if m.ctx = c ∧ m.mp ≤ a ∧ a < m.mp + m.bytes.length then m.bytes[a - m.mp]? else o) none

/-- A load of context `c` that finds its bytes in the store buffer returns them (R282). -/
def State.sbForward (s : State) (c a n : Nat) : Option (List Byte) :=
  let l := s.sbufOf (s.agentOf c)
  if l.isEmpty then none else (upFrom a n).mapM fun x => sbByte c x l

/-- A load of context `c` of `n` bytes from memory (R281, R282): what its own waiting stores hold; else its waiting stores are
performed first, so that the order of memory agrees with its program order. The pair's L1 data cache takes the sectors. -/
def State.memRead (s : State) (c a n : Nat) (uncached : Bool) : State × List Byte × Bool :=
  match s.sbForward c a n with
  | some bs => (s, bs, false)
  | none =>
    let (s, bs, po) := (s.sbOwn c).ctxRead c a n uncached
    let p := s.agentOf c
    (if uncached then s else (sectorPieces a n).foldl (fun (t : State) x => t.l1Touch p x.1 true) s, bs, po)

/-! ### Streams on Stitch (R284) -/

/-- What issues transfers on Stitch. -/
inductive Issuer where
  | context (c : Nat)
  | pleat (e : Nat)
  | cloak (l : Nat)
  | triad
  | seam (port : Nat)
  | collector
  | collar
  | tailor
deriving DecidableEq, Repr

/-- The 10-bit stream ID of an issuer. A context keeps its own over a move, since it is the context's number. -/
def Issuer.streamId : Issuer → Nat
  | .context c => c % 0x300
  | .pleat e => 0x300 + e % 32
  | .cloak l => 0x320 + l % 64
  | .triad => 0x360
  | .seam p => 0x364 + p % 4
  | .collector => 0x368
  | .collar => 0x369
  | .tailor => 0x36A

/-! ### Accesses of Hub agents (R263) -/

/-- A Hub agent: the partition it acts for, its tile and unit (R26, R630). -/
structure HubAgent where
  part : Option Nat
  tile : Nat
  unit : Nat
deriving DecidableEq, Repr

/-- The issuer that a Hub agent is on Stitch, by its tile and unit (R27, R284, R548); agents that are not in the table of
R284 carry no stream ID. -/
def HubAgent.issuer (h : HubAgent) : Option Issuer :=
  if h.tile < 4 then some (.pleat (h.tile * 8 + h.unit))
  else if 8 ≤ h.tile ∧ h.tile < 16 then some (.cloak ((h.tile - 8) * 8 + h.unit))
  else if h.unit = 0x04 then some .triad
  else if h.unit = 0x05 then some .tailor
  else if h.unit = 0x06 then some .collar
  else if h.unit = 0x07 then some .collector
  else if 0x10 ≤ h.unit ∧ h.unit < 0x14 then some (.seam (h.unit - 0x10))
  else none

/-- ReadCur of a Hub agent: the bytes and whether any is poison. -/
def State.hubRead (s : State) (h : HubAgent) (a n : Nat) : State × List Byte × Bool :=
  let step (acc : State × List Byte × Bool) (pc : Nat × Nat × Nat) : State × List Byte × Bool :=
    let (s, bs, po) := acc
    let (sec, lo, k) := pc
    if !s.mayReach h.part lo then (s.hubFault h.part h.tile h.unit lo, bs ++ List.replicate k 0, true)
    else
      let s := s.settle sec
      let s := if s.served lo then (s.l3Touch sec).1 else s
      (s, bs ++ s.curBytes lo k, po || s.curPois sec)
  (sectorPieces a n).foldl step (s.sbProgress, [], false)

/-- The agent number a Hub write of a window is noted under: beside the 49 caching agents (R293). -/
def hubAgentNo : Nat := 49

/-- WriteFull and WritePart of a Hub agent: every cached copy → I, the bytes at the home; all 64 bytes clear poison
(R258, R263). -/
def State.hubWrite (s : State) (h : HubAgent) (a : Nat) (bs : List Byte) : State :=
  (sectorPieces a bs.length).foldl (fun s pc =>
    let (sec, lo, k) := pc
    if !s.mayReach h.part lo || !s.served lo then s.hubFault h.part h.tile h.unit lo
    else
      let s := (s.settle sec).recallAll sec
      let s := s.homePut hubAgentNo sec ((upFrom lo k).zip ((bs.drop (lo - a)).take k))
      if k = 64 then s.setHomePois sec false else s) s.sbProgress

/-- Before a Hub agent reports, every Hem window write of its operation is durable (R297). -/
def State.hubDurable (s : State) : State := s.winDurable fun _ g => g == hubAgentNo + 1

/-- A Hub read that keeps no caching effect and returns the value only: firmware structures read by the module. -/
def State.peek (s : State) (a n : Nat) : List Byte := s.curBytes a n

/-- The canonical form of memory: in every byte map the addresses rise strictly, and no entry is what an unlisted address
reads as. -/
def Memory.wf (m : MemState) : Bool :=
  AMap.wf 0 m.dram && AMap.wf 0 m.h0 && AMap.wf 0 m.h1 && AMap.wf none m.l3data && AMap.wf none m.cdata
    && AMap.wf none m.winFlight

end Sys2Proof.Machine
end

