-- ==== Sys2Proof/Machine/Cpu.lean ====
section
/-! DEFINITION. What every instruction shares: the words of the formats, taking an exception and returning from it,
translation, wide banks, and the frame of one instruction's execution (04_native_architecture.md R101, R108–R124;
06 R183, R196; 07 R209–R219). -/

namespace Sys2Proof.Machine

/-! ### Instruction words (R101, R196) -/

def wordR (major func : Nat) (f : RFmt) : Nat :=
  major * 2 ^ 26 + f.rd.toNat * 2 ^ 21 + f.ra.toNat * 2 ^ 16 + f.rb.toNat * 2 ^ 11 + f.rc.toNat * 2 ^ 6 + func
def wordI (major : Nat) (f : IFmt) : Nat :=
  major * 2 ^ 26 + f.rd.toNat * 2 ^ 21 + f.ra.toNat * 2 ^ 16 + f.imm.toNat
def wordM (major : Nat) (f : MFmt) : Nat :=
  major * 2 ^ 26 + f.rt.toNat * 2 ^ 21 + f.ra.toNat * 2 ^ 16 + f.mode.toNat * 2 ^ 14 + f.opnd.toNat
def wordB (major : Nat) (f : BFmt) : Nat := major * 2 ^ 26 + f.cond.toNat * 2 ^ 22 + f.disp.toNat
def wordJ (major : Nat) (f : JFmt) : Nat := major * 2 ^ 26 + f.disp.toNat
def wordS (sub : Nat) (f : SFmt) : Nat :=
  0x07 * 2 ^ 26 + f.rd.toNat * 2 ^ 21 + f.ra.toNat * 2 ^ 16 + f.imm.toNat * 2 ^ 6 + sub

/-! ### Exceptions (R117) -/

namespace Xc
def mchk : Nat := 0x01
def fetch1 : Nat := 0x02
def data1 : Nat := 0x03
def stage2 : Nat := 0x04
def align : Nat := 0x05
def undef : Nat := 0x06
def priv : Nat := 0x07
def svc : Nat := 0x08
def fwc : Nat := 0x09
def idiv : Nat := 0x0A
def fpx : Nat := 0x0B
def decx : Nat := 0x0C
def brk : Nat := 0x0D
def step : Nat := 0x0E
def intr : Nat := 0x0F
def partx : Nat := 0x10
def spill : Nat := 0x11
def lazy : Nat := 0x12
def double : Nat := 0x13
end Xc

/-- An exception before its entry: the code and the parts of CAUSE that its cause gives (R117, R123). -/
structure Exc where
  code : Nat
  detail : Nat := 0
  fetch : Bool := false
  write : Bool := false
  stage2 : Bool := false
  s1walk : Bool := false
  lvl : Nat := 0
  /-- the faulting address, where the exception has one -/
  faddr : Option Word := none
  /-- the partition-real address of a stage 2 fault -/
  fpr : Option Word := none
deriving DecidableEq, Repr

/-- The outcome of every command. -/
abbrev Res := Host.Outcome State Fault Refusal

/-- A computation that ends in a value, in an exception, or (`gone`) with its instruction abandoned, because a store that
arrived meanwhile has stopped its context. -/
inductive Out (α : Type) where
  | ok (s : State) (a : α)
  | exc (s : State) (e : Exc)
  | gone (s : State)

/-- Go on with the value, or pass the exception on. -/
def Out.bind {α β : Type} (x : Out α) (f : State → α → Out β) : Out β :=
  match x with
  | .ok s a => f s a
  | .exc s e => .exc s e
  | .gone s => .gone s

/-- CAUSE (R123). -/
def causeWord (e : Exc) (insn : Nat) : Word :=
  BitVec.ofNat 64 (insn % 2 ^ 32 * 2 ^ 32 + e.lvl % 16 * 2 ^ 20 + bnat e.s1walk * 2 ^ 19 + bnat e.stage2 * 2 ^ 18
    + bnat e.write * 2 ^ 17 + bnat e.fetch * 2 ^ 16 + e.detail % 256 * 256 + e.code % 256)

/-- The level a context runs at: F in a firmware context, else S or P (R99). -/
def State.level (s : State) (c : Nat) : Nat :=
  if isFw c then 2 else if stPL (s.ctx c).st = 0 then 0 else 1

/-- A value the exception has, or a free one where it has none (log entry 1). -/
def State.orFree (s : State) (o : Option Word) : Word × State :=
  match o with
  | some w => (w, s)
  | none => s.draw

/-- ST at exception entry to level `l` (R118 step 3). -/
def stEntry (st : Word) (l : Nat) : Word :=
  stSet (stSet (stSet (stSet (stSetPL st l) ST.ex true) ST.ie false) ST.ss false) ST.cls false

/-- ENTERING AN EXCEPTION at the level's own system registers (R118): the return PC and status, the cause and the
faulting address are saved, the status changes, and the PC is at the handler. -/
def SysRegs.enter (r : SysRegs) (rpc rst cause faddr : Word) : SysRegs :=
  { r with rpc := rpc, rst := rst, cause := cause, faddr := faddr }

/-- The handler's address (R117). -/
def handler (vbar : Word) (code : Nat) : Word := vbar + BitVec.ofNat 64 (code * 64)

/-- Take an exception at S (partition context) or F (firmware context) (R118). -/
def State.enterExc (s : State) (c : Nat) (e : Exc) (insn : Nat) (rpc : Word) : State :=
  let (fa, s) := s.orFree e.faddr
  let x := s.ctx c
  if isFw c then
    s.setCtx c { x with fr := x.fr.enter rpc x.st (causeWord e insn) fa
                        st := stEntry x.st 2, pc := handler x.fr.vbar e.code }
  else
    s.setCtx c { x with sr := x.sr.enter rpc x.st (causeWord e insn) fa
                        st := stEntry x.st 1, pc := handler x.sr.vbar e.code }

/-- The firmware context of a slot. -/
def fwOf (k : Nat) : Nat := k * 16 + 15

/-- PARTX stops of a slot that wait for the firmware Pocket, in order (R217). -/
def State.partxOf (s : State) (k : Nat) : List PartxEntry := AMap.get [] s.core.partx k

def State.setPartx (s : State) (k : Nat) (l : List PartxEntry) : State :=
  { s with core := { s.core with partx := AMap.set [] s.core.partx k l } }

/-- A stop of a partition context for firmware (R124, R217): the context keeps its PC and ST, its Pocket is STOPPED
with FWHOLD, and the stop waits for the firmware Pocket of the slot, which becomes READY. -/
def State.partxStop (s : State) (c : Nat) (e : Exc) (insn : Nat) (pc : Word) : State :=
  let (fa, s) := s.orFree e.faddr
  let (fp, s) := s.orFree e.fpr
  let s := s.setCtx c { s.ctx c with pc := pc }
  let s := (s.setPk c pkStopped).fset (POCKET_STAT.FWHOLD c) 1
  let k := slotOf c
  let s := s.setPartx k (s.partxOf k ++ [{ ctx := c, cause := causeWord e insn, faddr := fa, fpr := fp }])
  if s.pk (fwOf k) = pkBlocked then s.makeReady (fwOf k) else s

/-- TAKING AN EXCEPTION of context `c` (R117–R119, R124). In the firmware context every exception targets F, and one
with ST.EX = 1 is a double fault: a fatal-class fault that stops the firmware Pocket. In a partition context STAGE2,
FWC and SPILL go via PARTX; MCHK does with EX = 1 at S; any other with EX = 1 at S stops the context with DOUBLE. `rpc` is what RPC holds, `pc` the
instruction. -/
def State.takeExc (s : State) (c : Nat) (e : Exc) (insn : Nat) (rpc pc : Word) : State :=
  let ex := stBit (s.ctx c).st ST.ex
  if isFw c then
    if ex && e.code != Xc.intr then
      ((s.setPk c pkStopped).fset (POCKET_STAT.FWHOLD c) 1).raise
        { loc := s.ctxLoc 0x9 c 0, ctx := some c, d0 := rpc.toNat, d1 := (causeWord e insn).toNat }
    else s.enterExc c e insn rpc
  else if e.code = Xc.stage2 ∨ e.code = Xc.fwc ∨ e.code = Xc.spill ∨ e.code = Xc.double then s.partxStop c e insn rpc
  else if ex && s.level c == 1 then
    if e.code = Xc.mchk then s.partxStop c e insn rpc
    else s.partxStop c { e with code := Xc.double } insn pc
  else s.enterExc c e insn rpc

/-- RETURN FROM EXCEPTION at the current level (R122): PC and ST from RPC and RST; at F, PL stays 2. -/
def Ctx.rfe (x : Ctx) (fw : Bool) : Ctx :=
  if fw then { x with pc := x.fr.rpc, st := stSetPL x.fr.rst 2 } else { x with pc := x.sr.rpc, st := x.sr.rst }

/-! ### Interrupts and PARTX at a commit point (R120, R183, R217) -/

/-- The routine that a pair runs is abandoned, with all its state (R179, R182). -/
def State.dropRoutine (s : State) (p : Nat) : State :=
  { s with core := { s.core with routines := AMap.erase p s.core.routines } }

/-- The pair keeps a routine that goes on with the next command. -/
def State.keepRoutine (s : State) (p : Nat) (r : Routine) : State :=
  { s with core := { s.core with routines := AMap.set none s.core.routines p (some r) } }

/-- The abandonment entry of the context's level (R183). -/
def State.abandonOf (s : State) (c : Nat) : Option Word :=
  if s.level c = 1 then (s.ctx c).abandonS else (s.ctx c).abandonLow

/-- Set the abandonment entry of the context's level. -/
def State.setAbandon (s : State) (c : Nat) (o : Option Word) : State :=
  if s.level c = 1 then s.setCtx c { s.ctx c with abandonS := o } else s.setCtx c { s.ctx c with abandonLow := o }

/-- Does Collar request context `c`: is some source PENDING that targets it (R245)? -/
def State.requested (s : State) (c : Nat) : Bool :=
  !s.fbit COLLAR_CTL.GDIS && s.collar.ages.any (fun x => s.targets x c)

/-- Is an interrupt of context `c` allowed now (R120, R183)? -/
def State.intrDue (s : State) (c : Nat) : Bool :=
  let x := s.ctx c
  s.requested c && stBit x.st ST.ie && !stBit x.st ST.ex && !(s.abandonOf c == some x.pc)

/-- INTR is taken (R120): the instruction at PC is abandoned, and the entry of its level notes it (R183). -/
def State.takeIntr (s : State) (c : Nat) : State :=
  let pc := (s.ctx c).pc
  (s.setAbandon c (some pc)).takeExc c { code := Xc.intr } 0 pc pc

/-- Is a PARTX due in the firmware context `c` (R217)? -/
def State.partxDue (s : State) (c : Nat) : Bool :=
  isFw c && !stBit (s.ctx c).st ST.ex && !(s.partxOf (slotOf c)).isEmpty

/-- The firmware context takes the oldest PARTX (R124, R217). -/
def State.takePartx (s : State) (c : Nat) : State :=
  match s.partxOf (slotOf c) with
  | [] => s
  | p :: rest =>
    let s := s.setPartx (slotOf c) rest
    let x := s.ctx c
    s.setCtx c { x with
      fr := { x.fr with rpc := x.pc, rst := x.st, cause := p.cause, faddr := p.faddr, fpr := p.fpr,
                        ctx := BitVec.ofNat 64 p.ctx }
      st := stEntry x.st 2
      pc := handler x.fr.vbar Xc.partx }

/-! ### Translation (R108–R116) -/

/-- What an access does. -/
structure Acc where
  r : Bool := false
  w : Bool := false
  x : Bool := false
deriving DecidableEq, Repr

def accLoad : Acc := { r := true }
def accStore : Acc := { w := true }
def accAtomic : Acc := { r := true, w := true }
def accFetch : Acc := { x := true }

/-- A leaf a walk ended at: the entry used, where it lies, its frame and the page's size as a power of two. -/
structure Leaf where
  entry : Nat
  at_ : Nat
  frame : Nat
  bits : Nat
deriving DecidableEq, Repr

/-- The walks: stage 1, stage 2 of an access, stage 2 of a stage 1 table read, and the firmware's (R108). -/
inductive Stage where
  | one | two | twoWalk | fw
deriving DecidableEq, Repr

/-- Fields of a table entry (R110). -/
def pteAddr (e : Nat) : Nat := bitsOf e 51 12 * 4096
def pteType (e : Nat) : Nat := e % 4
def pteSz (e : Nat) : Nat := bitsOf e 3 2
def pteAttr (e : Nat) : Nat := bitsOf e 54 52
def pteBad (e : Nat) : Bool := bitOf e 63 || bitOf e 55 || bitOf e 11 || pteType e == 3

/-- The two stages rooted in the partition's PART[n] block. -/
def Stage.second (st : Stage) : Bool := st == .two || st == .twoWalk

/-- A malformed entry as a stage reads it: a stage 2 leaf with U = 1 is one too (R110). -/
def entryBad (st : Stage) (e : Nat) : Bool := pteBad e || (st.second && pteType e == 1 && bitOf e 7)

/-- The translation fault of a stage with detail `d` at table level `lvl` (R116, R123). -/
def xfault (st : Stage) (acc : Acc) (va pr : Nat) (d lvl : Nat) : Exc :=
  let two := st.second
  { code := if two then Xc.stage2 else if acc.x then Xc.fetch1 else Xc.data1
    detail := d, fetch := acc.x, write := acc.w, stage2 := two, s1walk := st == .twoWalk, lvl := lvl
    faddr := some (BitVec.ofNat 64 va), fpr := if two then some (BitVec.ofNat 64 pr) else none }

/-- One coherent walk read of 8 bytes at a module-physical address (R114): poison raises MCHK. -/
def State.walkRead (s : State) (c : Nat) (acc : Acc) (va mp : Nat) : Out Nat :=
  let s := s.loadSector (s.agentOf c) (mp / 64) false
  if s.loadPois (s.agentOf c) (mp / 64) false then
    .exc (s.ctxFault c mp) { code := Xc.mchk, fetch := acc.x, write := acc.w, faddr := some (BitVec.ofNat 64 va) }
  else .ok s (leNat (s.curBytes mp 8))

/-- Does a walk read at `mp` lie where none is performed: the fixed space outside the windows (R114)? -/
def walkForbidden (mp : Nat) : Bool :=
  match spaceOf mp with
  | .dram => false
  | .window => false
  | _ => true

/-- The shape of a leaf (R110, R111, R112): its own checks after the group read of R111. -/
def leafDetail (st : Stage) (lvl e : Nat) : Option Nat :=
  let frame := pteAddr e
  if 2 < pteAttr e then some 0x0A
  else if bitOf e 5 && !bitOf e 4 then some 0x0A
  else if st == .one && bitsOf e 51 46 != 0 then some 0x05
  else if lvl = 2 ∧ frame % 2 ^ 21 ≠ 0 then some 0x04
  else if lvl = 3 ∧ pteSz e = 1 ∧ frame % 2 ^ 16 ≠ 0 then some 0x04
  else if st != .one && (spaceOf frame).device && pteAttr e != 2 then some 0x0A
  else none

/-- A walk from level `lvl` (R109–R111, R116). `rd` reads one entry and answers it with where it lies. A malformed first
entry of a 64 KiB group is an unfit one, 0x03, in every stage: R111 is the more specific rule (DEDUCED, log entry 120). -/
def walkFrom (rd : State → Nat → Nat → Out (Nat × Nat)) (st : Stage) (acc : Acc) (va pr addr : Nat) :
    Nat → Nat → Nat → State → Out Leaf
  | 0, lvl, _, s => .exc s (xfault st acc va pr 0x02 lvl)
  | fuel + 1, lvl, tbl, s =>
    let idx := addr / 2 ^ (12 + 9 * (3 - lvl)) % 512
    let bad (s : State) (d : Nat) : Out Leaf := .exc s (xfault st acc va pr d lvl)
    (rd s (tbl + 8 * idx) lvl).bind fun s r =>
    let (e, at_) := r
    if entryBad st e then bad s 0x02
    else if pteType e = 0 then bad s 0x01
    else if pteType e = 2 then
      if lvl = 3 then bad s 0x02
      else if st == .one && bitsOf e 51 46 != 0 then bad s 0x05
      else walkFrom rd st acc va pr addr fuel (lvl + 1) (pteAddr e) s
    else if lvl < 2 then bad s 0x02
    else if (lvl = 2 ∧ pteSz e ≠ 2) ∨ (lvl = 3 ∧ 1 < pteSz e) then bad s 0x02
    else if pteSz e = 1 then
      (rd s (tbl + 8 * (idx - idx % 16)) lvl).bind fun s r =>
      let (g, gat) := r
      if entryBad st g || pteType g != 1 || pteSz g != 1 then bad s 0x03
      else match leafDetail st lvl g with
        | some d => bad s d
        | none => .ok s { entry := g, at_ := gat, frame := pteAddr g, bits := 16 }
    else match leafDetail st lvl e with
      | some d => bad s d
      | none => .ok s { entry := e, at_ := at_, frame := pteAddr e, bits := if lvl = 2 then 21 else 12 }

/-- The module sets ACC, and DIRTY on a write, in a leaf it uses (R113). DESIGN CHOICE (log entry 121): it does so as the walk
ends, also where the access is refused later (at the other stage, for its alignment); and its write of a stage 1 entry needs
no W in the stage 2 leaf of the table's page and sets no DIRTY there. -/
def State.markLeaf (s : State) (c : Nat) (l : Leaf) (w : Bool) : State :=
  let e := if bitOf l.entry 8 then l.entry else l.entry + 256
  let e := if w && !bitOf e 9 then e + 512 else e
  if e = l.entry then s
  else s.storeSector (s.agentOf c) (l.at_ / 64) l.at_ (leBytes 8 e) false false

/-- A stage 2 translation of `pr` for partition `n` (R108, R112): cached or walked afresh. Whether the pair still
caches a listed translation is free (R115, log entry 14). -/
def State.walk2 (s : State) (c n : Nat) (acc : Acc) (va pr : Nat) (forTable : Bool) : Out Leaf :=
  let st : Stage := if forTable then .twoWalk else .two
  let pair := s.agentOf c
  let hit := firstThat (fun t => t.pair == pair && t.part == n && pr / 2 ^ t.bits == t.pr / 2 ^ t.bits) s.core.tlb2
  let (coin, s) := match hit with
    | some _ => s.draw
    | none => (0, s)
  let check (s : State) (l : Leaf) : Out Leaf :=
    let f (d : Nat) : Out Leaf := .exc s (xfault st acc va pr d (if l.bits = 21 then 2 else 3))
    let rw : Acc := if forTable then accLoad else acc
    if rw.r && !bitOf l.entry 4 then f 0x06
    else if rw.w && !bitOf l.entry 5 then f 0x07
    else if rw.x && !bitOf l.entry 6 then f 0x08
    else if forTable && (pteAttr l.entry != 0 || walkForbidden l.frame) then f 0x0A
    else
      let s := s.markLeaf c l rw.w
      let e := (l.entry ||| 256) ||| (if rw.w then 512 else 0)
      let t : Tlb2 := { pair := pair, part := n, pr := pr / 2 ^ l.bits * 2 ^ l.bits, bits := l.bits, leaf := e, at_ := l.at_ }
      let old := s.core.tlb2.filter fun u => !(u.pair == pair && u.part == n && u.pr == t.pr)
      .ok { s with core := { s.core with tlb2 := t :: old } } { l with entry := e }
  let useful := match hit with
    | some t => coin.getLsbD 0 && (!acc.w || forTable || bitOf t.leaf 9)
    | none => false
  match hit, useful with
  | some t, true => check s { entry := t.leaf, at_ := t.at_, frame := pteAddr t.leaf, bits := t.bits }
  | _, _ =>
    let rd (s : State) (mp lvl : Nat) : Out (Nat × Nat) :=
      if walkForbidden mp then .exc s (xfault st acc va pr 0x0A lvl)
      else (s.walkRead c acc va mp).bind fun s e => .ok s (e, mp)
    (walkFrom rd st acc va pr pr 4 0 (s.fget (PART_ROOT2.TABLE n) * 4096) s).bind check

/-- Where an access goes: the module-physical address and the memory type (0 cacheable, 1 uncached, 2 device). -/
structure Tr where
  mp : Nat
  attr : Nat
deriving DecidableEq, Repr

/-- Sign extension of bit 47 holds in a 64-bit address. -/
def canonical (va : Nat) : Bool := va / 2 ^ 47 == 0 || va / 2 ^ 47 == 2 ^ 17 - 1

/-- A stage 1 leaf against the access (R112): P needs U, S may not execute U pages, then R, W and X. -/
def rights1 (lvlS : Bool) (acc : Acc) (e : Nat) : Option Nat :=
  if !lvlS && !bitOf e 7 then some 0x09
  else if lvlS && acc.x && bitOf e 7 then some 0x09
  else if acc.r && !bitOf e 4 then some 0x06
  else if acc.w && !bitOf e 5 then some 0x07
  else if acc.x && !bitOf e 6 then some 0x08
  else none

/-- Stage 1 of partition `n` (R108): the partition-real address and the ATTR of the leaf. -/
def State.walk1 (s : State) (c n : Nat) (acc : Acc) (va : Nat) : Out Tr :=
  let root := (s.ctx c).sr.root.toNat
  let lvlS := s.level c == 1
  if !bitOf root 0 then
    if va / 2 ^ 46 ≠ 0 then .exc s (xfault .one acc va 0 0x05 0) else .ok s { mp := va, attr := 0 }
  else if !canonical va then .exc s (xfault .one acc va 0 0x05 0)
  else
    let asid := root / 2 ^ 48
    let pair := s.agentOf c
    let hit := firstThat (fun t => t.pair == pair && t.part == n && (bitOf t.leaf 10 || t.asid == asid)
      && va / 2 ^ t.bits == t.va / 2 ^ t.bits) s.core.tlb1
    let (coin, s) := match hit with
      | some _ => s.draw
      | none => (0, s)
    let check (s : State) (l : Leaf) : Out Tr :=
      match rights1 lvlS acc l.entry with
      | some d => .exc s (xfault .one acc va 0 d (if l.bits = 21 then 2 else 3))
      | none =>
        let s := s.markLeaf c l acc.w
        let e := (l.entry ||| 256) ||| (if acc.w then 512 else 0)
        let t : Tlb1 := { pair := pair, part := n, asid := asid, va := va / 2 ^ l.bits * 2 ^ l.bits, bits := l.bits,
                          leaf := e, at_ := l.at_ }
        let old := s.core.tlb1.filter fun u => !(u.pair == pair && u.part == n && u.asid == asid && u.va == t.va)
        .ok { s with core := { s.core with tlb1 := t :: old } } { mp := l.frame + va % 2 ^ l.bits, attr := pteAttr l.entry }
    let useful := match hit with
      | some t => coin.getLsbD 0 && (!acc.w || bitOf t.leaf 9)
      | none => false
    match hit, useful with
    | some t, true => check s { entry := t.leaf, at_ := t.at_, frame := pteAddr t.leaf, bits := t.bits }
    | _, _ =>
      let rd (s : State) (pa _lvl : Nat) : Out (Nat × Nat) :=
        (s.walk2 c n acc va pa true).bind fun s l =>
        let mp := l.frame + pa % 2 ^ l.bits
        (s.walkRead c acc va mp).bind fun s e => .ok s (e, mp)
      (walkFrom rd .one acc va 0 va 4 0 (bitsOf root 45 12 * 4096) s).bind check

/-- The firmware's translation (R108, R114, R620). -/
def State.walkF (s : State) (c : Nat) (acc : Acc) (va : Nat) : Out Tr :=
  let root := (s.ctx c).fr.root.toNat
  if !bitOf root 0 then
    if va / 2 ^ 52 ≠ 0 then .exc s (xfault .fw acc va 0 0x05 0)
    else .ok s { mp := va, attr := if (spaceOf va).device || spaceOf va == .reserved then 2 else 0 }
  else if !canonical va then .exc s (xfault .fw acc va 0 0x05 0)
  else
    let rd (s : State) (mp lvl : Nat) : Out (Nat × Nat) :=
      if walkForbidden mp then .exc s (xfault .fw acc va 0 0x0A lvl)
      else (s.walkRead c acc va mp).bind fun s e => .ok s (e, mp)
    (walkFrom rd .fw acc va 0 va 4 0 (bitsOf root 51 12 * 4096) s).bind fun s l =>
    let f (d : Nat) : Out Tr := .exc s (xfault .fw acc va 0 d (if l.bits = 21 then 2 else 3))
    if acc.r && !bitOf l.entry 4 then f 0x06
    else if acc.w && !bitOf l.entry 5 then f 0x07
    else if acc.x && !bitOf l.entry 6 then f 0x08
    else .ok (s.markLeaf c l acc.w) { mp := l.frame + va % 2 ^ l.bits, attr := pteAttr l.entry }

/-- TRANSLATION of one address of context `c` (R108–R116, R620). -/
def State.xlate (s : State) (c : Nat) (acc : Acc) (va : Word) : Out Tr :=
  let tr : Out Tr :=
    if isFw c then s.walkF c acc va.toNat
    else
      let n := (s.partOf c).getD 0
      (s.walk1 c n acc va.toNat).bind fun s t1 =>
      (s.walk2 c n acc va.toNat t1.mp false).bind fun s l =>
      .ok s { mp := l.frame + t1.mp % 2 ^ l.bits, attr := max t1.attr (pteAttr l.entry) }
  tr.bind fun s t =>
  if acc.x && (spaceOf t.mp).device then
    .exc s { code := Xc.fetch1, detail := 0x08, fetch := true, faddr := some va }
  else .ok s t

/-! ### Wide banks (R204, R215, R219) -/

/-- Contexts of a slot whose wide part is in a bank, the least recently used first. -/
def State.banksOf (s : State) (k : Nat) : List Nat := AMap.get [] s.core.banks k

/-- Context `c`'s bank becomes the most recently used of its slot. -/
def State.useBank (s : State) (c : Nat) : State :=
  let k := slotOf c
  let l := (s.banksOf k).filter (· ≠ c) ++ [c]
  { s with core := { s.core with banks := AMap.set [] s.core.banks k l } }.fset (POCKET_STAT.WBANK c) 1

/-- Context `c` gives its bank up. -/
def State.freeBank (s : State) (c : Nat) : State :=
  let k := slotOf c
  { s with core := { s.core with banks := AMap.set [] s.core.banks k ((s.banksOf k).filter (· ≠ c)) } }.fset
    (POCKET_STAT.WBANK c) 0

/-- The save area's address of a Pocket (R206). -/
def State.saveAddr (s : State) (c : Nat) : Nat := s.fget (POCKET_SAVE.ADDR c) * 1024

/-- Are sectors of the save area from `o`, `n` bytes, poisoned: the first such address. -/
def State.savePoison (s : State) (c o n : Nat) : Option Nat :=
  firstThat (fun a => s.curPois (a / 64)) ((sectorPieces (s.saveAddr c + o) n).map fun p => p.2.1)

/-- The bytes of a wide part: f0–f31. -/
def Ctx.fBytes (x : Ctx) : List Byte := (List.range 32).flatMap fun k => leBytes 8 (x.readF k).toNat

/-- A cacheable access of the module for slot `k`'s pair: read of the save area. -/
def State.pairRead (s : State) (k a n : Nat) : State × List Byte :=
  let p := s.physOf k
  let s := (sectorPieces a n).foldl (fun t pc => t.loadSector p pc.1 false) s
  (s, s.curBytes a n)

/-- A cacheable write of the module for slot `k`'s pair; whole sectors clear poison (R258). -/
def State.pairWrite (s : State) (k a : Nat) (bs : List Byte) : State :=
  (sectorPieces a bs.length).foldl (fun t pc =>
    let (sec, lo, n) := pc
    t.storeSector (t.physOf k) sec lo ((bs.drop (lo - a)).take n) false (n == 64)) s

/-- A wide spill (R207, R215): 0x100–0x1F8, 0x210 and 0x218 of the save area. -/
def State.spillWide (s : State) (c : Nat) : State :=
  let x := s.ctx c
  let s := s.pairWrite (slotOf c) (s.saveAddr c + 0x100) x.fBytes
  let s := s.pairWrite (slotOf c) (s.saveAddr c + 0x210) (leBytes 8 x.fcsr.toNat ++ leBytes 8 x.dcr.toNat)
  s.freeBank c

/-- CAUSE and the roots hold only their fields (R123, R108). -/
def maskCause (w : Word) : Word := w &&& ~~~0xFF000000#64
def maskRootS (w : Word) : Word := w &&& ~~~0xC00000000FFE#64
def maskRootF (w : Word) : Word := w &&& ~~~0xFFF0000000000FFE#64

/-- FCSR and DCR hold only their fields (R98). -/
def maskFcsr (w : Word) : Word := w &&& 0x1F1F07#64
def maskDcr (w : Word) : Word := w &&& 1#64

/-- A wide fill from the save area into a free bank (R215). -/
def State.fillWide (s : State) (c : Nat) : State :=
  if (s.ctx c).wideZero then
    (s.setCtx c { s.ctx c with f := [], fcsr := 0, dcr := 0, wideZero := false }).useBank c
  else
    let (s, fb) := s.pairRead (slotOf c) (s.saveAddr c + 0x100) 256
    let (s, cb) := s.pairRead (slotOf c) (s.saveAddr c + 0x210) 16
    let x := (List.range 32).foldl (fun (x : Ctx) k => x.writeF k (leWord ((fb.drop (8 * k)).take 8))) (s.ctx c)
    (s.setCtx c { x with fcsr := maskFcsr (leWord (cb.take 8)), dcr := maskDcr (leWord (cb.drop 8)) }).useBank c

/-- The victim `v` of a spill that failed takes SPILL (R215): via PARTX, in a firmware Pocket at F. -/
def State.spillFail (s : State) (v d a : Nat) : State :=
  s.takeExc v { code := Xc.spill, detail := d, faddr := some (BitVec.ofNat 64 a) } 0 (s.ctx v).pc (s.ctx v).pc

/-- Free one bank of the slot by a spill: victims least recently used first, not RUNNING; one whose spill fails is
stopped with SPILL and keeps its bank (R215). No line has failed where SAVE is not valid (0x01) or no bank can be spilled
(0x04): F.FADDR then holds the address of the stopped Pocket's save area (DESIGN CHOICE, log entry 126). -/
def State.spillOne (s : State) : List Nat → State × Bool
  | [] => (s, false)
  | v :: rest =>
    if s.pk v = pkRunning then s.spillOne rest
    else if !s.fbit (POCKET_SAVE.VALID v) then
      (s.spillFail v 0x01 (s.saveAddr v)).spillOne rest
    else match s.savePoison v 0x100 0x120 with
      | some a => (s.spillFail v 0x02 a).spillOne rest
      | none => (s.spillWide v, true)

/-- Context `c` uses its wide part (R215): it is in a bank afterwards, or SPILL is raised. -/
def State.needWide (s : State) (c : Nat) : Out Unit :=
  if s.fbit (POCKET_STAT.WBANK c) then .ok (s.useBank c) ()
  else
    let spill (s : State) (d a : Nat) : Out Unit := .exc s { code := Xc.spill, detail := d, faddr := some (BitVec.ofNat 64 a) }
    let (s, free) := if (s.banksOf (slotOf c)).length < 8 then (s, true) else s.spillOne (s.banksOf (slotOf c))
    if !free then spill s 0x04 (s.saveAddr c)
    else if (s.ctx c).wideZero then .ok (s.fillWide c) ()
    else match s.savePoison c 0x100 0x120 with
      | some a => spill s 0x03 a
      | none => .ok (s.fillWide c) ()

/-- An instruction that uses wide state raises LAZY while WLIVE = 0, before any effect (R219). -/
def State.lazy (s : State) (c : Nat) : Out Unit :=
  if s.fbit (POCKET_STAT.WLIVE c) then .ok s () else .exc s { code := Xc.lazy }

/-- An instruction that uses wide state (R219): LAZY while WLIVE = 0, else the wide part is brought in. -/
def State.wide (s : State) (c : Nat) : Out Unit := (s.lazy c).bind fun s _ => s.needWide c

/-! ### The frame of one instruction -/

/-- How the body of an instruction ends. -/
inductive Done where
  /-- completes; PC moves past the instruction -/
  | next (s : State)
  /-- completes, and what it stores is performed then -/
  | post (s : State) (eff : State → State)
  /-- completes; PC is the given target -/
  | jump (s : State) (pc : Word)
  /-- commits a unit of a progressive instruction and stays on it (R120) -/
  | again (s : State)
  /-- waits: nothing has committed -/
  | wait (s : State)
  /-- an exception -/
  | exc (s : State) (e : Exc)
  /-- an exception that holds the next instruction in RPC, or the given PC: SVC, FWC (R117) -/
  | after (s : State) (e : Exc) (pc : Option Word := none)

/-- The result of a checked computation, or the exception. -/
def Out.fin {α : Type} (x : Out α) (f : State → α → Done) : Done :=
  match x with
  | .ok s a => f s a
  | .exc s e => .exc s e
  | .gone s => .wait s

/-- Of the READY Pockets of a slot, the one the scheduler chooses (R211): highest PRI, then the longest READY. The
firmware Pocket ranks 8. -/
def State.rank (s : State) (c : Nat) : Nat := if isFw c then 8 else s.fget (POCKET_CTL.PRI c)
def State.choose (s : State) (k : Nat) : Option Nat :=
  let l := s.readyList k
  firstThat (fun c => l.all fun d => s.rank d ≤ s.rank c) l

/-- The RUNNING Pocket of a slot. -/
def State.runningOf (s : State) (k : Nat) : Option Nat :=
  firstThat (fun c => s.pk c == pkRunning) (upFrom (k * 16) 16)

/-- Is a switch of slot `k` due at the next switch point (R212)? -/
def State.switchDue (s : State) (k : Nat) : Bool :=
  match s.choose k, s.runningOf k with
  | none, _ => false
  | some _, none => true
  | some d, some c => decide (s.rank c < s.rank d)
      || (AMap.get false s.core.sliceOver k && s.rank d == s.rank c)

/-- Does slot `k` dispatch: its physical pair is serving and not moving (R329, R333)? -/
def State.dispatches (s : State) (k : Nat) : Bool :=
  s.fbit (TAILOR_SLOT.SERVING k) && s.fget (TAILOR_PHYS.STATE (s.physOf k)) == 0

/-- May context `c` execute an instruction now? -/
def State.canRun (s : State) (c : Nat) : Bool :=
  s.coresUp && s.dispatches (slotOf c) && s.pk c == pkRunning && !s.switchDue (slotOf c)

/-- An instruction that ran at S (`lvlS`) or at the lower level commits (R183, R213, R324): the entry of that level,
SWGUARD and the retry count are cleared, and CYC counts its cycles, whose number is left free (log entry 11). -/
def State.commit (s : State) (c : Nat) (lvlS : Bool) (pc : Word) : State :=
  let s := s.setCtx c (if lvlS then { s.ctx c with abandonS := none } else { s.ctx c with abandonLow := none })
  let s := s.fset (POCKET_STAT.SWGUARD c) 0
  let s := s.fset (WEFT_LOCK.COUNT (s.agentOf c)) 0
  let n := s.fresh
  let x := s.ctx c
  let s := s.setCtx c { x with pc := pc, cyc := x.cyc + BitVec.ofNat 64 (1 + Config.freeElapsed n) }
  { s with fresh := n + 1 }

/-- The address `k` bytes past `pc`: Classic addresses wrap in their window of 2^32 (R195). -/
def pcPlus (cls : Bool) (pc : Word) (k : Nat) : Word :=
  if cls then BitVec.ofNat 64 (pc.toNat / 2 ^ 32 * 2 ^ 32 + (pc.toNat + k) % 2 ^ 32) else pc + BitVec.ofNat 64 k

/-- Fetch of one instruction word at `pc` (R114, R121, R620): translated and checked; a poisoned line raises MCHK. The
command brings the instruction itself (log entry 15). -/
def State.fetch (s : State) (c : Nat) (pc : Word) : Out Unit :=
  (s.xlate c accFetch pc).bind fun s t =>
  let (s1, _, po) := s.ctxRead c t.mp 4 (t.attr ≠ 0)
  if po then .exc (s1.ctxFault c t.mp) { code := Xc.mchk, fetch := true, faddr := some pc }
  else .ok (if t.attr = 0 then s1.l1Touch (s1.agentOf c) (t.mp / 64) false else s1) ()

/-- Fetch of an instruction of `len` bytes: a DS instruction has a second word (R196, R201). -/
def State.fetchAll (s : State) (c len : Nat) (cls : Bool) : Out Unit :=
  let pc := (s.ctx c).pc
  (s.fetch c pc).bind fun s _ => if len = 8 then s.fetch c (pcPlus cls pc 4) else .ok s ()

/-- The instruction word that a fetch exception shows (R123, R201): the first word where it was fetched and the second was
not; none was fetched otherwise, and the word is free (log entry 1). -/
def State.fetchedWord (s : State) (c insn : Nat) (e : Exc) : State × Nat :=
  if e.faddr == some (s.ctx c).pc then (let (w, s) := s.draw; (s, w.toNat)) else (s, insn)

/-- A debug halt (R339): the Pocket reads STOPPED with FWHOLD = 1. Cause 1 HALT, 2 breakpoint, 3 STEP. -/
def State.debugHalt (s : State) (c cause idx : Nat) : State :=
  let s := (s.setPk c pkStopped).fset (POCKET_STAT.FWHOLD c) 1
  { s with dbg := { s.dbg with halted := AMap.set 0 s.dbg.halted c (cause + 4 * idx)
                               stepping := AMap.erase c s.dbg.stepping } }

/-- The enabled breakpoint that context `c` stands before, if any (R339); a resumed context passes it once. -/
def State.bpAt (s : State) (c : Nat) : Option Nat :=
  if AMap.get false s.dbg.passBp c then none
  else firstThat (fun i => AMap.get none s.dbg.bps (c * 4 + i) == some (s.ctx c).pc) [0, 1, 2, 3]

/-- The end of an instruction for debug: a STEP halts again, and a passed breakpoint is armed again. -/
def State.debugEnd (s : State) (c : Nat) : State :=
  let s := { s with dbg := { s.dbg with passBp := AMap.erase c s.dbg.passBp } }
  if AMap.get false s.dbg.stepping c && s.pk c == pkRunning then s.debugHalt c 3 0 else s

/-- UNDEF, PRIV and ALIGN (R102, R100, R105). -/
def excUndef (d : Nat := 0) : Exc := { code := Xc.undef, detail := d }
def excPriv (d : Nat) : Exc := { code := Xc.priv, detail := d }
def excAlign (d : Nat) (a : Word) (w : Bool := false) : Exc := { code := Xc.align, detail := d, write := w, faddr := some a }

/-- Go on unless the instruction raises UNDEF (R102). -/
def guardUndef (s : State) (bad : Bool) (k : Done) : Done := if bad then .exc s (excUndef) else k

/-! ### Registers of a context, through the state -/

def State.g (s : State) (c : Nat) (r : RegNo) : Word := (s.ctx c).readG r.toNat
def State.setG (s : State) (c : Nat) (r : RegNo) (v : Word) : State := s.setCtx c ((s.ctx c).writeG r.toNat v)
def State.fr (s : State) (c : Nat) (r : RegNo) : Word := (s.ctx c).readF r.toNat
def State.setFr (s : State) (c : Nat) (r : RegNo) (v : Word) : State := s.setCtx c ((s.ctx c).writeF r.toNat v)
/-- Write the flags an instruction names (R125). -/
def State.flags (s : State) (c : Nat) (f : FlagSet) : State := s.setCtx c { s.ctx c with st := stFlags (s.ctx c).st f }
def State.flag (s : State) (c k : Nat) : Bool := stBit (s.ctx c).st k

end Sys2Proof.Machine
end

