-- ==== Sys2Proof/Machine/Pockets.lean ====
section
/-! DEFINITION. Pockets, contexts and the hardware scheduler (07_pockets_and_contexts.md, R203–R218, R231, R232):
the save area, Pocket and context commands, switches, and the entries of interrupts and PARTX. -/

namespace Sys2Proof.Machine

/-! ### The save area (R207) -/

/-- A level's registers in the order of the save area. -/
def Ctx.levelWords (x : Ctx) (fw : Bool) : List Word :=
  if fw then [x.fr.vbar, x.fr.rpc, x.fr.rst, x.fr.cause, x.fr.faddr, x.fr.scr0, x.fr.scr1, x.fr.fpr, x.fr.ctx, x.fr.root]
  else [x.sr.vbar, x.sr.rpc, x.sr.rst, x.sr.cause, x.sr.faddr, x.sr.scr0, x.sr.scr1, x.sr.root, 0, 0]

/-- An abandonment entry as its save word. -/
def abandonWord : Option Word → Nat
  | some w => w.toNat / 4 * 4 + 1
  | none => 0

/-- The scheduler word of a Pocket. -/
def State.schedWord (s : State) (c : Nat) : Nat :=
  s.pk c + s.fget (POCKET_STAT.FWHOLD c) * 8 + s.fget (POCKET_STAT.WLIVE c) * 16 + s.fget (POCKET_STAT.EVENT c) * 64
    + s.fget (POCKET_STAT.SWGUARD c) * 128 + s.rank c * 256 + s.fget (POCKET_CTL.SLICE c) * 4096

/-- The 1,024 bytes of a full save; `fb`, `fcsr`, `dcr` are the wide part wherever it is held. -/
def State.saveImage (s : State) (c : Nat) (fb : List Byte) (fcsr dcr : Word) : List Byte :=
  let x := s.ctx c
  let words (l : List Nat) : List Byte := l.flatMap (leBytes 8)
  let body :=
    words ((List.range 32).map fun k => (x.readG k).toNat) ++ fb
      ++ words [x.pc.toNat, x.st.toNat, fcsr.toNat, dcr.toNat]
      ++ words ((x.levelWords (isFw c)).map (·.toNat))
      ++ words [x.cyc.toNat, abandonWord x.abandonLow, if isFw c then 0 else abandonWord x.abandonS, s.schedWord c]
      ++ List.replicate 0x168 0
  body ++ leBytes 8 (crc32c body + 2 ^ 32)

/-- A full save of a Pocket into its save area (R207). -/
def State.fullSave (s : State) (c : Nat) : State :=
  let x := s.ctx c
  let k := slotOf c
  if s.fbit (POCKET_STAT.WBANK c) || x.wideZero then
    let y : Ctx := if x.wideZero then {} else x
    s.pairWrite k (s.saveAddr c) (s.saveImage c y.fBytes y.fcsr y.dcr)
  else
    let (s, fb) := s.pairRead k (s.saveAddr c + 0x100) 256
    let (s, cb) := s.pairRead k (s.saveAddr c + 0x210) 16
    s.pairWrite k (s.saveAddr c) (s.saveImage c fb (leWord (cb.take 8)) (leWord (cb.drop 8)))

/-- Word `o` of a save image. -/
def imgWord (bs : List Byte) (o : Nat) : Word := leWord ((bs.drop o).take 8)

/-- A save area's FORMAT and CRC hold (R207, R208). -/
def imageGood (bs : List Byte) : Bool :=
  let w := (imgWord bs 0x3F8).toNat
  bitsOf w 47 32 == 1 && bitsOf w 31 0 == crc32c (bs.take 0x3F8)

/-- An abandonment entry from its save word. -/
def abandonFrom (w : Word) : Option Word := if w.getLsbD 0 then some (BitVec.ofNat 64 (w.toNat / 4 * 4)) else none

/-- ST holds only its fields (R97). -/
def maskSt (w : Word) : Word := w &&& 0xF31F#64

/-- ST of a context as it can be held (R97): PL is 2 in a firmware context, and 0 or 1 elsewhere; an image with another level
counts as S (DESIGN CHOICE, log entry 127). -/
def stHeld (fw : Bool) (w : Word) : Word :=
  let w := maskSt w
  if fw then stSetPL w 2 else if 2 ≤ stPL w then stSetPL w 1 else w

/-- The base part of a Pocket from a save image (R207); the wide part stays in the save area. Reserved bits read as 0. -/
def ctxOfImage (fw : Bool) (bs : List Byte) : Ctx :=
  let w (o : Nat) : Word := imgWord bs o
  let x : Ctx := (List.range 32).foldl (fun (x : Ctx) k => x.writeG k (w (8 * k))) {}
  let lv (k : Nat) : Word := w (0x220 + 8 * k)
  let r : SysRegs := { vbar := lv 0 &&& ~~~0xFFF#64, rpc := lv 1, rst := maskSt (lv 2), cause := maskCause (lv 3), faddr := lv 4,
                       scr0 := lv 5, scr1 := lv 6 }
  { x with
    pc := BitVec.ofNat 64 ((w 0x200).toNat / 4 * 4), st := stHeld fw (w 0x208), cyc := w 0x270
    abandonLow := abandonFrom (w 0x278), abandonS := if fw then none else abandonFrom (w 0x280)
    sr := if fw then {} else { r with root := maskRootS (lv 7) }
    fr := if fw then { r with fpr := lv 7, ctx := lv 8, root := maskRootF (lv 9) } else {}
    wideZero := false }

/-- The scheduler word of a save image goes to the Pocket; STATE is `st` (R207, log entry 18). -/
def State.loadSched (s : State) (c st w : Nat) : State :=
  let s := s.fset (POCKET_STAT.FWHOLD c) (bnat (bitOf w 3))
  let s := s.fset (POCKET_STAT.WLIVE c) (bnat (bitOf w 4))
  let s := s.fset (POCKET_STAT.EVENT c) (bnat (bitOf w 6))
  let s := s.fset (POCKET_STAT.SWGUARD c) (bnat (bitOf w 7))
  let s := s.fset (POCKET_CTL.SLICE c) (bitsOf w 19 12)
  let pri := bitsOf w 11 8
  let s := match s.partOf c with
    | some n => if pri ≤ s.fget (PART_PRIMAX.PRIMAX n) then s.fset (POCKET_CTL.PRI c) pri else s
    | none => s
  s.setPk c st

/-- A restore of a Pocket (R208): 4 for a wrong FORMAT or CRC, 5 for a poisoned line, 1 when it is done. A failed one
leaves the Pocket STOPPED with FWHOLD and its contents kept, with a fault against the owner. -/
def State.restore (s : State) (c : Nat) (stOf : Nat → Nat) : State × Nat :=
  let a := s.saveAddr c
  let bad (s : State) (code : Nat) : State × Nat :=
    (((s.setPk c pkStopped).fset (POCKET_STAT.FWHOLD c) 1).raise
      { loc := s.ctxLoc 0x4 c 5, ctx := some c, part := s.partOf c, d0 := a }, code)
  match s.savePoison c 0 1024 with
  | some _ => bad s 5
  | none =>
    let (s, bs) := s.pairRead (slotOf c) a 1024
    if !imageGood bs then bad s 4
    else
      let s := (s.freeBank c).setCtx c (ctxOfImage (isFw c) bs)
      let w := (imgWord bs 0x288).toNat
      (s.loadSched c (stOf (w % 8)) w, 1)

/-! ### Zeroing and owners (R205, R209) -/

/-- The module zeroes a Pocket: base part, wide part and scheduler state. -/
def State.zeroPocket (s : State) (c : Nat) : State :=
  let s := (s.freeBank c).setCtx c {}
  [POCKET_CTL.SLICE c, POCKET_CTL.PRI c, POCKET_STAT.SWGUARD c, POCKET_STAT.EVENT c, POCKET_STAT.WLIVE c,
   POCKET_STAT.FWHOLD c].foldl (fun t f => t.fset f 0) s

/-- PART[n].OWN and NCTX follow the owners of the Pockets (R232). -/
def State.updOwn (s : State) (c n : Nat) (owned : Bool) : State :=
  let f := PART_OWN.OWN n (c / 64)
  let s := s.fset f (setBitNat (s.fget f) (c % 64) owned)
  s.fset (PART_STATE.NCTX n) (((List.range 12).map fun i =>
    ((List.range 64).filter (bitOf (s.fget (PART_OWN.OWN n i)))).length).sum)

/-- The sources in service, by number: hardware sources by their SERV field, software sources by their group's word. -/
def State.servList (s : State) : List Nat :=
  let hw := (s.fields.filter fun e => decide (0x50000 * 64 ≤ e.1 ∧ e.1 < 0x70000 * 64 ∧ e.1 % 64 = 47)).map fun e =>
    (e.1 / 64 - 0x50000) / 8
  let sw := (s.fields.filter fun e => decide (0x42800 * 64 ≤ e.1 ∧ e.1 < 0x43800 * 64)).flatMap fun e =>
    ((List.range 64).filter fun b => bitOf e.2 b).map fun b => 0x4000 + 64 * ((e.1 / 64 - 0x42800) / 8) + b
  hw ++ sw

/-- A change of a Pocket's owner ends service of every source the Pocket held (R247). -/
def State.releaseHeld (s : State) (c : Nat) : State :=
  (s.servList.filter fun x => s.srcHolder x == c).foldl (fun s x => (s.setServ x false).setHolder x 0) s

/-- A write of OWNED and OWNER (R209): only while FREE or STOPPED, else CMDRES reads 2; a change zeroes the Pocket, and the
sources that target it are counted anew (R236). -/
def State.ownerWrite (s : State) (c : Nat) (owned : Bool) (owner : Nat) : State :=
  if isFw c then s
  else
    let was := s.fbit (POCKET_CTL.OWNED c)
    let old := s.fget (POCKET_CTL.OWNER c)
    if s.pk c ≠ pkFree ∧ s.pk c ≠ pkStopped then s.fset (POCKET_STAT.CMDRES c) 2
    else if was == owned && old == owner % 256 then s
    else
      let s := if was then s.updOwn c old false else s
      let s := ((s.zeroPocket c).releaseHeld c).fset (POCKET_CTL.OWNER c) owner
      let s := s.fsetB (POCKET_CTL.OWNED c) owned
      let s := s.setPk c (if owned then pkStopped else pkFree)
      (if owned then s.updOwn c (owner % 256) true else s).updNotgt

/-! ### Pocket commands of firmware (R209, R210, R231) -/

/-- Is context `c` debug-halted (R339)? -/
def State.dbgHalted (s : State) (c : Nat) : Bool := AMap.get 0 s.dbg.halted c != 0

/-- A stop of a Pocket that is RUNNING, READY or BLOCKED. -/
def State.stopPocket (s : State) (c : Nat) (hold : Bool) : State :=
  let s := s.setPk c pkStopped
  if hold then s.fset (POCKET_STAT.FWHOLD c) 1 else s

/-- WEFT[d].POCKET[c].CMD (R231): 1 RESUME, 2 STOP, 3 SAVE, 4 RESTORE; other codes are refused. -/
def State.pocketCmd (s : State) (c op : Nat) : State :=
  let res (s : State) (r : Nat) : State := s.fset (POCKET_STAT.CMDRES c) r
  let st := s.pk c
  match op with
  | 1 => if st = pkStopped && !s.dbgHalted c then res ((s.fset (POCKET_STAT.FWHOLD c) 0).makeReady c) 1 else res s 2
  | 2 => if st = pkRunning ∨ st = pkReady ∨ st = pkBlocked then res (s.stopPocket c true) 1 else res s 2
  | 3 => if st ≠ pkStopped then res s 2
         else if !s.fbit (POCKET_SAVE.VALID c) then res s 3
         else res (s.fullSave c) 1
  | 4 => if st ≠ pkStopped then res s 2
         else if !s.fbit (POCKET_SAVE.VALID c) then res s 3
         else
           let r := s.restore c fun _ => pkStopped
           res r.1 r.2
  | _ => res s 6

/-- Is the slot of a Pocket moving to a spare (R329)? -/
def State.slotMoves (s : State) (k : Nat) : Bool :=
  s.fbit (TAILOR_SLOT.SERVING k) && s.fget (TAILOR_PHYS.STATE (s.physOf k)) == 2

/-- Does the slot of a Pocket take commands now? While it moves they are held (R331). -/
def State.takesCmds (s : State) (c : Nat) : Bool := s.up && !s.slotMoves (slotOf c)

/-- A command that has reached a moving slot waits (R331). -/
def State.holdCmd (s : State) (h : HeldCmd) : State :=
  { s with core := { s.core with heldCmds := s.core.heldCmds ++ [h] } }

/-- A command of firmware reaches its Pocket (R210, R331). -/
def State.pocketOp (s : State) (c op : Nat) : State :=
  if s.takesCmds c then s.pocketCmd c op else if s.up then s.holdCmd (.fw c op) else s

def execPocketResume (c : Nat) (s : State) : Res := .next (s.pocketOp c 1)
def execPocketStop (c : Nat) (s : State) : Res := .next (s.pocketOp c 2)
def execPocketSave (c : Nat) (s : State) : Res := .next (s.pocketOp c 3)
def execPocketRestore (c : Nat) (s : State) : Res := .next (s.pocketOp c 4)
def execPocketOwnerWrite (c : Nat) (owned : Bool) (owner : Nat) (s : State) : Res :=
  .next (if s.up then s.ownerWrite c owned owner else s)

/-! ### Context commands of a partition (R209, R216, R232) -/

/-- START (R209): the Pocket is zeroed, PRI and SLICE with it (DEDUCED, log entry 18), then gets its initial state. -/
def State.startCtx (s : State) (c : Nat) (pc arg : Word) : State :=
  let s := s.zeroPocket c
  let x : Ctx := { pc := BitVec.ofNat 64 (pc.toNat / 4 * 4), st := stSetPL 0 1 }
  (((s.setCtx c (x.writeG 1 arg)).fset (POCKET_STAT.WLIVE c) 1)).makeReady c

/-- A CTXCMD carried out (R209, R232): the result code is 5 when the partition is not ACTIVE, 7 for a reserved
operation, 4 for a context it does not own, 2 or 3 for the state, 6 for a priority above PRIMAX, else 1. -/
def State.ctxCmd (s : State) (k : CtxCmd) : State :=
  let n := k.part
  let c := k.ctx
  let res (s : State) (r : Nat) : State := (s.fset (PART_CTXRES.CTX n) c).fset (PART_CTXRES.RESULT n) r
  if s.fget (PART_STATE.STATE n) ≠ 1 then res s 5
  else if k.op = 0 ∨ 5 < k.op then res s 7
  else if s.partOf c ≠ some n then res s 4
  else
    let st := s.pk c
    let hold := s.fbit (POCKET_STAT.FWHOLD c)
    match k.op with
    | 1 => if st ≠ pkStopped then res s 2 else if hold then res s 3 else res (s.startCtx c k.pc k.arg) 1
    | 2 => if st = pkRunning ∨ st = pkReady ∨ st = pkBlocked then res (s.stopPocket c false) 1 else res s 2
    | 3 => if st ≠ pkStopped then res s 2 else if hold then res s 3 else res (s.makeReady c) 1
    | 4 => res (s.eventFor c) 1
    | _ => if s.fget (PART_PRIMAX.PRIMAX n) < k.arg.toNat % 16 then res s 6
           else res (s.fset (POCKET_CTL.PRI c) (k.arg.toNat % 16)) 1

/-- A write of CTXCMD captures CTXPC and CTXARG as they stand (R232). -/
def State.ctxCapture (s : State) (n c op : Nat) : CtxCmd :=
  { part := n, ctx := c, op := op, pc := BitVec.ofNat 64 (s.fget (PART_CTXPC.CTXPC n)),
    arg := BitVec.ofNat 64 (s.fget (PART_CTXARG.CTXARG n)) }

/-- A captured CTXCMD reaches its Pocket: it is carried out, or held while the slot moves (R331). -/
def State.ctxReach (s : State) (k : CtxCmd) : State :=
  if s.takesCmds k.ctx then s.ctxCmd k else if s.up then s.holdCmd (.part k) else s

/-- Is a CTXCMD refused before it reaches a Pocket: its partition is not ACTIVE, its operation is reserved, or the partition
does not own its context (R232)? -/
def State.ctxRefused (s : State) (k : CtxCmd) : Bool :=
  s.fget (PART_STATE.STATE k.part) != 1 || k.op == 0 || decide (5 < k.op) || s.partOf k.ctx != some k.part

/-- The commands of partition `n` at the front of those waiting that reach no Pocket are refused, in the order written. -/
def State.refuseFront (s : State) (n : Nat) : List CtxCmd → State
  | [] => s
  | k :: rest =>
    if k.part ≠ n then s.refuseFront n rest
    else if s.ctxRefused k then
      ({ s with core := { s.core with ctxCmds := s.core.ctxCmds.erase k } }.ctxCmd k).refuseFront n rest
    else s

/-- A write of PART[n].CTXCMD (R232): the command waits behind those written before it, with the values captured now. -/
def State.ctxcmdWrite (s : State) (n c op : Nat) : State :=
  let s := { s with core := { s.core with ctxCmds := s.core.ctxCmds ++ [s.ctxCapture n c op] } }
  s.refuseFront n s.core.ctxCmds

/-- A context command of partition `n`: the oldest written one is carried out when it is this one, with the values
captured at its write, and the commands behind it that reach no Pocket are refused; with none waiting, the command is
written and carried out now. -/
def State.ctxCommand (s : State) (n c op : Nat) : State :=
  match firstThat (fun k => k.part == n) s.core.ctxCmds with
    | none => s.ctxReach (s.ctxCapture n c op)
    | some k =>
      if k.ctx = c ∧ k.op = op then
        let s := { s with core := { s.core with ctxCmds := s.core.ctxCmds.erase k } }
        let s := s.ctxReach k
        s.refuseFront n s.core.ctxCmds
      else s

/-- After a move of slot `k` the commands held for it are carried out in arrival order (R331). -/
def State.runHeld (s : State) (k : Nat) : State :=
  let mine (h : HeldCmd) : Bool := match h with
    | .fw c _ => slotOf c == k
    | .part q => slotOf q.ctx == k
  let l := s.core.heldCmds.filter mine
  let s := { s with core := { s.core with heldCmds := s.core.heldCmds.filter fun h => !mine h } }
  l.foldl (fun s h => match h with
    | .fw c op => s.pocketCmd c op
    | .part q => s.ctxCmd q) s

def execCtxStart (n c : Nat) (s : State) : Res := .next (s.ctxCommand n c 1)
def execCtxStop (n c : Nat) (s : State) : Res := .next (s.ctxCommand n c 2)
def execCtxCont (n c : Nat) (s : State) : Res := .next (s.ctxCommand n c 3)
def execCtxWake (n c : Nat) (s : State) : Res := .next (s.ctxCommand n c 4)
def execCtxSetpri (n c : Nat) (s : State) : Res := .next (s.ctxCommand n c 5)

/-! ### The scheduler (R211–R213) -/

/-- The scheduler gives slot `k` to its choice: the RUNNING Pocket, if any, becomes READY. -/
def State.switchTo (s : State) (k d : Nat) : State :=
  let s := match s.runningOf k with
    | some c => s.setPk c pkReady
    | none => s
  let s := s.setPk d pkRunning
  { s with core := { s.core with sliceOver := AMap.erase k s.core.sliceOver, gate := AMap.erase k s.core.gate } }

/-- POCKET_SWITCH of slot `k`: at a switch point the scheduler chooses, when a switch is due (R212). -/
def execPocketSwitch (k : Nat) (s : State) : Res :=
  .next (if s.coresUp && s.dispatches k && s.switchDue k then
    (match s.choose k with
      | some d => s.switchTo k d
      | none => s)
    else s)

/-- SLICE_END of slot `k`: the RUNNING Pocket's slice has ended; SLICE = 0 has no end (R212). -/
def execSliceEnd (k : Nat) (s : State) : Res :=
  .next (match s.runningOf k with
    | some c =>
      if s.coresUp && s.fget (POCKET_CTL.SLICE c) != 0 then
        { s with core := { s.core with sliceOver := AMap.set false s.core.sliceOver k true } }
      else s
    | none => s)

/-- SWWAIT_EXCEEDED of slot `k` (R213): with SWWAIT ≠ 0, SWGUARD = 0 and a READY Pocket of equal or higher PRI, the
routine is abandoned, SWGUARD is set and the scheduler switches. -/
def execSwwaitExceeded (k : Nat) (s : State) : Res :=
  .next (match s.runningOf k, s.choose k with
    | some c, some d =>
      if s.coresUp && s.dispatches k && s.fget (WEFT_SCHED.SWWAIT k) != 0 && !s.fbit (POCKET_STAT.SWGUARD c)
          && decide (s.rank c ≤ s.rank d) then
        (s.fset (POCKET_STAT.SWGUARD c) 1).switchTo k d
      else s
    | _, _ => s)

/-! ### Interrupts and PARTX at a commit point -/

/-- INTERRUPT_ENTRY of context `c`: a Collar request is taken, abandoning the instruction at PC (R120, R183). -/
def execInterruptEntry (c : Nat) (s : State) : Res :=
  .next (if s.canRun c && s.intrDue c then (s.dropRoutine (s.agentOf c)).takeIntr c else s)

/-- PARTX_ENTRY of firmware context `c`: a waiting PARTX is taken with ST.EX = 0, whatever ST.IE is (R217). -/
def execPartxEntry (c : Nat) (s : State) : Res :=
  .next (if s.canRun c && s.partxDue c then (s.dropRoutine (s.agentOf c)).takePartx c else s)

end Sys2Proof.Machine
end

