-- ==== Sys2Proof/Machine/Collar.lean ====
section
/-! DEFINITION. Collar (08_collar_interrupts.md, R233–R249): events, sends, claims, ends of service, timers. -/

namespace Sys2Proof.Machine

/-- Does context `c` reach PART[n]: its own partition's block, or any for the firmware context (R230, R618)? -/
def State.partReach (s : State) (c n : Nat) : Bool := isFw c || s.partOf c == some n

/-- The PENDING source a claim of context `c` takes (R237): highest PRI, then the longest pending. -/
def State.claimable (s : State) (c : Nat) : Option Nat :=
  let l := s.collar.ages.filter fun x => s.targets x c
  firstThat (fun x => l.all fun y => s.srcPri y ≤ s.srcPri x) l

/-- A claim of context `c` (R241): the source chosen becomes IN_SERVICE with `c` as holder; the read returns its
number and PRI, or 0xFFFF, which SPUR counts. -/
def State.claim (s : State) (c : Nat) : State × Nat :=
  match s.claimable c with
  | some x =>
    let v := s.srcPri x * 2 ^ 16 + x
    ((((s.setPend x false).setServ x true).setHolder x c).updNotgt, v)
  | none => (s.fcount COLLAR_STAT.SPUR 1, 0xFFFF)

/-- A source's service ends (R238). -/
def State.endService (s : State) (x : Nat) : State :=
  if sourceKnown x && s.srcServ x then (s.setServ x false).setHolder x 0 else s

/-- An end-of-service write by context `c` (R242). -/
def State.eos (s : State) (c x : Nat) : State :=
  if !(sourceKnown x && s.srcServ x) then s
  else if s.srcHolder x = c then s.endService x
  else s.ctxFault c x

/-- A send of firmware context `c` (R235). -/
def State.fwSend (s : State) (c x : Nat) : State := if sourceKnown x then s.collarEvent x else s.ctxFault c x

/-- A send as partition `n` by context `c` (R235, R249): a software source of a group `n` owns. -/
def State.partSend (s : State) (c n x : Nat) : State :=
  if isSw x && s.srcOwner x == some n then s.collarEvent x else s.ctxFault c x

/-- A timer expires (R216, R246): it disarms, its context has an event, and source 0x3000 + c is signalled. -/
def State.timerExpire (s : State) (c : Nat) : State :=
  let s := { s with collar := { s.collar with timers := AMap.erase c s.collar.timers } }
  (s.eventFor c).collarEvent (0x3000 + c)

/-- A write of a deadline for context `c`'s timer (R246): 0 disarms, one already passed expires at once. -/
def State.armTimer (s : State) (c deadline : Nat) : State :=
  let s := s.look
  let s := { s with collar := { s.collar with timers := AMap.set 0 s.collar.timers c deadline } }
  if deadline ≠ 0 ∧ deadline ≤ s.tod then s.timerExpire c else s

/-- After a write of EN: PENDING sources of a source or group with EN = 0 become IDLE (R238). -/
def State.enOff (s : State) (x : Nat) : State :=
  if s.srcEn x then s
  else
    let l := s.collar.ages.filter fun y => if isSw x then isSw y && swGroup y == swGroup x else y == x
    (l.foldl (fun t y => t.setPend y false) s).updNotgt

/-- The EN field of a source, or of its group. -/
def enField (x : Nat) : Field := if isSw x then COLLAR_SWGRP.EN (swGroup x) else COLLAR_SRC.EN x

def execSourceEvent (src : Nat) (s : State) : Res := .next (if s.up then s.collarEvent src else s)
def execCollarSend (c src : Nat) (s : State) : Res := .next (if !s.up then s else if isFw c then s.fwSend c (src % 2 ^ 16) else s.ctxFault c (controlBase + COLLAR_SEND.SOURCE.off))
def execPartColsend (c n src : Nat) (s : State) : Res :=
  .next (if !s.up then s else if s.partReach c n then s.partSend c n (src % 2 ^ 16) else s.ctxFault c (controlBase + 0x200058 + 1024 * n))
def execPartClaim (c n : Nat) (s : State) : Res :=
  .next (if !s.up then s else if s.partReach c n then (s.claim c).1 else s.ctxFault c (controlBase + 0x200048 + 1024 * n))
def execCollarFwclaim (c : Nat) (s : State) : Res := .next (if !s.up then s else if isFw c then (s.claim c).1 else s.ctxFault c (controlBase + COLLAR_FWCLAIM.SOURCE.off))
def execPartEos (c n src : Nat) (s : State) : Res :=
  .next (if !s.up then s else if s.partReach c n then s.eos c (src % 2 ^ 16) else s.ctxFault c (controlBase + 0x200050 + 1024 * n))
def execCollarFweos (c src : Nat) (s : State) : Res := .next (if !s.up then s else if isFw c then s.eos c (src % 2 ^ 16) else s.ctxFault c (controlBase + COLLAR_FWEOS.SOURCE.off))
def execSrcForce (src : Nat) (s : State) : Res := .next (if s.up && !isSw src then s.endService src else s)
def execSwgrpForce (g fsrc : Nat) (s : State) : Res :=
  .next (if s.up then s.endService (0x4000 + 64 * (g % 256) + fsrc % 64) else s)

/-- Every target of a PENDING source has its request: a BLOCKED one becomes READY (R244, R245). -/
def State.requestAll (s : State) : State :=
  s.collar.ages.foldl (fun s x => (s.targetsOf x).foldl (fun s c => if s.pk c = pkBlocked then s.makeReady c else s) s) s

/-- A write of GDIS: while 1 no context has a request; the pending sources and their ages stay; when it returns to 0 every
target of a PENDING source has its request (R244). -/
def State.gdisWrite (s : State) (gdis : Bool) : State :=
  let was := s.fbit COLLAR_CTL.GDIS
  let s := s.fsetB COLLAR_CTL.GDIS gdis
  if was && !gdis then s.requestAll else s
def execGdisWrite (gdis : Bool) (s : State) : Res := .next (if s.up then s.gdisWrite gdis else s)

def execPartTimerWrite (c n : Nat) (deadline : Word) (s : State) : Res :=
  .next (if !s.up then s else if s.partReach c n then s.armTimer c deadline.toNat else s.ctxFault c (controlBase + 0x200060 + 1024 * n))
def execCollarFwtimerWrite (c : Nat) (deadline : Word) (s : State) : Res :=
  .next (if !s.up then s else if isFw c then s.armTimer c deadline.toNat else s.ctxFault c (controlBase + COLLAR_FWTIMER.DEADLINE.off))

/-- CONTEXT_TIMER_EXPIRY of context `c`: TOD reaches the armed deadline. TOD stands still while its counter is off. -/
def execContextTimerExpiry (c : Nat) (s : State) : Res :=
  .next (let d := AMap.get 0 s.collar.timers c
         if s.up && d != 0 && (s.fbit SEAM_TODCTL.EN || decide (d ≤ s.tod)) then
           { s with tod := max s.tod d }.timerExpire c
         else s)

/-- COLLAR_EN_WRITE of a source's EN, or of its software group's. -/
def execCollarEnWrite (src : Nat) (en : Bool) (s : State) : Res :=
  .next (if s.up && sourceKnown src then (s.fsetB (enField src) en).enOff src else s)

end Sys2Proof.Machine
end

