-- ==== Sys2Proof/Machine/Sparing.lean ====
section
/-! DEFINITION. Lockstep, instruction retry and core sparing (12_lockstep_retry_sparing.md, R319–R336) and the
staging and loading of Damson patches (06_control_store_and_classic_mode.md, R185–R192). A move is one step of the
model: its events of R331 come before or after it (log entry 19). -/

namespace Sys2Proof.Machine

/-! ### Physical pairs (R326, R333) -/

def phServing : Nat := 0
def phSpare : Nat := 1
def phMovingOut : Nat := 2
def phMovingIn : Nat := 3
def phFailed : Nat := 4

/-- The state of physical pair `p`. -/
def State.ph (s : State) (p : Nat) : Nat := s.fget (TAILOR_PHYS.STATE p)

/-- SPARESTAT's counts, INSERVICE included, and the Apron's spare count follow the pairs and slots (R333, R577). -/
def State.updSpare (s : State) : State :=
  let n (f : Nat → Bool) : Nat := ((List.range 48).filter f).length
  let s := s.fset TAILOR_SPARESTAT.FAILED (n fun p => s.ph p == phFailed)
  let k := n fun p => s.ph p == phSpare
  let s := (s.fset TAILOR_SPARESTAT.SPARES k).fset APRON_ID.SPARES k
  s.fset TAILOR_SPARESTAT.INSERVICE (n fun k => s.fbit (TAILOR_SLOT.SERVING k))

def State.setPh (s : State) (p st : Nat) : State := (s.fset (TAILOR_PHYS.STATE p) st).updSpare

/-- The slot that physical pair `p` serves. -/
def State.slotServed (s : State) (p : Nat) : Option Nat :=
  firstThat (fun k => s.fbit (TAILOR_SLOT.SERVING k) && s.physOf k == p) (List.range 48)

/-- The spare that a move of pair `p` takes (R328): on the same die first, the lowest number. -/
def State.chooseSpare (s : State) (p : Nat) : Option Nat :=
  (firstThat (fun q => s.ph q == phSpare) (upFrom (p / 12 * 12) 12)).orElse
    fun _ => firstThat (fun q => s.ph q == phSpare) (List.range 48)

/-- The location of a unit of a physical pair (R26, R27). -/
def pairLoc (action p unit : Nat) (rest : Nat := 0) : Nat := locCode action (p / 12) (p % 12) unit rest

/-- Every sector a caching agent holds leaves it: dirty data goes home (R276, R329 step 3). -/
def State.drainAgent (s : State) (p : Nat) : State :=
  let s := (s.evictOf p).foldl (fun t e => t.evictFinish p e.1) s
  let secs := (s.mem.dir.filter fun e => e.2.owner == some p || e.2.sharers.contains p).map (·.1)
  secs.foldl (fun t x => (t.settle x).leave p x) s

/-- L2 of a pair drained to DISABLED. -/
def State.l2Off (s : State) (p : Nat) : State :=
  let s := ((s.drainAgent p).fset (WEFT_L2STAT.STATE p) 0).fset (WEFT_L2STAT.DIRTY p) 0
  s.onMem fun m => { m with l2sets := AMap.keep (fun k => k / 2 ^ 11 ≠ p) m.l2sets, walk := AMap.erase p m.walk }

/-- A match register as its 64 bits (R187). -/
def State.smatchWord (s : State) (k : Nat) : Nat :=
  s.fget (CSTORE_SMATCH.EN k) * 2 ^ 63 + s.fget (CSTORE_SMATCH.TARGET k) * 2 ^ 32 + s.fget (CSTORE_SMATCH.ROMADDR k)

/-- A word of `w` bits as it is stored, with its even-parity bit on top (R170). -/
def withParity (w x : Nat) : Nat := x % 2 ^ w + ((List.range w).filter (bitOf x)).length % 2 * 2 ^ w

/-- Does a stored word of `w` bits have even parity? -/
def parityOk (w x : Nat) : Bool := ((List.range (w + 1)).filter (bitOf x)).length % 2 == 0

/-- The staging area as a Damson's contents, with the parity that is computed as the words are written. -/
def State.stageDamson (s : State) : Damson :=
  let nano (j : Nat) : Nat := s.fget (CSTORE_SNANO.WORD j 0) + s.fget (CSTORE_SNANO.WORD j 1) * 2 ^ 64
    + s.fget (CSTORE_SNANO.WORD j 2) * 2 ^ 128
  { micro := (List.range 1024).foldl (fun m k => AMap.set 0 m k (withParity 24 (s.fget (CSTORE_SMICRO.WORD k)))) []
    nano := (List.range 256).foldl (fun m j => AMap.set 0 m j (withParity 176 (nano j))) []
    mtch := (List.range 64).foldl (fun m k => AMap.set 0 m k (withParity 64 (s.smatchWord k))) [] }

/-- The Damson patch of a pair. -/
def State.damsonOf (s : State) (p : Nat) : Damson := AMap.get {} s.core.damson p
def State.setDamson (s : State) (p : Nat) (d : Damson) : State :=
  { s with core := { s.core with damson := AMap.set {} s.core.damson p d } }

/-- The Damson patch that spare `q` takes for source `p` (R328): none where the versions are equal; the sealed stage's, when it has
the source's version; else a copy of the source's. -/
def State.patchFor (s : State) (p q : Nat) : State :=
  let v := s.fget (CSTORE_VER.PATCH p)
  if s.fget (CSTORE_VER.PATCH q) = v then s
  else
    let stage := s.fbit CSTORE_STAGECTL.SEALED && s.fget CSTORE_STAGECTL.VERSION == v
    (s.setDamson q (if stage then s.stageDamson else s.damsonOf p)).fset (CSTORE_VER.PATCH q) v

/-- Both cores' L1 caches of a pair are invalidated (R323). -/
def State.l1Clear (s : State) (p : Nat) : State :=
  s.onMem fun m => { m with l1 := AMap.keep (fun k => k / 2 ^ 9 ≠ p) m.l1 }

/-- A Pocket image that step 4 finds uncorrectable (R331): its context resumes STOPPED with MCHK via PARTX, a contained-class fault
against its owner; a firmware Pocket is a fatal-class fault (R320). -/
def State.imageLost (s : State) (q c : Nat) : State :=
  let s := s.raise { loc := pairLoc (if isFw c then 0x9 else 0x4) q 0x05, ctx := some c, part := s.partOf c }
  if isFw c then (s.setPk c pkStopped).fset (POCKET_STAT.FWHOLD c) 1
  else if s.pk c = pkFree then s
  else s.partxStop c { code := Xc.mchk } 0 (s.ctx c).pc

/-- Steps 2 to 6 of a move (R329): the slot's contexts go on on the spare. The source's Hem writes that are not durable count
among the spare's, so that a PERSIST abandoned for the move waits for them there (R296). `images` lists the contexts whose Pocket
image is uncorrectable. -/
def State.moveTo (s : State) (p q k : Nat) (planned : Bool) (images : List Nat := []) : State :=
  let s := (s.dropRoutine p).patchFor p q
  let s := ((s.sbFlush p).l2Off p).l1Clear p
  let s := s.onMem fun m => { m with winPend := m.winPend.map fun e => (e.1, e.2.map fun g => if g = p + 1 then q + 1 else g) }
  let s := { s with core := { s.core with
    tlb1 := s.core.tlb1.filter fun t => t.pair != p && t.pair != q
    tlb2 := s.core.tlb2.filter fun t => t.pair != p && t.pair != q
    persistWait := AMap.erase p s.core.persistWait } }
  let s := s.fset (TAILOR_SLOT.PHYS k) q
  let s := (s.setPh p (if planned then phSpare else phFailed)).setPh q phServing
  let s := s.fset (WEFT_L2STAT.STATE q) (bnat (s.fbit (WEFT_L2CTL.EN q)))
  let s := (s.fset TAILOR_SPARESTAT.RESULT 1).fset TAILOR_SPARESTAT.FROM p
  let s := s.fset TAILOR_SPARESTAT.TO q
  let s := s.raiseC { loc := pairLoc 0x2 p 0x03, d2 := q }
  (images.filter fun c => slotOf c == k).foldl (fun t c => t.imageLost q c) s

/-- Step 1 of a move (R329): dispatch stops and FAILREC is written, except for a planned move. -/
def State.moveOut (s : State) (p : Nat) (planned : Bool) : State :=
  let s := s.setPh p phMovingOut
  if planned then s else (s.keepWrite (TAILOR_PHYS.FAILREC p) 1).1

/-- A slot that no spare takes (R334): L2 drained, owned Pockets with a valid save area saved and stopped with
FWHOLD, the others lost; one contained-class fault for each affected partition; the PARTX stops that waited become
fault records. -/
def State.loseSlot (s : State) (p k : Nat) : State :=
  let s := (s.sbFlush p).l2Off p
  let cs := (upFrom (k * 16) 15).filter fun c => (s.partOf c).isSome
  let s := cs.foldl (fun t c =>
    let t := if t.fbit (POCKET_SAVE.VALID c) then t.fullSave c else t.zeroPocket c
    (t.setPk c pkStopped).fset (POCKET_STAT.FWHOLD c) 1) s
  let s := (s.partxOf k).foldl (fun t e =>
    t.raise { loc := pairLoc 0x5 p 0, ctx := some e.ctx, part := t.partOf e.ctx, d0 := e.faddr.toNat, d1 := e.cause.toNat }) s
  let s := s.setPartx k []
  let parts := (cs.filterMap s.partOf).eraseDups
  let mask (s : State) (n : Nat) : Nat := (cs.map fun c => if s.partOf c == some n then 2 ^ (c % 16) else 0).sum
  let s := parts.foldl (fun t n => t.raise { loc := pairLoc 0x5 p 0x03, part := some n, d1 := k, d2 := mask t n }) s
  let s := s.fset (TAILOR_SLOT.SERVING k) 0
  ((s.setPh p phFailed).fset TAILOR_SPARESTAT.RESULT 3).updMinset

/-- A move of pair `p` to the spares in turn (R331): one that fails in steps 2 to 4 becomes FAILED, which FAILREC records
(DEDUCED from R333, log entry 140), and the next is chosen; with none left the slot is lost. -/
def State.moveAway (s : State) (p k : Nat) (planned : Bool) (env : MoveIn) : Nat → State
  | 0 => s.loseSlot p k
  | fuel + 1 =>
    match s.chooseSpare p with
    | none => s.loseSlot p k
    | some q =>
      if env.spares.contains q then
        ((((s.keepWrite (TAILOR_PHYS.FAILREC q) 1).1).setPh q phFailed)).moveAway p k planned env fuel
      else s.moveTo p q k planned env.images

/-- Steps 2 to 6 of the move of pair `p`, which wait for the end of a Tailor restart (R601). -/
def State.moveOn (s : State) (p k : Nat) (planned : Bool) (env : MoveIn) : State :=
  if !s.fbit TAILOR_TFWSTAT.BUSY then s.moveAway p k planned env 48
  else if s.core.heldMoves.any (·.1 == p) then s
  else ({ s with core := { s.core with heldMoves := s.core.heldMoves ++ [(p, planned, env)] } }).fset TAILOR_SPARESTAT.BUSY 1

/-- The moves that have waited for the Tailor, one at a time, in the order of their step 1 (R331, R601). -/
def State.movesHeld (s : State) : State :=
  s.core.heldMoves.foldl (fun t m => match t.slotServed m.1 with
    | some k => if t.ph m.1 = phMovingOut then t.moveAway m.1 k m.2.1 m.2.2 48 else t
    | none => t) (({ s with core := { s.core with heldMoves := [] } }).fset TAILOR_SPARESTAT.BUSY 0)

/-- A pair is handed to sparing (R328, R334): with a spare it moves, without one its slot is lost. A spare that fails
becomes FAILED. -/
def State.spareOut (s : State) (p : Nat) (planned : Bool) (env : MoveIn := {}) : State :=
  match s.slotServed p with
  | none => if s.ph p = phSpare then ((s.keepWrite (TAILOR_PHYS.FAILREC p) 1).1).setPh p phFailed else s
  | some k => (s.moveOut p planned).moveOn p k planned env

/-! ### Retry (R323–R325) -/

/-- The retries of a pair within the last hour of TOD (R325). -/
def State.noteRetry (s : State) (p : Nat) : State × Nat :=
  let s := s.look
  let l := (AMap.get [] s.core.retryTods p).filter fun t => s.tod < t + 3600 * 1000000 * 4096
  let l := l ++ [s.tod]
  ({ s with core := { s.core with retryTods := AMap.set [] s.core.retryTods p l } }, l.length)

/-- The location of a control store of a pair (R185): the store is the array; macro and cell are free (log entry 1). -/
def State.cstoreLoc (s : State) (p array : Nat) : State × Nat :=
  let (w, s) := s.draw
  (s, pairLoc 0x1 p 0x07 (w.toNat % 2 ^ 10 * 2 ^ 30 + array * 2 ^ 20 + w.toNat / 2 ^ 10 % 2 ^ 20))

/-- A mismatch or a control store parity error of pair `p` with comparator group `grp` (R323, R324, R328): a retry while
COUNT < 3, else persistent; the routine is abandoned, and a retry invalidates both cores' L1 caches. For group 7 `array` is the
store that failed. `record` says that the retry's record is still to be raised. -/
def State.mismatch (s : State) (p grp array : Nat) (env : MoveIn := {}) (record : Bool := true) : State :=
  let s := s.dropRoutine p
  match s.slotServed p with
  | none => s.spareOut p false env
  | some k =>
    if s.ph p ≠ phServing then s
    else
      let c := (s.runningOf k).getD 0
      let s := (s.fset (WEFT_LOCK.LASTGRP p) grp).fset (WEFT_LOCK.LASTCTX p) c
      if s.fget (WEFT_LOCK.COUNT p) = 3 then
        if s.fbit TAILOR_SPARECTL.AUTO || (s.chooseSpare p).isNone then s.spareOut p false env
        else s.moveOut p false
      else
        let s := s.l1Clear p
        let s := (s.fset (WEFT_LOCK.COUNT p) (s.fget (WEFT_LOCK.COUNT p) + 1)).fcount (WEFT_LOCK.RETRIES p) 1
        let (s, loc) := if grp = 7 then s.cstoreLoc p array else (s, pairLoc 0x1 p 0x03)
        let s := if record then s.raiseC { loc := loc, ctx := some c, bare := grp == 7 } else s
        let (s, n) := s.noteRetry p
        let thr := s.fget TAILOR_SPARECTL.RATETHR
        if thr ≠ 0 ∧ thr < n ∧ (s.chooseSpare p).isSome then s.spareOut p true env else s

/-- COMPARATOR_MISMATCH of physical pair `p`, comparator group `e.what` 1–6 (R319, R323); `e.env` says what a move meets (R331). -/
def execComparatorMismatch (p : Nat) (e : PairErr) (s : State) : Res :=
  .next (if s.coresUp then s.mismatch p e.what 0 e.env else s)

/-- CONTROL_STORE_PARITY_ERROR of pair `p` in store `e.what`: 0 micro-ROM, 1 nano-ROM, 2 Damson micro, 3 Damson nano,
4 match registers (R185). PERR counts it. -/
def execControlStoreParityError (p : Nat) (e : PairErr) (s : State) : Res :=
  .next (if s.coresUp then (s.fcount (CSTORE_VER.PERR p) 1).mismatch p 7 e.what e.env else s)

/-- An L1 parity error in either core (R270): as a comparator mismatch, of the group of one of the two L1 caches' requests, 1 or 2;
which is not recorded, and is free. Its record has been raised. -/
def State.l1Parity (s : State) (p : Nat) : State :=
  let (w, s) := s.draw
  s.mismatch p (1 + w.toNat % 2) 0 {} false

/-- SPARE_MOVE: firmware writes SPARECTL.OP = MOVE for physical pair `p` (R328); refused while a move waits for the Tailor
(R342). -/
def State.spareMove (s : State) (p : Nat) (env : MoveIn := {}) : State :=
  if s.fbit TAILOR_SPARESTAT.BUSY then s.fset TAILOR_SPARESTAT.RESULT 2
  else match s.slotServed p with
  | none => s.fset TAILOR_SPARESTAT.RESULT 4
  | some k =>
    if s.ph p = phMovingOut then s.moveOn p k false env
    else if s.ph p ≠ phServing then s.fset TAILOR_SPARESTAT.RESULT 4
    else if (s.chooseSpare p).isNone then s.fset TAILOR_SPARESTAT.RESULT 3
    else s.spareOut p true env

/-- SPARE_REINSTATE of pair `p`; `pass` is the outcome of its built-in self-test (R336). -/
def State.reinstate (s : State) (p : Nat) (pass : Bool) : State :=
  if s.fbit TAILOR_SPARESTAT.BUSY then s.fset TAILOR_SPARESTAT.RESULT 2
  else if s.ph p ≠ phFailed then s.fset TAILOR_SPARESTAT.RESULT 4
  else if pass then
    (((s.keepWrite (TAILOR_PHYS.FAILREC p) 0).1).setPh p phSpare).fset TAILOR_SPARESTAT.RESULT 5
  else s.fset TAILOR_SPARESTAT.RESULT 6
def execSpareReinstate (p : Nat) (pass : Bool) (s : State) : Res := .next (if s.up then s.reinstate p pass else s)

/-! ### Damson patches (R188–R190) -/

/-- The 14,848 bytes the seal covers (R188). -/
def State.stageBytes (s : State) : List Byte :=
  ((List.range 1024).flatMap fun k => leBytes 8 (s.fget (CSTORE_SMICRO.WORD k)))
    ++ ((List.range 256).flatMap fun j => (List.range 3).flatMap fun w => leBytes 8 (s.fget (CSTORE_SNANO.WORD j w)))
    ++ ((List.range 64).flatMap fun k => leBytes 8 (s.smatchWord k))

/-- Do two enabled match registers name the same ROMADDR (R188)? -/
def State.stageDup (s : State) : Bool :=
  let l := ((List.range 64).filter fun k => s.fbit (CSTORE_SMATCH.EN k)).map fun k => s.fget (CSTORE_SMATCH.ROMADDR k)
  l.eraseDups.length != l.length

/-- A write of STAGECTL with SEAL = 1 (R188): CRC and VERSION take their values, and the CRC and the match registers are
checked. Where the stage is sealed already nothing is checked, and RESULT stays (DESIGN CHOICE, log entry 134). -/
def State.stageSeal (s : State) (crc version : Nat) : State :=
  let s := (s.fset CSTORE_STAGECTL.CRC crc).fset CSTORE_STAGECTL.VERSION version
  if s.fbit CSTORE_STAGECTL.SEALED then s
  else
    if crc32c s.stageBytes ≠ s.fget CSTORE_STAGECTL.CRC then s.fset CSTORE_STAT.RESULT 2
    else if s.stageDup then s.fset CSTORE_STAT.RESULT 3
    else (s.fset CSTORE_STAGECTL.SEALED 1).fset CSTORE_STAT.RESULT 1
def execStageSeal (crc version : Nat) (s : State) : Res := .next (if s.up then s.stageSeal crc version else s)

/-- UNSEAL, refused while BUSY (R188). -/
def State.stageUnseal (s : State) : State :=
  if s.fbit CSTORE_STAT.BUSY then s else s.fset CSTORE_STAGECTL.SEALED 0
def execStageUnseal (s : State) : Res := .next (if s.up then s.stageUnseal else s)

/-- A pair takes the sealed stage as its patch. -/
def State.takePatch (s : State) (p : Nat) : State :=
  ((s.dropRoutine p).setDamson p s.stageDamson).fset (CSTORE_VER.PATCH p) (s.fget CSTORE_STAGECTL.VERSION)

/-- WEFT.LOCK of a pair takes its Module entries (R13). -/
def State.lockReset (s : State) (p : Nat) : State :=
  ((s.fset (WEFT_LOCK.LASTGRP p) 0).fset (WEFT_LOCK.COUNT p) 0).fset (WEFT_LOCK.LASTCTX p) 0

/-- PATCH_APPLY to pair `p` (R189, R190), which ends with its command, so that BUSY is not seen (log entry 134). `how` says what
it met: 0 nothing that ends it, and the copy compared equal at the first or second reading; 1 a second readback failure; 2 a
mismatch or parity error before the copy began; 3 one after that; 4 a Unit reset of the pair, which reloads it from the stage. An
interrupt waits for the end. -/
def State.patchApply (s : State) (p how : Nat) : State :=
  if !s.fbit CSTORE_STAGECTL.SEALED then s.fset CSTORE_STAT.RESULT 5
  else if s.fbit CSTORE_STAT.BUSY then s.fset CSTORE_STAT.RESULT 6
  else if 47 < p ∨ (s.ph p ≠ phServing ∧ s.ph p ≠ phSpare) then s.fset CSTORE_STAT.RESULT 7
  else
    let s := (s.fset CSTORE_STAT.PAIR p).dropRoutine p
    if how = 0 ∨ how = 4 then
      let s := (s.takePatch p).fset CSTORE_STAT.RESULT 4
      if how = 4 then s.lockReset p else s
    else (s.spareOut p false).fset CSTORE_STAT.RESULT 8
def execPatchApply (p how : Nat) (s : State) : Res := .next (if s.up then s.patchApply p how else s)

/-- What a Unit reset does to a serving pair (R331): it retries from its commit point with Damson reloaded from the sealed staging
area; the Pocket array and L2 are kept, and WEFT.LOCK takes its Module entries (R13). -/
def State.pairRetry (s : State) (p : Nat) : State :=
  let s := s.dropRoutine p
  let s := if s.fbit CSTORE_STAGECTL.SEALED then s.takePatch p else s
  (s.l1Clear p).lockReset p

/-- A Unit reset of a core pair (R331, R587); a pair that is not SERVING refuses with RESULT 2. -/
def State.pairReset (s : State) (p : Nat) : State :=
  if 47 < p then s.fset TAILOR_UNITRST.RESULT 3
  else if s.ph p ≠ phServing then s.fset TAILOR_UNITRST.RESULT 2
  else (s.pairRetry p).fset TAILOR_UNITRST.RESULT 1

end Sys2Proof.Machine
end

