-- ==== Sys2Proof/Machine/Coherence.lean ====
section
/-! DEFINITION. The homes' requests, transactions, NACKs and persistent requests, the drains of caches, and the
persist protocol (09_caches_and_coherence.md R261–R267, R274–R279; 10_ordering_and_barriers.md R293). The accesses
of instructions and Hub agents in Memory.lean carry their own requests to the end at once; the commands here are the
same requests one protocol step at a time. -/

namespace Sys2Proof.Machine

/-- The 64 requesters (R263): caching agents 0–48, Hub ports 0–14 as 49–63. -/
def isRequester (r : Nat) : Bool := decide (r < 64)

/-! ### NACK and persistent requests (R264, R265) -/

/-- Is a persistent request waiting for the sector? -/
def State.persistentFor (s : State) (sec : Nat) : Option NackedReq :=
  firstThat (fun q => q.sector == sec && q.persistent) s.mem.nacked

/-- Does a requester have a persistent request at the home of a sector? It may have one (R265). -/
def State.persistsAt (s : State) (req sec : Nat) : Bool :=
  s.mem.nacked.any fun q => q.requester == req && q.persistent && s.homeKey q.sector == s.homeKey sec

/-- The home answers NACK: the requester counts it, draws its next wait, and sends the 64th again as persistent, unless it has
a persistent request at that home. A persistent request is never answered with NACK: it keeps its place in the table. -/
def State.nack (s : State) (req sec : Nat) (k : ReqKind) (addr : Nat := 0) (data : List Byte := []) : State :=
  let old := firstThat (fun q => q.requester == req && q.sector == sec) s.mem.nacked
  if old.any (·.persistent) then s
  else
    let n := (old.map (·.count)).getD 0 + 1
    let pers := decide (64 ≤ n) && !s.persistsAt req sec
    let q : NackedReq := { requester := req, sector := sec, kind := k, count := n, persistent := pers, addr := addr, data := data }
    let s := s.cohCount sec WEFT_COHSTAT.NACK
    let s := if pers then s.cohCount sec WEFT_COHSTAT.PERSIST else s
    let (w, s) := s.draw
    s.onMem fun m => { m with
      nacked := m.nacked.filter (fun x => !(x.requester == req && x.sector == sec)) ++ [q]
      lfsr := AMap.set req m.lfsr req (w.toNat % 2 ^ 16) }

/-- A request's NACK record goes away when the home accepts it. -/
def State.unnack (s : State) (req sec : Nat) : State :=
  s.onMem fun m => { m with nacked := m.nacked.filter fun x => !(x.requester == req && x.sector == sec) }

/-- Must the home turn this request away: a transaction is open for the sector, or a persistent request of another
requester comes first (R264, R265)? -/
def State.homeBusy (s : State) (req sec : Nat) : Bool :=
  (s.txnOf sec).isSome || (match s.persistentFor sec with
    | some q => q.requester != req
    | none => false)

/-- A request reaches its home: NACK, or `go`. While the home has other transactions its input queue may be full, which is free
(R264, log entry 42); a persistent request has a place of its own. -/
def State.request (s : State) (req sec : Nat) (k : ReqKind) (go : State → State) (addr : Nat := 0) (data : List Byte := []) :
    State :=
  if s.homeBusy req sec then s.nack req sec k addr data
  else if (s.mem.txns.any fun e => s.homeKey e.1 == s.homeKey sec) && !(s.persistentFor sec).isSome then
    let (w, s) := s.draw
    if w.getLsbD 0 then s.nack req sec k addr data else go (s.unnack req sec)
  else go (s.unnack req sec)

/-! ### Requests of caching agents (R261, R262) -/

/-- The home accepts a ReadS, ReadM or Upgrade: it forwards to the holder of M, O or E, or serves it itself. An
Upgrade of an agent the directory no longer lists is a ReadM. -/
def State.acceptRead (s : State) (p sec : Nat) (k : ReqKind) : State :=
  let e := s.dirOf sec
  let k := if k == .upgrade && s.cst p sec == .i then .readM else k
  let own := k == .readM || k == .upgrade
  let fwd := match e.owner with
    | some q => if q = p then none else some q
    | none => none
  let po := s.takePois p sec
  let s := if k == .upgrade then s else (s.l3Touch sec).1
  s.onMem fun m => { m with txns := AMap.set none m.txns sec (some
    { requester := p, kind := k, fwd := fwd, inv := if own then e.sharers.filter (· ≠ p) else [], po := po }) }

/-- May agent `p` send requests: the pairs do not during a checkstop (R274)? -/
def State.sends (s : State) (p : Nat) : Bool := s.up && !(s.mem.checkstop && decide (p < 48))

/-- A request of caching agent `p` for sector `sec` reaches its home; its own eviction buffer holds the sector no longer
(R267). -/
def State.homeRead (s : State) (p sec : Nat) (k : ReqKind) : State :=
  if 48 < p ∨ !s.served (sec * 64) then s
  else
    let s := s.evictFinish p sec
    s.request p sec k fun s => s.acceptRead p sec k

def execReads (p sec : Nat) (s : State) : Res := .next (if s.sends p then s.homeRead p sec .readS else s)
def execReadm (p sec : Nat) (s : State) : Res := .next (if s.sends p then s.homeRead p sec .readM else s)
def execUpgrade (p sec : Nat) (s : State) : Res := .next (if s.sends p then s.homeRead p sec .upgrade else s)

/-- A WriteBack reaches the home (R261, R266, R267) from the agent's eviction buffer, which it enters first where it is not
there: a holder of M or O gives the sector up; a home that no longer names the writer discards it. -/
def State.homeWriteBack (s : State) (p sec : Nat) : State :=
  if 48 < p then s
  else
    let here := (s.evictOf p).any fun e => e.1 == sec
    if !here && s.cst p sec != .m && s.cst p sec != .o then s
    else
      let s := if here then s else (s.undirty p sec).evictPush p sec false
      s.request p sec .writeBack fun s => s.evictHome p sec
def execWriteback (p sec : Nat) (s : State) : Res := .next (if s.sends p then s.homeWriteBack p sec else s)

/-- A Clean reaches the home: M → E, O → S. -/
def State.homeClean (s : State) (p sec : Nat) : State :=
  if 48 < p then s else s.request p sec .clean fun s => s.cleanAt p sec
def execClean (p sec : Nat) (s : State) : Res := .next (if s.sends p then s.homeClean p sec else s)

/-- An EvictNotice reaches the home: a holder of E or S ends in I. -/
def State.homeNotice (s : State) (p sec : Nat) : State :=
  if 48 < p then s
  else s.request p sec .evictNotice fun s => if s.cst p sec == .e || s.cst p sec == .s then s.leave p sec else s
def execEvictnotice (p sec : Nat) (s : State) : Res := .next (if s.sends p then s.homeNotice p sec else s)

/-- WRITEBACK_ACK: the home, which has taken the write-back, acknowledges it, and the entry of the agent's eviction buffer
frees (R266). -/
def execWritebackAck (p sec : Nat) (s : State) : Res :=
  .next (if (s.evictOf p).contains (sec, true) then s.evictAck p sec else s)

/-! ### Requests of non-caching agents (R263) -/

/-- The Hub agent behind a request port: it acts for no partition here. -/
def portAgent : HubAgent := { part := none, tile := 0xFF, unit := 0x09 }

/-- ReadCur: the current value goes to the agent; no cache changes state. -/
def State.homeReadCur (s : State) (r sec : Nat) : State :=
  s.request r sec .readCur fun s => (s.hubRead portAgent (sec * 64) 64).1
def execReadcur (r sec : Nat) (s : State) : Res := .next (if s.up && isRequester r then s.homeReadCur r sec else s)

/-- WriteFull and WritePart: the bytes at the home, every cached copy → I. -/
def State.homeWrite (s : State) (r a : Nat) (bs : List Byte) (k : ReqKind) : State :=
  s.request r (a / 64) k (fun s => s.hubWrite portAgent a bs) a bs
def execWritefull (r sec : Nat) (bs : List Byte) (s : State) : Res :=
  .next (if s.up && isRequester r && bs.length == 64 then s.homeWrite r (sec * 64) bs .writeFull else s)
def execWritepart (r a : Nat) (bs : List Byte) (s : State) : Res :=
  .next (if s.up && isRequester r && decide (0 < bs.length ∧ a % 64 + bs.length ≤ 64) then s.homeWrite r a bs .writePart else s)

/-! ### The steps of a transaction (R262, R264, R267) -/

/-- FORWARDED_REQUEST: the holder answers the requester, changes its own state and tells the home. -/
def execForwardedRequest (sec : Nat) (s : State) : Res :=
  .next (match s.txnOf sec with
    | some t => (match t.fwd with
      | some q =>
        let po := if t.kind == .upgrade && s.cst t.requester sec != .i then t.po else s.copyPois q sec
        (s.forwarded q sec t.kind).onMem fun m =>
          { m with txns := AMap.set none m.txns sec (some { t with fwd := none, po := po }) }
      | none => s)
    | none => s)

/-- INVALIDATION of holder `q`: its S copy → I and it acknowledges. -/
def execInvalidation (q sec : Nat) (s : State) : Res :=
  .next (match s.txnOf sec with
    | some t =>
      if t.inv.contains q then (s.leave q sec).onMem fun m =>
          { m with txns := AMap.set none m.txns sec (some { t with inv := t.inv.filter (· ≠ q) }) }
      else s
    | none => s)

/-- A request that was turned away is sent again (R264). -/
def State.resend (s : State) (q : NackedReq) : State :=
  match q.kind with
  | .readS | .readM | .upgrade => s.homeRead q.requester q.sector q.kind
  | .writeBack => s.homeWriteBack q.requester q.sector
  | .clean => s.homeClean q.requester q.sector
  | .evictNotice => s.homeNotice q.requester q.sector
  | .readCur => s.homeReadCur q.requester q.sector
  | .writeFull | .writePart => s.homeWrite q.requester q.addr q.data q.kind

/-- After a sector is free, its first persistent request is served (R265). -/
def State.nextPersistent (s : State) (sec : Nat) : State :=
  match s.persistentFor sec with
  | none => s
  | some q => s.resend q

/-- TRANSACTION_COMPLETE: the requester's state is final, and the sector is free for the next request. -/
def execTransactionComplete (sec : Nat) (s : State) : Res :=
  .next (match s.txnOf sec with
    | some t =>
      if t.fwd.isNone && t.inv.isEmpty then ((s.grant t.requester sec t.kind t.po).endTxn sec).nextPersistent sec else s
    | none => s)

/-- NACK_RETRY of requester `r` for a sector: the same request again, when its back-off wait has ended. -/
def execNackRetry (r sec : Nat) (s : State) : Res :=
  .next (match firstThat (fun q => q.requester == r && q.sector == sec) s.mem.nacked with
    | some q => if s.up then s.resend q else s
    | none => s)

/-! ### Checkstop (R274, R275) -/

/-- A checkstop of the compute domain (R274, R275): every pair stops, with its committed stores that are not performed; dirty
DRAM sectors of pairs are poisoned at home and dirty window sectors dropped; clean copies and outstanding requests of pairs are
dropped. What the Tailor's cache holds is not touched: where it shares a sector with a pair, it keeps the value. -/
def State.stopCompute (s : State) : State :=
  let pairs (e : DirEntry) : Bool := e.owner.any (· < 48) && (e.st == .m || e.st == .o)
  let lost := s.mem.dir.filter fun e => pairs e.2
  let s := lost.foldl (fun t e =>
    let t := if e.2.sharers.contains 48 then t else t.dropBytes e.1
    if spaceOf (e.1 * 64) == .window then t else t.setHomePois e.1 true) s
  let dir : AMap DirEntry := (s.mem.dir.map fun e => (e.1, { e.2 with
      owner := e.2.owner.filter (48 ≤ ·), sharers := e.2.sharers.filter (48 ≤ ·)
      st := if e.2.owner.any (48 ≤ ·) then e.2.st else .i })).filter fun e => decide (e.2 ≠ {})
  let s := s.onMem fun m => { m with
    checkstop := true
    dir := dir
    dirOrder := (m.dirOrder.map fun e => (e.1, e.2.filter fun x => dir.any fun d => d.1 == x)).filter fun e => !e.2.isEmpty
    cpoison := AMap.keep (fun k => k % 64 == 48) m.cpoison
    l1 := [], l2sets := [], sbuf := [], dirty := m.dirty.filter fun e => 48 ≤ e.1
    txns := m.txns.filter fun e => !(e.2.any fun t => t.requester < 48)
    nacked := m.nacked.filter fun q => 48 ≤ q.requester
    evict := m.evict.filter fun e => 48 ≤ e.1 }
  let s := (List.range 48).foldl (fun t p => t.fset (WEFT_L2STAT.DIRTY p) 0) s
  (s.fset FAULT_STAT.CHECKSTOP 1).fcount LIFE_RESETS.CHECKSTOPS 1

/-- A timeout on an ordinary sector: the fatal-class fault names the home's slice and the silent agent. -/
def State.checkstop (s : State) (sec agent : Nat) : State :=
  let (d, tile) := s.homeOf sec
  s.stopCompute.raise { loc := locCode 0x8 d tile 0x14, d0 := sec * 64, d2 := agent }

/-! ### Disabling caches (R276–R279) -/

/-- DONE of a drain at firmware's request, and DONESRC as a firmware send (R276): a reserved number is a contained-class fault
(R233) that no rule places (R630). -/
def State.drainDone (s : State) (done doneen donesrc : Field) : State :=
  let s := s.fset done 1
  if !s.fbit doneen then s
  else if sourceKnown (s.fget donesrc) then s.collarEvent (s.fget donesrc)
  else s.raise { loc := locCode 0x6 0xF 0xFF 0, d0 := s.fget donesrc, bare := true }

/-- A write of L2CTL[p].EN (R276, R278). -/
def State.l2EnWrite (s : State) (p : Nat) (en : Bool) : State :=
  let s := s.fsetB (WEFT_L2CTL.EN p) en
  let st := s.fget (WEFT_L2STAT.STATE p)
  let again (b : Bool) (s : State) : State := s.onMem fun m => { m with reEnable := AMap.set false m.reEnable p b }
  if en then
    if st = 0 then s.fset (WEFT_L2STAT.STATE p) 1
    else if st = 2 ∨ st = 3 then again true s else s
  else
    let s := again false s
    if st = 1 then (s.fset (WEFT_L2STAT.STATE p) 2).setWalk p 0 else s
def execL2ctlEnWrite (p : Nat) (en : Bool) (s : State) : Res := .next (if s.up then s.l2EnWrite p en else s)

/-- Key of a die's way group among the flags of R278. -/
def groupKey (d g : Nat) : Nat := 64 + d * 4 + g

/-- A write of L3CTL[d].WGEN (R276, R278). -/
def State.wgenWrite (s : State) (d w : Nat) : State :=
  let s := (List.range 4).foldl (fun s g =>
    let st := s.gstate d g
    let flags (s : State) (re cl : Bool) : State := s.onMem fun m => { m with
      reEnable := AMap.set false m.reEnable (groupKey d g) re
      clearLater := AMap.set false m.clearLater (groupKey d g) cl }
    if bitOf w g then
      if st = 0 then (flags s false false).setGstate d g 3
      else if st = 2 then flags s true false
      else flags s false false
    else
      if st = 1 then
        let s := if s.l3Draining d then s else (s.setWalk (48 + d) 0).fset (WEFT_L3STAT.WALKSET d) 0
        (flags s false false).setGstate d g 2
      else if st = 3 then flags s false true
      else flags s false false) s
  s.fset (WEFT_L3CTL.WGEN d) w
def execL3ctlWgenWrite (d w : Nat) (s : State) : Res := .next (if s.up then s.wgenWrite d (w % 16) else s)

/-- Way group `g` of die `d` is drained to its end (R276): its dirty sectors are in DRAM, its lines invalid, and it is OFF. -/
def State.l3GroupOff (s : State) (d g : Nat) : State :=
  let sets := s.mem.l3sets.filter fun e => e.1 / 2 ^ 14 == d
  let s := sets.foldl (fun s e => (e.2.filter fun x => x.2 / 4 == g).foldl (fun s x =>
    (upFrom (4 * x.1) 4).foldl (fun (s : State) y => (s.l3Clean y).l3Drop y) s) s) s
  let s := s.onMem fun m => { m with l3sets := (m.l3sets.map fun e =>
    (e.1, if e.1 / 2 ^ 14 = d then e.2.filter fun x => x.2 / 4 != g else e.2)).filter fun e => !e.2.isEmpty }
  s.setGstate d g 0

/-- CACHE_DRAIN_DONE of L2 `i` (`l3` false) or of the draining way groups of die `i` (R276–R278). -/
def State.cacheDrainDone (s : State) (l3 : Bool) (i : Nat) : State :=
  if l3 then
    let gs := (List.range 4).filter fun g => s.gstate i g == 2
    if gs.isEmpty then s
    else
      let s := gs.foldl (fun s g => s.l3GroupOff i g) s
      let s := (s.setWalk (48 + i) 0).fset (WEFT_L3STAT.WALKSET i) 0
      let s := s.drainDone (WEFT_L3STAT.DONE i) (WEFT_L3CTL.DONEEN i) (WEFT_L3CTL.DONESRC i)
      gs.foldl (fun s g =>
        if AMap.get false s.mem.reEnable (groupKey i g) then
          (s.setGstate i g 3).onMem fun m => { m with reEnable := AMap.erase (groupKey i g) m.reEnable }
        else s) s
  else if s.fget (WEFT_L2STAT.STATE i) ≠ 2 ∧ s.fget (WEFT_L2STAT.STATE i) ≠ 3 then s
  else
    let s := s.l2Off i
    let s := s.drainDone (WEFT_L2STAT.DONE i) (WEFT_L2CTL.DONEEN i) (WEFT_L2CTL.DONESRC i)
    if AMap.get false s.mem.reEnable i then
      (s.fset (WEFT_L2STAT.STATE i) 1).onMem fun m => { m with reEnable := AMap.erase i m.reEnable }
    else s
def execCacheDrainDone (l3 : Bool) (i : Nat) (s : State) : Res := .next (if s.up then s.cacheDrainDone l3 i else s)

/-- L3_POWERUP_DONE of way group `g` of die `d` (R276, R278). -/
def execL3PowerupDone (d g : Nat) (s : State) : Res :=
  .next (if s.up && s.gstate d g == 3 then
    if AMap.get false s.mem.clearLater (groupKey d g) then
      let s := (s.setGstate d g 0).onMem fun m => { m with clearLater := AMap.erase (groupKey d g) m.clearLater }
      s.drainDone (WEFT_L3STAT.DONE d) (WEFT_L3CTL.DONEEN d) (WEFT_L3CTL.DONESRC d)
    else s.setGstate d g 1
  else s)

/-! ### PERSIST at the home (R293) -/

/-- Steps 2 and 3 of PERSIST at pair `p`: its write-backs of Hem windows reach the Hem home, and Clean is sent for every dirty
Hem window sector of its L2. -/
def State.persistClean (s : State) (p : Nat) : State :=
  let win (x : Nat) : Bool := spaceOf (x * 64) == .window
  let s := ((s.evictOf p).filter fun e => win e.1).foldl (fun t e => t.evictFinish p e.1) s
  ((AMap.get [] s.mem.dirty p).filter win).foldl (fun t x => (t.settle x).cleanAt p x) s

/-- PERSIST_REQUEST of pair `p`: the PERSIST of its running context has drained its stores and sent its Cleans; the Hem home
has the request (R293 steps 1 to 3). -/
def execPersistRequest (p : Nat) (s : State) : Res :=
  .next (match (s.slotServed p).bind s.runningOf with
    | some c =>
      if s.coresUp then
        let s := (s.sbFlush p).persistClean p
        { s with core := { s.core with persistWait := AMap.set none s.core.persistWait p (some (c, (s.ctx c).pc)) } }
      else s
    | none => s)

/-- PERSIST_ACK of pair `p` (R293 steps 4 and 5): every Hem write of the pair is durable, the acknowledgement is back, and the
PERSIST retires; one that was abandoned runs again (R296). -/
def execPersistAck (p : Nat) (s : State) : Res :=
  .next (match AMap.get none s.core.persistWait p with
    | none => s
    | some w =>
      let s := s.winDurable fun _ g => g == p + 1
      let s := { s with core := { s.core with persistWait := AMap.erase p s.core.persistWait } }
      if s.canRun w.1 && (s.ctx w.1).pc == w.2 then s.commit w.1 (s.level w.1 == 1) (w.2 + 4) else s)

end Sys2Proof.Machine
end

