-- ==== Sys2Proof/Machine/MemCtl.lean ====
section
/-! DEFINITION. The memory controllers (11_memory_controllers.md, R300–R318): the memory map, DRAM accesses with
symbol ECC, refresh, power-down, scrubbing, mirroring and hot replacement. -/

namespace Sys2Proof.Machine

/-! ### The memory map (R303, R304) -/

/-- Does a region that is VALID break R304 or R315? -/
def State.regionBad (s : State) (k : Nat) : Bool :=
  let mirror := s.fbit (WEFT_MAPA.MIRROR 0 k)
  let mask := s.fget (WEFT_MAPB.CHMASK 0 k)
  let n := (maskChans mirror mask).length
  let size := s.fget (WEFT_MAPB.LIMIT 0 k) + 1 - s.fget (WEFT_MAPA.BASE 0 k)
  let nOk := if mirror then
      [1, 2, 3, 4, 6, 12].contains n && (List.range 12).all fun i => bitOf mask (2 * i) == bitOf mask (2 * i + 1)
    else [1, 2, 3, 4, 6, 8, 12, 24].contains n
  !nOk || size == 0 || size % n != 0

/-- MAPB.BAD follows the region: VALID is set but N or the size breaks R304. -/
def State.updBad (s : State) (k : Nat) : State :=
  s.fsetB (WEFT_MAPB.BAD 0 k) (s.fbit (WEFT_MAPA.VALID 0 k) && s.regionBad k)

/-- A write of MAPA[k], or of MAPB[k] (`b`), through any WEFT block (R303). -/
def State.mapWrite (s : State) (k : Nat) (b : Bool) (w : Nat) : State :=
  let put (s : State) (f : Field) : State := s.fset f (w / 2 ^ f.lo)
  let s := if b then put (put s (WEFT_MAPB.CHMASK 0 k)) (WEFT_MAPB.LIMIT 0 k)
    else put (put (put (put s (WEFT_MAPA.CHOFF 0 k)) (WEFT_MAPA.MIRROR 0 k)) (WEFT_MAPA.VALID 0 k)) (WEFT_MAPA.BASE 0 k)
  s.updBad k
def execMapWrite (k : Nat) (b : Bool) (w : Word) (s : State) : Res :=
  .next (if s.up && decide (k < 16) then s.mapWrite k b w.toNat else s)

/-! ### Channels -/

/-- The slot of rank `r` of a channel: each slot has the two chip selects of two ranks (R72, R301). -/
def slotOfRank (ch r : Nat) : Nat := 2 * ch + r / 2 % 2

/-- The location of DDR-5 channel `ch` (R548): local channel unit on its Weft die, with slot × 8 + rank in the macro
field and the device in the array field (R26). `rank` counts the ranks of the channel, two to a slot. -/
def chanLoc (action ch rank dev : Nat) : Nat :=
  locCode action (ch / 6) 0xFF (0x28 + ch % 6) ((rank / 2 * 8 + rank % 2) * 2 ^ 30 + dev * 2 ^ 20)

/-- Does a channel serve accesses: IN_SERVICE, SINGLE or REBUILDING? -/
def State.chanUp (s : State) (ch : Nat) : Bool :=
  s.fget (MC_STAT.STATE ch) == 1 || s.fget (MC_STAT.STATE ch) == 2 || s.fget (MC_STAT.STATE ch) == 5

/-- The mirror partner of a channel (R315). -/
def partner (ch : Nat) : Nat := if ch % 2 = 0 then ch + 1 else ch - 1

/-! ### DIMMs (R300, R301, R306, R580) -/

/-- Is a DIMM of a type the controllers support (R300)? -/
def DimmIn.supported (d : DimmIn) : Bool :=
  d.rdimm && (d.width == 4 || d.width == 8) && (d.ranks == 1 || d.ranks == 2) && (d.stack == 1 || d.stack == 2)
    && decide (16 ≤ d.gib ∧ d.gib ≤ 256) && decide (1 ≤ d.rate)

/-- What R301 compares of the two DIMMs of a channel and of the populations of a mirrored pair. -/
def DimmIn.shape (d : DimmIn) : List Nat := [d.gib, d.ranks, d.width, d.density, d.stack]

def dimmAt (l : List DimmIn) (slot : Nat) : Option DimmIn := firstThat (fun d => d.slot == slot) l

/-- The population of a channel, as R301 compares it. -/
def population (l : List DimmIn) (ch : Nat) : List (Option (List Nat)) :=
  [dimmAt l (2 * ch), dimmAt l (2 * ch + 1)].map fun x => x.map DimmIn.shape

/-- The DIMM of a slot after step 2: kept, or the RESULT that takes it out of service. -/
def spdCheck (l : List DimmIn) (slot : Nat) : Option (DimmIn × Nat) :=
  (dimmAt l slot).map fun d =>
    (d, if !d.read then 3
      else if !d.supported then 4
      else if slot % 2 = 1 then
        match dimmAt l (slot - 1) with
        | none => 4
        | some z => if z.read && z.supported && z.shape ≠ d.shape then 4 else 1
      else 1)

/-- The DIMM of a slot at the end of training: 1, or the RESULT that takes it out of service (R306); `twin` says that the
populations of a mirrored pair differ. -/
def dimmCheck (l : List DimmIn) (twin : Bool) (slot : Nat) : Option (DimmIn × Nat) :=
  (spdCheck l slot).map fun x =>
    (x.1, if x.2 ≠ 1 then x.2 else if twin then 4
      else if !x.1.power then 5 else if !x.1.train then 6 else if !x.1.fill then 7 else 1)

/-- The step of R306 at which a RESULT is found. -/
def trainStep (r : Nat) : Nat := if r = 3 then 1 else if r = 4 then 2 else if r = 5 then 3 else if r = 6 then 6 else 7

/-- The lifetime record of a slot whose DIMM is another than before (R580). -/
def State.lifeDimm (s : State) (t : Nat) (d : DimmIn) : State :=
  let m := d.ident % 2 ^ 16
  let n := d.ident / 2 ^ 16 % 2 ^ 32
  if !d.read || (s.fget (LIFE_DIMM0.SPDMANUF t) == m && s.fget (LIFE_DIMM0.SPDSERIAL t) == n) then s
  else
    let s := ((s.fset (LIFE_DIMM0.SPDMANUF t) m).fset (LIFE_DIMM0.SPDSERIAL t) n).fcount (LIFE_DIMM1.SWAPS t) 1
    let s := (s.fset (LIFE_DIMM1.HOURS t) 0).fset (LIFE_DIMM2.CORR t) 0
    (s.fset (LIFE_DIMM3.MARKED t) 0).fset (LIFE_DIMM3.UNCORR t) 0

/-- Training step 1 has read the SPD of slot `t`. -/
def State.knowDimm (s : State) (t : Nat) (d : DimmIn) : State :=
  (s.lifeDimm t d).onMem fun m => { m with dimms := AMap.set none m.dimms t (some d) }

def State.dimmOf (s : State) (t : Nat) : Option DimmIn := AMap.get none s.mem.dimms t

/-! ### Where a burst lies in its channel (R304) -/

/-- A channel address split (R304). -/
structure DramAddr where
  byte : Nat
  /-- 0 subchannel A, 1 subchannel B -/
  sub : Nat
  col : Nat
  group : Nat
  bank : Nat
  rank : Nat
  row : Nat
deriving DecidableEq, Repr

/-- The number of binary digits of the ranks of a channel: those of its DIMMs in service, both dies of a stack of two. -/
def State.rankBits (s : State) (ch : Nat) : Nat :=
  let l := [0, 1].filterMap fun t => if bitOf (s.fget (MC_STAT.SLOTS ch)) t then s.dimmOf (2 * ch + t) else none
  Nat.log2 (max 1 ((l.map fun d => d.ranks * d.stack).sum))

/-- The split of a channel address: byte, subchannel, then column, bank group, bank, rank and row from low to high, the bank
group XORed with row bits [2:0]. The widths are those of JESD79-5, with eight bank groups of four banks: bursts in a row by the
device width (PRESUMED, log entry 131). -/
def State.dramAddr (s : State) (ch ca : Nat) : DramAddr :=
  let x4 := (((s.dimmOf (2 * ch)).orElse fun _ => s.dimmOf (2 * ch + 1)).map (·.width)).getD 4 == 4
  let w := if x4 then 7 else 6
  let a := ca / 2 ^ 7
  let b := a / 2 ^ w
  let c := b / 2 ^ 5
  let k := s.rankBits ch
  let row := c / 2 ^ k
  { byte := ca % 64, sub := ca / 64 % 2, col := a % 2 ^ w, group := (b % 8) ^^^ (row % 8), bank := b / 8 % 4
    rank := c % 2 ^ k, row := row }

/-- The rank of a channel address, by chip select: its slot × 2 + the rank of that DIMM (R72). -/
def State.rankAt (s : State) (ch ca : Nat) : Nat :=
  let r := (s.dramAddr ch ca).rank
  let t := if bitOf (s.fget (MC_STAT.SLOTS ch)) 0 then 2 * ch else 2 * ch + 1
  let per := (s.dimmOf t).map fun d => (d.ranks, d.stack)
  let (n, h) := per.getD (2, 1)
  (r / (max 1 (n * h)) % 2) * 2 + r % (max 1 (n * h)) / max 1 h

/-- Is a channel address of `ch` inside a mirrored region? -/
def State.mirroredAt (s : State) (ch ca : Nat) : Bool :=
  (List.range 16).any fun k =>
    let mask := s.fget (WEFT_MAPB.CHMASK 0 k)
    let n := (maskChans true mask).length
    let gib := (s.fget (WEFT_MAPB.LIMIT 0 k) + 1 - s.fget (WEFT_MAPA.BASE 0 k)) / n
    let off := s.fget (WEFT_MAPA.CHOFF 0 k)
    s.regionOk k && s.fbit (WEFT_MAPA.MIRROR 0 k) && bitOf mask ch
      && decide (off ≤ ca / 2 ^ 30) && decide (ca / 2 ^ 30 < off + gib)

/-- A corrected event of a device: an x4 device that reaches CETHR within an hour is marked failed (R313). -/
def State.countCe (s : State) (ch rank dev : Nat) : State :=
  let s := s.look
  let key := (ch * 8 + rank) * 32 + dev
  let l := ((AMap.get [] s.mem.ceHour key).filter fun t => s.tod < t + 3600 * 1000000 * 4096) ++ [s.tod]
  let s := s.onMem fun m => { m with ceHour := AMap.set [] m.ceHour key l }
  let thr := s.fget (MC_CTL.CETHR ch)
  let x4 := ((s.dimmOf (slotOfRank ch rank)).map (·.width)).getD 4 == 4
  if thr ≠ 0 ∧ thr ≤ l.length ∧ AMap.get 0 s.mem.marked (ch * 8 + rank) = 0 ∧ x4 then
    let s := s.onMem fun m => { m with marked := AMap.set 0 m.marked (ch * 8 + rank) (dev + 1) }
    let s := s.fcount (LIFE_DIMM3.MARKED (slotOfRank ch rank)) 1
    let s := s.fset (MC_STAT.MARKED ch) (setBitNat (s.fget (MC_STAT.MARKED ch)) (rank % 4) true)
    s.raiseC { loc := chanLoc 0x3 ch rank dev }
  else s

/-- A corrected sector (R312). -/
def State.eccCorrected (s : State) (ch ca rank dev : Nat) (scrub : Bool) : State :=
  let s := (s.fcount (if scrub then MC_ECC.SCRUBFIX ch else MC_ECC.CORR ch) 1).fcount (LIFE_DIMM2.CORR (slotOfRank ch rank)) 1
  (s.raiseC { loc := chanLoc 0x0 ch rank dev, d0 := ca }).countCe ch rank dev

/-- An uncorrectable sector (R312, R315): a mirrored one whose other copy is good, on a channel in service (R317), is read
from there and rewritten; else the poison pattern is written back and a contained-class fault recorded with the channel address. -/
def State.eccUncorrectable (s : State) (ch ca rank dev : Nat) (otherGood : Bool) : State :=
  if s.mirroredAt ch ca && s.fget (MC_STAT.STATE (partner ch)) == 1 && otherGood then
    let o := partner ch
    let s := s.onMem fun m => { m with
      dram := (upFrom (ca / 64 * 64) 64).foldl (fun d a => AMap.set 0 d (dramKey ch a) (AMap.get 0 m.dram (dramKey o a))) m.dram
      dramPoison := AMap.set false m.dramPoison (poisonKey ch ca) (AMap.get false m.dramPoison (poisonKey o ca)) }
    s.raiseC { loc := chanLoc 0x0 ch rank dev, d0 := ca }
  else
    let s := (s.fcount (MC_ECC.UNCORR ch) 1).fcount (LIFE_DIMM3.UNCORR (slotOfRank ch rank)) 1
    let s := (s.fset (MC_ERRADDR.ADDR ch) ca).fset (MC_ERRADDR.RANKDEV ch) (rank * 32 + dev)
    let both (m : MemState) : MemState :=
      let p := AMap.set false m.dramPoison (poisonKey ch ca) true
      { m with dramPoison := if s.mirroredAt ch ca && s.chanUp (partner ch) then AMap.set false p (poisonKey (partner ch) ca) true else p }
    (s.onMem both).raise { loc := chanLoc 0x7 ch rank dev, d0 := ca }

/-- In Drowse and Shutter every channel is in self-refresh (R49, R310). -/
def State.selfRefresh (s : State) : Bool := s.cur == 3 || s.cur == 4

/-- Does a controller work on bursts of the channel? -/
def State.bursts (s : State) (ch : Nat) : Bool := s.up && s.chanUp ch && !s.selfRefresh

/-- The outcome of reading the burst at `ca` (R312, R313): 0 clean, 1 corrected in device `dev`, 2 uncorrectable. In a rank with
a device marked failed, a second failing device is uncorrectable. -/
def State.burstRead (s : State) (ch ca dev outcome : Nat) (otherGood scrub : Bool) : State :=
  let rank := s.rankAt ch ca
  let m := AMap.get 0 s.mem.marked (ch * 8 + rank)
  if outcome = 2 ∨ (outcome = 1 ∧ m ≠ 0 ∧ m ≠ dev + 1) then s.eccUncorrectable ch ca rank dev otherGood
  else if outcome = 1 then s.eccCorrected ch ca rank dev scrub
  else s

/-! ### Ports and arbitration (R311) -/

/-- The urgency of a request: its age against its port's target; ports 5 and 6 have none. -/
def State.urgency (s : State) (mc : Nat) (r : McReq) : Nat :=
  let t := s.fget (MC_PORT.TARGET mc r.port)
  if r.port = 5 ∨ r.port = 6 then 0
  else if 2 * t < r.age then 3 else if t ≤ r.age then 2 else if t ≤ 2 * r.age then 1 else 0

/-- Does request `a` go before `b`: ports 5 and 6 after all others, then by urgency, by PRI, by age? -/
def State.before (s : State) (mc : Nat) (a b : McReq) : Bool :=
  let rank (r : McReq) : Nat :=
    (bnat (r.port != 5 && r.port != 6) * 4 + s.urgency mc r) * 16 + s.fget (MC_PORT.PRI mc r.port)
  decide (rank b < rank a ∨ (rank b = rank a ∧ b.age ≤ a.age))

/-- The request that controller `mc` grants next. -/
def State.granted (s : State) (mc : Nat) (l : List McReq) : Option McReq :=
  firstThat (fun a => l.all fun b => s.before mc a b) l

/-- DRAM_ACCESS: of the requests that wait at controller `mc`, the one it grants takes one burst of its channel. `outcome` 0
clean, 1 corrected in device `dev`, 2 uncorrectable; `otherGood` says whether the mirror's other copy can be corrected. A rank
in power-down is woken (R310). -/
def execDramAccess (mc : Nat) (req : McReq) (more : List McReq) (dev outcome : Nat) (otherGood : Bool) (s : State) : Res :=
  .next (match s.granted mc (req :: more) with
    | none => s
    | some r =>
      let ch := 2 * mc + r.l
      if s.bursts ch then
        let s := s.onMem fun m => { m with rankDown := AMap.erase (ch * 8 + s.rankAt ch r.ca) m.rankDown }
        s.burstRead ch r.ca dev outcome otherGood false
      else s)

/-! ### Refresh, temperature, power-down (R307–R310) -/

/-- REF.DEBT: the largest debt of any rank of the channel in tREFI, a part of one counted as one (DESIGN CHOICE, log
entry 132). -/
def State.updDebt (s : State) (ch : Nat) : State :=
  s.fset (MC_REF.DEBT ch) ((((List.range 8).map fun r => AMap.get 0 s.mem.refDebt (ch * 8 + r)).foldl max 0 + 3) / 4)

/-- The DIMM sensor of a channel reads `t` °C: DTEMP and the halved tREFI follow (R307). -/
def State.dimmTemp (s : State) (ch t : Nat) : State :=
  (s.fset (MC_STAT.DTEMP ch) (t + 64)).fsetB (MC_REF.HALVED ch) (decide (85 < t))

/-- The commands that a rank owing `n` REFsb is forced to (R307, R308): REFsb until it owes less than 4 tREFI; where these were
8 or more, REFab, each for four of them. -/
def forcedRefresh (n : Nat) : Nat × Nat :=
  let k := n - 15
  if k < 8 then (k, n - k) else ((k + 3) / 4, n - (k + 3) / 4 * 4)

/-- REFRESH_DUE: a tREFI of rank `rank` has elapsed, with its DIMM's sensor at `x.t` °C; `x.paid` REFsb were issued into idle bank
sets, and those that are forced follow, ahead of every port. -/
def execRefreshDue (ch rank : Nat) (x : RefreshIn) (s : State) : Res :=
  .next (if s.bursts ch then
    let s := s.dimmTemp ch x.t
    let (k, left) := forcedRefresh (AMap.get 0 s.mem.refDebt (ch * 8 + rank) + 4 - x.paid)
    let s := s.fcount (MC_STAT.FORCED ch) k
    let s := s.onMem fun m => { m with refDebt := AMap.set 0 m.refDebt (ch * 8 + rank) left }
    s.updDebt ch
  else s)

/-- Every rank has an all-bank refresh, at the entry and the exit of self-refresh (R308): four REFsb of its debt are paid. -/
def State.refreshAll (s : State) : State :=
  let s := s.onMem fun m => { m with refDebt := (m.refDebt.map fun e => (e.1, e.2 - 4)).filter fun e => e.2 != 0 }
  (List.range 24).foldl State.updDebt s

/-- DRAM_THERMAL_THROTTLE: above 95 °C the channel has half its transfer slots, with a corrected-class event (R309). -/
def execDramThermalThrottle (ch t : Nat) (s : State) : Res :=
  .next (if s.bursts ch && decide (95 < t) then
    let s := (s.dimmTemp ch t).onMem fun m => { m with halfRate := AMap.set false m.halfRate ch true }
    s.raiseC { loc := chanLoc 0x3 ch 0 0, d0 := t }
  else s)

/-- DRAM_THROTTLE_END: 90 °C or less for 1 s (R309). -/
def execDramThrottleEnd (ch t : Nat) (s : State) : Res :=
  .next (if s.up && decide (t ≤ 90) then
    (s.dimmTemp ch t).onMem fun m => { m with halfRate := AMap.erase ch m.halfRate }
  else s)

/-- RANK_POWER_DOWN: idle for PDT clocks; PDT = 0 turns it off (R310). -/
def execRankPowerDown (ch rank : Nat) (s : State) : Res :=
  .next (if s.bursts ch && s.fget (MC_CTL.PDT ch) != 0 then
    s.onMem fun m => { m with rankDown := AMap.set false m.rankDown (ch * 8 + rank) true }
  else s)

/-! ### Scrubbing (R314) -/

/-- PATROL_SCRUB_STEP: the scrubber of `ch` reads its next sector: clean, or `bad` in device `dev`,
corrected or `uncorr`ectable; `otherGood` as for DRAM_ACCESS. -/
def execPatrolScrubStep (ch dev : Nat) (bad uncorr otherGood : Bool) (s : State) : Res :=
  .next (if s.bursts ch && s.fbit (MC_CTL.SCRUBEN ch) then
    let ca := s.fget (MC_SCRUB.ADDR ch)
    let s := s.burstRead ch ca dev (if bad then if uncorr then 2 else 1 else 0) otherGood true
    if AMap.get 0 s.mem.chanGiB ch * 2 ^ 30 ≤ ca + 64 then
      (s.fset (MC_SCRUB.ADDR ch) 0).fcount (MC_SCRUB.PASSES ch) 1
    else s.fset (MC_SCRUB.ADDR ch) (ca + 64)
  else s)

/-- L3_SET_SCRUB of slice `sl` of die `d`: the set it reaches; `outcome` 0 clean, 1 corrected, 2 uncorrectable in
sector `sec` of that set (R270, R314). -/
def execL3SetScrub (d sl sec outcome : Nat) (s : State) : Res :=
  .next (if s.up && decide (d < 4 ∧ sl < 16) then
    let set := AMap.get 0 s.mem.l3scrub (d * 16 + sl)
    let s := s.onMem fun m => { m with l3scrub := AMap.set 0 m.l3scrub (d * 16 + sl) ((set + 1) % 1024) }
    let loc (a : Nat) : Nat := locCode a d (16 + sl) 0x10
    let here := AMap.get 0 s.mem.l3 sec
    if here = 0 ∨ sliceOf (sec * 64) ≠ sl ∨ bitsOf (sec * 64) 21 12 ≠ set then s
    else if outcome = 1 then s.raiseC { loc := loc 0x0, d0 := sec * 64 }
    else if outcome = 2 then
      if here = 1 then (s.l3Drop sec).raiseC { loc := loc 0x0, d0 := sec * 64 }
      else (s.setHomePois sec true).raise { loc := loc 0x7, d0 := sec * 64 }
    else s
  else s)

/-! ### Hot replacement (R316, R317) -/

/-- Is a channel named by a valid region that is not mirrored? -/
def State.unmirrored (s : State) (ch : Nat) : Bool :=
  (List.range 16).any fun k => s.regionOk k && !s.fbit (WEFT_MAPA.MIRROR 0 k) && bitOf (s.fget (WEFT_MAPB.CHMASK 0 k)) ch

/-- Does a replacement run on the controller of a channel? -/
def State.replacing (s : State) (ch : Nat) : Bool :=
  [ch, partner ch].any fun c => 3 ≤ s.fget (MC_STAT.STATE c)

/-- REMOVE of slot `t` of channel `ch` (R316 steps 1 to 3). -/
def State.chRemove (s : State) (ch t : Nat) : State :=
  let o := partner ch
  if s.unmirrored ch || s.fget (MC_STAT.STATE o) != 1 || s.fget (MC_STAT.STATE ch) != 1 || s.replacing ch then
    s.fset (MC_STAT.RESULT ch) 2
  else
    let s := (s.fset (MC_STAT.STATE o) 2).fset (MC_STAT.STATE ch) 3
    let s := (s.fset (MC_STAT.SLOTS ch) (setBitNat (s.fget (MC_STAT.SLOTS ch)) t false)).fset (MC_STAT.RESULT ch) 1
    { s with pins := { s.pins with dimmPwr := AMap.set false s.pins.dimmPwr (2 * ch + t) false
                                   ddrResetN := AMap.set false s.pins.ddrResetN ch false } }
def execChRemove (ch t : Nat) (s : State) : Res :=
  .next (if s.up && decide (ch < 24 ∧ t < 2) then s.chRemove ch t else s)

/-- The enables of the slots of a channel and its reset, as a training leaves them (R86). -/
def State.slotPower (s : State) (ch : Nat) (on : Nat → Bool) (out : Bool) : State :=
  { s with pins := { s.pins with
    dimmPwr := [0, 1].foldl (fun p t => AMap.set false p (2 * ch + t) (on t)) s.pins.dimmPwr
    ddrResetN := AMap.set false s.pins.ddrResetN ch out } }

/-- INSERT on channel `ch` (R316 steps 5 to 7): training steps 1 to 6 of R306 on the DIMMs `l` in its slots. A pass rebuilds the
channel; at a failure it stays OUT with the cause in RESULT, and the failing DIMM is taken out of service (R301, R317). The
training ends with the command, and TRAINING is not seen (log entry 133). -/
def State.chInsert (s : State) (ch : Nat) (l : List DimmIn) : State :=
  if s.fget (MC_STAT.STATE ch) ≠ 3 then s.fset (MC_STAT.RESULT ch) 2
  else
    let o := partner ch
    let theirs := [2 * o, 2 * o + 1].filterMap fun t => if bitOf (s.fget (MC_STAT.SLOTS o)) (t % 2) then s.dimmOf t else none
    let mine := [2 * ch, 2 * ch + 1].filterMap fun t => (dimmAt l t).map fun d => { d with fill := true }
    let got := [0, 1].filterMap fun t =>
      (dimmCheck mine (population mine ch ≠ population theirs o) (2 * ch + t)).map fun x => (t, x)
    let s := got.foldl (fun (s : State) x => s.knowDimm (2 * ch + x.1) x.2.1) s
    let bad := got.filter fun x => x.2.2 != 1
    let s := bad.foldl (fun (s : State) x => s.raise { loc := chanLoc 0x6 ch (2 * x.1) 0 }) s
    let on (t : Nat) : Bool := got.any fun x => x.1 == t && x.2.2 == 1
    let mask := bnat (on 0) + 2 * bnat (on 1)
    let r := if got.isEmpty then 3 else match bad.getLast? with
      | some x => x.2.2
      | none => 1
    let s := ((s.slotPower ch on (r == 1)).fset (MC_STAT.RESULT ch) r).fset (MC_STAT.SLOTS ch) mask
    if r = 1 then
      let s := s.onMem fun m => { m with chanGiB := AMap.set 0 m.chanGiB ch ((mine.map (·.gib)).sum) }
      (s.fset (MC_STAT.STATE ch) 5).fset (MC_STAT.STEP ch) 6
    else s.fset (MC_STAT.STEP ch) (trainStep r)
def execChInsert (ch : Nat) (l : List DimmIn) (s : State) : Res :=
  .next (if s.up && decide (ch < 24) then s.chInsert ch l else s)

/-- What INSERT finds where its write carries no DIMMs: those whose SPD was read last, with a free identity and outcome (log
entry 1). -/
def State.freeDimms (s : State) (ch : Nat) : State × List DimmIn :=
  [2 * ch, 2 * ch + 1].foldl (fun (acc : State × List DimmIn) t =>
    match acc.1.dimmOf t with
    | none => acc
    | some d =>
      let (w, s) := acc.1.draw
      (s, acc.2 ++ [{ d with ident := w.toNat % 2 ^ 48, read := w.getLsbD 48, rdimm := w.getLsbD 49, power := w.getLsbD 50
                             train := w.getLsbD 51 }])) (s, [])

/-- REBUILD_DONE of channel `ch` (R316 steps 7 and 8): every mirrored sector, poison included, has been copied from the
partner; both channels are IN_SERVICE. -/
def execRebuildDone (ch : Nat) (s : State) : Res :=
  .next (if s.up && s.fget (MC_STAT.STATE ch) == 5 then
    let o := partner ch
    let s := s.onMem fun m =>
      let mine := m.dram.filter fun e => e.1 / 2 ^ 40 == o && s.mirroredAt o (e.1 % 2 ^ 40)
      let pois := m.dramPoison.filter fun e => e.1 / 2 ^ 34 == o && s.mirroredAt o (e.1 % 2 ^ 34 * 64)
      { m with
        dram := mine.foldl (fun d e => AMap.set 0 d (dramKey ch (e.1 % 2 ^ 40)) e.2)
                  (AMap.keep (fun k => !(k / 2 ^ 40 == ch && s.mirroredAt ch (k % 2 ^ 40))) m.dram)
        dramPoison := pois.foldl (fun d e => AMap.set false d (ch * 2 ^ 34 + e.1 % 2 ^ 34) e.2)
                  (AMap.keep (fun k => !(k / 2 ^ 34 == ch && s.mirroredAt ch (k % 2 ^ 34 * 64))) m.dramPoison) }
    let s := (s.fset (MC_STAT.STATE ch) 1).fset (MC_STAT.STATE o) 1
    (s.fset (MC_STAT.DONE ch) 1).fset (MC_STAT.RESULT ch) 1
  else s)

end Sys2Proof.Machine
end

