-- ==== Sys2Proof/Machine/Aes.lean ====
section
/-! DEFINITION. The ciphers of R501 under their standards: AES-128 and AES-256 (FIPS 197), XTS (IEEE 1619), GCM
(SP 800-38D), CMAC (SP 800-38B) and the derivation of R507 (SP 800-108). Bytes are numbers below 256.
18_cloak_cipher.md. -/

namespace Sys2Proof.Machine

/-- The AES S-box in rows of 32 bytes, byte 0 of a row lowest. -/
def aesSbox : List Nat := [
   0xc072a49cafa2d4adf04759fa7dc982ca76abd7fe2b670130c56f6bf27b777c63,
   0x75b227ebe28012079a059618c323c7041531d871f1e5a534ccf73f362693fdb7,
   0xcf584c4a39becb6a5bb1fc20ed00d153842fe329b3d63b52a05a6e1b1a2c8309,
   0xd2f3ff1021dab6bcf5389d928f40a351a89f3c507f02f94585334d43fbaaefd0,
   0xdb0b5ede14b8ee4688902a22dc4f816073195d643d7ea7c41744975fec130ccd,
   0x08ae7a65eaf4566ca94ed58d6d37c8e779e4959162acd3c25c2406490a3a32e0,
   0x9e1dc186b95735610ef6034866b53e708a8bbd4b1f74dde8c6b4a61c2e2578ba,
   0x16bb54b00f2d99416842e6bf0d89a18cdf2855cee9871e9b948ed9691198f8e1]

/-- The inverse S-box, in the same form. -/
def aesInvSbox : List Nat := [
   0xcbe9dec444438e3487ff2f9b8239e37cfbd7f3819ea340bf38a53630d56a0952,
   0x25d18b6d49a25b76b224d92866a12e084ec3fa420b954cee3d23c2a632947b54,
   0x849d8da75746155edab9edfd5048706c92b6655dcc5ca4d41698688664f6f872,
   0x6b8a130103bdafc1020f3fca8f1e2cd00645b3b80558e4f70ad3bc8c00abd890,
   0x6edf751ce837f9e28535ade72274ac9673e6b4f0cecff297eadc674f4111913a,
   0xf45acd78fec0db9a2079d2c64b3e56fc1bbe18aa0e62b76f89c5291d711af147,
   0xef9cc9939f7ae52d0d4ab519a97f51605fec8027591012b131c7078833a8dd1f,
   0x7d0c2155631469e126d677ba7e042b17619953833cbbebc8b0f52aae4d3be0a0]

/-- Entry `b` of a box. -/
def boxAt (t : List Nat) (b : Nat) : Nat := t.getD (b / 32 % 8) 0 / 2 ^ (8 * (b % 32)) % 256

/-- Multiplication by x in the AES field. -/
def xtime (a : Nat) : Nat := if 128 ≤ a then ((2 * a) % 256) ^^^ 0x1B else 2 * a

/-- Multiplication in the AES field by the small constant `k`, 0 to 15. -/
def gmul (k a : Nat) : Nat :=
  let a1 := xtime a
  let a2 := xtime a1
  let a3 := xtime a2
  ((if bitOf k 0 then a else 0) ^^^ (if bitOf k 1 then a1 else 0)) ^^^
    ((if bitOf k 2 then a2 else 0) ^^^ (if bitOf k 3 then a3 else 0))

/-- Exclusive or of byte lists. -/
def xorBytes (a b : List Nat) : List Nat := List.zipWith (fun x y => x ^^^ y) a b

/-- Cut a list into pieces of `k`; the last may be shorter. `n` bounds the number of pieces. -/
def piecesOf {α : Type} (k : Nat) : Nat → List α → List (List α)
  | 0, _ => []
  | _, [] => []
  | n + 1, l => l.take k :: piecesOf k n (l.drop k)

/-- The 16-byte blocks of a byte list. -/
def blocks16 (l : List Nat) : List (List Nat) := piecesOf 16 (l.length / 16 + 1) l

/-- A key schedule: the round keys of 16 bytes each. -/
abbrev KeySched := List (List Nat)

/-- The next word of the key expansion, from the words so far, newest first. -/
def aesNextWord (nk : Nat) (ws : List (List Nat)) : List Nat :=
  let i := ws.length
  let t := ws.headD []
  let t := if i % nk = 0 then
      let r := ((t.drop 1) ++ (t.take 1)).map (boxAt aesSbox)
      let rc := (List.range (i / nk - 1)).foldl (fun x _ => xtime x) 1
      xorBytes r [rc, 0, 0, 0]
    else if nk = 8 ∧ i % nk = 4 then t.map (boxAt aesSbox)
    else t
  xorBytes (ws.getD (nk - 1) []) t

/-- Key expansion of a 16-byte or 32-byte key. -/
def aesExpand (key : List Nat) : KeySched :=
  let nk := key.length / 4
  let ws := (piecesOf 4 nk key).reverse
  let ws := (List.range (4 * (nk + 7) - nk)).foldl (fun ws _ => aesNextWord nk ws :: ws) ws
  piecesOf 16 (nk + 7) ws.reverse.flatten

/-- ShiftRows by `d` columns a row: 1 forward, 3 inverse. -/
def shiftRows (d : Nat) (s : List Nat) : List Nat :=
  (List.range 16).map fun i => s.getD (i % 4 + 4 * ((i / 4 + d * (i % 4)) % 4)) 0

/-- MixColumns with the coefficients of one row of its matrix. -/
def mixColumns (co : List Nat) (s : List Nat) : List Nat :=
  (List.range 16).map fun i =>
    (List.range 4).foldl (fun x j => x ^^^ gmul (co.getD ((j + 4 - i % 4) % 4) 0) (s.getD (i / 4 * 4 + j) 0)) 0

/-- AES encryption of one block. -/
def aesEnc (ks : KeySched) (b : List Nat) : List Nat :=
  match ks with
  | [] => b
  | k0 :: rest =>
    let mid := rest.dropLast
    let s := mid.foldl (fun s k => xorBytes (mixColumns [2, 3, 1, 1] (shiftRows 1 (s.map (boxAt aesSbox)))) k) (xorBytes b k0)
    xorBytes (shiftRows 1 (s.map (boxAt aesSbox))) (rest.getLastD [])

/-- AES decryption of one block. -/
def aesDec (ks : KeySched) (b : List Nat) : List Nat :=
  match ks.reverse with
  | [] => b
  | kn :: rest =>
    let mid := rest.dropLast
    let un (s : List Nat) : List Nat := (shiftRows 3 s).map (boxAt aesInvSbox)
    let s := mid.foldl (fun s k => mixColumns [14, 11, 13, 9] (xorBytes (un s) k)) (xorBytes b kn)
    xorBytes (un s) (rest.getLastD [])

/-! ### XTS (IEEE 1619) -/

/-- Bytes of a number, least significant first. -/
def leNats : Nat → Nat → List Nat
  | 0, _ => []
  | k + 1, n => n % 256 :: leNats k (n / 256)

/-- The number of bytes, least significant first. -/
def natOfLe (l : List Nat) : Nat := l.foldr (fun b n => b + 256 * n) 0

/-- Bytes of a number, most significant first. -/
def beNats (k n : Nat) : List Nat := (leNats k n).reverse

/-- The number of bytes, most significant first. -/
def natOfBe (l : List Nat) : Nat := natOfLe l.reverse

/-- The next block's tweak: multiplication by α. -/
def xtsNext (t : List Nat) : List Nat :=
  let n := 2 * natOfLe t
  leNats 16 (if n < 2 ^ 128 then n else (n % 2 ^ 128) ^^^ 0x87)

/-- The tweaks of `n` blocks. -/
def xtsTweaks : Nat → List Nat → List (List Nat)
  | 0, _ => []
  | n + 1, t => t :: xtsTweaks n (xtsNext t)

/-- One XTS data unit of at least 16 bytes with ciphertext stealing; `f` enciphers or deciphers a block with the
data key. -/
def xtsUnit (f : List Nat → List Nat) (enc : Bool) (tweak0 : List Nat) (d : List Nat) : List Nat :=
  let one (t b : List Nat) : List Nat := xorBytes (f (xorBytes b t)) t
  let m := d.length / 16
  let rest := d.drop (16 * m)
  let ts := xtsTweaks (m + 1) tweak0
  let bs := blocks16 (d.take (16 * m))
  if rest.isEmpty then (List.zipWith one ts bs).flatten
  else
    let head := (List.zipWith one ts (bs.take (m - 1))).flatten
    let ta := ts.getD (if enc then m - 1 else m) []
    let tb := ts.getD (if enc then m else m - 1) []
    let c := one ta (bs.getD (m - 1) [])
    let last := one tb (rest ++ c.drop rest.length)
    head ++ last ++ c.take rest.length

/-- XTS over data units of `du` bytes (0: one unit) from tweak `tw` on, modulo 2^128 (R502). -/
def xtsAll (k1 k2 : List Nat) (enc : Bool) (du tw : Nat) (d : List Nat) : List Nat :=
  let s1 := aesExpand k1
  let s2 := aesExpand k2
  let f := if enc then aesEnc s1 else aesDec s1
  let us := piecesOf (if du = 0 then d.length else du) d.length d
  (List.zipWith (fun j u => xtsUnit f enc (aesEnc s2 (leNats 16 ((tw + j) % 2 ^ 128))) u) (List.range us.length) us).flatten

/-! ### GCM (SP 800-38D) -/

/-- Multiplication in the GCM field; blocks as numbers, the first byte most significant. -/
def gcmMul (x y : Nat) : Nat :=
  ((List.range 128).foldl (fun (zv : Nat × Nat) i =>
    let z := if bitOf x (127 - i) then zv.1 ^^^ zv.2 else zv.1
    let v := if zv.2 % 2 = 1 then (zv.2 / 2) ^^^ 0xE1000000000000000000000000000000 else zv.2 / 2
    (z, v)) (0, y)).1

/-- GHASH of a byte list padded to blocks. -/
def ghash (h : Nat) (d : List Nat) : Nat :=
  (blocks16 d).foldl (fun y b => gcmMul (y ^^^ natOfBe (b ++ List.replicate (16 - b.length) 0)) h) 0

/-- Zero padding to a multiple of 16 bytes. -/
def pad16 (d : List Nat) : List Nat := d ++ List.replicate ((16 - d.length % 16) % 16) 0

/-- The counter-mode stream applied to `d`, from the counter block after `j0`. -/
def gcmCtr (ks : KeySched) (j0 : Nat) (d : List Nat) : List Nat :=
  let bs := blocks16 d
  (List.zipWith (fun i b =>
    let c := j0 / 2 ^ 32 * 2 ^ 32 + (j0 + 1 + i) % 2 ^ 32
    xorBytes b (aesEnc ks (beNats 16 c))) (List.range bs.length) bs).flatten

/-- The tag of a ciphertext with its additional data; `iv` is the 96-bit IV. -/
def gcmTag (ks : KeySched) (iv : Nat) (aad c : List Nat) : List Nat :=
  let h := natOfBe (aesEnc ks (List.replicate 16 0))
  let y := ghash h (pad16 aad ++ pad16 c ++ beNats 8 (8 * aad.length) ++ beNats 8 (8 * c.length))
  xorBytes (beNats 16 y) (aesEnc ks (beNats 16 (iv * 2 ^ 32 + 1)))

/-- GCM seal: the ciphertext and the tag. -/
def gcmSeal (key : List Nat) (iv : Nat) (aad p : List Nat) : List Nat × List Nat :=
  let ks := aesExpand key
  let c := gcmCtr ks (iv * 2 ^ 32 + 1) p
  (c, gcmTag ks iv aad c)

/-- GCM open: the plaintext, where the tag agrees. -/
def gcmOpen (key : List Nat) (iv : Nat) (aad c tag : List Nat) : Option (List Nat) :=
  let ks := aesExpand key
  if gcmTag ks iv aad c = tag then some (gcmCtr ks (iv * 2 ^ 32 + 1) c) else none

/-! ### CMAC (SP 800-38B) and derivation (R507) -/

/-- Doubling in the CMAC field. -/
def cmacDbl (n : Nat) : Nat := if n < 2 ^ 127 then 2 * n else (2 * n % 2 ^ 128) ^^^ 0x87

/-- The 128-bit MAC of a byte list. -/
def cmac (key d : List Nat) : List Nat :=
  let ks := aesExpand key
  let k1 := cmacDbl (natOfBe (aesEnc ks (List.replicate 16 0)))
  let n := (d.length + 15) / 16
  let full := d.length ≠ 0 ∧ d.length % 16 = 0
  let m := if n = 0 then 1 else n
  let last := d.drop (16 * (m - 1))
  let lastB := if full then xorBytes last (beNats 16 k1)
    else xorBytes (last ++ 0x80 :: List.replicate (15 - last.length) 0) (beNats 16 (cmacDbl k1))
  let x := (blocks16 (d.take (16 * (m - 1)))).foldl (fun x b => aesEnc ks (xorBytes x b)) (List.replicate 16 0)
  aesEnc ks (xorBytes x lastB)

/-- The derivation of R507: `bits` bits of key from the owner root key and a 32-byte label. -/
def deriveKey (root label : List Nat) (bits : Nat) : List Nat :=
  ((List.range (bits / 128)).map fun i =>
    cmac root (beNats 4 (i + 1) ++ label ++ 0 :: beNats 4 bits)).flatten

end Sys2Proof.Machine
end

