-- ==== Sys2Proof/Machine/HubMem.lean ====
section
/-! DEFINITION. Memory of a partition as the Hub's agents reach it: stage 2 translation of partition-real addresses,
reads and writes of partition-real ranges (R263, R348, R355, R357, R492), and module-physical ranges of firmware
commands. -/

namespace Sys2Proof.Machine

/-- The triad as a Hub agent for a partition (R630): tile 0xFF, unit 0x04. -/
def triadFor (n : Nat) : HubAgent := { part := some n, tile := 0xFF, unit := 0x04 }

/-- The triad acting for no partition. -/
def triadHub : HubAgent := { part := none, tile := 0xFF, unit := 0x04 }

/-- What became of an access of a Hub agent: done with its bytes, a translation fault, poison, or an address outside
the Hem windows of its partition (R357). -/
inductive HubRes where
  | done (bs : List Byte)
  | fault
  | poison
  | outside
  /-- the DRAM of a Weft die that is lost (R363) -/
  | lost
deriving DecidableEq, Repr

/-- The stage 2 translation of `pr` for partition `n` by a Hub agent (R108, R348): the address and memory type. The
module sets ACC and DIRTY in the leaf it uses (R113). -/
def State.hub2 (s : State) (h : HubAgent) (n pr : Nat) (acc : Acc) : State × Option (Nat × Nat) :=
  if !s.fbit (PART_ROOT2.VALID n) || decide (2 ^ 46 ≤ pr) then (s, none)
  else
    let w : HubAgent := { h with part := none }
    let rd (s : State) (mp _lvl : Nat) : Out (Nat × Nat) :=
      let no (s : State) : Out (Nat × Nat) := .exc s (xfault .two acc pr pr 0x0A 0)
      if walkForbidden mp then no s
      else
        let (s, bs, po) := s.hubRead w mp 8
        if po then no s else .ok s (leNat bs, mp)
    match walkFrom rd .two acc pr pr pr 4 0 (s.fget (PART_ROOT2.TABLE n) * 4096) s with
    | .exc s _ | .gone s => (s, none)
    | .ok s l =>
      if (acc.r && !bitOf l.entry 4) || (acc.w && !bitOf l.entry 5) then (s, none)
      else
        let e := (l.entry ||| 256) ||| (if acc.w then 512 else 0)
        let s := if e = l.entry then s else s.hubWrite w l.at_ (leBytes 8 e)
        (s, some (l.frame + pr % 2 ^ l.bits, pteAttr l.entry))

/-- The pieces of a partition-real range by 4 KiB page: first address and length. -/
def pagePieces (a n : Nat) : List (Nat × Nat) :=
  if n = 0 then []
  else (upFrom (a / 4096) ((a + n - 1) / 4096 - a / 4096 + 1)).map fun p =>
    let lo := max a (p * 4096)
    (lo, min (a + n) (p * 4096 + 4096) - lo)

/-- Does partition `n` own the window byte at `mp` (R399, R400)? -/
def State.ownsWin (s : State) (n mp : Nat) : Bool := spaceOf mp == .window && s.mayReach (some n) mp

/-- Read `k` bytes of partition `n` at `pr` by a Hub agent. `maxAttr` is the highest memory type allowed; `vital` asks
that every byte lie in the windows that `n` owns (R357). -/
def State.hubReadPR (s : State) (h : HubAgent) (n pr k maxAttr : Nat) (vital : Bool) : State × HubRes :=
  (pagePieces pr k).foldl (fun acc pc =>
    match acc with
    | (s, .done bs) =>
      (match s.hub2 h n pc.1 accLoad with
        | (s, none) => (s, .fault)
        | (s, some (mp, attr)) =>
          if maxAttr < attr then (s, .fault)
          else if vital && !s.ownsWin n mp then (s, .outside)
          else if (s.place mp).isSome && !s.served mp then (s, .lost)
          else
            let (s, b, po) := s.hubRead h mp pc.2
            if po then (s, .poison) else (s, .done (bs ++ b)))
    | r => r) (s, .done [])

/-- May a Hub agent write `k` bytes of partition `n` at `pr`: the first failure of the checks made before any access (R355–R357)? -/
def State.hubCheckW (s : State) (h : HubAgent) (n pr k maxAttr : Nat) (vital : Bool) : State × HubRes :=
  (pagePieces pr k).foldl (fun acc pc =>
    match acc with
    | (s, .done _) =>
      (match s.hub2 h n pc.1 accStore with
        | (s, none) => (s, .fault)
        | (s, some (mp, attr)) =>
          if maxAttr < attr then (s, .fault) else if vital && !s.ownsWin n mp then (s, .outside) else (s, .done []))
    | r => r) (s, .done [])

/-- Write bytes of partition `n` at `pr` by a Hub agent: nothing is written unless every page translates with W = 1
and every address is taken (R305, R348, R400). -/
def State.hubWritePR (s : State) (h : HubAgent) (n pr : Nat) (bs : List Byte) (maxAttr : Nat) (vital : Bool) :
    State × HubRes :=
  let go := (pagePieces pr bs.length).foldl (fun (acc : State × HubRes × List (Nat × Nat × Nat)) pc =>
    match acc with
    | (s, .done _, ws) =>
      (match s.hub2 h n pc.1 accStore with
        | (s, none) => (s, .fault, ws)
        | (s, some (mp, attr)) =>
          if maxAttr < attr then (s, .fault, ws)
          else if vital && !s.ownsWin n mp then (s, .outside, ws)
          else if !s.mayReach h.part mp || !s.served mp then (s.hubFault h.part h.tile h.unit mp, .poison, ws)
          else (s, .done [], ws ++ [(pc.1, mp, pc.2)]))
    | r => r) (s, .done [], [])
  match go with
  | (s, .done _, ws) =>
    (ws.foldl (fun s w => s.hubWrite h w.2.1 ((bs.drop (w.1 - pr)).take w.2.2)) s, .done [])
  | (s, r, _) => (s, r)

/-- Read of a Hub agent at an address of its submitter: partition-real for a partition, module-physical for the
firmware (R492, R515). -/
def State.opRead (s : State) (h : HubAgent) (a k : Nat) : State × HubRes :=
  match h.part with
  | some n => s.hubReadPR h n a k 1 false
  | none =>
    let (s, b, po) := s.hubRead h a k
    (s, if po then .poison else .done b)

/-- Write of a Hub agent at an address of its submitter. -/
def State.opWrite (s : State) (h : HubAgent) (a : Nat) (bs : List Byte) : State × HubRes :=
  match h.part with
  | some n => s.hubWritePR h n a bs 1 false
  | none =>
    if (sectorPieces a bs.length).all fun pc => s.served pc.2.1 then (s.hubWrite h a bs, .done [])
    else (s.hubFault none h.tile h.unit a, .poison)

end Sys2Proof.Machine
end

