-- ==== Sys2Proof/Machine/Engines.lean ====
section
/-! DEFINITION. What Pleat and Cloak share: memory-to-memory commands, their submission, status records and ends, and
the units that carry them out (17_pleat_compression.md, R492–R498; 18_cloak_cipher.md, R513–R519). -/

namespace Sys2Proof.Machine

/-- Change the engine part of the state. -/
def State.onEng (s : State) (f : EngineState → EngineState) : State := { s with eng := f s.eng }

/-- Which of the two kinds of engine. -/
inductive EngKind where
  | pleat | cloak
deriving DecidableEq, Repr

/-- Unit `u` of a kind as a Hub agent for a submitter (R27, R548). -/
def EngKind.agent (k : EngKind) (u : Nat) (part : Option Nat) : HubAgent :=
  match k with
  | .pleat => { part := part, tile := u / 8, unit := u % 8 }
  | .cloak => { part := part, tile := 8 + u / 8, unit := u % 8 }

/-- How many units a kind has. -/
def EngKind.count (k : EngKind) : Nat :=
  match k with
  | .pleat => 32
  | .cloak => 64

def EngKind.state (k : EngKind) (u : Nat) : Field :=
  match k with
  | .pleat => PLEAT_ENG.STATE u
  | .cloak => CLOAK_LANE.STATE u
def EngKind.mismatch (k : EngKind) (u : Nat) : Field :=
  match k with
  | .pleat => PLEAT_ENG.MISMATCH u
  | .cloak => CLOAK_LANE.MISMATCH u
def EngKind.total (k : EngKind) : Field :=
  match k with
  | .pleat => PLEAT_STAT.VERIFYFAIL
  | .cloak => CLOAK_STAT.CHECKFAIL
def EngKind.up (k : EngKind) : Field :=
  match k with
  | .pleat => PLEAT_STAT.ENGUP
  | .cloak => CLOAK_LANEUP.LANEUP
def EngKind.en (k : EngKind) : Field :=
  match k with
  | .pleat => PLEAT_CTL.EN
  | .cloak => CLOAK_CTL.EN
/-- Units guaranteed to waiting commands: M2MMIN (R482, R514). -/
def EngKind.m2mMin (k : EngKind) : Field :=
  match k with
  | .pleat => PLEAT_CTL.M2MMIN
  | .cloak => CLOAK_CTL.M2MMIN
def EngKind.queued (k : EngKind) : Field :=
  match k with
  | .pleat => PLEAT_STAT.QUEUED
  | .cloak => CLOAK_STAT.QUEUED
def EngKind.result (k : EngKind) (p : Option Nat) : Field :=
  match k, p with
  | .pleat, none => PLEAT_FWRES.RESULT
  | .pleat, some n => PART_PLEATRES.RESULT n
  | .cloak, none => CLOAK_FWRES.RESULT
  | .cloak, some n => PART_CLOAKRES.RESULT n
def EngKind.opened (k : EngKind) (p : Option Nat) : Field :=
  match k, p with
  | .pleat, none => PLEAT_FWRES.OPEN
  | .pleat, some n => PART_PLEATRES.OPEN n
  | .cloak, none => CLOAK_FWRES.OPEN
  | .cloak, some n => PART_CLOAKRES.OPEN n

/-- The queue of a kind. -/
def State.engQ (s : State) (k : EngKind) : List EngCmd :=
  match k with
  | .pleat => s.eng.pleatQ
  | .cloak => s.eng.cloakQ

/-- Set the queue of a kind, and its QUEUED count. -/
def State.setEngQ (s : State) (k : EngKind) (q : List EngCmd) : State :=
  (s.onEng fun e => match k with
    | .pleat => { e with pleatQ := q }
    | .cloak => { e with cloakQ := q }).fset k.queued q.length

/-- Submissions that wait for a place. -/
def State.engWait (s : State) (k : EngKind) : List EngCmd :=
  match k with
  | .pleat => s.eng.pleatWait
  | .cloak => s.eng.cloakWait
def State.setEngWait (s : State) (k : EngKind) (q : List EngCmd) : State :=
  s.onEng fun e => match k with
    | .pleat => { e with pleatWait := q }
    | .cloak => { e with cloakWait := q }

/-! ### Units (R488, R498, R513, R519) -/

/-- Is a unit in service? -/
def State.unitUp (s : State) (k : EngKind) (u : Nat) : Bool := decide (u < k.count) && bitOf (s.fget k.up) u

/-- A unit becomes OUT: a corrected-class event of action 0x2 (R549). -/
def State.unitOut (s : State) (k : EngKind) (u : Nat) : State :=
  let s := (s.fset (k.state u) 2).fset k.up (setBitNat (s.fget k.up) u false)
  let a := k.agent u none
  s.raiseC { loc := locCode 0x2 4 a.tile a.unit }

/-- A failed comparison or check of unit `u` (R488, R513): counted and recorded; two within an hour take it out. -/
def State.unitFail (s : State) (k : EngKind) (u : Nat) : State :=
  let s := s.look
  let a := k.agent u none
  let s := ((s.fcount (k.mismatch u) 1).fcount k.total 1).raiseC { loc := locCode 0x1 4 a.tile a.unit }
  let old := match k with
    | .pleat => AMap.get [] s.eng.pleatFails u
    | .cloak => AMap.get [] s.eng.cloakFails u
  let l := (old.filter fun t => s.tod < t + 3600 * 1000000 * 4096) ++ [s.tod]
  let s := s.onEng fun e => match k with
    | .pleat => { e with pleatFails := AMap.set [] e.pleatFails u l }
    | .cloak => { e with cloakFails := AMap.set [] e.cloakFails u l }
  if 2 ≤ l.length then s.unitOut k u else s

/-- The unit a failed piece of work runs on again: one of another group, or of the same group when no other is in
service. -/
def State.otherUnit (s : State) (k : EngKind) (u : Nat) : Nat :=
  let l := (List.range k.count).filter fun v => v ≠ u && s.unitUp k v
  ((firstThat (fun v => v / 8 != u / 8) l).orElse fun _ => l.head?).getD u

/-- The failures of a piece of work that starts on unit `u`: `bad` of its comparisons fail. The second part says
whether the work ends without a verified result. -/
def State.runChecks (s : State) (k : EngKind) (u bad : Nat) : State × Bool :=
  if bad = 0 then (s, false)
  else
    let s := s.unitFail k u
    if bad = 1 then (s, false) else (s.unitFail k (s.otherUnit k u), true)

/-- OP 2 of a unit: out of service. -/
def State.unitTakeOut (s : State) (k : EngKind) (u : Nat) : State :=
  if s.unitUp k u then (s.fset (k.state u) 2).fset k.up (setBitNat (s.fget k.up) u false) else s

/-- A Unit reset of a unit: it returns to IDLE after its self-test, and stays OUT where that fails (R498). -/
def State.unitReset (s : State) (k : EngKind) (u : Nat) (pass : Bool) : State :=
  let s := s.onEng fun e => match k with
    | .pleat => { e with pleatFails := AMap.erase u e.pleatFails }
    | .cloak => { e with cloakFails := AMap.erase u e.cloakFails }
  (s.fset (k.state u) (if pass then 0 else 2)).fset k.up (setBitNat (s.fget k.up) u pass)

/-! ### Commands (R492, R494, R495, R496, R515) -/

/-- Word at offset `o` of a command block. -/
def EngCmd.word (c : EngCmd) (o : Nat) : Nat := le64 c.block o
where le64 (b : List Nat) (o : Nat) : Nat := ((b.drop o).take 8).foldr (fun x n => x + 256 * n) 0

def EngCmd.ctl (c : EngCmd) : Nat := c.word 0
def EngCmd.op (c : EngCmd) : Nat := c.ctl % 16
def EngCmd.src (c : EngCmd) : Nat := c.word 8
def EngCmd.srclen (c : EngCmd) : Nat := c.word 16 % 2 ^ 32
def EngCmd.dst (c : EngCmd) : Nat := c.word 24
def EngCmd.status (c : EngCmd) : Nat := c.word 56
def EngCmd.colsrc (c : EngCmd) : Nat := bitsOf c.ctl 47 32
/-- SIG: bit 17 for Pleat, bit 28 for Cloak. -/
def EngCmd.sig (k : EngKind) (c : EngCmd) : Bool :=
  match k with
  | .pleat => bitOf c.ctl 17
  | .cloak => bitOf c.ctl 28

/-- May a submitter name a Collar source (R235, R494)? The firmware any source, a partition a software source of a
group it owns. -/
def State.maySig (s : State) (part : Option Nat) (src : Nat) : Bool :=
  match part with
  | none => sourceKnown src
  | some n => isSw src && s.srcOwner src == some n

/-- A submission that a place is free for (R495): its result goes to the submitter's RES register. -/
def State.engAdmit (s : State) (k : EngKind) (part : Option Nat) (addr : Nat) : State :=
  let limit := if part.isSome then 64 else 256
  let res (s : State) (v : Nat) : State := s.fset (k.result part) v
  if limit ≤ s.fget (k.opened part) then res s 2
  else if addr % 64 ≠ 0 then res s 3
  else match s.opRead (k.agent 0 part) addr 64 with
    | (s, .done bs) =>
      let c : EngCmd := { part := part, addr := addr, block := bs.map (·.toNat) }
      if c.status = 0 ∨ c.status % 32 ≠ 0 then res s 4
      else if (match part with
          | some n => s.fget (PART_STATE.STATE n) != 1
          | none => false) then res s 5
      else if c.sig k && !s.maySig part c.colsrc then res s 6
      else (res (s.setEngQ k (s.engQ k ++ [c])) 1).fset (k.opened part) (s.fget (k.opened part) + 1)
    | (s, _) => res s 3

/-- A submission (R495, R496): one that finds the queue of 4,096 full waits in the Hub. -/
def State.engSubmit (s : State) (k : EngKind) (part : Option Nat) (addr : Nat) : State :=
  if 4096 ≤ (s.engQ k).length ∨ !(s.engWait k).isEmpty then
    s.setEngWait k (s.engWait k ++ [{ part := part, addr := addr }])
  else s.engAdmit k part addr

/-- Places have become free: submissions that wait are taken in order. -/
def State.engRefill (s : State) (k : EngKind) : State :=
  (s.engWait k).foldl (fun s c =>
    if (s.engQ k).length < 4096 then (s.setEngWait k ((s.engWait k).drop 1)).engAdmit k c.part c.addr else s) s

/-- A status record (R494): four words. -/
structure EngStatus where
  code : Nat
  detail : Nat := 0
  w1 : Nat := 0
  w2 : Nat := 0
  w3 : Nat := 0
deriving DecidableEq, Repr

/-- A command ends (R494, R516): it leaves the queue, its status record is written, words 1 to 3 first, and the
Collar event of SIG is sent once all is performed (R297); a record whose address faults is not written. -/
def State.engEnd (s : State) (k : EngKind) (u i : Nat) (c : EngCmd) (st : EngStatus) (event : Bool) : State :=
  let s := s.setEngQ k ((s.engQ k).eraseIdx i)
  let s := s.fset (k.opened c.part) (s.fget (k.opened c.part) - 1)
  let h := k.agent u c.part
  let s := match s.opWrite h (c.status + 8) (leBytes 8 st.w1 ++ leBytes 8 st.w2 ++ leBytes 8 st.w3) with
    | (s, .done _) =>
      let s := ((s.opWrite h c.status (leBytes 8 (1 + st.code * 256 + st.detail % 2 ^ 32 * 2 ^ 32))).1).hubDurable
      if event && c.sig k then s.collarEvent c.colsrc else s
    | (s, _) => s.hubFault c.part h.tile h.unit c.status
  s.engRefill k

/-- A command ends FAULT on operand `d` (R494): a contained-class fault is charged to the submitter. -/
def State.engFault (s : State) (k : EngKind) (u i : Nat) (c : EngCmd) (code d addr : Nat) : State :=
  let h := k.agent u c.part
  (s.hubFault c.part h.tile h.unit addr).engEnd k u i c { code := code, detail := d } true

/-- Partition reset of `n` (R497, R518): its commands end ABORTED, with status records and no Collar events. -/
def State.engAbort (s : State) (k : EngKind) (n code : Nat) : State :=
  let s := s.setEngWait k ((s.engWait k).filter fun c => c.part != some n)
  (s.engQ k).foldl (fun s c =>
    if c.part == some n then
      match (s.engQ k).findIdx? (· == c) with
      | some i => s.engEnd k 0 i c { code := code } false
      | none => s
    else s) s

/-- DESTROY of `n` (R497, R518): its commands are dropped, with no status record. -/
def State.engDrop (s : State) (k : EngKind) (n : Nat) : State :=
  let s := s.setEngWait k ((s.engWait k).filter fun c => c.part != some n)
  (s.setEngQ k ((s.engQ k).filter fun c => c.part != some n)).fset (k.opened (some n)) 0

/-- Do two address ranges overlap? -/
def overlaps (a n b m : Nat) : Bool := decide (0 < n ∧ 0 < m ∧ a < b + m ∧ b < a + n)

/-! ### The schedulers (R482, R496, R514) -/

/-- Units in service. -/
def State.unitsUp (s : State) (k : EngKind) : Nat := ((List.range k.count).filter (s.unitUp k)).length

/-- In-line jobs that wait for a unit. -/
def State.inlineJobs (s : State) (k : EngKind) : Nat :=
  (s.triad.txns.filter fun e => match e.2 with
    | some x => (match k with
      | .pleat => x.stage == .compress || x.stage == .decompress
      | .cloak => x.stage == .encrypt || x.stage == .decrypt)
    | none => false).length

/-- Units that commands are guaranteed while some wait: M2MMIN, or every one in service where fewer remain. -/
def State.m2mFloor (s : State) (k : EngKind) : Nat :=
  if (s.engQ k).isEmpty || s.cur == 4 then 0 else min (s.fget k.m2mMin) (s.unitsUp k)

/-- May an in-line job be granted a unit now? In-line jobs come before commands, but for the units guaranteed to those. (A Seam
frame is granted its lane within the command that sends or receives it, before all else.) -/
def State.inlineMay (s : State) (k : EngKind) : Bool := decide (s.m2mFloor k < s.unitsUp k)

/-- Does a command wait for an earlier one that names the same stream context (R496)? -/
def State.ctxBusy (s : State) (k : EngKind) (i : Nat) (c : EngCmd) : Bool :=
  k == .pleat && c.word 32 != 0 && ((s.engQ k).take i).any fun d => d.word 32 == c.word 32 && d.part == c.part

/-- The places of a queue whose commands are granted units now, by age: as many as the in-line jobs leave units, and at least the
guaranteed ones. Granted commands complete in any order (R496). -/
def State.unitsGranted (s : State) (k : EngKind) : List Nat :=
  let q := s.engQ k
  let ready := (List.range q.length).filter fun i => match q[i]? with
    | some c => !s.ctxBusy k i c
    | none => false
  ready.take (max (s.m2mFloor k) (s.unitsUp k - s.inlineJobs k))

/-- Is the command at place `i` of a queue one that a unit may run now: jobs are granted, the unit is in service, the scheduler
grants the command and its OP is `op`? -/
def State.engReady (s : State) (k : EngKind) (u i op : Nat) : Option EngCmd :=
  if s.up && s.cur != 4 && s.fbit k.en && s.unitUp k u && (s.unitsGranted k).contains i then
    ((s.engQ k)[i]?).filter fun c => c.op == op
  else none

end Sys2Proof.Machine
end

