-- ==== Sys2Proof/Machine/Cloak.lean ====
section
/-! DEFINITION. Cloak (18_cloak_cipher.md, R500–R520): key slots, derivation and its cache, usage and rollover,
in-line and memory-to-memory work, root key provisioning. -/

namespace Sys2Proof.Machine

/-! ### Key slots (R504, R505, R509) -/

/-- The slot as the Hub keeps it. -/
def State.slot (s : State) (k : Nat) : KeySlot := AMap.get {} s.eng.slots k

def KeySlot.valid (x : KeySlot) : Bool := bitOf x.cfg 0
def KeySlot.mode (x : KeySlot) : Nat := bitsOf x.cfg 4 1
def KeySlot.klen (x : KeySlot) : Bool := bitOf x.cfg 5
def KeySlot.roll (x : KeySlot) : Bool := bitOf x.cfg 6
def KeySlot.fw (x : KeySlot) : Bool := bitOf x.cfg 7
def KeySlot.part (x : KeySlot) : Nat := bitsOf x.cfg 15 8
def KeySlot.dusize (x : KeySlot) : Nat := bitsOf x.cfg 18 16

/-- Bytes of an XTS data unit; 0 the whole payload. -/
def KeySlot.unitBytes (x : KeySlot) : Nat := if x.dusize = 0 then 0 else 256 * 2 ^ x.dusize

/-- The usage limit of a mode (R509). -/
def KeySlot.limit (x : KeySlot) : Nat := if x.mode = 1 then 2 ^ 44 else if x.mode = 2 then 2 ^ 32 else 2 ^ 48

/-- Does a table entry of 64 bytes keep R504? -/
def slotEntryOk (e : List Nat) : Bool :=
  let w (o : Nat) : Nat := natOfLe ((e.drop o).take 8)
  let x : KeySlot := { cfg := w 0 }
  (decide (1 ≤ x.mode ∧ x.mode ≤ 3)) && (!x.roll || x.mode == 2) && (!x.fw || x.part == 0) && decide (x.dusize ≤ 4)
    && decide (w 0 < 2 ^ 19) && w 0x28 == 0 && w 0x30 == 0 && w 0x38 == 0

/-- SLOTST of a slot follows it: FRAC, EPOCH and STATE (0 EMPTY, 1 READY, 2 SPENT). -/
def State.updSlot (s : State) (k : Nat) (spent : Bool) : State :=
  let x := s.slot k
  let s := s.fset (CLOAK_SLOTST.FRAC k) (min (2 ^ 24 - 1) (x.used * 2 ^ 24 / x.limit))
  let s := s.fset (CLOAK_SLOTST.EPOCH k) (x.gen % 4)
  s.fset (CLOAK_SLOTST.STATE k) (if !x.valid then 0 else if spent || (!x.roll && decide (x.limit ≤ x.used)) then 2 else 1)

/-- Replace a slot. -/
def State.setSlot (s : State) (k : Nat) (x : KeySlot) : State :=
  let spent := s.fget (CLOAK_SLOTST.STATE k) == 2
  (s.onEng fun e => { e with slots := AMap.set {} e.slots k x }).updSlot k spent

/-- The address of a slot's entry in the table. -/
def State.slotAddr (s : State) (k : Nat) : Nat := s.fget CLOAK_SLOTBASE.ADDR * 4096 + 64 * k

/-- The module writes a word of a slot's entry: GEN at 0x08, USED at 0x20 (R504). -/
def State.slotWrite (s : State) (k o v : Nat) : State :=
  if s.fbit CLOAK_SLOTBASE.VALID then s.hubWrite (EngKind.cloak.agent 0 none) (s.slotAddr k + o) (leBytes 8 v) else s

/-- Drop the cached keys of a slot that `p` picks by GEN (R508). -/
def State.dropKeys (s : State) (k : Nat) (p : Nat → Bool) : State :=
  s.onEng fun e => { e with cache := (e.cache.map fun g => (g.1, g.2.filter fun t => !(t.1 == k && p t.2))).filter fun g => !g.2.isEmpty }

/-- The entry of slot `k` in the table, where the table can be read and keeps R504. -/
def State.slotRead (s : State) (k : Nat) : State × Option KeySlot :=
  let (s, bs, po) := s.hubRead (EngKind.cloak.agent 0 none) (s.slotAddr k) 64
  let e := bs.map (·.toNat)
  let w (o : Nat) : Nat := natOfLe ((e.drop o).take 8)
  if po || (bitOf (w 0) 0 && !slotEntryOk e) then (s, none)
  else (s, some { cfg := w 0, gen := w 8, idlo := w 0x10, idhi := w 0x18, used := w 0x20 })

/-- A slot takes a new entry: every cached key of the slot is invalidated (R505). -/
def State.slotTake (s : State) (k : Nat) (x : KeySlot) : State :=
  (((s.dropKeys k fun _ => true).fset (CLOAK_SLOTST.NEXT k) 0).fset (CLOAK_SLOTST.STATE k) 0).setSlot k x

/-- LOAD of slot `k` (R505): the RESULT code and what the slot becomes. At boot the entry is adjusted first (R509, R510). -/
def State.slotLoad (s : State) (k : Nat) (boot : Bool) : State :=
  let res (s : State) (v : Nat) : State := if boot then s else s.fset CLOAK_SLOTCMD.RESULT v
  if !s.fbit CLOAK_SLOTBASE.VALID then
    if boot then ((s.onEng fun e => { e with slots := AMap.erase k e.slots }).fset (CLOAK_SLOTST.STATE k) 0).updSlot k false
    else res s 2
  else if !boot && s.fget (CLOAK_SLOTST.PINS k) != 0 then res s 3
  else match s.slotRead k with
    | (s, none) => if boot then s.fset (CLOAK_SLOTST.STATE k) 0 else res s 4
    | (s, some x) =>
      if !boot || !x.valid then res (s.slotTake k x) 1
      else if x.roll then
        let x := { x with gen := (x.gen + 1) % 2 ^ 64, used := 0 }
        ((s.slotWrite k 0x08 x.gen).slotWrite k 0x20 0).slotTake k x
      else
        let x := { x with used := x.used + 2 ^ 20 }
        (s.slotWrite k 0x20 x.used).slotTake k x

/-! ### Derivation (R506, R507, R508) -/

/-- The owner root key: the fused one; a module provisioned by Daolaha holds a key of its own (R5). -/
def State.rootKey (s : State) : List Nat :=
  if s.eng.root.isEmpty then Config.vendorRootKey.map (·.toNat) else s.eng.root

/-- Is the owner root key LOCKED? -/
def State.rootLocked (s : State) : Bool := s.fget CLOAK_ROOTSTAT.STATE == 2

/-- The context label (R506). -/
def KeySlot.label (x : KeySlot) (gen : Nat) : List Nat :=
  leNats 8 (1 + x.mode * 2 ^ 8 + bnat x.klen * 2 ^ 12 + x.part * 2 ^ 16 + bnat x.fw * 2 ^ 24)
    ++ leNats 8 gen ++ leNats 8 x.idlo ++ leNats 8 x.idhi

/-- The derived key of a slot at a generation (R507). -/
def State.keyOf (s : State) (k gen : Nat) : List Nat :=
  let x := s.slot k
  let bits := (if x.klen then 256 else 128) * (if x.mode = 1 then 2 else 1)
  deriveKey s.rootKey (x.label gen) bits

/-- A job of lane `l` uses a slot's key at a generation: the group's cache is looked up, and filled on a miss, the
least recently used entry going (R508). XTS halves that are equal set the slot SPENT (R507). -/
def State.useKey (s : State) (l k gen : Nat) : State × List Nat :=
  let g := l / 8
  let es := AMap.get [] s.eng.cache g
  let hit := es.contains (k, gen)
  let s := s.onEng fun e => { e with cache := AMap.set [] e.cache g (((k, gen) :: es.filter (· ≠ (k, gen))).take 64) }
  let s := if hit then s.fcount CLOAK_CACHE.HIT 1 else s.fcount CLOAK_CACHE.MISS 1
  let key := s.keyOf k gen
  let bad := (s.slot k).mode == 1 && key.take (key.length / 2) == key.drop (key.length / 2)
  (if bad && !hit then
    (s.fset (CLOAK_SLOTST.STATE k) 2).raise { loc := locCode 0x6 4 (8 + g) (l % 8), d2 := k }
  else s, key)

/-! ### Usage (R509, R510) -/

/-- Count `n` uses of a slot: USED goes back to the table at each multiple of 2^20 and when the slot becomes SPENT. -/
def State.countUse (s : State) (k n : Nat) : State :=
  let x := s.slot k
  let u := x.used + n
  let s := s.setSlot k { x with used := u }
  if u / 2 ^ 20 ≠ x.used / 2 ^ 20 ∨ (x.used < x.limit ∧ x.limit ≤ u) then s.slotWrite k 0x20 u else s

/-- Give `n` uses back. -/
def State.uncountUse (s : State) (k n : Nat) : State :=
  let x := s.slot k
  let back := decide (x.limit ≤ x.used) && decide (x.used < x.limit + n)
  let s := if back then s.fset (CLOAK_SLOTST.STATE k) 1 else s
  s.setSlot k { x with used := x.used - n }

/-- The first failed condition of check 6 for a transaction of partition `n` (R511). -/
def State.keyCheck (s : State) (n k : Nat) (enc : Bool) : Option Nat :=
  let x := s.slot k
  let st := s.fget (CLOAK_SLOTST.STATE k)
  if !s.rootLocked then some 1
  else if !(st == 1 || (st == 2 && !enc)) then some 2
  else if x.fw || x.part != n then some 3
  else if x.mode ≠ 1 ∨ x.roll then some 4
  else if enc && decide (x.limit < x.used + 4352) then some 5
  else none

/-- XTS blocks of `len` bytes in units of `du`; a stolen partial block counts 1. -/
def xtsBlocks (du len : Nat) : Nat :=
  if du = 0 then (len + 15) / 16 else len / du * (du / 16) + (len % du + 15) / 16

/-- Is the last data unit of `len` bytes 1 to 15 bytes long (R502)? -/
def xtsShort (du len : Nat) : Bool :=
  let r := if du = 0 then len else len % du
  decide (0 < r ∧ r < 16)

/-- An XTS job of lane `l` on slot `k` from tweak `tw` (R502). -/
def State.xtsJob (s : State) (l k : Nat) (enc : Bool) (tw : Nat) (d : List Nat) : State × List Nat :=
  let x := s.slot k
  let (s, key) := s.useKey l k x.gen
  let h := key.length / 2
  (s, xtsAll (key.take h) (key.drop h) enc x.unitBytes tw d)

/-- The IV of the next seal of a slot (R503). -/
def State.sealIv (s : State) (k : Nat) : Nat :=
  s.fget SEAM_STAT.SELF * 2 ^ 94 + s.kget CLOAK_BOOTNO.BOOTNO % 2 ^ 30 * 2 ^ 64 + (s.slot k).used % 2 ^ 64

/-- May a GCM seal be made (R503)? -/
def State.sealOk (s : State) : Bool := !s.eng.sealOff && s.kget CLOAK_BOOTNO.BOOTNO != 2 ^ 30 - 1

/-! ### Memory-to-memory commands (R515, R516) -/

def EngCmd.slotNo (c : EngCmd) : Nat := bitsOf c.ctl 27 16
def EngCmd.aadlen (c : EngCmd) : Nat := c.word 16 / 2 ^ 32
def EngCmd.mac (c : EngCmd) : Nat := c.word 32 + c.word 40 * 2 ^ 64

/-- The mode an OP needs, and what it counts (R509). -/
def opMode (op : Nat) : Nat := if op ≤ 2 then 1 else if op ≤ 4 then 2 else 3

/-- Bytes an OP writes. -/
def EngCmd.outLen (c : EngCmd) : Nat :=
  if c.op ≤ 2 then c.srclen else if c.op = 3 then c.srclen + 16 else if c.op = 4 then c.srclen - 16
  else if c.op = 5 then 16 else 0

/-- The word offset of the first field at which a Cloak command breaks R515 (ARG). -/
def State.cloakArg (s : State) (c : EngCmd) : Option Nat :=
  let gcm := c.op == 3 || c.op == 4
  let rs := [(c.src, c.srclen), (c.dst, c.outLen), (c.word 0x30, c.aadlen)]
  let lap := [(0, 1), (0, 2), (1, 2)].any fun p =>
    overlaps (rs.getD p.1 (0, 0)).1 (rs.getD p.1 (0, 0)).2 (rs.getD p.2 (0, 0)).1 (rs.getD p.2 (0, 0)).2
  if c.op = 0 ∨ 6 < c.op ∨ bitsOf c.ctl 15 4 ≠ 0 ∨ bitsOf c.ctl 31 29 ≠ 0 ∨ bitsOf c.ctl 63 48 ≠ 0 then some 0x00
  else if c.srclen = 0 ∨ 2 ^ 20 < c.srclen ∨ 65536 < c.aadlen ∨ (!gcm && c.aadlen != 0) ∨ (c.op = 4 ∧ c.srclen < 16) then some 0x10
  else if decide (c.op ≤ 2) && xtsShort (s.slot c.slotNo).unitBytes c.srclen then some 0x10
  else if (c.op = 3 ∨ c.op = 5) ∧ c.word 32 ≠ 0 then some 0x20
  else if c.op ≠ 6 ∧ (if c.op = 4 then 2 ^ 32 ≤ c.word 40 else c.word 40 ≠ 0) then some 0x28
  else if lap then some 0x18
  else none

/-- The KEY check of a command (R515, R516): DETAIL as R511. -/
def State.cloakKey (s : State) (c : EngCmd) : Option Nat :=
  let x := s.slot c.slotNo
  let st := s.fget (CLOAK_SLOTST.STATE c.slotNo)
  if !s.rootLocked then some 1
  else if !(st == 1 || st == 2) then some 2
  else if (match c.part with
      | some n => x.fw || x.part != n
      | none => false) then some 3
  else if x.mode ≠ opMode c.op ∨ x.roll then some 4
  else none

/-- A command runs on lane `l` (R512, R515): DST is written only when it ends OK. `bad` of the checks of unit `unit`
fail. -/
def State.runCloak (s : State) (l i bad unit : Nat) (c : EngCmd) : State :=
  let h := EngKind.cloak.agent l c.part
  let k := c.slotNo
  let stop (s : State) (st : EngStatus) : State := s.engEnd .cloak l i c st true
  let counted := c.op % 2 == 1
  let x := s.slot k
  let n := if c.op ≤ 2 then xtsBlocks x.unitBytes c.srclen else 1
  match s.cloakArg c, s.cloakKey c with
  | some o, _ => stop s { code := 0x09, detail := o }
  | _, some d => stop s { code := 0x04, detail := d }
  | none, none =>
    if counted && (s.fget (CLOAK_SLOTST.STATE k) == 2 || decide (x.limit < x.used + n)) then stop s { code := 0x05 }
    else if c.op == 3 && !s.sealOk then stop s { code := 0x0A }
    else match s.opRead h c.src c.srclen with
      | (s, .done src) =>
        (match s.opRead h (c.word 0x30) c.aadlen with
          | (s, .done aad) =>
            let src := src.map (·.toNat)
            let aad := aad.map (·.toNat)
            let (s, lost) := s.runChecks .cloak l bad
            if lost then stop s { code := 0x06, detail := unit }
            else
              let iv := s.sealIv k
              let (s, key) := s.useKey l k x.gen
              let half := key.length / 2
              let xts (enc : Bool) : List Nat := xtsAll (key.take half) (key.drop half) enc x.unitBytes (c.word 32) src
              let out : Option (List Nat × EngStatus) :=
                if c.op = 1 then some (xts true, { code := 1 })
                else if c.op = 2 then some (xts false, { code := 1 })
                else if c.op = 3 then
                  let r := gcmSeal key iv aad src
                  some (r.1 ++ r.2, { code := 1, detail := iv / 2 ^ 64, w3 := iv % 2 ^ 64 })
                else if c.op = 4 then
                  (gcmOpen key (c.word 32 + c.word 40 % 2 ^ 32 * 2 ^ 64) aad (src.take (c.srclen - 16)) (src.drop (c.srclen - 16))).map
                    fun p => (p, { code := 1 })
                else if c.op = 5 then some (cmac key src, { code := 1 })
                else if natOfLe (cmac key src) = c.mac then some ([], { code := 1 }) else none
              match out with
              | none => stop s { code := 0x03 }
              | some (bs, st) =>
                match s.opWrite h c.dst (bs.map (BitVec.ofNat 8)) with
                | (s, .done _) =>
                  let s := if counted then s.countUse k n else s
                  stop s { st with w1 := c.srclen, w2 := bs.length }
                | (s, _) => s.engFault .cloak l i c 0x07 2 c.dst
          | (s, _) => s.engFault .cloak l i c 0x07 3 (c.word 0x30))
      | (s, _) => s.engFault .cloak l i c 0x07 1 c.src

/-- The command at place `i` runs on lane `l`, if it may. -/
def State.cloakRun (s : State) (l i op bad unit : Nat) : State :=
  match s.engReady .cloak l i op with
  | some c => s.runCloak l i bad unit c
  | none => s

def execCloaksub (c n : Nat) (addr : Word) (s : State) : Res :=
  .next (if !s.up then s
    else if s.partReach c n then s.engSubmit .cloak (some n) (bitsOf addr.toNat 45 6 * 64)
    else s.ctxFault c (controlBase + 0x200078 + 1024 * n))
def execCloakFwsub (c : Nat) (addr : Word) (s : State) : Res :=
  .next (if !s.up then s
    else if isFw c then s.engSubmit .cloak none (bitsOf addr.toNat 51 6 * 64)
    else s.ctxFault c (controlBase + CLOAK_FWSUB.ADDR.off))

def execXtsEnc (i l bad unit : Nat) (s : State) : Res := .next (s.cloakRun l i 1 bad unit)
def execXtsDec (i l bad unit : Nat) (s : State) : Res := .next (s.cloakRun l i 2 bad unit)
def execGcmSeal (i l bad unit : Nat) (s : State) : Res := .next (s.cloakRun l i 3 bad unit)
def execGcmOpen (i l bad unit : Nat) (s : State) : Res := .next (s.cloakRun l i 4 bad unit)
def execCmacGen (i l bad unit : Nat) (s : State) : Res := .next (s.cloakRun l i 5 bad unit)
def execCmacVerify (i l bad unit : Nat) (s : State) : Res := .next (s.cloakRun l i 6 bad unit)

/-- SLOT_LOAD: CLOAK.SLOTCMD with OP = LOAD. -/
def execSlotLoad (k : Nat) (s : State) : Res :=
  .next (if s.up then s.slotLoad (k % 4096) false else s)

/-- OLD_KEY_DROP: 64 µs after an opener's epoch change (R510). -/
def execOldKeyDrop (k : Nat) (s : State) : Res :=
  .next (match (s.slot k).old with
    | some g => if s.up then (s.setSlot k { s.slot k with old := none }).dropKeys k (· == g) else s
    | none => s)

def execCloakLaneReset (l : Nat) (pass : Bool) (s : State) : Res :=
  .next (if s.up && decide (l < 64) then s.unitReset .cloak l pass else s)
def execCloakLaneOut (l : Nat) (s : State) : Res := .next (if s.up then s.unitTakeOut .cloak l else s)

/-! ### Root key provisioning (R517) -/

/-- KCV of a 256-bit key: the first three bytes of the enciphered zero block, the first byte highest. -/
def kcv (key : List Nat) : Nat := natOfBe ((aesEnc (aesExpand key) (List.replicate 16 0)).take 3)

/-- Is this a service boot (R517, R592)? -/
def State.serviceBoot (s : State) : Bool := s.pins.bootSel == 3 && s.fbit TAILOR_DBGCTL.SERVICE

/-- The root key state, which the Apron identity reports too. -/
def State.setRootState (s : State) (v : Nat) : State := (s.fset CLOAK_ROOTSTAT.STATE v).fset APRON_ID.ROOTKEY v

/-- A ROOTCTL command: refused outside a service boot (2), and for good once locked (3). -/
def State.rootCmd (s : State) (f : State → State) : State :=
  if !(s.power.phase == .service || s.power.phase == .run) then s
  else if 2 ≤ s.fget CLOAK_ROOTSTAT.STATE then s.fset CLOAK_ROOTSTAT.RESULT 3
  else if !s.serviceBoot then s.fset CLOAK_ROOTSTAT.RESULT 2
  else f s

/-- CLEAR, and any reset: the accumulator of an unlocked key is emptied and STATE is OPEN. -/
def State.rootClear (s : State) : State :=
  if 2 ≤ s.fget CLOAK_ROOTSTAT.STATE then s
  else (((s.onEng fun e => { e with accum := [] }).setRootState 0).fset CLOAK_ROOTSTAT.SHARES 0).fset CLOAK_ROOTSTAT.KCV 0

/-- ROOT_ADD: the share in ROOTSHARE is added, ROOTSHARE is cleared, KCV is shown. -/
def State.rootAdd (s : State) : State :=
  s.rootCmd fun s =>
    let share := ((List.range 4).map fun i => leNats 8 (s.fget (CLOAK_ROOTSHARE.SHARE i))).flatten
    let acc := if s.eng.accum.isEmpty then share else xorBytes s.eng.accum share
    let s := (List.range 4).foldl (fun s i => s.fset (CLOAK_ROOTSHARE.SHARE i) 0) s
    let s := (s.onEng fun e => { e with accum := acc }).setRootState 1
    let s := s.fset CLOAK_ROOTSTAT.SHARES (min 15 (s.fget CLOAK_ROOTSTAT.SHARES + 1))
    (s.fset CLOAK_ROOTSTAT.KCV (kcv acc)).fset CLOAK_ROOTSTAT.RESULT 1
def execRootAdd (s : State) : Res := .next s.rootAdd

/-- ROOT_LOCK with KCVEXP; `good` says that the fuses read back as programmed. -/
def State.rootLock (s : State) (kcvexp : Nat) (good : Bool) : State :=
  s.rootCmd fun s =>
    if s.fget CLOAK_ROOTSTAT.SHARES = 0 then s.fset CLOAK_ROOTSTAT.RESULT 6
    else if s.fget CLOAK_ROOTSTAT.KCV ≠ kcvexp % 2 ^ 24 then s.fset CLOAK_ROOTSTAT.RESULT 4
    else if good then
      ((s.onEng fun e => { e with root := e.accum, accum := [] }).setRootState 2).fset CLOAK_ROOTSTAT.RESULT 1
    else
      let s := (s.onEng fun e => { e with accum := [] }).setRootState 3
      (s.fset CLOAK_ROOTSTAT.KCV 0).fset CLOAK_ROOTSTAT.RESULT 5
def execRootLock (kcvexp : Nat) (good : Bool) (s : State) : Res := .next (s.rootLock kcvexp good)

def execRootClear (s : State) : Res :=
  .next (s.rootCmd fun s => s.rootClear.fset CLOAK_ROOTSTAT.RESULT 1)

end Sys2Proof.Machine
end

