-- ==== Sys2Proof/Machine/Journal.lean ====
section
/-! DEFINITION. The journal: records and marks on the two Hem dies, allocation point and tail, TSN assignment
(14_hem_journal_and_windows.md, R379–R392). -/

namespace Sys2Proof.Machine

/-- Slots of the journal (R379). -/
def jSlots : Nat := 4194304

/-! ### Records (R387, R388) -/

/-- The bytes 0x00–0x5F of a record, the CRC taken as 0. -/
def JRec.body (r : JRec) : List Byte :=
  leBytes 8 r.hdr ++ leBytes 8 r.tsn ++ leBytes 8 r.tod ++ leBytes 8 (r.pass % 2 ^ 32)
    ++ (r.desc.map fun w => leBytes 8 w.toNat).flatten

/-- The record with its CRC. -/
def JRec.sealed (r : JRec) : JRec := { r with crc := crc32c r.body }

/-- A slot holds a valid record (R390). -/
def JRec.valid (r : JRec) : Bool := r.hdr % 16 == 1 && r.crc == crc32c r.body && r.unc.all (12 ≤ ·)

def hdrClaim (h : Nat) : Nat := bitsOf h 63 48
def hdrRing (h : Nat) : Nat := bitsOf h 47 36
def hdrChan (h : Nat) : Nat := bitsOf h 35 28
def hdrPart (h : Nat) : Nat := bitsOf h 27 20
def hdrTodu (h : Nat) : Bool := bitOf h 5
def hdrVital (h : Nat) : Bool := bitOf h 4

/-- HDR (R388). -/
def mkHdr (claim ring chan part : Nat) (todu vital : Bool) : Nat :=
  claim % 2 ^ 16 * 2 ^ 48 + ring % 4096 * 2 ^ 36 + chan % 256 * 2 ^ 28 + part % 256 * 2 ^ 20 + bnat todu * 32 + bnat vital * 16 + 1

/-! ### Marks (R389) -/

def codeSent : Nat := 0x5E
def codeAnswered : Nat := 0xA5
def codeRetired : Nat := 0x7E
def codeCarried : Nat := 0xC4

/-- A mark word for a record, with `rest` in bits [63:24]. -/
def markWord (pass tsn code rest : Nat) : Nat := pass % 256 + tsn % 256 * 2 ^ 8 + code * 2 ^ 16 + rest * 2 ^ 24

/-- Does a mark word count for a record? -/
def JRec.counts (r : JRec) (w code : Nat) : Bool := w % 2 ^ 24 == markWord r.pass r.tsn code 0

def JRec.isSent (r : JRec) : Bool := r.counts r.sent codeSent && r.unc.all (· ≠ 12)
def JRec.isAnswered (r : JRec) : Bool := r.counts r.answered codeAnswered && r.unc.all (· ≠ 13)
def JRec.isRetired (r : JRec) : Bool := r.counts r.retired codeRetired && r.unc.all (· ≠ 14)
def JRec.isCarried (r : JRec) : Bool := r.counts r.retired codeCarried && r.unc.all (· ≠ 14)

/-! ### The dies -/

/-- Change the triad part of the state. -/
def State.onTriad (s : State) (f : TriadState → TriadState) : State := { s with triad := f s.triad }

/-- Is Hem die `i` in service (R406)? -/
def State.hOk (s : State) (i : Nat) : Bool := s.fbit (if i = 0 then HEM_STAT.H0OK else HEM_STAT.H1OK)

/-- Does a new record, mark or sector go to die `i`: in service, or rejoining (R407)? -/
def State.hWritten (s : State) (i : Nat) : Bool := s.hOk i || s.fbit HEM_STAT.REJOIN

/-- The record of a slot on die `i`. -/
def State.jrec (s : State) (i slot : Nat) : Option JRec := AMap.get none (if i = 0 then s.triad.j0 else s.triad.j1) slot

/-- Replace the record of a slot on die `i`. -/
def State.setJrec (s : State) (i slot : Nat) (r : Option JRec) : State :=
  s.onTriad fun t => if i = 0 then { t with j0 := AMap.set none t.j0 slot r } else { t with j1 := AMap.set none t.j1 slot r }

/-- Write a record, or change it, on every die that is written. -/
def State.jwrite (s : State) (slot : Nat) (f : Option JRec → Option JRec) : State :=
  [0, 1].foldl (fun s i =>
    if s.hWritten i then (s.setJrec i slot (f (s.jrec i slot))).wearWrite i (128 * slot) else s) s

/-! ### Accepted transactions -/

/-- The accepted transaction of a TSN, if it is not retired. -/
def State.txn (s : State) (tsn : Nat) : Option Txn := AMap.get none s.triad.txns tsn

/-- Replace a transaction. -/
def State.setTxn (s : State) (tsn : Nat) (x : Txn) : State :=
  s.onTriad fun t => { t with txns := AMap.set none t.txns tsn (some x) }

/-- The accepted transactions not retired, by TSN. -/
def State.openTxns (s : State) : List (Nat × Txn) := s.triad.txns.filterMap fun e => e.2.map fun x => (e.1, x)

def Txn.ring (x : Txn) : Nat := hdrRing x.hdr
def Txn.chan (x : Txn) : Nat := hdrChan x.hdr
def Txn.part (x : Txn) : Nat := hdrPart x.hdr
def Txn.vital (x : Txn) : Bool := hdrVital x.hdr
def Txn.ctl (x : Txn) : Nat := (x.desc.getD 0 0).toNat

/-! ### Allocation point, tail and free slots (R390) -/

/-- Slots in use: records in the accept path, and accepted records neither RETIRED nor CARRIED. -/
def State.jlive (s : State) : List Nat := s.triad.flights.map (·.slot) ++ s.openTxns.map (·.2.slot)

/-- Distance of a slot from the allocation point. -/
def State.jdist (s : State) (slot : Nat) : Nat := (slot + jSlots - s.fget HEM_JPTR.HEAD) % jSlots

/-- TAIL, FREE and FULL follow the records in use; FULLEV counts each stop of landing. -/
def State.updJ (s : State) : State :=
  let live := s.jlive
  let d := (live.map s.jdist).foldl min jSlots
  let free := if live.isEmpty then jSlots else d
  let s := s.fset HEM_JPTR.TAIL ((s.fget HEM_JPTR.HEAD + (if live.isEmpty then 0 else d)) % jSlots)
  let s := s.fset HEM_JSTAT.FREE free
  let full := decide (free ≤ max 1024 (s.fget HEM_JCTL.RESERVE))
  let s := if full && !s.fbit HEM_STAT.FULL then s.fcount HEM_JSTAT.FULLEV 1 else s
  s.fsetB HEM_STAT.FULL full

/-- The next slot: HEAD advances, and PASS counts its wraps (R387). -/
def State.jalloc (s : State) : State × Nat × Nat :=
  let h := s.fget HEM_JPTR.HEAD
  let p := s.triad.jpass
  let s := s.fset HEM_JPTR.HEAD ((h + 1) % jSlots)
  (if h + 1 = jSlots then s.onTriad fun t => { t with jpass := (p + 1) % 2 ^ 32 } else s, h, p)

/-! ### TSN assignment (R386) -/

/-- A count of R386 as a TSN: in a complex with SIZE ≥ 1 it carries the SEAM_ID in bits [63:62] (R523). -/
def State.tsnOf (s : State) (n : Nat) : Nat :=
  n % 2 ^ 62 + (if s.fget SEAM_CTL.SIZE = 0 then 0 else s.fget SEAM_STAT.SELF * 2 ^ 62)

/-- The next TSN is assigned; the ceiling is raised by 2^32 when the next TSN reaches it less 2^31; at the ceiling no
further doorbell lands and a fatal-class fault is raised (R386, R630). -/
def State.takeTsn (s : State) : State × Nat :=
  let t := s.fget HEM_TSNNEXT.TSNNEXT % 2 ^ 62
  let s := s.fset HEM_TSNNEXT.TSNNEXT (s.tsnOf (t + 1))
  let ceil := s.kget HEM_TSNCEIL.TSNCEIL
  let s := if t + 1 + 2 ^ 31 = ceil then (s.keepWrite HEM_TSNCEIL.TSNCEIL (ceil + 2 ^ 32)).1 else s
  let ceil := s.kget HEM_TSNCEIL.TSNCEIL
  (if t + 1 = ceil then s.raise { loc := locCode 0xB 4 0xFF 0x04, d2 := ceil, bare := true } else s, s.tsnOf t)

/-- May the triad land a doorbell that needs a record (R384, R386, R390)? -/
def State.mayLand (s : State) : Bool :=
  s.fbit TRIAD_STAT.ACCEPTING && s.fget TRIAD_STAT.MODE ≤ 1 && !s.fbit HEM_STAT.FULL && !s.closed
    && decide (s.fget HEM_TSNNEXT.TSNNEXT % 2 ^ 62 < s.kget HEM_TSNCEIL.TSNCEIL)
    && decide (s.triad.flights.length < 16) && (s.hOk 0 || s.hOk 1)

/-- Steps 3 and 4 of R382: TSN, slot and record of a doorbell that has passed; the record is issued to the dies. -/
def State.issueRec (s : State) (ring : Nat) (words : List Word) : State :=
  let s := s.look
  let (s, tsn) := s.takeTsn
  let (s, slot, pass) := s.jalloc
  let chan := s.fget (RING_CTL.CHAN ring)
  let ctl := (words.getD 0 0).toNat
  let hdr := mkHdr (s.kget (CHAN_CLAIM.CLAIM chan)) ring chan (s.fget (RING_CTL.PART ring))
    (s.fbit SEAM_TODSTAT.UNCERTAIN) (bitOf ctl 4)
  let r : JRec := { hdr := hdr, tsn := tsn, tod := s.tod % 2 ^ 64, pass := pass, crc := 0, desc := words }
  (s.onTriad fun t => { t with flights := t.flights ++ [{ slot := slot, jr := r.sealed }] }).updJ

/-- Write a mark word of a transaction's record on every die that is written (R392). -/
def State.writeMark (s : State) (x : Txn) (code w : Nat) : State :=
  s.jwrite x.slot fun r => r.map fun r =>
    if code = codeSent then { r with sent := w }
    else if code = codeAnswered then { r with answered := w }
    else { r with retired := w }

/-- The PASS of a transaction's record. -/
def State.passOf (s : State) (x : Txn) : Nat :=
  match s.jrec (if s.hOk 0 then 0 else 1) x.slot with
  | some r => r.pass
  | none => 0

end Sys2Proof.Machine
end

