-- ==== Sys2Proof/Machine/SeamTx.lean ====
section
/-! DEFINITION. Seam: ports, module pairs and their queues, the source side of the journal mirror, and the roles of
shared channels (19_seam_complex_and_time.md, R521–R533). -/

namespace Sys2Proof.Machine

/-! ### Message types (R525) -/

def smHELLO : Nat := 0x01
def smHELLOACK : Nat := 0x02
def smBEAT : Nat := 0x10
def smLACK : Nat := 0x11
def smNAK : Nat := 0x12
def smMIRREC : Nat := 0x20
def smMIRMARK : Nat := 0x21
def smMIRACK : Nat := 0x22
def smTSYNC : Nat := 0x30
def smTFOLLOW : Nat := 0x31
def smTDREQ : Nat := 0x32
def smTDRESP : Nat := 0x33
def smTAKE : Nat := 0x40
def smCLAIMSYNC : Nat := 0x41
def smRWRITE : Nat := 0x50

/-- Is a message sequenced? -/
def smSeq (t : Nat) : Bool := t == smMIRREC || t == smMIRMARK || t == smTAKE || t == smCLAIMSYNC || t == smRWRITE

/-! ### Ports and pairs -/

def State.onSeam (s : State) (f : SeamState → SeamState) : State := { s with seam := f s.seam }
def State.sport (s : State) (p : Nat) : SeamPort := AMap.get {} s.seam.ports p
def State.onPort (s : State) (p : Nat) (f : SeamPort → SeamPort) : State :=
  s.onSeam fun x => { x with ports := AMap.set {} x.ports p (f (AMap.get {} x.ports p)) }
def State.spair (s : State) (m : Nat) : SeamPair := AMap.get {} s.seam.pairs m
def State.onPair (s : State) (m : Nat) (f : SeamPair → SeamPair) : State :=
  s.onSeam fun x => { x with pairs := AMap.set {} x.pairs m (f (AMap.get {} x.pairs m)) }

def State.seamSelf (s : State) : Nat := s.fget SEAM_STAT.SELF
/-- Highest SEAM_ID of the complex: SIZE is the number of modules minus 1 (R522). -/
def State.seamSize (s : State) : Nat := s.fget SEAM_CTL.SIZE

/-- The other modules of the complex. -/
def State.seamOthers (s : State) : List Nat := (List.range (s.seamSize + 1)).filter (· ≠ s.seamSelf)

def State.portUp (s : State) (p : Nat) : Bool := s.fget (SEAM_PORT_STAT.STATE p) == 4
def State.upPorts (s : State) (m : Nat) : List Nat :=
  (List.range 4).filter fun p => s.portUp p && s.fget (SEAM_PORT_STAT.PEER p) == m

/-- Is a port to module `m` UP? -/
def State.reach (s : State) (m : Nat) : Bool := !(s.upPorts m).isEmpty

/-- Queue a sequenced message for module `m`. -/
def State.seamSend (s : State) (m type : Nat) (payload : List Nat) (txm : Bool := false) : State :=
  s.onPair m fun x => { x with pend := x.pend ++ [{ type := type, payload := payload, txm := txm }] }

/-- Queue an unsequenced frame on port `p`. -/
def State.seamUnseq (s : State) (p type : Nat) (payload : List Nat) : State :=
  s.onPort p fun x => { x with unseq := x.unseq ++ [{ type := type, payload := payload }] }

/-! ### Shared channels (R533, R534) -/

/-- ROLE of channel `n`: 0 ALONE, 1 OWNER, 2 STANDBY; 3 acts as 0. -/
def State.chRole (s : State) (n : Nat) : Nat := s.fget (SEAM_CHSUCC.ROLE n) % 3

/-- Does an OWNER stop all output of channel `n` (R534)? -/
def State.ownerHeld (s : State) (n : Nat) : Bool :=
  let x := s.spair (s.fget (SEAM_CHSUCC.PEER n))
  s.chRole n == 1 && (x.silent || decide (10 * max 1 (s.fget SEAM_CTL.HOLDTIME) ≤ x.age))

/-! ### The source side of the mirror (R529, R531) -/

/-- A record as its 128 bytes (R387). -/
def JRec.bytes (r : JRec) : List Nat :=
  leNats 8 r.hdr ++ leNats 8 r.tsn ++ leNats 8 r.tod ++ leNats 8 (r.pass % 2 ^ 32 + r.crc * 2 ^ 32)
    ++ (r.desc.map fun w => leNats 8 w.toNat).flatten
    ++ leNats 8 r.sent ++ leNats 8 r.answered ++ leNats 8 r.retired ++ leNats 8 0

def State.mirPartner (s : State) : Nat := s.fget SEAM_MIRCTL.PARTNER

/-- Does the module mirror now? -/
def State.mirOn (s : State) : Bool :=
  s.fbit SEAM_MIRCTL.EN && decide (1 ≤ s.seamSize) && s.mirPartner != s.seamSelf
    && !s.fbit SEAM_MIRSTAT.REFUSED && s.reach s.mirPartner

/-- LAG counts what the partner has not acknowledged; UP once nothing is owed. -/
def State.updMir (s : State) : State :=
  let x := s.spair s.mirPartner
  let lag := (x.pend.filter fun m => m.type == smMIRREC || m.type == smMIRMARK).length + x.mir.length
  let s := s.fset SEAM_MIRSTAT.LAG lag
  let s := if s.seam.mirHeld.isEmpty && lag = 0 then s.fset SEAM_MIRSTAT.GAP 0 else s
  if !s.mirOn then s.fset SEAM_MIRSTAT.UP 0
  else if lag = 0 ∧ s.seam.mirHeld.isEmpty then s.fset SEAM_MIRSTAT.UP 1 else s

/-- Does the journal span from TAIL to HEAD exceed the partner's region? -/
def State.mirSpanOver (s : State) : Bool :=
  decide (Config.mirrorSlots s.mirPartner < (s.fget HEM_JPTR.HEAD + jSlots - s.fget HEM_JPTR.TAIL) % jSlots)

/-- The record of an accepted transaction as a MIRREC. -/
def State.sendMirRec (s : State) (slot : Nat) : State :=
  match s.jrec (if s.hOk 0 then 0 else 1) slot with
  | some r => s.seamSend s.mirPartner smMIRREC (leNats 8 slot ++ r.bytes)
  | none => s

/-- Held records go out in TSN order once the span fits (R531). -/
def State.mirPump (s : State) : State :=
  if s.mirOn && !s.seam.mirHeld.isEmpty && !s.mirSpanOver then
    let l := s.seam.mirHeld
    let s := s.onSeam fun x => { x with mirHeld := [] }
    (l.foldl (fun s t => match s.txn t with
      | some x => s.sendMirRec x.slot
      | none => s) s).updMir
  else s

/-- MIRREC of an accepted record (R529): sent, or held while the mirror has a gap. -/
def State.mirRec (s : State) (tsn slot : Nat) : State :=
  if !s.mirOn then s
  else if s.mirSpanOver || !s.seam.mirHeld.isEmpty then
    (s.onSeam fun x => { x with mirHeld := x.mirHeld ++ [tsn] }).fset SEAM_MIRSTAT.GAP 1
  else (s.sendMirRec slot).updMir

/-- MIRMARK of a mark that has become durable at `off` of a record (R529). A record that is still held goes out with its
marks. -/
def State.mirMark (s : State) (tsn slot off w : Nat) : State :=
  if !s.mirOn then s
  else if s.seam.mirHeld.contains tsn then s.mirPump
  else ((s.seamSend s.mirPartner smMIRMARK (leNats 8 slot ++ leNats 8 off ++ leNats 8 w)).updMir).mirPump

/-- The resend of a bring-up (R531): every unretired record with its marks, in TSN order. -/
def State.mirResend (s : State) : State :=
  if !s.mirOn then s.updMir
  else
    let s := s.onPair s.mirPartner fun x => { x with
      pend := x.pend.filter fun m => m.type != smMIRREC && m.type != smMIRMARK
      mir := [] }
    let s := (s.onSeam fun x => { x with mirHeld := [] }).fset SEAM_MIRSTAT.UP 0
    (s.openTxns.foldl (fun s e => s.mirRec e.1 e.2.slot) s).updMir

end Sys2Proof.Machine
end

