-- ==== Sys2Proof/Machine/Pools.lean ====
section
/-! DEFINITION. Inbound buffer pools (15_channel_triad_and_buffers.md, R427–R434): the state table in memory, the free
list, FREE, deliveries, pool writes. -/

namespace Sys2Proof.Machine

/-- Fields of a handle (R428). -/
def hOwner (h : Nat) : Nat := bitsOf h 55 48
def hGen (h : Nat) : Nat := bitsOf h 47 32
def hPool (h : Nat) : Nat := bitsOf h 31 20
def hIndex (h : Nat) : Nat := h % 2 ^ 20
def mkHandle (owner gen pool index : Nat) : Nat :=
  owner % 256 * 2 ^ 48 + gen % 2 ^ 16 * 2 ^ 32 + pool % 4096 * 2 ^ 20 + index % 2 ^ 20

/-- A state word (R429). -/
def poolWord (owner next st gen : Nat) : Nat := owner % 256 * 2 ^ 40 + next % 2 ^ 20 * 2 ^ 20 + st * 2 ^ 16 + gen % 2 ^ 16
def pwOwner (w : Nat) : Nat := bitsOf w 47 40
def pwNext (w : Nat) : Nat := bitsOf w 39 20
def pwState (w : Nat) : Nat := bitsOf w 17 16
def pwGen (w : Nat) : Nat := w % 2 ^ 16

/-- Bytes of a pool's buffers, and where buffer `i` and its state word lie (R427, R429). -/
def State.bufSize (s : State) (p : Nat) : Nat := 2 ^ (11 + s.fget (POOL_CFG.SIZE p))
def State.bufAddr (s : State) (p i : Nat) : Nat := s.fget (POOL_BASE.ADDR p) * 2048 + i * s.bufSize p
def State.stAddr (s : State) (p i : Nat) : Nat := s.fget (POOL_STBASE.ADDR p) * 4096 + 8 * i

/-- The free list of a pool, head first. -/
def State.poolFree (s : State) (p : Nat) : List Nat := AMap.get [] s.triad.poolFree p

/-- Set the free list; FREECNT shows its length. -/
def State.setPoolFree (s : State) (p : Nat) (l : List Nat) : State :=
  (s.onTriad fun t => { t with poolFree := AMap.set [] t.poolFree p l }).fset (POOL_STAT.FREECNT p) l.length

/-- Is a buffer QUARANTINED? -/
def State.quarantined (s : State) (p i : Nat) : Bool := AMap.get false s.triad.quar (p * 2 ^ 20 + i)

/-- Read a state word: none where it is poisoned. -/
def State.readPw (s : State) (p i : Nat) : State × Option Nat :=
  let (s, bs, po) := s.hubRead triadHub (s.stAddr p i) 8
  (s, if po then none else some (leNat bs))

/-- Write a state word. -/
def State.writePw (s : State) (p i w : Nat) : State := s.hubWrite triadHub (s.stAddr p i) (leBytes 8 w)

/-- Write the state words of a pool from the first on: sectors that the table covers whole become good (R258). -/
def State.writeTable (s : State) (p : Nat) (ws : List Nat) : State :=
  s.hubWrite triadHub (s.stAddr p 0) (ws.map (leBytes 8 ·)).flatten

/-- A state word found poisoned (R431): the buffer is QUARANTINED; a contained-class fault names the word and handle. -/
def State.quarantine (s : State) (p i handle : Nat) : State :=
  if s.quarantined p i then s
  else
    let s := s.writePw p i (poolWord 0 0 3 0)
    let s := (s.onTriad fun t => { t with quar := AMap.set false t.quar (p * 2 ^ 20 + i) true }).fset (POOL_STAT.QUAR p)
      (s.fget (POOL_STAT.QUAR p) + 1)
    s.raise { loc := locCode 0x6 4 0xFF 0x04, d0 := s.stAddr p i, d2 := handle, bare := true }

/-- Append a buffer at the tail of its free list (R429): the old tail's NEXT names it. -/
def State.poolAppend (s : State) (p i w : Nat) : State :=
  let l := s.poolFree p
  let s := s.writePw p i w
  let s := match l.getLast? with
    | some t => (match s.readPw p t with
      | (s, some v) => s.writePw p t (poolWord (pwOwner v) i (pwState v) (pwGen v))
      | (s, none) => s)
    | none => s
  s.setPoolFree p (l ++ [i])

/-- A FREE by partition `m` (R431): the DETAIL of BUF_STATE, or none where the buffer is freed. -/
def State.freeBuf (s : State) (m ref : Nat) : State × Option Nat :=
  let p := hPool ref
  let i := hIndex ref
  if !s.fbit (POOL_CFG.VALID p) || ref / 2 ^ 56 != 0 then (s, some 0x11)
  else if s.fget (POOL_CFG.COUNT p) ≤ i then (s, some 0x12)
  else if hOwner ref ≠ m ∨ s.fget (POOL_CFG.PART p) ≠ m then (s, some 0x13)
  else match s.readPw p i with
    | (s, none) => (s.quarantine p i ref, some 0x16)
    | (s, some w) =>
      if s.quarantined p i || pwState w == 3 then (s, some 0x16)
      else if pwState w ≠ 2 then (s, some 0x14)
      else if pwGen w ≠ hGen ref then (s, some 0x15)
      else (s.poolAppend p i (poolWord (pwOwner w) 0 0 (pwGen w)), none)

/-- The triad takes the buffer at the head of a free list for a delivery (R430): GEN + 1, FILLING, OWNER the pool's
PART. A head whose state word is poisoned is quarantined and the next is taken; `fuel` bounds them. -/
def State.takeBuf (s : State) (p : Nat) : Nat → State × Option (Nat × Nat)
  | 0 => (s, none)
  | fuel + 1 =>
    match s.poolFree p with
    | [] => (s, none)
    | i :: rest =>
      let s := s.setPoolFree p rest
      match s.readPw p i with
      | (s, none) => (s.quarantine p i (mkHandle 0 0 p i)).takeBuf p fuel
      | (s, some w) =>
        let gen := (pwGen w + 1) % 2 ^ 16
        (s.writePw p i (poolWord (s.fget (POOL_CFG.PART p)) 0 1 gen), some (i, gen))

/-- A buffer's STATE after its last frame: DELIVERED. -/
def State.markDelivered (s : State) (p i gen owner : Nat) : State := s.writePw p i (poolWord owner 0 2 gen)

/-- Every state word of a pool is written FREE with GEN 0 and NEXT ascending, and the free list is whole (R434). -/
def State.poolInit (s : State) (p : Nat) : State :=
  let n := s.fget (POOL_CFG.COUNT p)
  let s := s.writeTable p ((List.range n).map fun i => poolWord 0 ((i + 1) % n) 0 0)
  let s := s.onTriad fun t => { t with quar := AMap.keep (fun k => k / 2 ^ 20 ≠ p) t.quar }
  (s.setPoolFree p (List.range n)).fset (POOL_STAT.QUAR p) 0

/-- Buffers of a pool that are DELIVERED or FILLING, ascending. -/
def State.busyBufs (s : State) (p : Nat) : List Nat :=
  if s.fbit (POOL_CFG.VALID p) then
    (List.range (s.fget (POOL_CFG.COUNT p))).filter fun i => !(s.poolFree p).contains i && !s.quarantined p i
  else []

/-- Is a pool in use, so that a write that changes it is refused (R434)? -/
def State.poolInUse (s : State) (p : Nat) : Bool :=
  !(s.busyBufs p).isEmpty
    || (List.range 256).any fun n => s.fbit (CHAN_RINGCTL.INEN n) && s.fget (TRIAD_CHPOOL.POOL n) == p

/-- Do BASE, SIZE and COUNT pass the checks of R434? -/
def State.poolOk (s : State) (p : Nat) : Bool :=
  let c := s.fget (POOL_CFG.COUNT p)
  decide (s.fget (POOL_CFG.SIZE p) ≤ 5) && decide (1 ≤ c ∧ c ≤ 2 ^ 20)
    && s.fget (POOL_BASE.ADDR p) * 2048 % s.bufSize p == 0

/-- A write of BASE (`reg` 0), CFG (1) or STBASE (2) of a pool (R434). -/
def State.poolWrite (s : State) (p reg w : Nat) : State :=
  let put (s : State) (f : Field) : State := s.fset f (w / 2 ^ f.lo)
  let t := if reg = 0 then put s (POOL_BASE.ADDR p)
    else if reg = 1 then put (put (put (put s (POOL_CFG.VALID p)) (POOL_CFG.PART p)) (POOL_CFG.SIZE p)) (POOL_CFG.COUNT p)
    else put s (POOL_STBASE.ADDR p)
  let res (s : State) (v : Nat) : State := s.fset (POOL_STAT.RESULT p) v
  let same (f : Field) : Bool := t.fget f == s.fget f
  let geom := same (POOL_BASE.ADDR p) && same (POOL_STBASE.ADDR p) && same (POOL_CFG.SIZE p) && same (POOL_CFG.COUNT p)
  let unchanged := geom && same (POOL_CFG.PART p) && same (POOL_CFG.VALID p)
  if unchanged then res s 1
  else if s.poolInUse p then res s 2
  else if t.fbit (POOL_CFG.VALID p) && (!s.fbit (POOL_CFG.VALID p) || !geom) then
    if t.poolOk p then (res (t.poolInit p) 1).fset (POOL_STAT.BUSY p) 1 else res s 3
  else res t 1

/-- TRIAD_POOL_WRITE. -/
def execTriadPoolWrite (p reg : Nat) (w : Word) (s : State) : Res :=
  .next (if s.up && decide (p < 4096 ∧ reg < 3) then s.poolWrite p reg w.toNat else s)

/-- POOL_INIT_DONE: deliveries no longer wait. -/
def execPoolInitDone (p : Nat) (s : State) : Res := .next (if s.up then s.fset (POOL_STAT.BUSY p) 0 else s)

/-- Buffers return to FREE without a FREE (R433): those DELIVERED or FILLING of a pool, ascending, GEN kept. -/
def State.returnBufs (s : State) (p : Nat) : State :=
  (s.busyBufs p).foldl (fun s i =>
    match s.readPw p i with
    | (s, some w) => s.poolAppend p i (poolWord (pwOwner w) 0 0 (pwGen w))
    | (s, none) => s.quarantine p i (mkHandle 0 0 p i)) s

/-- The pools of a partition give their buffers back (Partition reset, DESTROY: R433). -/
def State.returnPart (s : State) (m : Nat) : State :=
  (List.range 4096).foldl (fun s p =>
    if s.fbit (POOL_CFG.VALID p) && s.fget (POOL_CFG.PART p) == m then s.returnBufs p else s) s

/-- Rebuild one pool at step 5 of a triad restart: GEN is kept; the GEN of a word that cannot be read is free. The whole table
is rewritten; a buffer whose word is still poisoned after it stays QUARANTINED. -/
def State.rebuildPool (s : State) (p : Nat) : State :=
  let n := s.fget (POOL_CFG.COUNT p)
  let (s, old) := (List.range n).foldl (fun (acc : State × List Nat) i =>
    match acc.1.readPw p i with
    | (s, some w) => (s, acc.2 ++ [w])
    | (s, none) => (let (w, s) := s.draw; (s, acc.2 ++ [poolWord 0 0 0 w.toNat]))) (s, [])
  let s := s.writeTable p ((List.range n).map fun i => let w := old.getD i 0; poolWord (pwOwner w) ((i + 1) % n) 0 (pwGen w))
  let (s, bad) := (List.range n).foldl (fun (acc : State × List Nat) i =>
    match acc.1.readPw p i with
    | (s, some _) => (s, acc.2)
    | (s, none) => (s, acc.2 ++ [i])) (s, [])
  let good := (List.range n).filter fun i => !bad.contains i
  -- NEXT links the buffers that return
  let s := (List.range good.length).foldl (fun s k =>
    if bad.isEmpty then s
    else
      let i := good.getD k 0
      s.writePw p i (poolWord (pwOwner (old.getD i 0)) (good.getD ((k + 1) % good.length) 0) 0 (pwGen (old.getD i 0)))) s
  let s := s.onTriad fun t => { t with
    quar := bad.foldl (fun q i => AMap.set false q (p * 2 ^ 20 + i) true) (AMap.keep (fun k => k / 2 ^ 20 ≠ p) t.quar) }
  (s.setPoolFree p good).fset (POOL_STAT.QUAR p) bad.length

/-- Step 5 of a triad restart (R423, R433): every free list is rebuilt in ascending INDEX; QUARANTINED buffers are rewritten
and return unless the rewrite fails. -/
def State.rebuildPools (s : State) : State :=
  (List.range 4096).foldl (fun s p => if s.fbit (POOL_CFG.VALID p) then s.rebuildPool p else s) s

end Sys2Proof.Machine
end

