-- ==== Sys2Proof/Machine/Tolerance.lean ====
section
/-! DEFINITION. The effective tolerance (02_power_input_and_states.md, R57–R60). -/

namespace Sys2Proof.Machine

/-- A tolerance register in ns (R57): VALUE × 32^SCALE; SCALE 6 and 7 give 0; UNBOUNDED is `none`. -/
def tolNs (unb scale value : Nat) : Option Nat :=
  if unb = 1 then none else if 6 ≤ scale then some 0 else some (value * 32 ^ scale)

/-- The tolerance of partition `n`, and of firmware. -/
def State.partTol (s : State) (n : Nat) : Option Nat :=
  tolNs (s.fget (PART_LTR.UNBOUNDED n)) (s.fget (PART_LTR.SCALE n)) (s.fget (PART_LTR.VALUE n))
def State.fwTol (s : State) : Option Nat :=
  tolNs (s.fget POWER_LTRFW.UNBOUNDED) (s.fget POWER_LTRFW.SCALE) (s.fget POWER_LTRFW.VALUE)

/-- Is a partition active: from its creation until its destruction (R58)? -/
def State.active (s : State) (n : Nat) : Bool := s.fget (PART_STATE.STATE n) != 0

/-- Where the least term came from (POWER.TEFF). -/
inductive TolSrc where
  | part (n : Nat) | fw | mod
deriving DecidableEq, Repr

/-- The terms of R58, in its order: the active partitions, firmware, the armed moderation timers. -/
def State.tolTerms (s : State) : List (TolSrc × Option Nat) :=
  let timers := s.triad.rings.filterMap fun e =>
    if e.2.armed then
      let full := s.fget (RING_MOD.TIME e.1) * 1000
      let left := full - (s.tod - e.2.armedAt) * 1000 / 4096
      let t := match s.srcOwner e.1 with
        | some n => s.partTol n
        | none => s.fwTol
      some (TolSrc.mod, t.map (left + ·))
    else none
  ((List.range 256).filter s.active).map (fun n => (TolSrc.part n, s.partTol n)) ++ [(.fw, s.fwTol)] ++ timers

/-- The least term and its source: the first of those that are least; firmware when every term is unbounded. -/
def leastTol : List (TolSrc × Option Nat) → TolSrc × Option Nat
  | [] => (.fw, none)
  | (x, t) :: l =>
    match t, leastTol l with
    | none, r => r
    | some a, (y, some b) => if a ≤ b then (x, some a) else (y, some b)
    | some a, (_, none) => (x, some a)

/-- The exit latency of a power state in ns (R49). -/
def exitLatency (st : Nat) : Nat := [0, 200, 15000, 300000, 80000000].getD st 0

/-- Is a tolerance at least `ns`? -/
def tolAtLeast (t : Option Nat) (ns : Nat) : Bool := match t with
  | none => true
  | some a => decide (ns ≤ a)

/-- The effective tolerance is recomputed (R59): POWER.TEFF reports it, and a fall below the exit latency of the present
state is a wake event. -/
def State.updTeff (s : State) : State :=
  let (src, t) := leastTol s.tolTerms
  let s := s.fset POWER_TEFF.TOL (match t with
    | none => 2 ^ 40 - 1
    | some a => a)
  let s := (s.fsetB POWER_TEFF.SRC_FW (src == .fw)).fsetB POWER_TEFF.SRC_MOD (src == .mod)
  let s := s.fset POWER_TEFF.SRC_PART (match src with
    | .part n => n
    | _ => 0)
  if tolAtLeast t (exitLatency s.cur) then s else s.wake

end Sys2Proof.Machine
end

