-- ==== Sys2Proof/Machine/Rings.lean ====
section
/-! DEFINITION. Ring pairs: entries and their signalling, the checks of a doorbell, refusals, and landing
(13_rings_doorbells_completions.md, R344–R372). -/

namespace Sys2Proof.Machine

/-- What the triad keeps of ring pair `r`. -/
def State.ring (s : State) (r : Nat) : RingState := AMap.get {} s.triad.rings r
def State.setRing (s : State) (r : Nat) (x : RingState) : State :=
  s.onTriad fun t => { t with rings := AMap.set {} t.rings r x }

/-- RING[r].STAT.STATE: 0 UNBOUND, 1 BINDING, 2 RECOVERING, 3 BOUND, 4 UNBINDING (R376). -/
def State.rst (s : State) (r : Nat) : Nat := s.fget (RING_STAT.STATE r)

/-- The partition and channel of a ring pair's binding. -/
def State.rpart (s : State) (r : Nat) : Nat := s.fget (RING_CTL.PART r)
def State.rchan (s : State) (r : Nat) : Nat := s.fget (RING_CTL.CHAN r)

/-- The address of a ring pair's doorbell page (R349). -/
def pageOf (r : Nat) : Nat := doorbellBase + 4096 * r

/-! ### Positions (R361, R369) -/

/-- The registers of the CR, or of the IR. -/
structure RingRegs where
  base : Field
  size : Field
  cons : Field
  cph : Field
  prod : Field
  pph : Field
deriving DecidableEq, Repr

def ringRegs (r : Nat) (ir : Bool) : RingRegs :=
  if ir then ⟨RING_IRBASE.BASE r, RING_IRBASE.SIZE r, RING_IRIDX.CONS r, RING_IRIDX.CPH r, RING_IRIDX.PROD r, RING_IRIDX.PPH r⟩
  else ⟨RING_CRBASE.BASE r, RING_CRBASE.SIZE r, RING_CRIDX.CONS r, RING_CRIDX.CPH r, RING_CRIDX.PROD r, RING_CRIDX.PPH r⟩

/-- Slots of a ring. -/
def State.slots (s : State) (r : Nat) (ir : Bool) : Nat := 64 * 2 ^ s.fget (ringRegs r ir).size

/-- A position as a number below twice the ring size: passes of phase 1 first. -/
def ringPos (n idx ph : Nat) : Nat := idx + (if ph = 1 then 0 else n)

/-- Slots from the consumer to the producer. -/
def State.ringDist (s : State) (r : Nat) (ir : Bool) : Nat :=
  let g := ringRegs r ir
  let n := s.slots r ir
  (ringPos n (s.fget g.prod) (s.fget g.pph) + 2 * n - ringPos n (s.fget g.cons) (s.fget g.cph)) % (2 * n)

/-- Free slots: those not between consumer and producer, less entries that wait for RESUME (R348, R359). -/
def State.ringFree (s : State) (r : Nat) (ir : Bool) : Nat :=
  s.slots r ir - s.ringDist r ir - ((s.ring r).waiting.filter fun e => e.ir == ir && e.final == 0).length

/-! ### Entries (R360–R362, R370) -/

/-- Send source `r` to Collar: P returns to 0 and the timer is disarmed (R370). -/
def State.ringEvent (s : State) (r : Nat) : State :=
  (s.setRing r { s.ring r with p := 0, armed := false }).collarEvent r

/-- Moderation after an entry (R370). -/
def State.moderate (s : State) (r : Nat) (now : Bool) : State :=
  let x := s.ring r
  let p := x.p + 1
  let count := max 1 (s.fget (RING_MOD.COUNT r))
  let s := s.setRing r { x with p := p }
  if now || decide (count ≤ p) || s.fget (RING_MOD.TIME r) == 0 then s.ringEvent r
  else if p = 1 then
    let s := s.look
    (s.setRing r { s.ring r with armed := true, armedAt := s.tod }).updTeff
  else s

/-- The ring pair leaves RECOVERING when every unretired record has its entry (R373). -/
def State.recovered (s : State) (r : Nat) : State :=
  if s.rst r = 2 ∧ (s.openTxns.all fun e => e.2.ring != r || e.2.final || e.2.retire) then s.fset (RING_STAT.STATE r) 3 else s

/-- Write an entry into its slot (R361): the words at 0x08–0x18 first, the word at 0x00 last; `none` where the stage 2
translation faults (R348). -/
def State.writeEntry (s : State) (r : Nat) (e : RingEntry) : Option State :=
  let g := ringRegs r e.ir
  let n := s.slots r e.ir
  let idx := s.fget g.prod
  let ph := s.fget g.pph
  let at_ := s.fget g.base * 4096 + 32 * idx
  let h := triadFor (s.rpart r)
  let w (i : Nat) : List Byte := leBytes 8 (e.words.getD i 0)
  match s.hubWritePR h (s.rpart r) (at_ + 8) (w 1 ++ w 2 ++ w 3) 0 false with
  | (s, .done _) =>
    let s := (s.hubWritePR h (s.rpart r) at_ (leBytes 8 (e.words.getD 0 0 + ph)) 0 false).1.hubDurable
    let s := s.fset g.prod ((idx + 1) % n)
    let s := if idx + 1 = n then s.fset g.pph (1 - ph) else s
    let s := if e.final = 0 then s
      else
        let s := s.setRing r { s.ring r with finals := (s.ring r).finals ++ [(idx, e.final)] }
        let s := s.fset (RING_STAT.OWED r) (s.fget (RING_STAT.OWED r) - 1)
        match s.txn e.final with
        | some x => s.setTxn e.final { x with final := true }
        | none => s
    some ((s.moderate r (e.now || s.rst r == 2)).recovered r)
  | _ => none

/-- May entries be written to a ring pair now: not stopped, not being zeroed, not in Shutter (R55, R345, R348)? -/
def State.ringOpen (s : State) (r : Nat) : Bool :=
  !s.fbit (RING_STAT.STOPPED r) && s.rst r != 1 && s.rst r != 0 && s.cur != 4

/-- Give a ring an entry: written, or kept waiting while the ring is stopped. A fault stops the ring pair and is
recorded against the partition (R348). -/
def State.putEntry (s : State) (r : Nat) (e : RingEntry) : State :=
  let wait (s : State) : State := s.setRing r { s.ring r with waiting := (s.ring r).waiting ++ [e] }
  if !s.ringOpen r || !(s.ring r).waiting.isEmpty then wait s
  else match s.writeEntry r e with
    | some s => s
    | none =>
      let g := ringRegs r e.ir
      (wait (s.fset (RING_STAT.STOPPED r) 1)).hubFault (some (s.rpart r)) 0xFF 0x04 (s.fget g.base * 4096 + 32 * s.fget g.prod)

/-- Write the entries that wait, in order, until one faults again. -/
def State.flushRing (s : State) (r : Nat) : State :=
  let l := (s.ring r).waiting
  l.foldl (fun s e => s.putEntry r e) (s.setRing r { s.ring r with waiting := [] })

/-- Word 0x00 of a CR entry without PHASE (R360). -/
def crWord0 (status detail : Nat) (sent reposted replyLost todu vital : Bool) (astatus : Nat) : Nat :=
  status * 2 ^ 8 + bnat sent * 2 ^ 16 + bnat reposted * 2 ^ 17 + bnat replyLost * 2 ^ 18 + bnat todu * 2 ^ 19
    + bnat vital * 2 ^ 20 + detail % 2 ^ 16 * 2 ^ 32 + astatus % 2 ^ 16 * 2 ^ 48

/-- A refusal or a control entry: no transaction, TSN 0 (R360, R362). -/
def refusalEntry (status detail tag : Nat) : RingEntry :=
  { words := [crWord0 status detail false false false false false 0, 0, tag, 0], now := true }

/-- The accept record of a transaction (R362). -/
def acceptEntry (tsn : Nat) (x : Txn) : RingEntry :=
  { words := [crWord0 0x10 0 false false false (hdrTodu x.hdr) x.vital 0, tsn, (x.desc.getD 1 0).toNat, 0] }

/-- The fields of an ANSWERED word (R389). -/
def ansOutcome (w : Nat) : Nat := bitsOf w 25 24
def ansValue (w : Nat) : Nat := bitsOf w 41 26
def ansReplyLost (w : Nat) : Bool := bitOf w 42
def ansRlen (w : Nat) : Nat := bitsOf w 59 43

/-- The final entry of a transaction, from its ANSWERED word (R360, R362, R363). -/
def finalEntry (tsn : Nat) (x : Txn) : RingEntry :=
  let done := ansOutcome x.ansWord == 1
  let detail := if done then x.detail else ansValue x.ansWord
  { words := [crWord0 (ansOutcome x.ansWord) detail x.sentDur x.reposted (ansReplyLost x.ansWord) (hdrTodu x.hdr) x.vital
                (if done then ansValue x.ansWord else 0),
              tsn, (x.desc.getD 1 0).toNat, if done then ansRlen x.ansWord else 0]
    final := tsn
    now := bitOf x.ctl 5 }

/-! ### The checks of a doorbell (R352–R359) -/

/-- What the triad decides of a doorbell. -/
inductive Verdict where
  | discard
  | refuse (status detail : Nat)
  | free
  | pass
deriving DecidableEq, Repr

def dWord (d : Doorbell) (i : Nat) : Nat := (d.words.getD i 0).toNat
def dOrder (d : Doorbell) : Nat := dWord d 0 % 16
def dKeySlot (w0 : Nat) : Nat := bitsOf w0 27 16
def dNchain (w0 : Nat) : Nat := bitsOf w0 15 12

/-- Check 4: the form of the inline descriptor (R352–R354). -/
def descFormOk (d : Doorbell) : Bool :=
  let w := dWord d
  let ctl := w 0
  let o := dOrder d
  if o = 4 then
    ctl == 4 && w 2 == 0 && w 3 == 0 && w 4 == 0 && w 5 == 0 && w 6 == 0 && decide (w 7 < 2 ^ 56)
  else
    decide (1 ≤ o ∧ o ≤ 3) && bitsOf ctl 31 28 == 0 && bitsOf ctl 11 10 == 0
      && (if dNchain ctl = 0 then w 2 == 0 else w 2 != 0 && w 2 % 64 == 0)
      && decide (w 4 ≤ 65536) && decide (w 6 ≤ 65536)
      && (o == 1 || w 6 == 0)
      && (o != 2 || (!bitOf ctl 8 && !bitOf ctl 9))
      && (o == 3 || w 7 == 0)

/-- Check 5: the inbound transaction that an ANSWER names, delivered on this ring pair and not yet answered. -/
def State.answerable (s : State) (r ref : Nat) : Bool :=
  (AMap.get [] s.triad.inbound (s.rchan r)).any fun b => b.tsn == ref && b.delivered && b.ring == r && b.answer.isNone

/-- Is a PR address inside the partition's Hem windows, by the HWIN registers (R399)? -/
def State.inHwin (s : State) (n pr : Nat) : Bool :=
  (List.range 8).any fun k =>
    let b := s.fget (PART_HWINA.PRBASE n k) * 2 ^ 21
    s.fbit (PART_HWINA.VALID n k) && decide (b ≤ pr ∧ pr < b + s.fget (PART_HWINB.COUNT n k) * 2 ^ 21)

/-- The checks of R358 in order, with the counts of R359 for a refusal. -/
def State.verdict (s : State) (d : Doorbell) : Verdict :=
  let r := d.ring
  let n := s.rpart r
  let f := s.ringFree r false
  let owed := s.fget (RING_STAT.OWED r)
  let refuse (status detail : Nat) : Verdict := if owed + 1 ≤ f then .refuse status detail else .discard
  let w := dWord d
  let ctl := w 0
  let o := dOrder d
  if s.rst r = 0 ∨ s.rst r = 1 ∨ s.rst r = 4 then .discard
  else if d.bad then refuse 0x20 0
  else if d.shutter then refuse 0x29 0
  else if s.rst r = 2 then refuse 0x25 0
  else if !descFormOk d then refuse 0x21 0
  else if o = 4 then (if owed + 1 ≤ f then .free else .discard)
  else if o == 3 && !s.answerable r (w 7) then refuse 0x28 0
  else
    let key := if bitOf ctl 7 || bitOf ctl 8 then s.keyCheck n (dKeySlot ctl) (bitOf ctl 7) else none
    match key with
    | some k => refuse 0x27 k
    | none =>
      if bitOf ctl 4 && ([w 2, w 3, w 5].any fun a => a != 0 && !s.inHwin n a) then refuse 0x22 0
      else if s.fget (CHAN_RINGSTAT.ATTACH (s.rchan r)) = 2 then refuse 0x26 0
      else if max 1 (s.fget (RING_CTL.OUTMAX r)) ≤ s.fget (RING_STAT.OPEN r) ∨ f < owed + 2 then refuse 0x23 0
      else if s.fget (PART_JQUOTA.JQUOTA n) ≠ 0 ∧ s.fget (PART_JQUOTA.JQUOTA n) ≤ s.fget (PART_JOPEN.JOPEN n) then refuse 0x24 0
      else .pass

/-- A doorbell is discarded (R359): REFLOST and a contained-class fault for the ring pair's partition, or for the one
that owns the ringing context where the ring pair is unbound. -/
def State.discardDoorbell (s : State) (d : Doorbell) : State :=
  let n := if s.rst d.ring = 0 then d.ctx.bind s.partOf else some (s.rpart d.ring)
  let s := match n with
    | some n => s.fcount (PART_REFLOST.REFLOST n) 1
    | none => s
  s.hubFault n 0xFF 0x04 (pageOf d.ring)

/-- Change a field by `k` up or down. -/
def State.fadd (s : State) (f : Field) (k : Nat) : State := s.fset f (s.fget f + k)
def State.fsub (s : State) (f : Field) (k : Nat) : State := s.fset f (s.fget f - k)

/-- An inbound transaction of a channel changes. -/
def State.onInbound (s : State) (n : Nat) (f : List Inbound → List Inbound) : State :=
  s.onTriad fun t => { t with inbound := AMap.set [] t.inbound n (f (AMap.get [] t.inbound n)) }

/-- Set what answers inbound transaction `ref` of channel `n`. -/
def State.setAnswer (s : State) (n ref : Nat) (a : Option Nat) : State :=
  s.onInbound n fun l => l.map fun b => if b.tsn == ref && b.delivered then { b with answer := a } else b

/-- A doorbell that has passed every check counts in OPEN, OWED and JOPEN (R358); ENCRYPT reserves its blocks (R511);
the inbound transaction of an ANSWER has its answer. -/
def State.countPass (s : State) (d : Doorbell) : State :=
  let r := d.ring
  let ctl := dWord d 0
  let s := ((s.fadd (RING_STAT.OPEN r) 1).fadd (RING_STAT.OWED r) 1).fadd (PART_JOPEN.JOPEN (s.rpart r)) 1
  let s := if bitOf ctl 7 then s.countUse (dKeySlot ctl) 4352 else s
  if dOrder d = 3 then s.setAnswer (s.rchan r) (dWord d 7) (some 0) else s

/-- The counts of a doorbell that is not accepted are given back (R358). -/
def State.uncountPass (s : State) (r : Nat) (words : List Word) : State :=
  let w0 := (words.getD 0 0).toNat
  let s := ((s.fsub (RING_STAT.OPEN r) 1).fsub (RING_STAT.OWED r) 1).fsub (PART_JOPEN.JOPEN (s.rpart r)) 1
  let s := if bitOf w0 7 then s.uncountUse (dKeySlot w0) 4352 else s
  if w0 % 16 = 3 then s.setAnswer (s.rchan r) (words.getD 7 0).toNat none else s

/-- A FREE (R354, R431): one control entry, FREED or BUF_STATE. -/
def State.doFree (s : State) (d : Doorbell) : State :=
  let r := d.ring
  let m := s.rpart r
  let ref := dWord d 7
  match s.freeBuf m ref with
  | (s, none) => s.putEntry r (refusalEntry 0x30 0 (dWord d 1))
  | (s, some det) =>
    let s := s.fcount (POOL_STAT.BADFREE (hPool ref)) 1
    let s := s.putEntry r (refusalEntry 0x31 det (dWord d 1))
    s.raise { loc := locCode 0x5 4 0xFF 0x04, part := some m, d0 := ref, bare := true }

/-- Does the triad decide doorbells now (R412, R423)? -/
def State.triadUp (s : State) : Bool := s.up && s.fget TRIAD_STAT.MODE ≤ 1 && s.fbit TRIAD_STAT.ACCEPTING && !s.closed

/-- Issue the record of a doorbell that has passed; an ANSWER's inbound transaction learns the TSN. -/
def State.landOne (s : State) (d : Doorbell) : State :=
  let s := s.issueRec d.ring d.words
  match s.triad.flights.getLast? with
  | some f => if dOrder d = 3 then s.setAnswer (s.rchan d.ring) (dWord d 7) (some f.jr.tsn) else s
  | none => s

/-- Doorbells that the Hub's queue holds (R358). -/
def dbqRoom : Nat := 512

/-- Decide the doorbells in the order they landed, and land those that have passed in that order, as far as the journal has
room (R351, R358, R384). Those behind a full queue wait on Stitch and are not decided. -/
def State.landAll (s : State) : State :=
  if !s.triadUp then s
  else
    let q := s.triad.dbq
    let s := s.onTriad fun t => { t with dbq := [] }
    let (s, kept) := q.foldl (fun (acc : State × List Doorbell) d =>
      let (s, kept) := acc
      let keep (s : State) : State × List Doorbell :=
        if kept.isEmpty && s.mayLand then (s.landOne d, kept) else (s, kept ++ [{ d with passed := true }])
      if d.passed then keep s
      else if dbqRoom ≤ kept.length then (s, kept ++ [d])
      else match s.verdict d with
        | .discard => (s.discardDoorbell d, kept)
        | .refuse st det => (s.putEntry d.ring (refusalEntry st det (if d.bad then 0 else dWord d 1)), kept)
        | .free => (s.doFree d, kept)
        | .pass => keep (s.countPass d)) (s, [])
    s.onTriad fun t => { t with dbq := kept ++ t.dbq }

/-- A doorbell reaches the Hub (R350, R358): it enters the queue, and the triad decides what it can. While the minimum
set is not met it is discarded (R359, R560). -/
def State.doorbell (s : State) (d : Doorbell) : State :=
  if s.fget FAULT_MINSET.MINSET ≠ 0 then s.discardDoorbell d
  else (s.onTriad fun t => { t with dbq := t.dbq ++ [{ d with shutter := s.cur == 4 }] }).landAll

/-- A doorbell rung by context `c` with the ORDER `o` in CTL. -/
def State.ringWith (s : State) (c r o : Nat) (ws : List Word) : State :=
  let w0 := BitVec.ofNat 64 ((ws.getD 0 0).toNat / 16 * 16 + o)
  let ws := w0 :: (upFrom 1 7).map fun i => ws.getD i 0
  if s.up && decide (r < 4096) then s.doorbell { ring := r, ctx := some c, words := ws } else s

def execDoorbellSend (c r : Nat) (ws : List Word) (s : State) : Res := .next (s.ringWith c r 1 ws)
def execDoorbellPost (c r : Nat) (ws : List Word) (s : State) : Res := .next (s.ringWith c r 2 ws)
def execDoorbellAnswer (c r : Nat) (ws : List Word) (s : State) : Res := .next (s.ringWith c r 3 ws)
def execDoorbellFree (c r : Nat) (ws : List Word) (s : State) : Res := .next (s.ringWith c r 4 ws)

/-- DOORBELL_BAD_STORE: any other store to offset 0x000–0x03F, by context `c` or by a Hub agent (R350). -/
def execDoorbellBadStore (c r : Nat) (hub : Bool) (s : State) : Res :=
  .next (if s.up && decide (r < 4096) then
    s.doorbell { ring := r, ctx := if hub then none else some c, bad := true, words := List.replicate 8 0 }
  else s)

end Sys2Proof.Machine
end

