-- ==== Sys2Proof/Machine/Frames.lean ====
section
/-! DEFINITION. Frames of the Cuff link and the transmit queues of channels and lanes (16_cuff_ports_and_links.md,
R446–R463). -/

namespace Sys2Proof.Machine

/-- Frame types (R447). -/
def tyDATA : Nat := 0x01
def tyREQ : Nat := 0x02
def tyANSWER : Nat := 0x03
def tyRESP : Nat := 0x04
def tyANSACK : Nat := 0x05
def tyENDTX : Nat := 0x06
def tyLACK : Nat := 0x08
def tyNAK : Nat := 0x09
def tyREFUSE : Nat := 0x0A
def tyLINKINFO : Nat := 0x10
def tyRECAL : Nat := 0x11
def tyLPREQ : Nat := 0x12

/-- Is a type sequenced (R447)? -/
def tySeq (t : Nat) : Bool := t < 8 || t == tyREFUSE

/-- The bytes of a frame (R446): header, padded payload, trailer with the CRC-32C. -/
def CuffFrame.bytes (f : CuffFrame) : List Byte :=
  let n := f.payload.length
  let pad := (8 - n % 8) % 8
  let h0 := f.type + f.flags * 2 ^ 8 + f.claim % 2 ^ 16 * 2 ^ 16 + f.fsn % 2 ^ 32 * 2 ^ 32
  let h2 := f.opcode % 2 ^ 16 + n * 2 ^ 16 + f.order * 2 ^ 29 + f.frag * 2 ^ 32 + f.frags * 2 ^ 40 + f.chan * 2 ^ 48 + 2 ^ 56
  let h4 := f.ackfsn % 2 ^ 32 + f.credit % 2 ^ 16 * 2 ^ 32 + f.astatus % 2 ^ 16 * 2 ^ 48
  let body := leBytes 8 h0 ++ leBytes 8 f.tsn ++ leBytes 8 h2 ++ leBytes 8 f.h3 ++ leBytes 8 h4 ++ leBytes 8 f.reftsn
    ++ f.payload.map (BitVec.ofNat 8) ++ List.replicate pad 0 ++ leBytes 8 pad
  body ++ leBytes 8 (crc32c body)

/-- The length of a frame: 48 + the padded payload + 16. -/
def CuffFrame.size (f : CuffFrame) : Nat := 64 + (f.payload.length + 7) / 8 * 8

/-! ### Lanes and channels -/

def State.lane (s : State) (m : Nat) : LaneState := AMap.get {} s.link.lanes m
def State.setLane (s : State) (m : Nat) (x : LaneState) : State :=
  { s with link := { s.link with lanes := AMap.set {} s.link.lanes m x } }
def State.chan (s : State) (n : Nat) : ChanState := AMap.get {} s.link.chans n
def State.setChan (s : State) (n : Nat) (x : ChanState) : State :=
  { s with link := { s.link with chans := AMap.set {} s.link.chans n x } }

/-- Change a lane, a channel. -/
def State.onLane (s : State) (m : Nat) (f : LaneState → LaneState) : State := s.setLane m (f (s.lane m))
def State.onChan (s : State) (n : Nat) (f : ChanState → ChanState) : State := s.setChan n (f (s.chan n))

/-- Lane m is path A of channel m, or path B of channel m − 256. -/
def chanOf (m : Nat) : Nat := m % 256
def pathOf (m : Nat) : Nat := m / 256

/-- LANE[m].STAT.STATE codes (R477). -/
def lsOFF : Nat := 0
def lsDETECT : Nat := 1
def lsTRAIN : Nat := 2
def lsALIGN : Nat := 3
def lsACTIVE : Nat := 4
def lsLOWPOWER : Nat := 5
def lsRECAL : Nat := 6
def lsDOWN : Nat := 7
def State.lst (s : State) (m : Nat) : Nat := s.fget (LANE_STAT.STATE m)

/-- Does a lane count as up for its channel (R438)? -/
def State.laneUp (s : State) (m : Nat) : Bool := s.lst m == lsACTIVE || s.lst m == lsLOWPOWER || s.lst m == lsRECAL

/-- Is the channel in split mode? -/
def State.split (s : State) (n : Nat) : Bool := s.fget (CHAN_STAT.MODE n) == 1

/-- The class of a new frame (R463). -/
def CuffFrame.cls (f : CuffFrame) : Nat :=
  if f.type = tyLACK ∨ f.type = tyNAK then 1
  else if f.type = tyRESP then 4
  else if f.type = tyDATA then 5
  else 3

/-- Put a frame among frames of its queue: by class, DATA in TSN order, otherwise first come first (R463). -/
def CuffFrame.before (f g : CuffFrame) : Bool :=
  decide (f.cls < g.cls) || (f.cls == 5 && g.cls == 5 && decide (f.tsn < g.tsn))

def insertFrame (f : CuffFrame) : List CuffFrame → List CuffFrame
  | [] => [f]
  | g :: l => if f.before g then f :: g :: l else g :: insertFrame f l

/-- Queue a sequenced frame of channel `n`: at the channel in dual-send, at lane `m` in split mode. -/
def State.queueSeq (s : State) (n m : Nat) (f : CuffFrame) : State :=
  if s.split n then s.onLane m fun x => { x with queue := insertFrame f x.queue }
  else s.onChan n fun x => { x with queue := insertFrame f x.queue }

/-- Queue an unsequenced frame at lane `m`. -/
def State.queueUnseq (s : State) (m : Nat) (f : CuffFrame) : State :=
  s.onLane m fun x => { x with unseq := insertFrame f x.unseq }

/-- Bytes queued on a lane (R456). -/
def State.queuedBytes (s : State) (m : Nat) : Nat := ((s.lane m).queue.map (·.size)).foldl (· + ·) 0

/-- The lane a transaction is given to in split mode (R456): an up lane with fewer bytes queued, A on a tie. -/
def State.pickLane (s : State) (n : Nat) : Nat :=
  let a := n
  let b := n + 256
  if !s.laneUp b then a else if !s.laneUp a then b
  else if s.queuedBytes b < s.queuedBytes a then b else a

/-- The fragments of a payload: pieces of 4,096 bytes, one empty piece for none (R458). -/
def fragments (d : List Nat) : List (List Nat) := if d.isEmpty then [[]] else piecesOf 4096 18 d

/-- The DATA or RESP frames of a transaction (R446, R448, R458). -/
def State.txnFrames (s : State) (tsn : Nat) (x : Txn) : List CuffFrame :=
  let n := x.chan
  let ps := fragments x.payload
  let k := ps.length
  let resp := x.ctl % 16 == 3
  (List.range k).map fun i =>
    { type := if resp then tyRESP else tyDATA
      flags := bnat (i == 0) + bnat (i + 1 == k) * 2 + bnat (!s.split n) * 4 + bnat x.redrive * 8
        + bnat (hdrTodu x.hdr) * 16 + bnat x.comp * 32 + bnat x.enc * 64
      tsn := tsn
      opcode := bitsOf x.ctl 63 48
      order := if resp then 0 else x.ctl % 16
      frag := i
      frags := k
      chan := n
      reftsn := if resp then (x.desc.getD 7 0).toNat else 0
      payload := ps.getD i [] }

/-- Frames of a transaction leave the queues where they still wait without an FSN. -/
def State.unqueue (s : State) (n tsn : Nat) : State :=
  let keep (l : List CuffFrame) : List CuffFrame := l.filter fun f => f.tsn != tsn || (f.type != tyDATA && f.type != tyRESP)
  let s := s.onChan n fun x => { x with queue := keep x.queue }
  [n, n + 256].foldl (fun s m => s.onLane m fun x => { x with queue := keep x.queue }) s

end Sys2Proof.Machine
end

