-- ==== Sys2Proof/Machine/Inflate.lean ====
section
/-! DEFINITION. The formats Pleat supports (17_pleat_compression.md, R483–R489): decoding of DEFLATE (RFC 1951), zlib
(RFC 1950), gzip (RFC 1952) and the Pleat frame, and building of the Pleat frame and of the wrappers around the
compressor's DEFLATE output. Bytes are numbers below 256 inside this file. -/

namespace Sys2Proof.Machine

/-! ### Check values -/

/-- Adler-32. -/
def adler32 (d : List Nat) : Nat :=
  let r := d.foldl (fun (x : Nat × Nat) b => let a := (x.1 + b) % 65521; (a, (x.2 + a) % 65521)) (1, 0)
  r.2 * 65536 + r.1

/-- One bit of the reflected CRC-32 register of RFC 1952. -/
def crc32Bit (r : Nat) : Nat := if r % 2 = 1 then (r / 2) ^^^ 0xEDB88320 else r / 2

/-- CRC-32 of a byte list. -/
def crc32 (d : List Nat) : Nat :=
  (d.foldl (fun r b =>
    let r := r ^^^ b
    crc32Bit (crc32Bit (crc32Bit (crc32Bit (crc32Bit (crc32Bit (crc32Bit (crc32Bit r)))))))) 0xFFFFFFFF) ^^^ 0xFFFFFFFF

/-- CRC-32C of bytes given as numbers. -/
def crc32cN (d : List Nat) : Nat := crc32c (d.map (BitVec.ofNat 8))

/-! ### DEFLATE -/

/-- The bits of a byte list, the least significant of each byte first. -/
def bitsOfBytes (d : List Nat) : List Bool := (d.map fun b => (List.range 8).map (bitOf b)).flatten

/-- Something read from the bits of a stream; the error says whether the bits ran out (else they are not valid). -/
abbrev Got (α : Type) := Except Bool α

/-- Take `n` bits as a number, the first bit lowest. -/
def takeBits : Nat → List Bool → Got (Nat × List Bool)
  | 0, bs => .ok (0, bs)
  | _, [] => .error true
  | n + 1, b :: bs => (takeBits n bs).map fun r => (bnat b + 2 * r.1, r.2)

/-- A canonical Huffman code: how many codes have each length 1 to 15, and the symbols in code order. -/
structure Huff where
  counts : List Nat
  syms : List Nat
deriving DecidableEq, Repr

/-- The code of a list of code lengths. -/
def huffOf (lens : List Nat) : Huff :=
  let ls := (List.range lens.length).zip lens
  let at_ (n : Nat) : List Nat := (ls.filter fun e => e.2 == n).map (·.1)
  { counts := (upFrom 1 15).map fun n => (at_ n).length, syms := ((upFrom 1 15).map at_).flatten }

/-- Codes left unused: none when the lengths over-subscribe. -/
def huffLeft (h : Huff) : Option Nat :=
  h.counts.foldl (fun l c => l.bind fun l => if c ≤ 2 * l then some (2 * l - c) else none) (some 1)

/-- A complete code, or one of a single code of length 1. -/
def huffOk (h : Huff) : Bool :=
  match huffLeft h with
  | none => false
  | some 0 => true
  | some _ => h.syms.length == h.counts.headD 0

/-- Decode one symbol: walk the lengths. -/
def huffSym (syms : List Nat) : List Nat → Nat → Nat → Nat → List Bool → Got (Nat × List Bool)
  | [], _, _, _, _ => .error false
  | _, _, _, _, [] => .error true
  | c :: cs, code, first, idx, b :: bs =>
    let code := code + bnat b
    if code < first + c then .ok (syms.getD (idx + (code - first)) 0, bs)
    else huffSym syms cs (2 * code) (2 * (first + c)) (idx + c) bs

def Huff.sym (h : Huff) (bs : List Bool) : Got (Nat × List Bool) := huffSym h.syms h.counts 0 0 0 bs

/-- How decoding ended; `short`: the bits ran out. -/
inductive InfEnd where
  | done | bad | full | short
deriving DecidableEq, Repr

/-- The end that a failed read makes. -/
def gotEnd (short : Bool) : InfEnd := if short then .short else .bad

/-- Decoding under way: the bits left, the bytes so far newest first (the dictionary at the end), how many of them are
output, and the bits left at the start of the block under way. -/
structure Inf where
  bits : List Bool
  rev : List Nat
  n : Nat
  blk : Nat
deriving DecidableEq, Repr

def lenBase (k : Nat) : Nat :=
  ([3, 4, 5, 6, 7, 8, 9, 10, 11, 13, 15, 17, 19, 23, 27, 31, 35, 43, 51, 59, 67, 83, 99, 115, 131, 163, 195, 227, 258] : List Nat).getD k 0
def lenExtra (k : Nat) : Nat := if k < 8 ∨ k = 28 then 0 else (k - 4) / 4
def distBase (k : Nat) : Nat := if k < 4 then k + 1 else 2 ^ ((k - 2) / 2) * (2 + k % 2) + 1
def distExtra (k : Nat) : Nat := if k < 2 then 0 else (k - 2) / 2

/-- Copy `n` bytes from `d` back. -/
def copyBack (d : Nat) : Nat → List Nat → List Nat
  | 0, r => r
  | n + 1, r => copyBack d n (r.getD (d - 1) 0 :: r)

/-- The symbols of a block up to its end. `win` bounds distances, `max` the output; `fuel` the symbols. -/
def infSyms (lit dist : Huff) (win max : Nat) : Nat → Inf → Inf × InfEnd
  | 0, x => (x, .bad)
  | fuel + 1, x =>
    match lit.sym x.bits with
    | .error e => (x, gotEnd e)
    | .ok (sy, bs) =>
      if sy < 256 then
        if max ≤ x.n then (x, .full)
        else infSyms lit dist win max fuel { x with bits := bs, rev := sy :: x.rev, n := x.n + 1 }
      else if sy = 256 then ({ x with bits := bs }, .done)
      else if 285 < sy then (x, .bad)
      else match takeBits (lenExtra (sy - 257)) bs with
        | .error e => (x, gotEnd e)
        | .ok (e, bs) =>
          let len := lenBase (sy - 257) + e
          match dist.sym bs with
          | .error e => (x, gotEnd e)
          | .ok (ds, bs) =>
            if 29 < ds then (x, .bad)
            else match takeBits (distExtra ds) bs with
              | .error e => (x, gotEnd e)
              | .ok (e, bs) =>
                let d := distBase ds + e
                if x.rev.length < d ∨ win < d then (x, .bad)
                else if max < x.n + len then
                  ({ x with rev := copyBack d (max - x.n) x.rev, n := max }, .full)
                else infSyms lit dist win max fuel { x with bits := bs, rev := copyBack d len x.rev, n := x.n + len }

/-- The fixed codes. -/
def fixedLit : Huff :=
  huffOf (List.replicate 144 8 ++ List.replicate 112 9 ++ List.replicate 24 7 ++ List.replicate 8 8)
def fixedDist : Huff := huffOf (List.replicate 30 5)

/-- The order of the code length codes. -/
def clOrder : List Nat := [16, 17, 18, 0, 8, 7, 9, 6, 10, 5, 11, 4, 12, 3, 13, 2, 14, 1, 15]

/-- Read `k` code length codes of 3 bits. -/
def readCl : Nat → List Bool → Got (List Nat × List Bool)
  | 0, bs => .ok ([], bs)
  | k + 1, bs => (takeBits 3 bs).bind fun r => (readCl k r.2).map fun t => (r.1 :: t.1, t.2)

/-- Read code lengths until `n` are known; `acc` newest first. -/
def readLens (h : Huff) (n : Nat) : Nat → List Nat → List Bool → Got (List Nat × List Bool)
  | 0, _, _ => .error false
  | fuel + 1, acc, bs =>
    if n ≤ acc.length then (if n < acc.length then .error false else .ok (acc.reverse, bs))
    else (h.sym bs).bind fun r =>
      if r.1 < 16 then readLens h n fuel (r.1 :: acc) r.2
      else if r.1 = 16 then
        (match acc with
          | [] => .error false
          | p :: _ => (takeBits 2 r.2).bind fun e => readLens h n fuel (List.replicate (3 + e.1) p ++ acc) e.2)
      else if r.1 = 17 then (takeBits 3 r.2).bind fun e => readLens h n fuel (List.replicate (3 + e.1) 0 ++ acc) e.2
      else (takeBits 7 r.2).bind fun e => readLens h n fuel (List.replicate (11 + e.1) 0 ++ acc) e.2

/-- The codes of a dynamic block. -/
def dynCodes (bs : List Bool) : Got (Huff × Huff × List Bool) :=
  (takeBits 5 bs).bind fun hl => (takeBits 5 hl.2).bind fun hd => (takeBits 4 hd.2).bind fun hc =>
  (readCl (hc.1 + 4) hc.2).bind fun cl =>
  let lens := (List.range 19).map fun sy => (((clOrder.zip cl.1).filter fun e => e.1 == sy).map (·.2)).headD 0
  let h := huffOf lens
  let nl := hl.1 + 257
  let nd := hd.1 + 1
  if huffLeft h ≠ some 0 ∨ 286 < nl ∨ 30 < nd then .error false
  else (readLens h (nl + nd) (nl + nd + 1) [] cl.2).bind fun r =>
    let lit := huffOf (r.1.take nl)
    let dist := huffOf (r.1.drop nl)
    if r.1.getD 256 0 = 0 ∨ !huffOk lit ∨ !huffOk dist then .error false else .ok (lit, dist, r.2)

/-- Drop the bits up to a byte boundary. -/
def alignBits (bs : List Bool) : List Bool := bs.drop (bs.length % 8)

/-- Take `n` whole bytes of aligned bits. -/
def takeBytes (n : Nat) (bs : List Bool) : List Nat :=
  (piecesOf 8 n (bs.take (8 * n))).map fun p => p.foldr (fun b v => bnat b + 2 * v) 0

/-- The blocks of a stream to the final one; `fuel` bounds the blocks. -/
def infBlocks (win max : Nat) : Nat → Inf → Inf × InfEnd
  | 0, x => (x, .bad)
  | fuel + 1, x0 =>
    let x := { x0 with blk := x0.bits.length }
    match takeBits 3 x.bits with
    | .error e => (x, gotEnd e)
    | .ok (h, bs) =>
      let next (r : Inf × InfEnd) : Inf × InfEnd :=
        match r.2 with
        | .done => if h % 2 = 1 then r else infBlocks win max fuel r.1
        | _ => r
      if h / 2 = 0 then
        let bs := alignBits bs
        match takeBits 16 bs with
        | .error e => (x, gotEnd e)
        | .ok (len, bs) =>
          match takeBits 16 bs with
          | .error e => (x, gotEnd e)
          | .ok (nlen, bs) =>
            if len + nlen ≠ 65535 then (x, .bad)
            else if bs.length < 8 * len then (x, .short)
            else
              let k := min len (max - x.n)
              let y := { x with bits := bs.drop (8 * len), rev := (takeBytes k bs).reverse ++ x.rev, n := x.n + k }
              if k < len then (y, .full) else next (y, .done)
      else if h / 2 = 1 then next (infSyms fixedLit fixedDist win max (bs.length + 1) { x with bits := bs })
      else if h / 2 = 2 then
        match dynCodes bs with
        | .error e => (x, gotEnd e)
        | .ok (lit, dist, bs) => next (infSyms lit dist win max (bs.length + 1) { x with bits := bs })
      else (x, .bad)

/-! ### Streams -/

/-- Why a decompression failed (R489, R494). -/
inductive DecErr where
  | format | check | full | dictId (id : Nat)
deriving DecidableEq, Repr

/-- The result of a decompression: the bytes, what ended it, the source offset of the failing block or header, the
source bytes taken, whether gzip data follow the first member, and whether the source ended before the stream did. -/
structure InflRes where
  out : List Nat
  err : Option DecErr := none
  off : Nat := 0
  taken : Nat := 0
  more : Bool := false
  short : Bool := false
deriving DecidableEq, Repr

/-- One raw DEFLATE stream at the start of `src`, which lies `off` bytes into the source; `dict` is the initial
window. -/
def inflateRaw (win max off : Nat) (dict src : List Nat) : InflRes :=
  let bits := bitsOfBytes src
  let (x, e) := infBlocks win max (bits.length + 1) { bits := bits, rev := dict.reverse, n := 0, blk := bits.length }
  let out := (x.rev.take x.n).reverse
  let taken := off + (bits.length - x.bits.length + 7) / 8
  match e with
  | .done => { out := out, taken := taken }
  | .bad => { out := out, err := some .format, off := off + (bits.length - x.blk) / 8, taken := taken }
  | .short => { out := out, err := some .format, off := off + (bits.length - x.blk) / 8, taken := taken, short := true }
  | .full => { out := out, err := some .full, taken := taken }

/-- zlib (R483, R484). -/
def inflateZlib (max : Nat) (dict : Option (List Nat)) (src : List Nat) : InflRes :=
  let cmf := src.getD 0 0
  let flg := src.getD 1 0
  if src.length < 2 then { out := [], err := some .format, short := true }
  else if cmf % 16 ≠ 8 ∨ 7 < cmf / 16 ∨ (cmf * 256 + flg) % 31 ≠ 0 then { out := [], err := some .format }
  else
    let fd := bitOf flg 5
    let id := natOfBe ((src.drop 2).take 4)
    let hdr := if fd then 6 else 2
    if fd && decide (src.length < 6) then { out := [], err := some .format, short := true }
    else if fd && !(dict.any fun d => adler32 d == id) then { out := [], err := some (.dictId id) }
    else
      let r := inflateRaw (2 ^ (cmf / 16 + 8)) max hdr (if fd then dict.getD [] else []) (src.drop hdr)
      match r.err with
      | some _ => r
      | none =>
        let t := (src.drop r.taken).take 4
        if t.length < 4 then { r with err := some .format, off := r.taken, short := true }
        else if natOfBe t ≠ adler32 r.out then { r with err := some .check, off := r.taken }
        else { r with taken := r.taken + 4 }

/-- Skip a zero-terminated field: the bytes after it. -/
def skipZ : List Nat → Got (List Nat)
  | [] => .error true
  | b :: l => if b = 0 then .ok l else skipZ l

/-- The bytes after a gzip header, if the header is good. -/
def gzipBody (src : List Nat) : Got (List Nat) :=
  let flg := src.getD 3 0
  if src.length < 10 then .error true
  else if src.getD 0 0 ≠ 0x1F ∨ src.getD 1 0 ≠ 0x8B ∨ src.getD 2 0 ≠ 8 ∨ 32 ≤ flg then .error false
  else
    let r := src.drop 10
    let r : Got (List Nat) :=
      if bitOf flg 2 then
        let n := natOfLe (r.take 2)
        if r.length < 2 + n then .error true else .ok (r.drop (2 + n))
      else .ok r
    let r := if bitOf flg 3 then r.bind skipZ else r
    let r := if bitOf flg 4 then r.bind skipZ else r
    if bitOf flg 1 then
      r.bind fun r =>
        let head := src.take (src.length - r.length)
        if r.length < 2 then .error true
        else if natOfLe (r.take 2) ≠ crc32 head % 65536 then .error false else .ok (r.drop 2)
    else r

/-- gzip (R483): the first member only. -/
def inflateGzip (max : Nat) (src : List Nat) : InflRes :=
  match gzipBody src with
  | .error e => { out := [], err := some .format, short := e }
  | .ok body =>
    let hdr := src.length - body.length
    let r := inflateRaw 32768 max hdr [] body
    match r.err with
    | some _ => r
    | none =>
      let t := (src.drop r.taken).take 8
      if t.length < 8 then { r with err := some .format, off := r.taken, short := true }
      else if natOfLe (t.take 4) ≠ crc32 r.out ∨ natOfLe (t.drop 4) ≠ r.out.length % 2 ^ 32 then
        { r with err := some .check, off := r.taken }
      else { r with taken := r.taken + 8, more := decide (r.taken + 8 < src.length) }

/-! ### The Pleat frame (R485, R487) -/

def le64At (d : List Nat) (o : Nat) : Nat := natOfLe ((d.drop o).take 8)
def le32At (d : List Nat) (o : Nat) : Nat := natOfLe ((d.drop o).take 4)

/-- One block at offset `o` of a frame: its bytes, or why it fails. -/
def pleatBlock (src : List Nat) (o : Nat) : Except DecErr (List Nat) :=
  let w := (src.drop o).take 16
  let clen := le64At w 0 % 2 ^ 17
  let ulen := bitsOf (le64At w 0) 48 32
  let raw := bitOf (le64At w 0) 49
  let data := (src.drop (o + 16)).take clen
  if w.length < 16 ∨ bitsOf (le64At w 0) 31 17 ≠ 0 ∨ bitsOf (le64At w 0) 63 50 ≠ 0
      ∨ crc32cN (w.take 12) ≠ le32At w 12 ∨ ulen = 0 ∨ 65536 < ulen ∨ data.length < clen then .error .format
  else
    let out : Option (List Nat) :=
      if raw then (if clen = ulen then some data else none)
      else
        let r := inflateRaw 32768 ulen 0 [] data
        if r.err.isNone ∧ r.out.length = ulen then some r.out else none
    match out with
    | none => .error .format
    | some out => if crc32cN out = le32At w 8 then .ok out else .error .check

/-- The length of the block at offset `o`, with its header and padding. -/
def pleatBlockLen (src : List Nat) (o : Nat) : Nat := 16 + (le64At (src.drop o) 0 % 2 ^ 17 + 7) / 8 * 8

/-- The blocks from block `k` at offset `o` on, up to block `n`: those with `first ≤ k < last` are decoded. The frame
offsets and uncompressed offsets of all are collected, newest first. -/
def pleatBlocks (src : List Nat) (max first last : Nat) : Nat → Nat → Nat → Nat → List Nat → List (Nat × Nat)
    → InflRes × List (Nat × Nat)
  | 0, _, o, _, out, ix => ({ out := out, taken := o }, ix)
  | n + 1, k, o, u, out, ix =>
    let len := pleatBlockLen src o
    let ulen := bitsOf (le64At (src.drop o) 0) 48 32
    let ix := (o, u) :: ix
    if first ≤ k ∧ k < last then
      match pleatBlock src o with
      | .error e => ({ out := out, err := some e, off := o, taken := o }, ix)
      | .ok b =>
        if max < out.length + b.length then
          ({ out := out ++ b.take (max - out.length), err := some .full, off := o, taken := o }, ix)
        else pleatBlocks src max first last n (k + 1) (o + len) (u + ulen) (out ++ b) ix
    else pleatBlocks src max first last n (k + 1) (o + len) (u + ulen) out ix

/-- Decode a Pleat frame; `cnt` = 0 decodes all of it, else the blocks `first` to `first + cnt` − 1 (R487). -/
def pleatDecode (max first cnt : Nat) (src : List Nat) : InflRes :=
  let bad (o : Nat) (e : DecErr) : InflRes := { out := [], err := some e, off := o }
  let n := src.length
  let h := le64At src 0
  let t := src.drop (n - 32)
  let nblk := le32At t 8
  let io := le64At t 24 % 2 ^ 40
  let ixBytes := (src.drop io).take (16 * nblk)
  let trailer : Option DecErr :=
    if bitsOf (le64At t 24) 63 40 ≠ 0x3A7E51 ∨ nblk = 0 ∨ 4096 < nblk then some .format
    else if crc32cN (t.take 12 ++ t.drop 16) ≠ le32At t 12 then some .check
    else if n ≠ io + 16 * nblk + 32 then some .format
    else if crc32cN ixBytes ≠ le32At t 20 then some .check
    else none
  if n < 48 ∨ h % 2 ^ 32 ≠ 0x544C5001 ∨ bitsOf h 39 32 ≠ 1 ∨ bitsOf h 63 43 ≠ 0 ∨ 4 < bitsOf h 42 40
      ∨ crc32cN (src.take 8) ≠ le32At src 8 ∨ le32At src 12 ≠ 0 then bad 0 .format
  else
    let all := cnt = 0 ∨ (first = 0 ∧ nblk ≤ cnt)
    match trailer with
    | some e =>
      if cnt ≠ 0 then bad (n - 32) e
      else
        -- the blocks are decoded before the trailer is checked
        let r := (pleatBlocks src max 0 4096 (min nblk 4096) 0 16 0 [] []).1
        (match r.err with
          | some _ => r
          | none => { r with err := some e, off := n - 32 })
    | none =>
      if cnt ≠ 0 ∧ nblk < first + cnt then bad (n - 32) .format
      else
        let (r, ix) := pleatBlocks src max (if cnt = 0 then 0 else first) (if cnt = 0 then nblk else first + cnt) nblk 0 16 0 [] []
        match r.err with
        | some _ => r
        | none =>
          let ixOk := ((ix.reverse.map fun e => leNats 8 e.1 ++ leNats 8 e.2).flatten) == ixBytes && r.taken == io
          if !ixOk then { r with err := some .format, off := io }
          else if all ∧ (crc32cN r.out ≠ le32At t 16 ∨ r.out.length ≠ le64At t 0) then { r with err := some .check, off := n - 32 }
          else { r with taken := n }

/-- Zeros up to a multiple of 8. -/
def pad8 (d : List Nat) : List Nat := d ++ List.replicate ((8 - d.length % 8) % 8) 0

/-- A block of a Pleat frame: RAW when the coded form is not smaller (R485). -/
def pleatEncBlock (coded plain : List Nat) : List Nat :=
  let raw := decide (plain.length ≤ coded.length)
  let data := if raw then plain else coded
  let w := leNats 8 (data.length + plain.length * 2 ^ 32 + bnat raw * 2 ^ 49) ++ leNats 4 (crc32cN plain)
  pad8 (w ++ leNats 4 (crc32cN w) ++ data)

/-- Header and blocks, and index and trailer, of a Pleat frame with the blocks `bs`; `code` gives the coded form of each. -/
def pleatParts (code : List Nat → List Nat) (blk : Nat) (bs : List (List Nat)) : List Nat × List Nat :=
  let d := bs.flatten
  let h := leNats 8 (0x544C5001 + 2 ^ 32 + blk * 2 ^ 40)
  let enc := bs.map fun b => pleatEncBlock (code b) b
  let ix := (enc.zip bs).foldl (fun (a : List Nat × Nat × Nat) e =>
    (a.1 ++ leNats 8 a.2.1 ++ leNats 8 a.2.2, a.2.1 + e.1.length, a.2.2 + e.2.length)) ([], 16, 0)
  let w0 := leNats 8 d.length
  let w1 := leNats 4 bs.length
  let w2 := leNats 4 (crc32cN d) ++ leNats 4 (crc32cN ix.1)
  let w3 := leNats 8 (ix.2.1 + 0x3A7E51 * 2 ^ 40)
  (h ++ leNats 8 (crc32cN h) ++ enc.flatten, ix.1 ++ w0 ++ w1 ++ leNats 4 (crc32cN (w0 ++ w1 ++ w2 ++ w3)) ++ w2 ++ w3)

/-- The pieces of at most `k` bytes of a byte list. -/
def cutAt (k : Nat) (d : List Nat) : List (List Nat) := piecesOf k (d.length / k + 1) d

/-- The blocks of `k` bytes that an input is cut into: a block ends at the block size, at a flush position and at the end of the
stream; what does not end stays in the context (R486). -/
def pleatCut (k : Nat) (flushes : List Nat) (final : Bool) (d : List Nat) : List (List Nat) :=
  let (bs, at_) := flushes.foldl (fun (a : List (List Nat) × Nat) f => (a.1 ++ cutAt k ((d.take f).drop a.2), f)) ([], 0)
  let rest := cutAt k (d.drop at_)
  bs ++ if final then rest else rest.filter fun b => b.length == k

/-- A Pleat frame over blocks of 2^(12 + `blk`) bytes; `code` gives the coded form of each block. -/
def pleatEncode (code : List Nat → List Nat) (blk : Nat) (d : List Nat) : List Nat :=
  let r := pleatParts code blk (cutAt (2 ^ (12 + blk)) d)
  r.1 ++ r.2

/-- The blocks at the start of a Pleat frame that is not whole yet, from offset `o` on, with their bytes: up to the first place
where no whole good block header with its data stands. -/
def pleatSoFar (max : Nat) : Nat → List Nat → Nat → List Nat → InflRes
  | 0, _, o, out => { out := out, taken := o }
  | n + 1, src, o, out =>
    let w := (src.drop o).take 16
    if w.length < 16 ∨ src.length < o + pleatBlockLen src o ∨ crc32cN (w.take 12) ≠ le32At w 12 then { out := out, taken := o }
    else match pleatBlock src o with
      | .error e => { out := out, err := some e, off := o, taken := o }
      | .ok b =>
        if max < out.length + b.length then { out := out ++ b.take (max - out.length), err := some .full, off := o, taken := o }
        else pleatSoFar max n src (o + pleatBlockLen src o) (out ++ b)

/-- A Pleat frame of which more is to come: its header is checked once it is there, then the blocks that have come. -/
def pleatPrefix (max : Nat) (src : List Nat) : InflRes :=
  let h := le64At src 0
  if src.length < 16 then { out := [] }
  else if h % 2 ^ 32 ≠ 0x544C5001 ∨ bitsOf h 39 32 ≠ 1 ∨ bitsOf h 63 43 ≠ 0 ∨ 4 < bitsOf h 42 40
      ∨ crc32cN (src.take 8) ≠ le32At src 8 ∨ le32At src 12 ≠ 0 then { out := [], err := some .format }
  else pleatSoFar max 4096 src 16 []

end Sys2Proof.Machine
end

