-- ==== Sys2Proof/Machine/Pleat.lean ====
section
/-! DEFINITION. Pleat (17_pleat_compression.md, R480–R499): memory-to-memory commands and engine control. The bytes the
compressor codes are free (`Config.deflate`); formats, frames, check values and decoding are computed. -/

namespace Sys2Proof.Machine

/-- Fields of CTL (R492). -/
def EngCmd.fmt (c : EngCmd) : Nat := bitsOf c.ctl 7 4
def EngCmd.blksz (c : EngCmd) : Nat := bitsOf c.ctl 10 8
def EngCmd.hold (c : EngCmd) : Bool := bitOf c.ctl 12
def EngCmd.flush (c : EngCmd) : Bool := bitOf c.ctl 13
def EngCmd.final (c : EngCmd) : Bool := bitOf c.ctl 14
def EngCmd.cont (c : EngCmd) : Bool := bitOf c.ctl 15
def EngCmd.check (c : EngCmd) : Bool := bitOf c.ctl 16
def EngCmd.dstlen (c : EngCmd) : Nat := c.word 16 / 2 ^ 32
def EngCmd.ctx (c : EngCmd) : Nat := c.word 32
def EngCmd.aux (c : EngCmd) : Nat := c.word 40
def EngCmd.dict (c : EngCmd) : Nat := c.word 48
def EngCmd.dictlen (c : EngCmd) : Nat := if c.fmt = 1 then c.aux else 0

/-- The size of a stream context (R493). -/
def streamSize : Nat := 135168

/-- The word offset of the first field at which a command breaks a rule of R484, R489 or R492 (ARG). -/
def EngCmd.argBad (c : EngCmd) : Option Nat :=
  let comp := c.op == 1
  let auxOk :=
    if c.fmt = 0 then (c.check && !comp && decide (c.aux < 2 ^ 32)) || c.aux == 0
    else if c.fmt = 1 then decide (c.aux ≤ 32768)
    else if c.fmt = 3 then !comp || c.aux == 0
    else c.aux == 0
  let rs : List (Nat × Nat) := [(c.src, c.srclen), (c.dst, c.dstlen)]
    ++ (if c.ctx = 0 then [] else [(c.ctx, streamSize)]) ++ (if c.dictlen = 0 then [] else [(c.dict, c.dictlen)])
  let lap := (List.range rs.length).any fun i => (List.range i).any fun j =>
    overlaps (rs.getD i (0, 0)).1 (rs.getD i (0, 0)).2 (rs.getD j (0, 0)).1 (rs.getD j (0, 0)).2
  if !(c.op == 1 || c.op == 2) || decide (3 < c.fmt) || bitOf c.ctl 11 || bitsOf c.ctl 31 18 != 0 || bitsOf c.ctl 63 48 != 0
      || (comp && c.fmt == 3 && decide (4 < c.blksz)) then some 0x00
  else if !auxOk then some 0x28
  else if c.dict ≠ 0 ∧ c.fmt ≠ 1 then some 0x30
  else if c.ctx % 4096 ≠ 0 ∨ (c.ctx = 0 ∧ (c.cont || (comp && !c.final))) then some 0x20
  else if c.op = 2 ∧ c.fmt = 3 ∧ c.ctx ≠ 0 ∧ c.aux / 2 ^ 32 ≠ 0 then some 0x28 -- a range needs the whole frame (log entry 20)
  else if c.op == 2 && c.hold && decide (c.fmt < 3) && decide (2 ^ 20 < c.dstlen) then some 0x10
  else if comp && c.fmt == 3 && decide (4096 * 2 ^ (12 + c.blksz) < c.srclen) then some 0x10
  else if lap then some 0x18
  else none

/-- The output of a compression stream whose input so far is `d`, flushed at `flushes`; `final`: it ends here (R483, R485,
R486). -/
def pleatCompress (fmt blk : Nat) (dict flushes : List Nat) (final : Bool) (d : List Nat) : List Nat :=
  let body := Config.deflate fmt blk dict flushes final d
  let tail (t : List Nat) : List Nat := if final then t else []
  if fmt = 0 then body
  else if fmt = 1 then
    (if dict.isEmpty then [0x78, 0x9C] else [0x78, 0xBB] ++ beNats 4 (adler32 dict)) ++ body ++ tail (beNats 4 (adler32 d))
  else if fmt = 2 then
    [0x1F, 0x8B, 8, 0, 0, 0, 0, 0, 0, 0xFF] ++ body ++ tail (leNats 4 (crc32 d) ++ leNats 4 (d.length % 2 ^ 32))
  else
    let r := pleatParts (Config.deflate 3 blk [] [] true) blk (pleatCut (2 ^ (12 + blk)) flushes final d)
    r.1 ++ tail r.2

/-- The result of a one-shot decompression (R483, R487, R489). -/
def EngCmd.decode (c : EngCmd) (dict d : List Nat) : InflRes :=
  if c.fmt = 0 then
    let r := inflateRaw 32768 c.dstlen 0 [] d
    if c.check && r.err.isNone && crc32cN r.out != c.aux then { r with err := some .check } else r
  else if c.fmt = 1 then inflateZlib c.dstlen (if c.dictlen = 0 then none else some dict) d
  else if c.fmt = 2 then inflateGzip c.dstlen d
  else pleatDecode c.dstlen (c.aux % 2 ^ 32) (c.aux / 2 ^ 32) d

/-- The result for a stream whose source so far is `d` and of whose output `made` bytes have been written: all its output, and
what fails. Source that ends early fails only a command with FINAL = 1 (log entry 20). -/
def EngCmd.decodeStream (c : EngCmd) (dict : List Nat) (made : Nat) (d : List Nat) : InflRes :=
  let max := made + c.dstlen
  let r := if c.fmt = 0 then inflateRaw 32768 max 0 [] d
    else if c.fmt = 1 then inflateZlib max (if dict.isEmpty then none else some dict) d
    else if c.fmt = 2 then inflateGzip max d
    else
      let r := pleatDecode max 0 0 d
      if r.err.isNone || c.final then r else pleatPrefix max d
  let r := if r.err == some .format && r.short && !c.final then { r with err := none, taken := d.length } else r
  if c.fmt = 0 && c.check && r.err.isNone && crc32cN (r.out.drop made) != c.aux then { r with err := some .check } else r

/-- The status of a decompression result. -/
def InflRes.status (r : InflRes) (hold : Bool) (fmt : Nat) : EngStatus :=
  let n := if r.err.isSome && hold && decide (fmt < 3) then 0 else r.out.length
  let base : EngStatus := { code := 1, w1 := r.taken, w2 := n, w3 := crc32cN r.out }
  match r.err with
  | none => if r.more then { base with code := 6 } else base
  | some .format => { base with code := 3, detail := r.off }
  | some .check => { base with code := 4, detail := r.off }
  | some .full => { base with code := 2 }
  | some (.dictId id) => { base with code := 5, detail := id }

/-- The stream context at a command's CTX: where it lies, and the stream it holds when its header is valid (R493). -/
def State.streamAt (s : State) (h : HubAgent) (c : EngCmd) : State × Option (Nat × Option StreamCtx) :=
  let (s, mp) := match h.part with
    | some n => (match s.hub2 h n c.ctx accStore with
      | (s, some (mp, _)) => (s, some mp)
      | (s, none) => (s, none))
    | none => (s, some c.ctx)
  match mp with
  | none => (s, none)
  | some mp =>
    let st := (AMap.get none s.eng.streams mp).filter fun x => x.header == (s.peek mp 256).map (·.toNat)
    (s, some (mp, st))

/-- The module writes a stream context (R493): its layout inside is not given, so its bytes are free; the module knows
the stream again by the header it wrote. -/
def State.streamWrite (s : State) (h : HubAgent) (c : EngCmd) (mp : Nat) (x : StreamCtx) : State × HubRes :=
  let bs := Config.freeBytes s.fresh
  let bs := (bs ++ List.replicate (streamSize - bs.length) 0).take streamSize
  let s := { s with fresh := s.fresh + 1 }
  match s.opWrite h c.ctx bs with
  | (s, .done _) =>
    let x := { x with header := (bs.take 256).map (·.toNat) }
    (s.onEng fun e => { e with streams := AMap.set none e.streams mp (some x) }, .done [])
  | r => r

/-- A command on a stream context (R486, R493): it continues the stream that the context holds, or starts one; what it writes is
what the stream's whole history gives beyond the bytes written before (log entry 20). The context is written only where the
command ends OK or MEMBERS. -/
def State.runStream (s : State) (u i : Nat) (c : EngCmd) (dict src : List Nat) : State :=
  let h := EngKind.pleat.agent u c.part
  match s.streamAt h c with
  | (s, none) => s.engFault .pleat u i c 8 3 c.ctx
  | (s, some (mp, st)) =>
    let st := if c.cont then st.filter fun x => x.fmt == c.fmt && x.blk == c.blksz && x.op == c.op
      else some { fmt := c.fmt, blk := c.blksz, op := c.op, dict := dict, header := [] }
    match st with
    | none => s.engEnd .pleat u i c { code := 9 } true
    | some x =>
      let inp := x.inp ++ src
      let fl := if c.flush then x.flushes ++ [inp.length] else x.flushes
      if c.op = 1 ∧ c.fmt = 3 ∧ 4096 < (pleatCut (2 ^ (12 + c.blksz)) fl true inp).length then
        s.engEnd .pleat u i c { code := 0x0B, detail := 0x10 } true
      else
        let r : InflRes := if c.op = 1 then { out := pleatCompress c.fmt c.blksz x.dict fl c.final inp, taken := inp.length }
          else c.decodeStream x.dict x.produced inp
        let r := if c.op = 1 ∧ x.produced + c.dstlen < r.out.length then
            { r with err := some .full, out := r.out.take (x.produced + c.dstlen) } else r
        let out := r.out.drop x.produced
        let s1 := { r with out := out, off := r.off - x.inp.length, taken := r.taken - x.inp.length }.status c.hold c.fmt
        let s1 := if c.op = 1 then { s1 with w3 := crc32cN src } else s1
        match s.opWrite h c.dst ((out.take s1.w2).map (BitVec.ofNat 8)) with
        | (s, .done _) =>
          if r.err.isSome then s.engEnd .pleat u i c s1 true
          else
            (match s.streamWrite h c mp { x with inp := inp, flushes := fl, produced := r.out.length } with
              | (s, .done _) => s.engEnd .pleat u i c s1 true
              | (s, _) => s.engFault .pleat u i c 8 3 c.ctx)
        | (s, _) => s.engFault .pleat u i c 8 2 c.dst

/-- A command runs on engine `u` (R488, R489, R492). `bad` of its comparisons fail, in block `blk`. -/
def State.runPleat (s : State) (u i bad blk : Nat) (c : EngCmd) : State :=
  let h := EngKind.pleat.agent u c.part
  let stop (s : State) (st : EngStatus) : State := s.engEnd .pleat u i c st true
  match c.argBad with
  | some o => stop s { code := 0x0B, detail := o }
  | none =>
    match s.opRead h c.src c.srclen with
    | (s, .done src) =>
      let src := src.map (·.toNat)
      (match s.opRead h c.dict c.dictlen with
        | (s, .done dict) =>
          let dict := dict.map (·.toNat)
          let (s, lost) := if c.op = 1 then s.runChecks .pleat u bad else (s, false)
          if lost then stop s { code := 7, detail := blk }
          else if c.ctx ≠ 0 then s.runStream u i c dict src
          else if c.op = 1 then
            let out := pleatCompress c.fmt c.blksz dict (if c.flush then [src.length] else []) true src
            if c.dstlen < out.length then stop s { code := 2, w1 := src.length, w2 := c.dstlen, w3 := crc32cN src }
            else match s.opWrite h c.dst (out.map (BitVec.ofNat 8)) with
              | (s, .done _) => stop s { code := 1, w1 := src.length, w2 := out.length, w3 := crc32cN src }
              | (s, _) => s.engFault .pleat u i c 8 2 c.dst
          else
            let r := c.decode dict src
            let st := r.status c.hold c.fmt
            match s.opWrite h c.dst ((r.out.take st.w2).map (BitVec.ofNat 8)) with
            | (s, .done _) => stop s st
            | (s, _) => s.engFault .pleat u i c 8 2 c.dst
        | (s, _) => s.engFault .pleat u i c 8 4 c.dict)
    | (s, _) => s.engFault .pleat u i c 8 1 c.src

/-- The command at place `i` runs on engine `u`, if it may. -/
def State.pleatRun (s : State) (u i op bad blk : Nat) : State :=
  match s.engReady .pleat u i op with
  | some c => s.runPleat u i bad blk c
  | none => s

/-- PLEATSUB: context `c` writes ADDR of PART[n].PLEATSUB. -/
def execPleatsub (c n : Nat) (addr : Word) (s : State) : Res :=
  .next (if !s.up then s
    else if s.partReach c n then s.engSubmit .pleat (some n) (bitsOf addr.toNat 45 6 * 64)
    else s.ctxFault c (controlBase + 0x200068 + 1024 * n))

/-- PLEAT_FWSUB: firmware context `c` writes ADDR of PLEAT.FWSUB. -/
def execPleatFwsub (c : Nat) (addr : Word) (s : State) : Res :=
  .next (if !s.up then s
    else if isFw c then s.engSubmit .pleat none (bitsOf addr.toNat 51 6 * 64)
    else s.ctxFault c (controlBase + PLEAT_FWSUB.ADDR.off))

def execPleatCompress (i e bad blk : Nat) (s : State) : Res := .next (s.pleatRun e i 1 bad blk)
def execPleatDecompress (i e : Nat) (s : State) : Res := .next (s.pleatRun e i 2 0 0)

/-- PLEAT_ENG_RESET: OP 1 of engine `e`; `pass` is its self-test. -/
def execPleatEngReset (e : Nat) (pass : Bool) (s : State) : Res :=
  .next (if s.up && decide (e < 32) then s.unitReset .pleat e pass else s)
def execPleatEngOut (e : Nat) (s : State) : Res := .next (if s.up then s.unitTakeOut .pleat e else s)

end Sys2Proof.Machine
end

