-- ==== Sys2Proof/Machine/Txn.lean ====
section
/-! DEFINITION. Accepted transactions from the durability vote to retirement, and what binds, rebinds and acknowledges
ring pairs (01, R30–R39; 13, R346–R375; 14, R391–R394; 17, R490–R491; 18, R502, R511, R513). -/

namespace Sys2Proof.Machine

/-- Channel attachment: RINGSTAT.ATTACH 0 UP, 1 WAITING, 2 DETACHED (R368, R377). -/
def State.attach (s : State) (n : Nat) : Nat := s.fget (CHAN_RINGSTAT.ATTACH n)

/-! ### Settling (R363, R389) -/

/-- The outcome of a transaction is decided: its ANSWERED word is issued. `outcome` 1 DONE, 2 NOT_REDRIVABLE,
3 INDETERMINATE; `value` ASTATUS or DETAIL. A reservation not used is released (R511). -/
def State.settleTxn (s : State) (tsn outcome value : Nat) (rlen : Nat := 0) (detail : Nat := 0) : State :=
  match s.txn tsn with
  | none => s
  | some x =>
    let s := s.unqueue x.chan tsn
    let s := if x.reserved = 0 then s else s.uncountUse (dKeySlot x.ctl) x.reserved
    let w := markWord (s.passOf x) tsn codeAnswered (outcome + value % 2 ^ 16 * 4 + rlen % 2 ^ 17 * 2 ^ 19)
    s.setTxn tsn { x with stage := .settled, ansWord := w, detail := detail, reserved := 0, payload := [], reply := [] }

/-- A failure of a read or write for a transaction (R357, R363). -/
def State.settleFail (s : State) (tsn : Nat) (x : Txn) (r : HubRes) : State :=
  match r with
  | .done _ => s
  | .fault => s.settleTxn tsn 3 3
  | .outside => s.settleTxn tsn 3 8
  | .poison => s.settleTxn tsn (if x.vital then 3 else 2) 5
  | .lost => s.settleTxn tsn (if x.vital then 3 else 2) 6

/-! ### Sending (R392, R456, R458) -/

/-- The frames of a transaction whose SENT mark is durable are queued. -/
def State.sendTxn (s : State) (tsn : Nat) : State :=
  match s.txn tsn with
  | none => s
  | some x =>
    let m := match x.lane with
      | some m => if s.laneUp m then m else s.pickLane x.chan -- the lane went DOWN between issue of SENT and its durability (R37)
      | none => s.pickLane x.chan
    let x := { x with lane := if s.split x.chan then some m else none, stage := .sent, lastA := none, lastB := none }
    let s := s.setTxn tsn x
    (s.txnFrames tsn x).foldl (fun s f => s.queueSeq x.chan m f) s

/-- A transaction is ready to be sent: with its channel UP its SENT mark is issued, or its frames are queued where the
mark is durable already; on a DETACHED channel it is settled (R368, R392). -/
def State.readyTxn (s : State) (tsn : Nat) : State :=
  match s.txn tsn with
  | none => s
  | some x =>
    let n := x.chan
    let s := s.setTxn tsn { x with stage := .ready }
    if s.attach n = 2 then s.settleTxn tsn 3 1
    else if s.attach n ≠ 0 ∨ s.fbit (CHAN_STAT.FENCED n) then s
    else if x.sentDur then s.sendTxn tsn
    else if x.sentWord ≠ 0 then s
    else
      let m := s.pickLane n
      let paths := if s.split n then 1 + pathOf m else bnat (s.laneUp n) + bnat (s.laneUp (n + 256)) * 2
      let w := markWord (s.passOf x) tsn codeSent paths
      s.setTxn tsn { x with stage := .ready, sentWord := w, lane := if s.split n then some m else none }

/-- After Pleat: to Cloak, or ready (R490, R502). -/
def State.afterCompress (s : State) (tsn : Nat) : State :=
  match s.txn tsn with
  | none => s
  | some x =>
    if bitOf x.ctl 7 && !x.payload.isEmpty then
      if xtsShort (s.slot (dKeySlot x.ctl)).unitBytes x.payload.length then s.settleTxn tsn 3 4
      else s.setTxn tsn { x with stage := .encrypt }
    else s.readyTxn tsn

/-- After the last read: to Pleat, or on. -/
def State.afterFetch (s : State) (tsn : Nat) : State :=
  match s.txn tsn with
  | none => s
  | some x =>
    if bitOf x.ctl 6 && !x.payload.isEmpty then s.setTxn tsn { x with stage := .compress } else s.afterCompress tsn

def segTotal (l : List (Nat × Nat)) : Nat := (l.map (·.2)).foldl (· + ·) 0

/-- The scatter segments are checked before any segment is read (R355–R357). -/
def State.scatterCheck (s : State) (x : Txn) : State × HubRes :=
  x.scatter.foldl (fun acc e =>
    match acc with
    | (s, .done _) => s.hubCheckW (triadFor x.part) x.part e.1 e.2 1 x.vital
    | r => r) (s, .done [])

/-- A transaction whose chain has been read: its scatter segments are checked, and one with nothing left to read goes on. -/
def State.advance (s : State) (tsn : Nat) : State :=
  match s.txn tsn with
  | none => s
  | some x =>
    if x.chain ≠ dNchain x.ctl then s
    else match s.scatterCheck x with
      | (s, .done _) => if segTotal x.gather = 0 then s.afterFetch tsn else s
      | (s, r) => s.settleFail tsn x r

/-- A transaction starts to be driven: chain and segments from the inline descriptor (R352, R394). -/
def State.drive (s : State) (tsn : Nat) : State :=
  match s.txn tsn with
  | none => s
  | some x =>
    let w (i : Nat) : Nat := (x.desc.getD i 0).toNat
    let seg (a n : Nat) : List (Nat × Nat) := if n = 0 then [] else [(a, n)]
    let s := s.setTxn tsn { x with
      stage := .fetch, chain := 0, next := w 2, gather := seg (w 3) (w 4), scatter := seg (w 5) (w 6),
      payload := [], comp := false, enc := false, frags := [], fragsN := 0, reply := [] }
    if s.attach x.chan = 2 then s.settleTxn tsn 3 1 else s.advance tsn

/-- The transaction is driven again with its TSN (R37): its frames carry REDRIVE. -/
def State.redrive (s : State) (tsn : Nat) : State :=
  match s.txn tsn with
  | none => s
  | some x => ((s.unqueue x.chan tsn).setTxn tsn { x with redrive := true, lane := none }).drive tsn

/-! ### Reads (R355–R357) -/

/-- A chained descriptor against R355 and R356: the next PR and the segments, gather and scatter. -/
def chainParse (x : Txn) (bs : List Byte) : Option (Nat × List (Nat × Nat) × List (Nat × Nat)) :=
  let w (i : Nat) : Nat := leNat ((bs.drop (8 * i)).take 8)
  let nseg := w 0 % 4
  let last := x.chain + 1 == dNchain x.ctl
  let segs := (List.range nseg).map fun i => (w (2 + 2 * i), w (3 + 2 * i))
  let scat := fun (e : Nat × Nat) => bitOf e.2 32
  let ok := w 0 < 4 ∧ nseg ≤ 3
    ∧ (if last then w 1 = 0 else w 1 ≠ 0 ∧ w 1 % 64 = 0)
    ∧ ((upFrom nseg (3 - nseg)).all fun i => w (2 + 2 * i) == 0 && w (3 + 2 * i) == 0)
    ∧ (segs.all fun e => decide (e.2 < 2 ^ 33) && decide (e.2 % 2 ^ 32 ≤ 65536) && (x.ctl % 16 == 1 || !scat e))
  let len := fun (e : Nat × Nat) => (e.1, e.2 % 2 ^ 32)
  let g := x.gather ++ ((segs.filter fun e => !scat e).map len).filter fun e => e.2 ≠ 0
  let c := x.scatter ++ ((segs.filter scat).map len).filter fun e => e.2 ≠ 0
  if ok ∧ segTotal g ≤ 65536 ∧ segTotal c ≤ 65536 then some (w 1, g, c) else none

/-- Read every gather segment in order. -/
def State.gatherAll (s : State) (x : Txn) : State × HubRes :=
  x.gather.foldl (fun acc e =>
    match acc with
    | (s, .done bs) =>
      (match s.hubReadPR (triadFor x.part) x.part e.1 e.2 1 x.vital with
        | (s, .done b) => (s, .done (bs ++ b))
        | r => r)
    | r => r) (s, .done [])

/-- The next read of a transaction returns and is checked (R357): a chained descriptor, or the whole payload. -/
def State.fetchStep (s : State) (tsn : Nat) (x : Txn) : State :=
  if x.chain < dNchain x.ctl then
    match s.hubReadPR (triadFor x.part) x.part x.next 64 0 x.vital with
    | (s, .done bs) =>
      (match chainParse x bs with
        | some (nx, g, c) => (s.setTxn tsn { x with chain := x.chain + 1, next := nx, gather := g, scatter := c }).advance tsn
        | none => s.settleTxn tsn 3 4)
    | (s, r) => s.settleFail tsn x r
  else
    match s.gatherAll x with
    | (s, .done bs) => (s.setTxn tsn { x with payload := bs.map (·.toNat) }).afterFetch tsn
    | (s, r) => s.settleFail tsn x r

/-- Does the triad drive this accepted transaction now: also while no doorbell lands (R560); in Shutter an ordinary
transaction waits for the exit (R55)? -/
def State.drives (s : State) (x : Txn) : Bool :=
  s.up && s.fget TRIAD_STAT.MODE ≤ 1 && (!s.closed || (s.cur == 4 && x.vital))

/-- DESCRIPTOR_FETCH_DONE. -/
def execDescriptorFetchDone (tsn : Nat) (s : State) : Res :=
  .next (match s.txn tsn with
    | some x => if s.drives x then
        (if x.stage = .fetch then s.fetchStep tsn x else s) else s
    | none => s)

/-! ### Pleat and Cloak in line (R488, R490, R491, R502, R511, R513) -/

/-- INLINE_COMPRESS on engine `e`: the payload becomes one Pleat frame. `bad` of the comparisons fail. -/
def execInlineCompress (tsn e bad : Nat) (s : State) : Res :=
  .next (match s.txn tsn with
    | none => s
    | some x =>
      if !s.up || x.stage != .compress then s
      else if s.fget PLEAT_STAT.ENGUP = 0 then s.settleTxn tsn 3 7
      else if !s.fbit PLEAT_CTL.EN || !s.unitUp .pleat e || !s.inlineMay .pleat then s
      else
        let (s, lost) := s.runChecks .pleat e bad
        if lost then s.settleTxn tsn 3 7
        else
          let blk := min 4 (s.fget PLEAT_CTL.INBLK)
          let out := pleatEncode (Config.deflate 3 blk [] [] true) blk x.payload
          (s.setTxn tsn { x with payload := out, comp := true }).afterCompress tsn)

/-- INLINE_ENCRYPT on lane `l`: the reservation becomes the actual count. -/
def execInlineEncrypt (tsn l bad : Nat) (s : State) : Res :=
  .next (match s.txn tsn with
    | none => s
    | some x =>
      let k := dKeySlot x.ctl
      if !s.up || x.stage != .encrypt then s
      else if s.fget CLOAK_LANEUP.LANEUP = 0 then s.settleTxn tsn 3 7
      else if !s.fbit CLOAK_CTL.EN || !s.unitUp .cloak l || !s.inlineMay .cloak then s
      else
        let (s, lost) := s.runChecks .cloak l bad
        if lost then s.settleTxn tsn 3 7
        else
          let (s, out) := s.xtsJob l k true (x.desc.getD 1 0).toNat x.payload
          let s := if x.reserved = 0 then s else s.uncountUse k x.reserved
          let s := s.countUse k (xtsBlocks (s.slot k).unitBytes x.payload.length)
          (s.setTxn tsn { x with payload := out, enc := true, reserved := 0 }).readyTxn tsn)

/-- Scatter a reply (R355, R363): the bytes that fit. -/
def State.scatterReply (s : State) (tsn : Nat) (reply : List Nat) : State :=
  match s.txn tsn with
  | none => s
  | some x =>
    let cap := segTotal x.scatter
    let kept := (reply.take cap).map (BitVec.ofNat 8)
    let go := x.scatter.foldl (fun (acc : State × HubRes × List Byte) e =>
      match acc with
      | (s, .done _, bs) =>
        let (s, r) := s.hubWritePR (triadFor x.part) x.part e.1 (bs.take e.2) 1 x.vital
        (s, r, bs.drop e.2)
      | r => r) (s, .done [], kept)
    match go with
    | (s, .done _, _) => s.settleTxn tsn 1 x.astatus kept.length (if cap < reply.length then 0x000A else 0)
    | (s, r, _) => s.settleFail tsn x r

/-- After decryption of a reply: to Pleat, or scattered. -/
def State.afterDecrypt (s : State) (tsn : Nat) : State :=
  match s.txn tsn with
  | none => s
  | some x =>
    if bitOf x.ctl 9 then s.setTxn tsn { x with stage := .decompress } else s.scatterReply tsn x.reply

/-- A SEND's whole reply has come (R460, R491, R502). -/
def State.replyComplete (s : State) (tsn : Nat) : State :=
  match s.txn tsn with
  | none => s
  | some x =>
    if bitOf x.ctl 8 && !x.reply.isEmpty then
      if xtsShort (s.slot (dKeySlot x.ctl)).unitBytes x.reply.length then s.settleTxn tsn 3 7
      else s.setTxn tsn { x with stage := .decrypt }
    else s.afterDecrypt tsn

/-- INLINE_DECRYPT on lane `l`. -/
def execInlineDecrypt (tsn l bad : Nat) (s : State) : Res :=
  .next (match s.txn tsn with
    | none => s
    | some x =>
      if !s.up || x.stage != .decrypt then s
      else if s.fget CLOAK_LANEUP.LANEUP = 0 then s.settleTxn tsn 3 7
      else if !s.fbit CLOAK_CTL.EN || !s.unitUp .cloak l || !s.inlineMay .cloak then s
      else
        let (s, lost) := s.runChecks .cloak l bad
        if lost then s.settleTxn tsn 3 7
        else
          let (s, out) := s.xtsJob l (dKeySlot x.ctl) false (x.desc.getD 1 0).toNat x.reply
          (s.setTxn tsn { x with reply := out }).afterDecrypt tsn)

/-- INLINE_DECOMPRESS on engine `e`: with hold; a frame that fails a check scatters nothing. -/
def execInlineDecompress (tsn e : Nat) (s : State) : Res :=
  .next (match s.txn tsn with
    | none => s
    | some x =>
      if !s.up || x.stage != .decompress then s
      else if s.fget PLEAT_STAT.ENGUP = 0 then s.settleTxn tsn 3 7
      else if !s.fbit PLEAT_CTL.EN || !s.unitUp .pleat e || !s.inlineMay .pleat then s
      else
        let r := pleatDecode (2 ^ 32) 0 0 x.reply
        if r.err.isSome then s.settleTxn tsn 3 7 else s.scatterReply tsn r.out)

/-! ### The durability vote (R30, R384) -/

/-- Is a record durable on every die in service? -/
def State.flightDurable (s : State) (f : Flight) : Bool :=
  (s.hOk 0 || s.hOk 1) && (!s.hOk 0 || f.d0) && (!s.hOk 1 || f.d1)

/-- HEM.LAT keeps the longest time observed; how long an operation took is free (R383, R392, log entry 11). -/
def State.noteLat (s : State) (f : Field) : State :=
  ({ s with fresh := s.fresh + 1 }).fset f (max (s.fget f) (Config.freeElapsed s.fresh % 2 ^ 16))

/-- A transaction is accepted: its accept record is written and its drive begins (R30, R358). -/
def State.accept (s : State) (f : Flight) : State :=
  let x : Txn := { slot := f.slot, hdr := f.jr.hdr, desc := f.jr.desc }
  let ctl := x.ctl
  let x := { x with reserved := if bitOf ctl 7 then 4352 else 0 }
  let s := if bitOf ctl 7 || bitOf ctl 8 then s.fadd (CLOAK_SLOTST.PINS (dKeySlot ctl)) 1 else s
  let s := (((s.setTxn f.jr.tsn x).updJ).noteLat HEM_LAT.MAXACC).mirRec f.jr.tsn f.slot
  (s.putEntry x.ring (acceptEntry f.jr.tsn x)).drive f.jr.tsn

/-- Durability votes pass in TSN order, as far as the records are durable (R384). -/
def State.voteAll (s : State) : State :=
  (s.triad.flights.foldl (fun (acc : State × Bool) f =>
    let (s, go) := acc
    if go && s.flightDurable f then
      ((s.onTriad fun t => { t with flights := t.flights.drop 1 }).accept f, true)
    else (s, false)) (s, true)).1.landAll

/-- HEM_WRITE_DURABLE: the dies named report the record of `tsn` durable. -/
def execHemWriteDurable (tsn : Nat) (h0 h1 : Bool) (s : State) : Res :=
  .next (if !s.up || decide (2 ≤ s.fget TRIAD_STAT.MODE) then s
  else
    let put (s : State) (i : Nat) (f : Flight) : State := if s.hWritten i then (s.setJrec i f.slot (some f.jr)).wearWrite i (128 * f.slot) else s
    match firstThat (fun f => f.jr.tsn == tsn) s.triad.flights with
    | none => s
    | some f =>
      let s := if h0 then put s 0 f else s
      let s := if h1 then put s 1 f else s
      let s := s.onTriad fun t => { t with flights := t.flights.map fun g =>
        if g.jr.tsn == tsn then { g with d0 := g.d0 || h0, d1 := g.d1 || h1 } else g }
      s.voteAll)

/-! ### Marks (R392) and retirement (R369) -/

/-- Inbound transactions of a channel that `p` picks are over: their TSNs are known as delivered (R462). -/
def State.endInbound (s : State) (n : Nat) (p : Inbound → Bool) : State :=
  let l := AMap.get [] s.triad.inbound n
  let gone := (l.filter p).map (·.tsn)
  (s.onInbound n fun l => l.filter fun b => !p b).onTriad fun t =>
    { t with inDone := AMap.set [] t.inDone n (AMap.get [] t.inDone n ++ gone) }

/-- A transaction is retired: its slot is free, OPEN and JOPEN fall, its key is no longer pinned by it. -/
def State.dropTxn (s : State) (tsn : Nat) (x : Txn) : State :=
  let s := s.onTriad fun t => { t with txns := AMap.erase tsn t.txns }
  let s := (s.fsub (RING_STAT.OPEN x.ring) 1).fsub (PART_JOPEN.JOPEN x.part) 1
  let s := if bitOf x.ctl 7 || bitOf x.ctl 8 then s.fsub (CLOAK_SLOTST.PINS (dKeySlot x.ctl)) 1 else s
  let s := if x.ctl % 16 = 3 then s.endInbound x.chan fun b => b.answer == some tsn else s
  (s.updJ.recovered x.ring).landAll

/-- MARK_DURABLE of `tsn`: its SENT (`kind` 0), ANSWERED (1) or RETIRED (2) mark, issued before, is durable on every
die in service, and the triad acts on it. -/
def execMarkDurable (tsn kind : Nat) (s : State) : Res :=
  .next (match s.txn tsn with
    | none => s
    | some x =>
      if !s.up || decide (2 ≤ s.fget TRIAD_STAT.MODE) then s
      else
      let s := s.noteLat HEM_LAT.MAXMARK
      if kind = 0 ∧ x.stage = .ready ∧ x.sentWord ≠ 0 ∧ !x.sentDur then
        let s := ((s.writeMark x codeSent x.sentWord).setTxn tsn { x with sentDur := true }).mirMark tsn x.slot 0x60 x.sentWord
        if s.attach x.chan = 0 then s.sendTxn tsn else s
      else if kind = 1 ∧ x.stage = .settled then
        let x := { x with stage := .answered }
        let s := ((s.writeMark x codeAnswered x.ansWord).setTxn tsn x).mirMark tsn x.slot 0x68 x.ansWord
        if s.rst x.ring = 0 then s else s.putEntry x.ring (finalEntry tsn x)
      else if kind = 2 ∧ x.retire then
        let w := markWord (s.passOf x) tsn codeRetired 0
        (((s.writeMark x codeRetired w).mirMark tsn x.slot 0x70 w).dropTxn tsn x).mirPump
      else s)

/-- CRACK or IRACK of context `c` on ring pair `r` (R369): the position must lie between consumer and producer. -/
def State.ack (s : State) (c r : Nat) (ir : Bool) (w : Nat) : State :=
  let g := ringRegs r ir
  let n := s.slots r ir
  let idx := w % 2 ^ 16
  let ph := w / 2 ^ 16 % 2
  let cons := ringPos n (s.fget g.cons) (s.fget g.cph)
  let d := (ringPos n idx ph + 2 * n - cons) % (2 * n)
  if s.rst r = 1 then s
  else if 2 ^ 17 ≤ w ∨ n ≤ idx ∨ s.ringDist r ir < d then s.ctxFault c (pageOf r + if ir then 0x48 else 0x40)
  else
    let freed := (upFrom cons d).map fun p => p % n
    let s := (s.fset g.cons idx).fset g.cph ph
    if ir then s
    else
      let x := s.ring r
      let gone := x.finals.filter fun e => freed.contains e.1
      let s := s.setRing r { x with finals := x.finals.filter fun e => !freed.contains e.1 }
      let s := gone.foldl (fun s e => match s.txn e.2 with
        | some x => s.setTxn e.2 { x with retire := true }
        | none => s) s
      s.landAll

def execCrack (c r : Nat) (w : Word) (s : State) : Res :=
  .next (if s.up && decide (r < 4096) then s.ack c r false w.toNat else s)
def execIrack (c r : Nat) (w : Word) (s : State) : Res :=
  .next (if s.up && decide (r < 4096) then s.ack c r true w.toNat else s)

/-! ### Binding (R346, R347, R373, R374) -/

/-- The unretired accepted records that name a ring pair, in TSN order. -/
def State.ringTxns (s : State) (r : Nat) : List (Nat × Txn) := s.openTxns.filter fun e => e.2.ring == r

/-- Zero every slot of a ring; false where the stage 2 translation faults. -/
def State.zeroRing (s : State) (r : Nat) (ir : Bool) : State × Bool :=
  let g := ringRegs r ir
  let n := s.rpart r
  let (s, res) := s.hubWritePR (triadFor n) n (s.fget g.base * 4096) (List.replicate (32 * s.slots r ir) 0) 0 false
  (s, res == .done [])

/-- Every producer and consumer index at 0 with phase 1. -/
def State.zeroIdx (s : State) (r : Nat) : State :=
  [false, true].foldl (fun s ir =>
    let g := ringRegs r ir
    (((s.fset g.prod 0).fset g.pph 1).fset g.cons 0).fset g.cph 1) s

/-- What becomes of an unretired record when its ring pair is bound again (R373, R374, R394): an outcome that is
settled is written; every other transaction continues, or is driven again after a reset. -/
def State.resumeTxn (s : State) (tsn : Nat) : State :=
  match s.txn tsn with
  | none => s
  | some x =>
    let x := { x with final := false, reposted := true }
    let s := s.setTxn tsn x
    if x.retire then s
    else match x.stage with
      | .answered => s.putEntry x.ring (finalEntry tsn x)
      | .unbound => if x.dataLost then s.settleTxn tsn 2 6 else s.redrive tsn
      | _ => s

/-- Steps 4 and 5 of R346 for ring pair `r`, from BINDING: the rings are zeroed, then RECOVERING or BOUND. A fault of
the zeroing stops the ring pair in BINDING (R348). -/
def State.finishBind (s : State) (r : Nat) : State :=
  let (s, ok) := s.zeroRing r false
  let (s, ok) := if ok && s.fbit (RING_IRBASE.EN r) then s.zeroRing r true else (s, ok)
  if !ok then
    (s.fset (RING_STAT.STOPPED r) 1).hubFault (some (s.rpart r)) 0xFF 0x04 (s.fget (RING_CRBASE.BASE r) * 4096)
  else
    let s := s.zeroIdx r
    let l := s.ringTxns r
    let owed := (l.filter fun e => !e.2.retire).length
      + (s.triad.flights.filter fun f => hdrRing f.jr.hdr == r).length
      + (s.triad.dbq.filter fun d => d.passed && d.ring == r).length
    let s := s.setRing r {}
    let s := s.fset (RING_STAT.OWED r) owed
    let s := s.fset (RING_STAT.STATE r) (if l.isEmpty then 3 else 2)
    ((l.foldl (fun s e => s.resumeTxn e.1) s).recovered r).landAll

/-- A rebinding (R373): the binding and the records stay. -/
def State.rebind (s : State) (r : Nat) : State :=
  (((s.fset (RING_STAT.STATE r) 1).fset (RING_STAT.STOPPED r) 0).setRing r {}).finishBind r

/-- RING[r].CMD BIND (R346). -/
def State.bind (s : State) (r : Nat) : State :=
  let res (s : State) (v : Nat) : State := s.fset (RING_CMD.RESULT r) v
  let n := s.rpart r
  let crN := s.slots r false
  if s.rst r ≠ 0 then res s 2
  else if s.fget (PART_STATE.STATE n) ≠ 1 then res s 3
  else if 9 < s.fget (RING_CRBASE.SIZE r) ∨ (s.fbit (RING_IRBASE.EN r) && decide (9 < s.fget (RING_IRBASE.SIZE r))) then res s 4
  else if crN < 2 * max 1 (s.fget (RING_CTL.OUTMAX r)) + 16 then res s 5
  else if !(s.ringTxns r).all fun e => e.2.part == n && e.2.chan == s.rchan r then res s 7
  else
    let s := res s 1
    let s := s.fset (RING_STAT.OPEN r) (s.ringTxns r).length
    s.rebind r
def execRingBind (r : Nat) (s : State) : Res := .next (if s.up && decide (r < 4096) then s.bind r else s)

/-- RING[r].CMD UNBIND (R347): refused unless BOUND with OPEN = 0. -/
def State.unbind (s : State) (r : Nat) : State :=
  let res (s : State) (v : Nat) : State := s.fset (RING_CMD.RESULT r) v
  if s.rst r ≠ 3 then res s 2
  else if s.fget (RING_STAT.OPEN r) ≠ 0 then res s 6
  else res ((s.setRing r {}).fset (RING_STAT.STATE r) 0) 1
def execRingUnbind (r : Nat) (s : State) : Res := .next (if s.up && decide (r < 4096) then s.unbind r else s)

/-- RING[r].CMD RESUME (R348): the write that faulted is made again, and what waits behind it. -/
def State.resumeRing (s : State) (r : Nat) : State :=
  if !s.fbit (RING_STAT.STOPPED r) then s.fset (RING_CMD.RESULT r) 2
  else
    let s := (s.fset (RING_STAT.STOPPED r) 0).fset (RING_CMD.RESULT r) 1
    if s.rst r = 1 then s.finishBind r else s.flushRing r
def execRingResume (r : Nat) (s : State) : Res := .next (if s.up && decide (r < 4096) then s.resumeRing r else s)

/-- MODERATION_TIMER_EXPIRY: an armed timer sends the event (R370); its expiry is a wake event (R371). -/
def execModerationTimerExpiry (r : Nat) (s : State) : Res :=
  .next (if s.up && (s.ring r).armed then (s.ringEvent r).wake else s)

/-! ### Channels and their transactions (R367, R368) -/

/-- ANSWER_TIMEOUT of `tsn`: the timer runs from the SENT mark while the channel is UP; a timeout of 0 never ends. -/
def execAnswerTimeout (tsn : Nat) (s : State) : Res :=
  .next (match s.txn tsn with
    | none => s
    | some x =>
      let t := bitsOf x.ctl 47 32
      let t := if t = 0 then s.fget (CHAN_RINGCTL.ATDEF x.chan) else t
      if s.up && x.sentDur && x.stage == .sent && s.attach x.chan == 0 && t != 0 then s.settleTxn tsn 3 2 else s)

/-- The accepted transactions of a channel without a decided outcome, in TSN order. -/
def State.chanTxns (s : State) (n : Nat) : List Nat :=
  (s.openTxns.filter fun e => e.2.chan == n && e.2.stage != .settled && e.2.stage != .answered && e.2.stage != .unbound).map (·.1)

/-- A channel becomes DETACHED (R368): every open transaction without ANSWERED gets INDETERMINATE. -/
def State.detach (s : State) (n : Nat) : State :=
  let s := (s.fset (CHAN_RINGSTAT.ATTACH n) 2).fset (CHAN_RINGSTAT.WAITLEFT n) 0
  (s.chanTxns n).foldl (fun s t => s.settleTxn t 3 1) s

/-- A channel goes WAITING (R368); REATTACH = 0 detaches it at once. -/
def State.waitChan (s : State) (n : Nat) : State :=
  if s.attach n ≠ 0 then s
  else
    let w := s.fget (CHAN_RINGCTL.REATTACH n)
    let s := (s.fset (CHAN_RINGSTAT.ATTACH n) 1).fset (CHAN_RINGSTAT.WAITLEFT n) w
    if w = 0 then s.detach n else s

/-- A channel becomes UP (R368), unless this module is its STANDBY (R533): every open transaction that was sent is driven
again, and those ready are sent. -/
def State.upChan (s : State) (n : Nat) : State :=
  if s.attach n = 0 ∨ s.chRole n = 2 then s
  else
    let s := (s.fset (CHAN_RINGSTAT.ATTACH n) 0).fset (CHAN_RINGSTAT.WAITLEFT n) 0
    (s.chanTxns n).foldl (fun s t => match s.txn t with
      | some x => if x.stage = .sent then s.redrive t else if x.stage = .ready then s.readyTxn t else s
      | none => s) s

/-- REATTACH_EXPIRY of channel `n`; 0xFFFF never expires. -/
def execReattachExpiry (n : Nat) (s : State) : Res :=
  .next (if s.up && s.attach n == 1 && s.fget (CHAN_RINGCTL.REATTACH n) != 0xFFFF then s.detach n else s)

/-! ### Carries (R391) -/

/-- JOURNAL_CARRY: with fewer free slots than CARRYTHR, the record at the tail is written again at the allocation
point, its marks with the new PASS, and its old slot is CARRIED once the copy is durable. -/
def execJournalCarry (s : State) : Res :=
  .next (
    let tail := s.fget HEM_JPTR.TAIL
    let who := firstThat (fun e => e.2.slot == tail) s.openTxns
    if !s.up || decide (2 ≤ s.fget TRIAD_STAT.MODE) || decide (s.fget HEM_JCTL.CARRYTHR ≤ s.fget HEM_JSTAT.FREE)
        || s.fget HEM_JSTAT.FREE == 0 then s
    else match who, s.jrec (if s.hOk 0 then 0 else 1) tail with
      | some (tsn, x), some r =>
        let (s, slot, pass) := s.jalloc
        let re (w : Nat) : Nat := if w = 0 then 0 else w / 256 * 256 + pass % 256
        let copy : JRec := { r with pass := pass, sent := re r.sent, answered := re r.answered, retired := 0, unc := [] }
        let s := s.jwrite slot fun _ => some copy.sealed
        let s := s.writeMark x codeCarried (markWord r.pass tsn codeCarried 0)
        let s := s.setTxn tsn { x with slot := slot, sentWord := re x.sentWord, ansWord := re x.ansWord }
        let s := (s.mirMark tsn tail 0x70 (markWord r.pass tsn codeCarried 0)).mirRec tsn slot
        (s.fcount HEM_JSTAT.CARRIES 1).updJ.landAll
      | _, _ => s)

end Sys2Proof.Machine
end

