-- ==== Sys2Proof/Machine/Hem.lean ====
section
/-! DEFINITION. The Hem dies: granule ownership, windows, single-copy mode, wear levelling, patrol, and reading the
journal back (14_hem_journal_and_windows.md, R379, R380, R393–R410). -/

namespace Sys2Proof.Machine

/-! ### Granules and windows (R398, R399, R410) -/

/-- Is a granule covered by a valid window of any partition? -/
def State.granMapped (s : State) (g : Nat) : Bool :=
  (List.range 256).any fun n => (List.range 8).any fun k =>
    let a := s.fget (PART_HWINB.GRAN n k)
    s.fbit (PART_HWINA.VALID n k) && decide (a ≤ g ∧ g < a + s.fget (PART_HWINB.COUNT n k))

/-- Zero a whole granule on every die in service, and clear its poison. -/
def State.zeroGranule (s : State) (g : Nat) : State :=
  let inG (k : Nat) : Bool := k / 2 ^ 21 == g
  let inS (k : Nat) : Bool := k / 2 ^ 15 == g
  let out (on : Bool) (h : AMap Byte) : AMap Byte := if on then AMap.keep (fun k => !inG k) h else h
  let s := [0, 1].foldl (fun s i => if s.hWritten i then s.wearGran i (256 + g) else s) s
  s.onMem fun m => { m with
    h0 := out (s.hWritten 0) m.h0
    h1 := out (s.hWritten 1) m.h1
    winFlight := AMap.keep (fun k => !inG k) m.winFlight
    winPend := AMap.keep (fun k => !inS k) m.winPend
    winPoison := AMap.keep (fun k => !inS k) m.winPoison }

/-- A write of HEM.GOWN[j] (R398): the granules whose VALID or OWNER changes are zeroed, or the write is refused
whole. -/
def State.gownWrite (s : State) (j w : Nat) : State :=
  let new (k : Nat) : Nat := bnat (bitOf w (16 * k + 15)) * 256 + bitsOf w (16 * k + 7) (16 * k)
  let old (g : Nat) : Nat := s.fget (HEM_GOWN.VALID g) * 256 + s.fget (HEM_GOWN.OWNER g)
  let ch := (List.range 4).filter fun k => new k ≠ old (4 * j + k)
  if ch.any fun k => s.granMapped (4 * j + k) || s.fbit (HEM_GOWN.BUSY (4 * j + k)) then s.fset HEM_STAT.RESULT 3
  else
    (ch.foldl (fun s k =>
      let g := 4 * j + k
      ((s.zeroGranule g).fset (HEM_GOWN.BUSY g) 1).onTriad fun t => { t with zeroing := AMap.set 0 t.zeroing g (new k + 1) })
      s).fset HEM_STAT.RESULT 1
def execGownWrite (j : Nat) (w : Word) (s : State) : Res :=
  .next (if s.up && decide (j < 192) then s.gownWrite j w.toNat else s)

/-- GRANULE_ZERO_DONE: BUSY clears and the granule has its new owner. -/
def execGranuleZeroDone (g : Nat) (s : State) : Res :=
  .next (let v := AMap.get 0 s.triad.zeroing g
    if s.up && v != 0 then
      let s := ((s.fset (HEM_GOWN.VALID g) ((v - 1) / 256)).fset (HEM_GOWN.OWNER g) ((v - 1) % 256)).fset (HEM_GOWN.BUSY g) 0
      s.onTriad fun t => { t with zeroing := AMap.erase g t.zeroing }
    else s)

/-- The first check of R399 that window `k` of partition `n` at PR base `b` (in units of 2 MiB) fails; 1 for none. -/
def State.hwinCheck (s : State) (n k b : Nat) : Nat :=
  let cnt := s.fget (PART_HWINB.COUNT n k)
  let gr := s.fget (PART_HWINB.GRAN n k)
  if cnt = 0 ∨ 768 < gr + cnt then 3
  else if !(upFrom gr cnt).all fun g =>
      s.fbit (HEM_GOWN.VALID g) && s.fget (HEM_GOWN.OWNER g) == n && !s.fbit (HEM_GOWN.BUSY g) then 2
  else if (List.range 8).any fun i => i != k && s.fbit (PART_HWINA.VALID n i)
      && overlaps b cnt (s.fget (PART_HWINA.PRBASE n i)) (s.fget (PART_HWINB.COUNT n i)) then 4
  else 1

/-- A write of PART[n].HWINA[k] (R399, R410). -/
def State.hwinaWrite (s : State) (n k w : Nat) : State :=
  let b := bitsOf w 45 21
  if w % 2 = 0 then
    ((s.fset (PART_HWINA.VALID n k) 0).fset (PART_HWINA.PRBASE n k) b).fset (PART_HWINSTAT.RESULT n) 6
  else
    let r := s.hwinCheck n k b
    let s := s.fset (PART_HWINSTAT.RESULT n) r
    if r = 1 then (s.fset (PART_HWINA.PRBASE n k) b).fset (PART_HWINA.VALID n k) 1 else s
def execHwinaWrite (n k : Nat) (w : Word) (s : State) : Res :=
  .next (if s.up && decide (n < 256 ∧ k < 8) then s.hwinaWrite n k w.toNat else s)

/-- A write of PART[n].HWINB[k]: ignored while the window is valid (R410). -/
def State.hwinbWrite (s : State) (n k w : Nat) : State :=
  if s.fbit (PART_HWINA.VALID n k) then s.fset (PART_HWINSTAT.RESULT n) 5
  else (s.fset (PART_HWINB.COUNT n k) (bitsOf w 25 16)).fset (PART_HWINB.GRAN n k) (bitsOf w 9 0)
def execHwinbWrite (n k : Nat) (w : Word) (s : State) : Res :=
  .next (if s.up && decide (n < 256 ∧ k < 8) then s.hwinbWrite n k w.toNat else s)

/-! ### Single-copy mode (R406, R407) -/

def hokField (i : Nat) : Field := if i = 0 then HEM_STAT.H0OK else HEM_STAT.H1OK

/-- Die `i` leaves service while the other serves (R406): the marker, then the votes that wait, then SINGLE. -/
def State.dieLeaves (s : State) (i : Nat) : State :=
  let s := s.fset (hokField i) 0
  let low := match s.triad.flights.head? with
    | some f => f.jr.tsn
    | none => s.fget HEM_TSNNEXT.TSNNEXT
  let s := s.fset HEM_SINGLETSN.SINGLETSN low
  let s := s.onTriad fun t => { t with retiredDie := i + 1, singleMeta := low }
  ((s.voteAll).fset HEM_STAT.SINGLE 1).raise { loc := locCode 0x6 (7 + i) 0xFF 0x03 }

/-- HEM_DIE_FAIL: die `i` has not answered within 1 µs (R380, R406); the last die in service ends acceptance for good
(R395, R549). -/
def State.dieFail (s : State) (i : Nat) : State :=
  if s.hOk i then
    if s.hOk (1 - i) then s.dieLeaves i
    else (((s.fset (hokField i) 0).fset HEM_STAT.REJOIN 0).raise { loc := locCode 0xB (7 + i) 0xFF 0x03 }).updMinset
  else s.fset HEM_STAT.REJOIN 0
def execHemDieFail (i : Nat) (s : State) : Res := .next (if s.up && decide (i < 2) then s.dieFail i else s)

/-- HEM.CMD RETIRE of die `i` (R406, R408). -/
def State.hemRetire (s : State) (i : Nat) : State :=
  if s.hOk i then
    if s.hOk (1 - i) then (s.dieLeaves i).fset HEM_STAT.RESULT 1 else s.fset HEM_STAT.RESULT 2
  else if s.fbit HEM_STAT.REJOIN then (s.fset HEM_STAT.REJOIN 0).fset HEM_STAT.RESULT 1
  else s.fset HEM_STAT.RESULT 2
def execHemRetire (i : Nat) (s : State) : Res := .next (if s.up && decide (i < 2) then s.hemRetire i else s)

/-- HEM.CMD REJOIN of die `i`; `pass` is its self-test (R407). -/
def State.hemRejoin (s : State) (i : Nat) (pass : Bool) : State :=
  if s.hOk i || !s.hOk (1 - i) || s.fbit HEM_STAT.REJOIN then s.fset HEM_STAT.RESULT 2
  else if !pass then s.fset HEM_STAT.RESULT 4
  else (s.fset HEM_STAT.REJOIN 1).fset HEM_STAT.RESULT 1
def execHemRejoin (i : Nat) (pass : Bool) (s : State) : Res :=
  .next (if s.up && decide (i < 2) then s.hemRejoin i pass else s)

/-- HEM_REJOIN_DONE: the journal and every owned granule have been copied and verified (R407). -/
def execHemRejoinDone (s : State) : Res :=
  .next (if s.up && s.fbit HEM_STAT.REJOIN && (s.hOk 0 || s.hOk 1) then
    let i := if s.hOk 0 then 1 else 0
    let owned (k : Nat) : Bool := s.fbit (HEM_GOWN.VALID (k / 2 ^ 21))
    let merge (src dst : AMap Byte) : AMap Byte :=
      (AMap.keep owned src).foldl (fun d e => AMap.set 0 d e.1 e.2) (AMap.keep (fun k => !owned k) dst)
    let s := ((List.range 256) ++ (List.range 768).filterMap fun g =>
      if s.fbit (HEM_GOWN.VALID g) then some (256 + g) else none).foldl (fun s g => s.wearGran i g) s
    let s := s.onTriad fun t => { t with
      j0 := if i = 0 then t.j1 else t.j0, j1 := if i = 1 then t.j0 else t.j1, retiredDie := 0, singleMeta := 0 }
    let s := s.onMem fun m => { m with
      h0 := if i = 0 then merge m.h1 m.h0 else m.h0
      h1 := if i = 1 then merge m.h0 m.h1 else m.h1 }
    (((s.fset (hokField i) 1).fset HEM_STAT.REJOIN 0).fset HEM_STAT.SINGLE 0).fset HEM_SINGLETSN.SINGLETSN 0
  else s)

/-! ### Wear levelling and patrol (R380, R403, R405) -/

/-- Does the count of frame `f` of die `i` exceed the average of its region by more than HEM.WLCTL.WLTHR (R403)? -/
def State.wearDue (s : State) (i f : Nat) : Bool :=
  let jr := decide (f < jFrames)
  let n := if jr then jFrames else hemFrames - jFrames
  let tot := ((s.triad.wear.filter fun e =>
      e.1 / hemFrames == i && decide (e.1 % hemFrames < jFrames) == jr).map (·.2)).foldl (· + ·) 0
    + 512 * ((s.triad.wearG.filter fun e => e.1 / 1024 == i && decide (e.1 % 1024 < 256) == jr).map (·.2)).foldl (· + ·) 0
  decide (tot + s.fget HEM_WLCTL.WLTHR * n < s.wearOf i f * n)

/-- WEAR_LEVEL_MOVE: frame `fr` of die `i`, whose count exceeds the average of its region by WLTHR, moves to a spare
frame; the contents stay. The count goes on from the spare frame's own, which is free (log entry 136). `stall` is the
longest wait of a write for a map switch, at most 40 ns. -/
def execWearLevelMove (i fr stall : Nat) (s : State) : Res :=
  .next (if s.up && decide (i < 2) && s.hOk i && s.wearDue i (fr % hemFrames) then
    let (w, s) := s.draw
    let k := i * hemFrames + fr % hemFrames
    let s := s.onTriad fun t => { t with wear := AMap.set 0 t.wear k w.toNat }
    s.fset HEM_LAT.MAXSTALL (max (s.fget HEM_LAT.MAXSTALL) (min 40 stall))
  else s)

/-- An ECC outcome on die `i`: 0 clean, 1 corrected, 2 uncorrectable: counted and recorded (R380, R549). -/
def State.hemEcc (s : State) (i e : Nat) : State :=
  let ev (s : State) : State := s.raiseC { loc := locCode 0x0 (7 + i) 0xFF 0x03 }
  if !s.hOk i then s
  else if e = 1 then ev (s.fcount (HEM_DIE.CORR i) 1)
  else if e = 2 then (let s := s.fcount (HEM_DIE.UNCORR i) 1; if s.hOk (1 - i) then ev s else s)
  else s

/-- HEM_PATROL_REWRITE: the next sector of both dies is rewritten; `e0`, `e1` are the ECC outcomes and `w` the word of
the sector they concern. Uncorrectable on every die in service: a window sector is poisoned, a journal word is lost. -/
def execHemPatrolRewrite (e0 e1 w : Nat) (s : State) : Res :=
  .next (if s.up then
    let p := s.triad.patrol
    let s := s.onTriad fun t => { t with patrol := (p + 1) % 2 ^ 25 }
    let s := [0, 1].foldl (fun s i => if s.hOk i then s.wearWrite i (p * 64) else s) ((s.hemEcc 0 e0).hemEcc 1 e1)
    let both := (!s.hOk 0 || e0 == 2) && (!s.hOk 1 || e1 == 2)
    if !both || (!s.hOk 0 && !s.hOk 1) then s
    else if 2 ^ 23 ≤ p then s.onMem fun m => { m with winPoison := AMap.set false m.winPoison (p - 2 ^ 23) true }
    else s.jwrite (p / 2) fun r => r.map fun r => { r with unc := (p % 2 * 8 + w % 8) :: r.unc.filter (· ≠ p % 2 * 8 + w % 8) }
  else s)

/-! ### Reading the journal back (R393, R394, R396) -/

/-- The slots in which some die in service holds a record. -/
def State.jscanSlots (s : State) : List Nat :=
  let a := if s.hOk 0 then s.triad.j0.map (·.1) else []
  let b := if s.hOk 1 then s.triad.j1.map (·.1) else []
  a ++ b.filter fun x => !a.contains x

/-- The record of a slot that the scan treats as accepted: valid on every die in service (R393 step 3), with every mark
that counts on either die (step 5). -/
def State.jaccepted (s : State) (slot : Nat) : Option JRec :=
  let rs := ([0, 1].filter s.hOk).map fun i => s.jrec i slot
  if rs.isEmpty || !rs.all (fun r => r.any (·.valid)) then none
  else
    let l := rs.filterMap id
    match l with
    | [] => none
    | r :: _ =>
      if !l.all (fun x => x.tsn == r.tsn && x.pass == r.pass) then none
      else some { r with
        sent := ((l.filter (·.isSent)).map (·.sent)).headD 0
        answered := ((l.filter (·.isAnswered)).map (·.answered)).headD 0
        retired := ((l.filter fun x => x.isRetired || x.isCarried).map (·.retired)).headD 0
        unc := [] }

/-- The marks of `a` taken into `b` with `b`'s PASS (R393 step 6). -/
def JRec.takeMarks (b a : JRec) : JRec :=
  let re (w : Nat) : Nat := w / 256 * 256 + b.pass % 256
  { b with
    sent := if b.isSent || !a.isSent then b.sent else re a.sent
    answered := if b.isAnswered || !a.isAnswered then b.answered else re a.answered
    retired := if b.isRetired || !a.isRetired then b.retired else re a.retired }

/-- Order of two copies of a record: the one in the later slot. -/
def JRec.later (r q : Nat × JRec) : Bool := decide (q.2.pass < r.2.pass) || (q.2.pass == r.2.pass && decide (q.1 < r.1))

/-- A transaction made from an accepted record that is not RETIRED (R394). `lost` says that DRAM was lost. -/
def txnOfRec (slot : Nat) (r : JRec) (lost : Bool) : Txn :=
  let vital := hdrVital r.hdr
  let gone := lost && !vital
  let ans := if gone && r.isAnswered && ansOutcome r.answered == 1 && ansRlen r.answered != 0 then
      -- an ordinary reply lay in DRAM: RLEN 0 and REPLYLOST (R366)
      r.answered % 2 ^ 42 + 2 ^ 42
    else r.answered
  { slot := slot, hdr := r.hdr, desc := r.desc, stage := if r.isAnswered then .answered else .unbound
    sentWord := r.sent, sentDur := r.isSent, ansWord := if r.isAnswered then ans else 0
    reposted := true, dataLost := gone && !r.isAnswered }

/-- A damaged record (R396): its CRC fails on every die in service because of uncorrectable words. -/
def State.jdamaged (s : State) (slot : Nat) : State :=
  let rs := ([0, 1].filter s.hOk).filterMap fun i => s.jrec i slot
  let bad := !rs.isEmpty && rs.all fun r => !r.valid && r.hdr % 16 == 1 && r.unc.any (· < 12)
  let rd (w : Nat) : Bool := rs.any fun r => !r.unc.contains w
  match rs with
  | [] => s
  | r :: _ =>
    if !bad || (rd 1 && rd 3 && rs.any fun r => r.isRetired || r.isCarried) then s
    else if rd 0 && rd 1 then
      let vital := hdrVital r.hdr
      let sent := if rd 12 && rd 3 then rs.any (·.isSent) else true
      let x : Txn := { slot := slot, hdr := r.hdr, desc := r.desc, stage := .answered, sentDur := sent, reposted := true
                       ansWord := markWord r.pass r.tsn codeAnswered ((if vital then 3 else 2) + 5 * 4) }
      (((s.setTxn r.tsn x).fset HEM_STAT.DAMAGED 1).raise
        { loc := locCode 0x5 (if s.hOk 0 then 7 else 8) 0xFF 0x03, part := some (hdrPart r.hdr), d0 := 128 * slot })
    else s.raise { loc := locCode 0x9 (if s.hOk 0 then 7 else 8) 0xFF 0x03, d0 := 128 * slot
                   d1 := if rd 0 then r.hdr else 0, d2 := if rd 1 then r.tsn else 0 }

/-- The scan (R393): accepted records become transactions, HEAD, PASS and TAIL are set. `lost` says that DRAM was
lost (R395). -/
def State.scanJournal (s : State) (lost : Bool) : State :=
  let slots := s.jscanSlots
  let acc := slots.filterMap fun sl => (s.jaccepted sl).map fun r => (sl, r)
  let s := s.onTriad fun t => { t with txns := [] }
  -- steps 5 and 6: marks on both dies; of two copies the later is kept and the other is CARRIED
  let (s, kept) := acc.foldl (fun (a : State × List (Nat × JRec)) e =>
    let (s, kept) := a
    match firstThat (fun q => q.2.tsn == e.2.tsn) kept with
    | none => (s, kept ++ [e])
    | some q =>
      let (w, l) := if JRec.later e q then (e, q) else (q, e)
      let w := (w.1, w.2.takeMarks l.2)
      let s := s.jwrite l.1 fun r => r.map fun r => { r with retired := markWord r.pass r.tsn codeCarried 0 }
      (s, (kept.filter fun k => k.2.tsn != e.2.tsn) ++ [w])) (s, [])
  let s := kept.foldl (fun s e =>
    let s := s.jwrite e.1 fun _ => some e.2
    if e.2.isRetired || e.2.isCarried then s else s.setTxn e.2.tsn (txnOfRec e.1 e.2 lost)) s
  let s := slots.foldl State.jdamaged s
  -- step 7
  let any := slots.filterMap fun sl =>
    firstThat (fun r => r.valid) (([0, 1].filter s.hOk).filterMap fun i => s.jrec i sl) |>.map fun r => (sl, r)
  let pool := if kept.isEmpty then any else kept
  let top := pool.foldl (fun (m : Option (Nat × JRec)) e => match m with
    | none => some e
    | some q => if q.2.tsn < e.2.tsn then some e else m) none
  let s := match top with
    | none => (s.fset HEM_JPTR.HEAD 0).onTriad fun t => { t with jpass := 0 }
    | some (sl, r) => (s.fset HEM_JPTR.HEAD ((sl + 1) % jSlots)).onTriad fun t =>
        { t with jpass := if sl + 1 = jSlots then (r.pass + 1) % 2 ^ 32 else r.pass }
  s.updJ

end Sys2Proof.Machine
end

