-- ==== Sys2Proof/Machine/Lanes.lean ====
section
/-! DEFINITION. Lanes and channels: training and alignment, sending, replay, delivery, recalibration, low power, mode
changes and the sideband roll-call (16_cuff_ports_and_links.md, R436–R476). -/

namespace Sys2Proof.Machine

/-! ### Lane states (R438) -/

/-- The location of a lane (R27, R548). -/
def laneLoc (action m : Nat) : Nat := locCode action (5 + pathOf m) (chanOf m / 16) (chanOf m % 16)

/-- Is `a` later than `b` as FSNs (R451)? -/
def fsnLater (a b : Nat) : Bool :=
  let d := (a + 2 ^ 32 - b % 2 ^ 32) % 2 ^ 32
  decide (1 ≤ d ∧ d < 2 ^ 31)

/-- PATHS of a channel follow its lanes. -/
def State.updPaths (s : State) (n : Nat) : State :=
  s.fset (CHAN_STAT.PATHS n) (bnat (s.laneUp n) + 2 * bnat (s.laneUp (n + 256)))

/-- A lane changes state (R438): source 0x1000 + m is signalled; a mode change under way ends when a lane leaves ACTIVE
(R476); the channel becomes UP at ACTIVE and WAITING when neither lane is up (R368). -/
def State.laneTo (s : State) (m st : Nat) : State :=
  if s.lst m = st then s
  else
    let n := chanOf m
    let s := ((s.fset (LANE_STAT.STATE m) st).collarEvent (0x1000 + m)).updPaths n
    let s := if st ≠ lsACTIVE ∧ (s.chan n).change ≠ 0 then
        (s.onChan n fun x => { x with change := 0 }).fset (CHAN_CMD.RESULT n) 2
      else s
    if st = lsACTIVE then s.upChan n
    else if !s.laneUp n && !s.laneUp (n + 256) then s.waitChan n
    else s

/-- A lane forgets its locks. -/
def LaneState.unlocked (x : LaneState) : LaneState :=
  { x with codeLock := false, markerLock := false, linkInfo := false, lastInfo := none, rxCount := none, missed := 0, peerPause := false }

/-- What of a channel's transactions is given to lane `m` in split mode and has no ANSWERED mark (R456). -/
def State.laneTxns (s : State) (m : Nat) : List Nat :=
  (s.openTxns.filter fun e => e.2.lane == some m && e.2.stage == .sent).map (·.1)

/-- A lane goes DOWN (R438, R456, R476, R549): in dual-send its frames are dropped from it; in split mode its
transactions are driven again on the other lane, and its RESP, ENDTX and REFUSE frames are sent again there. -/
def State.laneDown (s : State) (m cause : Nat) : State :=
  if s.lst m = lsDOWN ∨ s.lst m = lsOFF then s
  else
    let n := chanOf m
    let o := if m < 256 then m + 256 else m - 256
    let x := s.lane m
    let s := ((s.fset (LANE_STAT.DOWNCAUSE m) cause).fset (LANE_STAT.CURGEN m) 0).raiseC { loc := laneLoc 0x2 m }
    let s := s.fcount (LIFE_LANE1.DOWNS m) 1
    let s := if cause = 2 then s.fcount (LIFE_LANE3.REPLAYDOWNS m) 1 else s
    let again := (x.sent ++ x.queue).filter fun f => f.type == tyRESP || f.type == tyENDTX || f.type == tyREFUSE
    let txns := s.laneTxns m
    let s := s.setLane m { x.unlocked with queue := [], unseq := [], behind := [], sent := [], replay := [], replays := 0, held := [] }
    let s := s.laneTo m lsDOWN
    if s.split n && s.laneUp o then
      let s := again.foldl (fun s f => s.onLane o fun y => { y with queue := insertFrame f y.queue }) s
      txns.foldl (fun s t => match s.txn t with
        | some x => if x.ctl % 16 = 3 then s else s.redrive t
        | none => s) s
    else s

/-- The generations a lane may try, highest first (R436). -/
def State.laneGens (s : State) (m : Nat) : List Nat :=
  let g := s.fget (LANE_CTL.GEN m)
  let mask := s.fget (LANE_CTL.GENMASK m)
  (if g = 0 then [3, 2, 1] else [g]).filter fun g => bitOf mask (g - 1)

/-- Is an adapter fitted at channel `n` (R88)? -/
def State.fitted (s : State) (n : Nat) : Bool := AMap.get false s.pins.present n

/-- LANE_TRAINING (R439): a lane in DETECT with EN, presence and the sideband rule enters TRAIN; `g` is the generation
that trains, 0 for none. -/
def execLaneTraining (m g : Nat) (s : State) : Res :=
  .next (
    let n := chanOf m
    if s.up && decide (m < 512) && s.lst m == lsDETECT && s.fbit (LANE_CTL.EN m) && s.fitted n
        && (!s.fbit (CHAN_CTL.SBREQ n) || s.fbit (CHAN_ADAPTER.VALID n)) then
      let gens := s.laneGens m
      let s := (s.laneTo m lsTRAIN).fcount (LIFE_LANE1.TRAININGS m) 1
      if gens.contains g then
        let s := ((s.fset (LANE_STAT.CURGEN m) g).fset (LANE_STAT.DOWNCAUSE m) 0).fset (LIFE_LANE0.LASTGEN m) g
        (s.onLane m fun x => { x.unlocked with codeLock := true }).laneTo m lsALIGN
      else s.laneDown m 4
    else s)

/-- The loss of any lock (R441–R444): the lane returns to ALIGN and searches afresh. -/
def State.lockLoss (s : State) (m : Nat) : State :=
  if s.lst m = lsACTIVE ∨ s.lst m = lsALIGN ∨ s.lst m = lsLOWPOWER ∨ s.lst m = lsRECAL then
    ((s.fcount (LANE_ERR.UNLOCKS m) 1).onLane m LaneState.unlocked).laneTo m lsALIGN
  else s
def execLaneLockLoss (m : Nat) (s : State) : Res := .next (if s.up && decide (m < 512) then s.lockLoss m else s)

/-- LOSSTO_EXPIRY (R444). -/
def execLosstoExpiry (m : Nat) (s : State) : Res :=
  .next (if s.up && decide (m < 512) && s.lst m == lsALIGN then s.laneDown m 1 else s)

/-- LANE_RETRY_EXPIRY (R438); RETRY = 0 stays DOWN. -/
def execLaneRetryExpiry (m : Nat) (s : State) : Res :=
  .next (if s.up && decide (m < 512) && s.lst m == lsDOWN && s.fget (LANE_CTL.RETRY m) != 0 then s.laneTo m lsDETECT else s)

/-- A write of LANE[m].CTL.EN: OFF while 0, DETECT when it becomes 1 (R438). -/
def State.laneEn (s : State) (m : Nat) : State :=
  if s.fbit (LANE_CTL.EN m) then (if s.lst m = lsOFF then s.laneTo m lsDETECT else s)
  else
    let s := s.onLane m fun x => { x.unlocked with queue := [], unseq := [], behind := [], sent := [], replay := [], held := [] }
    (s.fset (LANE_STAT.CURGEN m) 0).laneTo m lsOFF

/-! ### What the module sends (R446, R449, R459, R461, R463) -/

/-- LOWTSN of a channel (R459): it never decreases within an EPOCH. -/
def State.lowTsn (s : State) (n : Nat) : Nat :=
  let l := (s.openTxns.filter fun e => e.2.chan == n && e.2.sentDur && e.2.stage != .answered).map (·.1)
  max (s.chan n).lowTsn (match l with
    | [] => s.fget HEM_TSNNEXT.TSNNEXT
    | a :: l => l.foldl min a)

/-- Does a HELD condition last for a channel (R430, R461)? -/
def State.heldIn (s : State) (n : Nat) : Bool :=
  let p := s.fget (TRIAD_CHPOOL.POOL n)
  let r := s.fget (CHAN_RINGCTL.INRING n)
  let open_ := (s.triad.inbound.map fun e => (e.2.filter fun b => !b.delivered && b.ring == r).length).foldl (· + ·) 0
  s.fbit (CHAN_RINGCTL.INEN n) && ((s.poolFree p).isEmpty || !s.fbit (POOL_CFG.VALID p) || s.fbit (POOL_STAT.BUSY p)
    || s.fget (POOL_CFG.PART p) != s.rpart r || s.rst r != 3 || !s.fbit (RING_IRBASE.EN r)
    || decide (s.ringFree r true ≤ open_) || s.closed || decide (2 ≤ s.fget TRIAD_STAT.MODE))

/-- CHAN[n].STAT.HOLDIN follows. -/
def State.updHold (s : State) (n : Nat) : State := s.fsetB (CHAN_STAT.HOLDIN n) (s.heldIn n)

/-- The next FSN expected: the channel's in dual-send, the lane's in split mode (R451). -/
def State.rxNext (s : State) (m : Nat) : Nat :=
  if s.split (chanOf m) then s.fget (LANE_FSN.RXNEXT m) else (s.chan (chanOf m)).rxNext

/-- The header fields a frame takes when it is sent (R446, R448). -/
def State.stamp (s : State) (m : Nat) (f : CuffFrame) : CuffFrame :=
  let n := chanOf m
  { f with
    claim := s.kget (CHAN_CLAIM.CLAIM n)
    h3 := s.lowTsn n
    ackfsn := (s.rxNext m + 2 ^ 32 - 1) % 2 ^ 32
    credit := 512 - (if s.split n then (s.lane m).held.length else (s.chan n).held.length)
    flags := f.flags % 128 + (if s.heldIn n then 128 else 0)
    chan := n }

/-- Count `k` in a live 48-bit counter: its new value and whether it wrapped. -/
def live (v k : Nat) : Nat × Bool := ((v + k) % 2 ^ 48, decide (2 ^ 48 ≤ v + k))

/-- A frame leaves on lane `m`: the live counters count it (R477). -/
def State.countTx (s : State) (m : Nat) (f : CuffFrame) : State :=
  let x := s.lane m
  let b := live x.txBytes f.size
  let k := live x.txFrames 1
  let s := s.setLane m { x with txBytes := b.1, txFrames := k.1 }
  let s := if b.2 then s.fset (LANE_TXBYTES.WRAPPED m) 1 else s
  let s := if k.2 then s.fset (LANE_TXFRAMES.WRAPPED m) 1 else s
  (s.updHold (chanOf m)).onChan (chanOf m) fun c => { c with lowTsn := max c.lowTsn f.h3 }

/-- The LINKINFO of a lane (R449). -/
def State.linkInfoFrame (s : State) (m : Nat) : CuffFrame :=
  let n := chanOf m
  let w0 := s.link.epoch % 2 ^ 32 + s.fget (LANE_STAT.CURGEN m) * 2 ^ 32 + bnat (s.split n) * 2 ^ 40
    + s.fget (CHAN_CTL.CLAIMMODE n) * 2 ^ 41 + s.kget (CHAN_CLAIM.CLAIM n) * 2 ^ 48
  let tx := if s.split n then s.fget (LANE_FSN.TXNEXT m) else (s.chan n).txNext
  let w1 := tx + s.rxNext m * 2 ^ 32
  { type := tyLINKINFO, payload := leNats 8 w0 ++ leNats 8 w1 ++ leNats 8 (s.lowTsn n) ++ leNats 8 (s.fget SEAM_STAT.SELF * 2 ^ 48) }

def lackFrame : CuffFrame := { type := tyLACK }
def nakFrame : CuffFrame := { type := tyNAK }

/-- RECAL with its duration in µs (log entry 22). -/
def recalFrame (us : Nat) : CuffFrame := { type := tyRECAL, payload := leNats 8 us }

/-- Queue an unsequenced frame unless one of its type waits already. -/
def State.queueOnce (s : State) (m : Nat) (f : CuffFrame) : State :=
  if (s.lane m).unseq.any fun g => g.type == f.type then s else s.queueUnseq m f

/-- May a sequenced frame with FSN `a` be sent on lane `m` (R452, R453, R455)? -/
def State.creditOk (s : State) (m a : Nat) : Bool :=
  let x := s.lane m
  decide ((a + 2 ^ 32 - x.ackSeen) % 2 ^ 32 ≤ x.credit) && decide (x.sent.length < 512)

/-- A sequenced frame is sent on lane `m` with its FSN: it enters the replay buffer; a transaction's LAST frame is
remembered for its acknowledgement (R460). -/
def State.sendSeq (s : State) (m : Nat) (f : CuffFrame) : State :=
  let f := s.stamp m f
  let s := (s.onLane m fun x => { x with sent := x.sent ++ [f], unseq := x.unseq.filter (·.type ≠ tyLACK) }).countTx m f
  let s := s.fset (LANE_FSN.TXNEXT m) ((f.fsn + 1) % 2 ^ 32)
  if f.type = tyDATA ∧ f.flags / 2 % 2 = 1 then
    match s.txn f.tsn with
    | some x => s.setTxn f.tsn (if m < 256 then { x with lastA := some f.fsn } else { x with lastB := some f.fsn })
    | none => s
  else s

/-- The next sequenced frame of lane `m` and its class, without sending it. -/
def State.nextSeq (s : State) (m : Nat) : Option CuffFrame :=
  let n := chanOf m
  if s.split n then
    (if (s.chan n).change ≠ 0 then none
     else (s.lane m).queue.head?.map fun f => { f with fsn := s.fget (LANE_FSN.TXNEXT m) })
  else match (s.lane m).behind with
    | f :: _ => some f
    | [] =>
      let o := if m < 256 then m + 256 else m - 256
      if (s.chan n).change ≠ 0 ∨ 512 ≤ (s.lane o).behind.length then none
      else (s.chan n).queue.head?.map fun f => { f with fsn := (s.chan n).txNext }

/-- Send the next sequenced frame of lane `m`: in dual-send the channel assigns the FSN once, and the other lane sends
the frame too while it is up. -/
def State.sendNextSeq (s : State) (m : Nat) (f : CuffFrame) : State :=
  let n := chanOf m
  let o := if m < 256 then m + 256 else m - 256
  if s.split n then (s.onLane m fun x => { x with queue := x.queue.drop 1 }).sendSeq m f
  else if !(s.lane m).behind.isEmpty then (s.onLane m fun x => { x with behind := x.behind.drop 1 }).sendSeq m f
  else
    let s := s.onChan n fun x => { x with queue := x.queue.drop 1, txNext := (f.fsn + 1) % 2 ^ 32 }
    let s := if s.laneUp o then s.onLane o fun x => { x with behind := x.behind ++ [f] } else s
    s.sendSeq m f

/-- An unsequenced frame of lane `m` is sent. -/
def State.sendUnseq (s : State) (m : Nat) (f : CuffFrame) : State :=
  let f := { s.stamp m f with fsn := 0 }
  (s.onLane m fun x => { x with unseq := x.unseq.erase { f with claim := 0, h3 := 0, ackfsn := 0, credit := 0, flags := 0, chan := 0 } }).countTx m f

/-- LANE_TX_FRAME (R463): the scheduler of lane `m` sends the next frame by class. In ALIGN only LINKINFO is carried; a
FENCED channel sends only LACK and NAK, a STANDBY LINKINFO too (R533); an OWNER that has lost its successor sends nothing
(R534); sequenced frames wait while the peer pauses. -/
def execLaneTxFrame (m : Nat) (s : State) : Res :=
  .next (
    let n := chanOf m
    let x := s.lane m
    let un (p : CuffFrame → Bool) : Option CuffFrame := firstThat p x.unseq
    let only (f : CuffFrame) : Bool := s.chRole n != 2 || f.cls == 1 || f.type == tyLINKINFO
    if !s.up || decide (512 ≤ m) || s.ownerHeld n then s
    else if s.lst m = lsALIGN then
      (if s.fbit (CHAN_STAT.FENCED n) then s else match un fun f => f.type == tyLINKINFO with
        | some f => s.sendUnseq m f
        | none => s)
    else if s.lst m ≠ lsACTIVE then s
    else match un fun f => f.cls == 1 with
      | some f => s.sendUnseq m f
      | none =>
        if s.fbit (CHAN_STAT.FENCED n) then s
        else if s.chRole n = 2 then
          (match un only with
            | some f => s.sendUnseq m f
            | none => s)
        else match x.replay, x.peerPause with
          | f :: rest, false => (s.onLane m fun x => { x with replay := rest }).countTx m f
          | _, _ =>
            let seq := if x.peerPause then none else (s.nextSeq m).filter fun f => s.creditOk m f.fsn
            match un (fun _ => true), seq with
            | some f, _ => s.sendUnseq m f
            | none, some f => s.sendNextSeq m f
            | none, none => s)

/-! ### Replay (R452) -/

/-- Every unacknowledged frame is sent again; after 8 replays of the oldest without an advance the lane goes DOWN. -/
def State.startReplay (s : State) (m : Nat) : State :=
  let x := s.lane m
  if x.sent.isEmpty then s
  else if 8 ≤ x.replays then s.laneDown m 2
  else (s.setLane m { x with replay := x.sent, replays := x.replays + 1 }).fcount (LANE_ERR.REPLAYS m) 1

def execAckTimeout (m : Nat) (s : State) : Res :=
  .next (if s.up && decide (m < 512) && s.laneUp m then s.startReplay m else s)

/-- ACKFSN and CREDIT of a header received on lane `m` (R452, R453); an acknowledgement that covers the LAST frame of a
POST completes it (R460). -/
def State.takeAck (s : State) (m a credit : Nat) : State :=
  let x := s.lane m
  if fsnLater x.ackSeen a then s
  else
    let covered (f : Nat) : Bool := !fsnLater f a
    let adv := a ≠ x.ackSeen
    let s := s.setLane m { x with
      ackSeen := a, credit := credit
      sent := x.sent.filter fun f => !covered f.fsn
      replay := x.replay.filter fun f => !covered f.fsn
      replays := if adv then 0 else x.replays }
    let done := (s.openTxns.filter fun e => e.2.chan == chanOf m && e.2.stage == .sent && e.2.ctl % 16 == 2
      && ((if m < 256 then e.2.lastA else e.2.lastB).any covered)).map (·.1)
    done.foldl (fun s t => s.settleTxn t 1 0) s

/-! ### What the module receives (R447, R454, R460–R462, R466) -/

/-- A REFUSE or ENDTX frame for inbound TSN `t`, on lane `m`. -/
def State.refuse (s : State) (m t code : Nat) : State :=
  s.queueSeq (chanOf m) m { type := tyREFUSE, astatus := code, reftsn := t, flags := 3, frags := 1 }
def State.sendEndtx (s : State) (m t : Nat) : State :=
  s.queueSeq (chanOf m) m { type := tyENDTX, reftsn := t, flags := 3, frags := 1 }

/-- A delivery that fails before its last frame (R430): the buffer returns to the tail with its new GEN. -/
def State.failInbound (s : State) (n : Nat) (b : Inbound) : State :=
  let s := s.onInbound n fun l => l.filter fun x => x.tsn != b.tsn
  let s := s.poolAppend b.pool b.index (poolWord b.owner 0 0 b.gen)
  s.raise { loc := locCode 0x6 5 (n / 16) (n % 16), d0 := s.bufAddr b.pool b.index, d2 := n, bare := true }

/-- The data of a fragment goes into the buffer; after the last one the entry is written to the IR (R365, R430). -/
def State.fillInbound (s : State) (n : Nat) (b : Inbound) (f : CuffFrame) : State :=
  let a := s.bufAddr b.pool b.index + 4096 * b.frags
  let ok := (sectorPieces a f.payload.length).all fun pc => s.mayReach (some b.owner) pc.2.1 && s.served pc.2.1
    && (pc.2.2 == 64 || !s.curPois pc.1) -- a sector not written whole stays poisoned (R258)
  if !ok || s.bufSize b.pool < 4096 * b.frags + f.payload.length then (s.failInbound n b).refuse b.lane b.tsn 5
  else
    let s := s.hubWrite (triadFor b.owner) a (f.payload.map (BitVec.ofNat 8))
    let last := f.flags / 2 % 2 == 1
    let b' := { b with frags := b.frags + 1, lane := b.lane, delivered := last }
    let s := s.onInbound n fun l => l.map fun x => if x.tsn == b.tsn then b' else x
    if !last then s
    else
      let s := (s.markDelivered b.pool b.index b.gen b.owner).hubDurable
      let s := s.fset (CHAN_INTSN.INTSN n) (max b.tsn (s.fget (CHAN_INTSN.INTSN n)))
      s.putEntry b.ring { ir := true, words :=
        [0x40 * 2 ^ 8 + bnat (s.fbit SEAM_TODSTAT.UNCERTAIN) * 2 ^ 19 + b.opcode % 2 ^ 16 * 2 ^ 48, b.tsn,
         mkHandle b.owner b.gen b.pool b.index, b.total % 2 ^ 32] }

/-- A REQ frame in order on lane `m` (R430, R461, R462). -/
def State.takeReq (s : State) (m : Nat) (f : CuffFrame) : State :=
  let n := chanOf m
  let p := s.fget (TRIAD_CHPOOL.POOL n)
  let r := s.fget (CHAN_RINGCTL.INRING n)
  let known := firstThat (fun b => b.tsn == f.tsn) (AMap.get [] s.triad.inbound n)
  if s.fbit (CHAN_STAT.FENCED n) then s
  else match known with
    | some b =>
      if b.delivered then
        (match b.answer with
          | some t => (match s.txn t with
            | some x => if x.sentDur && x.stage == .sent then
                (s.txnFrames t x).foldl (fun s g => s.queueSeq n m g) s
              else s
            | none => s)
          | none => s)
      else if f.frag = b.frags then s.fillInbound n { b with lane := m } f
      else if f.frag = 0 then s.fcount (CHAN_STAT.INDUP n) 1
      else s
    | none =>
      let s := s.wakeBy 4 POWER_WAKE.ADAPTER_EN
      if f.frag ≠ 0 then s
      else if (AMap.get [] s.triad.inDone n).contains f.tsn then s.fcount (CHAN_STAT.INDUP n) 1
      else if !s.fbit (CHAN_RINGCTL.INEN n) then s.refuse m f.tsn 3
      else if f.tsn ≤ s.fget (CHAN_INTSN.INTSN n) then s.refuse m f.tsn 4
      else if s.fbit (POOL_CFG.VALID p) && decide (s.bufSize p < f.h3) then s.refuse m f.tsn 2
      else if s.heldIn n then
        let bad := !s.fbit (POOL_CFG.VALID p) || s.fget (POOL_CFG.PART p) != s.rpart r
        let s := if bad then s.raise { loc := locCode 0x6 5 (n / 16) (n % 16), d2 := n, bare := true } else s
        (s.refuse m f.tsn 1).updHold n
      else match s.takeBuf p ((s.poolFree p).length) with
        | (s, none) => (s.refuse m f.tsn 1).updHold n
        | (s, some (i, gen)) =>
          let b : Inbound := { tsn := f.tsn, opcode := f.opcode, total := f.h3, lane := m, pool := p, index := i, gen := gen
                               owner := s.fget (POOL_CFG.PART p), ring := r }
          ((s.onInbound n fun l => l ++ [b]).fillInbound n b f).updHold n

/-- An ANSWER frame in order (R367, R460): the whole answer is taken, or a late one is counted. -/
def State.takeAnswer (s : State) (m : Nat) (f : CuffFrame) : State :=
  let n := chanOf m
  let late (s : State) : State := if f.flags / 2 % 2 = 1 then s.fcount (CHAN_RINGSTAT.LATE n) 1 else s
  match s.txn f.tsn with
  | none => late s
  | some x =>
    let open_ := x.stage == .sent || x.stage == .fetch || x.stage == .compress || x.stage == .encrypt || x.stage == .ready
    if x.chan ≠ n ∨ x.ctl % 16 ≠ 1 ∨ !x.sentDur ∨ !open_ then late s
    else
      let frags := (x.frags.filter fun e => e.1 ≠ f.frag) ++ [(f.frag, f.payload)]
      let x := { x with frags := frags, fragsN := f.frags, astatus := f.astatus }
      if frags.length < f.frags then s.setTxn f.tsn x
      else
        let reply := ((List.range f.frags).map fun i => AMap.get [] frags i).flatten
        (s.setTxn f.tsn { x with reply := reply, stage := .sent }).replyComplete f.tsn

/-- An ANSACK in order (R460): it completes the ANSWER order of its inbound TSN. -/
def State.takeAnsack (s : State) (m : Nat) (f : CuffFrame) : State :=
  let l := s.openTxns.filter fun e => e.2.chan == chanOf m && e.2.ctl % 16 == 3 && (e.2.desc.getD 7 0).toNat == f.reftsn
    && e.2.sentDur && e.2.stage != .settled && e.2.stage != .answered
  l.foldl (fun s e => s.settleTxn e.1 1 0) s

/-- A sequenced frame is delivered. -/
def State.deliverFrame (s : State) (m : Nat) (f : CuffFrame) : State :=
  if f.type = tyREQ then s.takeReq m f
  else if f.type = tyANSWER then s.takeAnswer m f
  else if f.type = tyANSACK then s.takeAnsack m f
  else s

/-- Deliver the frames held that follow in order. -/
def State.deliverHeld (s : State) (m : Nat) : Nat → State
  | 0 => s
  | fuel + 1 =>
    let n := chanOf m
    let held := if s.split n then (s.lane m).held else (s.chan n).held
    match firstThat (fun f => f.fsn == s.rxNext m) held with
    | none => s
    | some f =>
      let nx := (f.fsn + 1) % 2 ^ 32
      let keep (l : List CuffFrame) : List CuffFrame := l.filter fun g => g.fsn != f.fsn
      let s := if s.split n then (s.onLane m fun x => { x with held := keep x.held }).fset (LANE_FSN.RXNEXT m) nx
        else ((s.onChan n fun x => { x with held := keep x.held, rxNext := nx }).fset (LANE_FSN.RXNEXT n) nx).fset (LANE_FSN.RXNEXT (n + 256)) nx
      (s.deliverFrame m f).deliverHeld m fuel

/-- A sequenced frame on lane `m` (R452, R454): in order it is delivered; a duplicate is discarded; up to 512 ahead it
is held; beyond that it is discarded and a NAK is sent. -/
def State.takeSeq (s : State) (m : Nat) (f : CuffFrame) : State :=
  let n := chanOf m
  let d := (f.fsn + 2 ^ 32 - s.rxNext m) % 2 ^ 32
  let s := s.queueOnce m lackFrame
  if d < 512 then
    let add (l : List CuffFrame) : List CuffFrame := if l.any fun g => g.fsn == f.fsn then l else l ++ [f]
    let s := if s.split n then s.onLane m fun x => { x with held := add x.held } else s.onChan n fun x => { x with held := add x.held }
    s.deliverHeld m 513
  else if d < 2 ^ 31 then s.queueOnce m nakFrame
  else s

/-- An OWNER becomes STANDBY of channel `n` (R535 step 4, R536): the channel counts as WAITING for its ring pairs. `peer`
is the taker; without one it is the successor that PEER names. -/
def State.standDown (s : State) (n : Nat) (peer : Option Nat) : State :=
  if s.chRole n = 1 then
    let s := ((s.fset (SEAM_CHSUCC.ROLE n) 2).fset (SEAM_CHSUCC.PEER n) (peer.getD (s.fget (SEAM_CHSUCC.PEER n)))).fset
      (SEAM_CHSUCC.AUTO n) 0
    s.waitChan n
  else s

/-- A frame with a claim higher than the channel's in claim mode (R464, R466): the channel is FENCED. -/
def State.claimCheck (s : State) (n claim : Nat) : State :=
  let d := (claim + 2 ^ 16 - s.kget (CHAN_CLAIM.CLAIM n)) % 2 ^ 16
  if s.fbit (CHAN_CTL.CLAIMMODE n) && decide (1 ≤ d ∧ d < 2 ^ 15) && !s.fbit (CHAN_STAT.FENCED n) then
    ((s.fset (CHAN_STAT.FENCED n) 1).raise { loc := laneLoc 0x6 n, d2 := n }).standDown n none
  else s

/-- A frame arrives on lane `m` and is taken by `take` once its checks and its header are done with (R447). -/
def State.rxFrame (s : State) (m : Nat) (f : CuffFrame) (take : State → State) : State :=
  let x := s.lane m
  let carried := s.lst m == lsACTIVE || (s.lst m == lsALIGN && f.type == tyLINKINFO) || s.lst m == lsLOWPOWER
  if !s.up || decide (512 ≤ m) || !carried then s
  else
    let b := live x.rxBytes f.size
    let k := live x.rxFrames 1
    let s := s.setLane m { x with rxBytes := b.1, rxFrames := k.1, peerPause := false }
    let s := if b.2 then s.fset (LANE_RXBYTES.WRAPPED m) 1 else s
    let s := if k.2 then s.fset (LANE_RXFRAMES.WRAPPED m) 1 else s
    let s := if s.lst m = lsLOWPOWER then s.laneTo m lsACTIVE else s
    if !f.good then s.fcount (LANE_ERR.CRCERR m) 1
    else if f.chan ≠ chanOf m then s.raise { loc := laneLoc 0x6 m }
    else take ((s.claimCheck (chanOf m) f.claim).takeAck m f.ackfsn f.credit)

def execCuffReq (m : Nat) (f : CuffFrame) (s : State) : Res :=
  .next (let f := { f with type := tyREQ }
         s.rxFrame m f fun s => s.takeSeq m f)
def execCuffAnswer (m : Nat) (f : CuffFrame) (s : State) : Res :=
  .next (let f := { f with type := tyANSWER }
         s.rxFrame m f fun s => s.takeSeq m f)
def execCuffAnsack (m : Nat) (f : CuffFrame) (s : State) : Res :=
  .next (let f := { f with type := tyANSACK }
         s.rxFrame m f fun s => s.takeSeq m f)
def execCuffLack (m : Nat) (f : CuffFrame) (s : State) : Res :=
  .next (s.rxFrame m { f with type := tyLACK } fun s => s)

/-- CUFF_NAK: replay from ACKFSN + 1; one for a frame already acknowledged is ignored. -/
def execCuffNak (m : Nat) (f : CuffFrame) (s : State) : Res :=
  .next (let f := { f with type := tyNAK }
         let old := fsnLater (s.lane m).ackSeen f.ackfsn
         s.rxFrame m f fun s => if old then s else s.startReplay m)

/-- The peer's report in a LINKINFO when a lane comes up (R451): its transmit side replays what the peer does not have;
the lane goes DOWN where the two ends do not fit. -/
def State.linkUp (s : State) (m w1 : Nat) : State :=
  let n := chanOf m
  let peerTx := w1 % 2 ^ 32
  let peerRx := w1 / 2 ^ 32
  let x := s.lane m
  let ahead := (peerTx + 2 ^ 32 - s.rxNext m) % 2 ^ 32
  let tx := if s.split n then s.fget (LANE_FSN.TXNEXT m) else (s.chan n).txNext
  let holds := x.sent.any fun f => f.fsn == peerRx
  let acked := !fsnLater peerRx ((x.ackSeen + 1) % 2 ^ 32)
  if (512 < ahead ∧ ahead < 2 ^ 31) ∨ !(holds || acked || peerRx == tx) then s.laneDown m 2
  else
    let x := { x with behind := [], replay := x.sent.filter fun f => !fsnLater peerRx f.fsn, replays := 0 }
    let s := (s.setLane m x).fset (LANE_FSN.TXNEXT m) tx
    (s.fset (LANE_FSN.RXNEXT m) (s.rxNext m)).laneTo m lsACTIVE

/-- CUFF_LINKINFO (R444, R449, R471). -/
def execCuffLinkinfo (m : Nat) (f : CuffFrame) (s : State) : Res :=
  .next (let f := { f with type := tyLINKINFO }
    s.rxFrame m f fun s =>
      let n := chanOf m
      let w (i : Nat) : Nat := natOfLe ((f.payload.drop (8 * i)).take 8)
      let x := s.lane m
      let new := x.lastInfo != some (w 0, w 3)
      let s := s.setLane m { x with linkInfo := true, lastInfo := some (w 0, w 3) }
      let s := if new then s.queueOnce m (s.linkInfoFrame m) else s
      let s := s.onChan n fun c => { c with peerNext := AMap.set 0 c.peerNext (pathOf m) (w 1 % 2 ^ 32) }
      let s := s.claimCheck n (w 0 / 2 ^ 48)
      if s.lst m ≠ lsALIGN ∨ !x.codeLock ∨ !x.markerLock then s
      else if s.fbit (CHAN_ADAPTER.VALID n) && w 3 % 2 ^ 48 != s.fget (CHAN_ADAPTER.PID n) then
        (s.laneDown m 6).raise { loc := laneLoc 0x6 m }
      else s.linkUp m (w 1))

/-- CUFF_RECAL: the peer pauses; sequenced frames wait until it is heard again (R468). -/
def execCuffRecal (m : Nat) (f : CuffFrame) (s : State) : Res :=
  .next (s.rxFrame m { f with type := tyRECAL } fun s => s.onLane m fun x => { x with peerPause := true })

/-- CUFF_LPREQ: both ends enter LOWPOWER (R469). -/
def execCuffLpreq (m : Nat) (f : CuffFrame) (s : State) : Res :=
  .next (s.rxFrame m { f with type := tyLPREQ } fun s => if s.lst m = lsACTIVE then s.laneTo m lsLOWPOWER else s)

/-! ### Markers and skew (R443, R445) -/

/-- A difference of two 28-bit times as a signed number. -/
def signed28 (d : Nat) : Int := if d % 2 ^ 28 < 2 ^ 27 then Int.ofNat (d % 2 ^ 28) else Int.ofNat (d % 2 ^ 28) - 2 ^ 28

/-- SKEW of a channel: the mean over the last 16 marker pairs, in ns; outside ±2,000 ns SKEWERR is set with a
corrected-class event. -/
def State.updSkew (s : State) (n : Nat) : State :=
  let a := s.lane n
  let b := s.lane (n + 256)
  let ds := List.zipWith (fun x y => signed28 (y + 2 ^ 28 - x)) a.stamps b.stamps
  let valid := a.markerLock && b.markerLock
  let ns := if ds.isEmpty then 0 else (ds.foldl (· + ·) 0) * 1000 / (4096 * Int.ofNat ds.length)
  let put (s : State) (m : Nat) : State := (s.fset (LANE_SKEW.SKEW m) (wrapTo 32 ns)).fsetB (LANE_SKEW.VALID m) valid
  let s := put (put s n) (n + 256)
  if valid && (decide (ns < -2000) || decide (2000 < ns)) && !s.fbit (CHAN_STAT.SKEWERR n) then
    (s.fset (CHAN_STAT.SKEWERR n) 1).raiseC { loc := laneLoc 0x3 n, d2 := n }
  else s

/-- FEC symbols corrected on Cuff-3, or code violations on Cuff-1, are counted (R477, R581). -/
def State.countCorr (s : State) (m k : Nat) : State :=
  let g := s.fget (LANE_STAT.CURGEN m)
  if k = 0 ∨ (g ≠ 1 ∧ g ≠ 3) then s
  else
    let t := (s.lane m).corrRest + k
    let s := s.onLane m fun x => { x with corrRest := t % 1024 }
    (s.fcount (LANE_ERR.CORR m) (if g = 3 then t / 1024 else k)).fcount (LIFE_LANE2.CORR m) (t / 1024)

/-- CUFF_MARKER (R443, R445): a marker with `count` and TS `ts` arrives; `e.placed` says that it stands one period after
the one before, `e.corr` how many symbols were corrected, or code violations met, since then. Two in a row lock; four missing or misplaced lose the lock. -/
def execCuffMarker (m count ts : Nat) (e : MarkerIn) (s : State) : Res :=
  .next (if !s.up || decide (512 ≤ m) || decide (s.lst m < lsALIGN) || s.lst m == lsDOWN || !(s.lane m).codeLock then s
  else
    let s := s.look.countCorr m e.corr
    let x := s.lane m
    let next := (x.rxCount.getD count + 1) % 2 ^ 24
    let good := e.placed && (x.rxCount.isNone || count % 2 ^ 24 == next)
    if good then
      let stamp := (s.tod + 2 ^ 28 - ts % 2 ^ 28) % 2 ^ 28
      let lock := x.rxCount.isSome
      let s := s.setLane m { x with rxCount := some (count % 2 ^ 24), missed := 0
                                    markerLock := x.markerLock || lock, stamps := (stamp :: x.stamps).take 16 }
      -- the lock is new: a LINKINFO counts from here on (R444)
      let s := if lock && !x.markerLock then
          (s.onLane m fun x => { x with linkInfo := false, lastInfo := none }).queueOnce m (s.linkInfoFrame m)
        else s
      s.updSkew (chanOf m)
    else if 3 ≤ x.missed then s.lockLoss m
    else s.setLane m { x with missed := x.missed + 1, rxCount := x.rxCount.map fun c => (c + 1) % 2 ^ 24 })

/-- CODE_ALIGNMENT_LOCK: a receiver in ALIGN accepts a comma alignment (R441) or gains block lock (R442). -/
def execCodeAlignmentLock (m : Nat) (s : State) : Res :=
  .next (if s.up && decide (m < 512) && s.lst m == lsALIGN then s.onLane m fun x => { x with codeLock := true, linkInfo := false, lastInfo := none } else s)

/-- PATHMISS of channel `n`: in dual-send the copy of a frame has not arrived on the other path in time (R445). -/
def execPathmiss (n : Nat) (s : State) : Res :=
  .next (if s.up && decide (n < 256) && !s.split n && s.laneUp n && s.laneUp (n + 256) then
    s.fcount (CHAN_STAT.PATHMISS n) 1
  else s)

/-- A marker is sent: the count goes up. -/
def State.sendMarker (s : State) (m : Nat) : State := s.onLane m fun x => { x with txCount := (x.txCount + 1) % 2 ^ 24 }
def execAlignmentMarkerTx (m : Nat) (s : State) : Res :=
  .next (if s.up && decide (m < 512) && (s.lst m == lsALIGN || s.lst m == lsACTIVE) then s.sendMarker m else s)

/-! ### Lane commands, recalibration and low power (R467–R469, R477) -/

/-- LANE[m].CMD RETRAIN, DOWN: refused while OFF. -/
def State.laneRetrain (s : State) (m : Nat) : State :=
  if s.lst m = lsOFF then s.fset (LANE_CMD.RESULT m) 2
  else (((s.fset (LANE_STAT.CURGEN m) 0).onLane m LaneState.unlocked).laneTo m lsDETECT).fset (LANE_CMD.RESULT m) 1
def execLaneRetrain (m : Nat) (s : State) : Res := .next (if s.up && decide (m < 512) then s.laneRetrain m else s)
def State.laneDownCmd (s : State) (m : Nat) : State :=
  if s.lst m = lsOFF then s.fset (LANE_CMD.RESULT m) 2 else (s.laneDown m 5).fset (LANE_CMD.RESULT m) 1
def execLaneDownCmd (m : Nat) (s : State) : Res := .next (if s.up && decide (m < 512) then s.laneDownCmd m else s)

/-- SNAP: the four live counters in one cycle. -/
def State.snap (s : State) (m : Nat) : State :=
  let x := s.lane m
  ((((s.fset (LANE_TXBYTES.COUNT m) x.txBytes).fset (LANE_RXBYTES.COUNT m) x.rxBytes).fset (LANE_TXFRAMES.COUNT m) x.txFrames).fset
    (LANE_RXFRAMES.COUNT m) x.rxFrames).fset (LANE_CMD.RESULT m) 1
def execSnap (m : Nat) (s : State) : Res := .next (if s.up && decide (m < 512) then s.snap m else s)

/-- Is a lane without a frame queued or unacknowledged? -/
def State.laneQuiet (s : State) (m : Nat) : Bool :=
  let x := s.lane m
  x.queue.isEmpty && x.unseq.isEmpty && x.behind.isEmpty && x.sent.isEmpty && x.replay.isEmpty && (s.chan (chanOf m)).queue.isEmpty

/-- The lane enters RECAL, announced to the peer. -/
def State.enterRecal (s : State) (m : Nat) (full : Bool) : State :=
  let s := s.sendUnseq m (recalFrame (if full then 200 else 2))
  ((s.onLane m fun x => { x with recalWaits := false, recalFull := full }).fcount (LIFE_LANE3.RECALS m) 1).laneTo m lsRECAL

/-- A recalibration by the rule of R468: at once and full in dual-send with the other lane ACTIVE; otherwise it waits. -/
def State.recal (s : State) (m : Nat) : State :=
  let n := chanOf m
  let o := if m < 256 then m + 256 else m - 256
  if !s.split n && s.lst o == lsACTIVE then s.enterRecal m true
  else s.onLane m fun x => { x with recalWaits := true }

/-- LANE[m].CMD RECAL. -/
def State.laneRecalCmd (s : State) (m : Nat) : State :=
  if s.lst m ≠ lsACTIVE then s.fset (LANE_CMD.RESULT m) 2
  else
    let s := s.recal m
    s.fset (LANE_CMD.RESULT m) (if s.lst m = lsRECAL then 1 else 3)
def execLaneRecal (m : Nat) (s : State) : Res := .next (if s.up && decide (m < 512) then s.laneRecalCmd m else s)

/-- RECAL_DUE: RECALPER has elapsed or the eye margin has fallen (R467). -/
def execRecalDue (m : Nat) (s : State) : Res :=
  .next (if s.up && decide (m < 512) && s.lst m == lsACTIVE then s.recal m else s)

/-- RECAL_WAIT_END: the wait of R468 is over; the recalibration is full on a quiet lane, or in dual-send with the other
lane ACTIVE, and quick on another. -/
def execRecalWaitEnd (m : Nat) (s : State) : Res :=
  .next (if s.up && decide (m < 512) && s.lst m == lsACTIVE && (s.lane m).recalWaits then
    let o := if m < 256 then m + 256 else m - 256
    s.enterRecal m (s.laneQuiet m || (!s.split (chanOf m) && s.lst o == lsACTIVE))
  else s)

/-- RECAL_DONE. -/
def execRecalDone (m : Nat) (s : State) : Res :=
  .next (if s.up && decide (m < 512) && s.lst m == lsRECAL then
    let s := (s.onLane m fun x => { x with recalFull := false }).laneTo m lsACTIVE
    if s.fget (LANE_CMD.RESULT m) = 3 then s.fset (LANE_CMD.RESULT m) 1 else s
  else s)

/-- LOWPOWER_ENTRY: in Drowse, idle for 10 µs (R469). -/
def execLowpowerEntry (m : Nat) (s : State) : Res :=
  .next (if s.up && decide (m < 512) && s.cur == 3 && s.lst m == lsACTIVE && s.laneQuiet m then
    (s.sendUnseq m { type := tyLPREQ }).laneTo m lsLOWPOWER
  else s)
def execLowpowerRefresh (m : Nat) (s : State) : Res :=
  .next (if s.up && decide (m < 512) && s.lst m == lsLOWPOWER then s.sendMarker m else s)

/-- LOWPOWER_WAKE: a frame to send wakes the lane; `lock` says that lock has held. -/
def execLowpowerWake (m : Nat) (lock : Bool) (s : State) : Res :=
  .next (if s.up && decide (m < 512) && s.lst m == lsLOWPOWER then
    if lock then s.laneTo m lsACTIVE else s.lockLoss m
  else s)

/-! ### Mode changes (R457) -/

/-- CHAN[n].CMD DUAL (`mode` 1) or SPLIT (2). -/
def State.chanMode (s : State) (n mode : Nat) : State :=
  let res (s : State) (v : Nat) : State := s.fset (CHAN_CMD.RESULT n) v
  if !s.fbit (CHAN_CTL.EN n) then res s 5
  else if (s.chan n).change ≠ 0 then res s 6
  else if s.lst n ≠ lsACTIVE ∨ s.lst (n + 256) ≠ lsACTIVE then res s 2
  else res (s.onChan n fun x => { x with change := mode }) 3
def execChanDual (n : Nat) (s : State) : Res := .next (if s.up && decide (n < 256) then s.chanMode n 1 else s)
def execChanSplit (n : Nat) (s : State) : Res := .next (if s.up && decide (n < 256) then s.chanMode n 2 else s)

/-- The later of two FSNs. -/
def fsnMax (a b : Nat) : Nat := if fsnLater b a then b else a

/-- MODE_CHANGE_DONE: both replay buffers are empty; LINKINFO announces the new mode on both lanes, and the counters
and queued frames go over to it. -/
def execModeChangeDone (n : Nat) (s : State) : Res :=
  .next (
    let c := s.chan n
    let a := s.lane n
    let b := s.lane (n + 256)
    let empty := a.sent.isEmpty && b.sent.isEmpty && a.behind.isEmpty && b.behind.isEmpty
    if !s.up || decide (256 ≤ n) || c.change == 0 || !empty then s
    else
      let both (s : State) (tx rx : Nat) : State :=
        [n, n + 256].foldl (fun s m => (s.fset (LANE_FSN.TXNEXT m) tx).fset (LANE_FSN.RXNEXT m) rx) s
      let s :=
        if c.change = 1 then
          let tx := if s.split n then fsnMax (s.fget (LANE_FSN.TXNEXT n)) (s.fget (LANE_FSN.TXNEXT (n + 256))) else c.txNext
          let rx := if s.split n then fsnMax (AMap.get 0 c.peerNext 0) (AMap.get 0 c.peerNext 1) else c.rxNext
          let q := (a.queue ++ b.queue).foldl (fun l f => insertFrame f l) c.queue
          let s := (s.onLane n fun x => { x with queue := [], held := [] }).onLane (n + 256) fun x => { x with queue := [], held := [] }
          both ((s.setChan n { c with change := 0, queue := q, txNext := tx, rxNext := rx }).fset (CHAN_STAT.MODE n) 0) tx rx
        else
          let s := (both (s.setChan n { c with change := 0, queue := [], held := [] }) c.txNext c.rxNext).fset (CHAN_STAT.MODE n) 1
          c.queue.foldl (fun s f =>
            let m := match s.txn f.tsn with
              | some x => x.lane.getD (s.pickLane n)
              | none => s.pickLane n
            let s := match s.txn f.tsn with
              | some x => s.setTxn f.tsn { x with lane := some m }
              | none => s
            s.queueSeq n m f) s
      let s := (s.queueUnseq n (s.linkInfoFrame n)).queueUnseq (n + 256) (s.linkInfoFrame (n + 256))
      s.fset (CHAN_CMD.RESULT n) 1)

/-! ### Adapters and the roll-call (R470–R474) -/

/-- A target found in a pass: its bus, the dynamic address it received, its provisional ID and its identity block. -/
def State.identityOk (s : State) (f : SbFound) : Bool :=
  let k := f.ident.getD 1 0
  let chs := (f.ident.drop 2).take k
  f.ident.length == 18 && f.ident.getD 0 0 == 1 && decide (1 ≤ k ∧ k ≤ 16)
    && (List.range (k - 1)).all (fun i => decide (chs.getD i 0 < chs.getD (i + 1) 0))
    && chs.all (fun n => s.fitted n && !s.link.adapters.any fun a => a.chans.contains n)

/-- The channels an identity names. -/
def SbFound.chans (f : SbFound) : List Nat := ((f.ident.drop 2).take (min 16 (f.ident.getD 1 0))).filter (· < 256)

/-- A target of a pass (R471): its channels have an adapter, or IDERR is set with a contained-class fault. -/
def State.takeTarget (s : State) (f : SbFound) : State :=
  if s.identityOk f then
    let s := { s with link := { s.link with adapters := s.link.adapters ++ [{ bus := f.bus, addr := f.addr, pid := f.pid, chans := f.chans }] } }
    f.chans.foldl (fun s n =>
      let s := (s.fset (CHAN_ADAPTER.PID n) f.pid).fset (CHAN_ADAPTER.VALID n) 1
      ((s.fset (CHAN_ADAPTER.DADDR n) f.addr).fset (CHAN_ADAPTER.BUS n) (f.bus - 2)).fset (CHAN_ADAPTER.IDERR n) 0) s
  else
    let s := { s with link := { s.link with adapters := s.link.adapters ++ [{ bus := f.bus, addr := f.addr, pid := f.pid, chans := [] }] } }
    (f.chans.foldl (fun (s : State) n => s.fset (CHAN_ADAPTER.IDERR n) 1) s).raise { loc := locCode 0x6 4 0xFF (0x14 + f.bus) }

/-- An adapter is removed (R474): its channels' lanes go DOWN with cause 3. -/
def State.dropAdapter (s : State) (a : Adapter) : State :=
  let s := { s with link := { s.link with adapters := s.link.adapters.filter (· ≠ a) } }
  a.chans.foldl (fun s n =>
    let s := ((s.fset (CHAN_ADAPTER.VALID n) 0).fset (CHAN_ADAPTER.PID n) 0).fset (CHAN_ADAPTER.DADDR n) 0
    (s.laneDown n 3).laneDown (n + 256) 3) s

/-- PRSNT_N of channel `n` has gone high (R474): the adapter that serves it is removed; without sideband, the lanes of
the channel go DOWN. -/
def State.unfit (s : State) (n : Nat) : State :=
  let s := (s.link.adapters.filter fun a => a.chans.contains n).foldl State.dropAdapter s
  (s.laneDown n 3).laneDown (n + 256) 3

/-- A pass is started, or one more is scheduled (R472, R473). -/
def State.rollGo (s : State) : State :=
  if s.fbit TAILOR_ROLLSTAT.BUSY then s.fset TAILOR_ROLLSTAT.AGAIN 1 else s.fset TAILOR_ROLLSTAT.BUSY 1

/-- Adapters addressed on the two buses. -/
def State.updAdapt (s : State) : State :=
  let k (b : Nat) : Nat := (s.link.adapters.filter fun a => a.bus == b).length
  (s.fset TAILOR_ROLLSTAT.ADAPT2 (k 2)).fset TAILOR_ROLLSTAT.ADAPT3 (k 3)

/-- A roll-call pass on both buses: `found` the targets addressed, `gone` the addresses (bus × 128 + address) that failed
GETSTATUS twice, `voids` the rounds made void (R472, R473). -/
def State.rollPass (s : State) (found : List SbFound) (gone : List Nat) (voids : Nat) : State :=
  let known := s.link.adapters
  let s := found.foldl State.takeTarget s
  let s := (known.filter fun a => gone.contains (a.bus * 128 + a.addr)).foldl State.dropAdapter s
  let s := (s.fcount TAILOR_ROLLSTAT.DISCARDED voids).fcount TAILOR_ROLLSTAT.PASSES 1
  let again := s.fbit TAILOR_ROLLSTAT.AGAIN
  ((s.fset TAILOR_ROLLSTAT.AGAIN 0).fsetB TAILOR_ROLLSTAT.BUSY again).updAdapt

/-- ROLLCALL_PASS: the pass under way runs to its end; while the Tailor restarts it waits (R601). -/
def execRollcallPass (found : List SbFound) (gone : List Nat) (voids : Nat) (s : State) : Res :=
  .next (if s.up && s.fbit TAILOR_ROLLSTAT.BUSY && !s.fbit TAILOR_TFWSTAT.BUSY then s.rollPass found gone voids else s)
def execRollGo (s : State) : Res := .next (if s.up then s.rollGo else s)
def execHotJoin (s : State) : Res := .next (if s.up && s.fbit TAILOR_ROLLCTL.AUTO then s.rollGo else s)

/-- Inbound transactions that `p` picks are ended toward the adapter (R433, R447): ENDTX for each not answered. -/
def State.endUnanswered (s : State) (p : Inbound → Bool) : State :=
  (List.range 256).foldl (fun s n =>
    let l := (AMap.get [] s.triad.inbound n).filter fun b => p b && b.answer.isNone
    let s := l.foldl (fun s b => s.sendEndtx b.lane b.tsn) s
    s.endInbound n fun b => p b && b.answer.isNone) s

end Sys2Proof.Machine
end

