-- ==== Sys2Proof/Machine/Seam.lean ====
section
/-! DEFINITION. Seam ports and frames, the journal mirror, channel takeover, firmware messages and time-of-day
(19_seam_complex_and_time.md, R521–R545). -/

namespace Sys2Proof.Machine

/-- A Seam port as a Hub agent for no partition (R548, R630). -/
def seamAgent (p : Nat) : HubAgent := { part := none, tile := 0xFF, unit := 0x10 + p }

/-- SEAM.STAT.REACH follows the ports. -/
def State.updReach (s : State) : State :=
  s.fset SEAM_STAT.REACH (((List.range 4).map fun m => bnat (s.reach m) * 2 ^ m).sum)

/-! ### Sealing (R503, R510, R524, R526) -/

/-- The header of a frame, with the payload's length. -/
def SeamFrame.header (f : SeamFrame) : List Nat :=
  leNats 8 (f.type + f.epoch * 2 ^ 8 + f.src * 2 ^ 10 + f.dst * 2 ^ 12 + f.payload.length * 2 ^ 16 + f.credit % 2 ^ 16 * 2 ^ 32)
    ++ leNats 8 f.seq ++ leNats 8 f.ackseq ++ leNats 8 f.ivcnt

/-- A seal of a rolling slot: at the limit the next generation takes over (R510). -/
def State.rollUse (s : State) (k : Nat) : State :=
  let x := s.slot k
  if x.roll ∧ x.limit ≤ x.used then
    let g := (x.gen + 1) % 2 ^ 64
    (((((s.setSlot k { x with gen := g, used := 0 }).slotWrite k 0x08 g).slotWrite k 0x20 0).fset (CLOAK_SLOTST.NEXT k) 0)).fcount CLOAK_STAT.ROLLS 1
  else s

/-- After a use: NEXT reads 1 once the next key is derived. -/
def State.noteNext (s : State) (k : Nat) : State :=
  let x := s.slot k
  if x.roll ∧ x.limit - 2 ^ 24 ≤ x.used then s.fset (CLOAK_SLOTST.NEXT k) 1 else s

/-- May the port's TXSLOT seal? -/
def State.txReady (s : State) (k : Nat) : Bool :=
  s.sealOk && s.rootLocked && s.fget (CLOAK_SLOTST.STATE k) == 1 && (s.slot k).mode == 2 && (s.slot k).roll

/-- May the AUTHSLOT make a CMAC? -/
def State.authReady (s : State) (k : Nat) : Bool :=
  s.rootLocked && s.fget (CLOAK_SLOTST.STATE k) == 1 && (s.slot k).mode == 3

/-- Does this module host a mirror for `m` (R530)? -/
def State.hosts (s : State) (m : Nat) : Bool :=
  s.fbit (SEAM_MIRSRC.EN m) && decide (s.fget (SEAM_MIRSRC.SLOTS m) ≤ 10) && !AMap.get false s.seam.hostOff m

/-- The payload of HELLO and HELLOACK on port `p` (R528). -/
def State.helloBytes (s : State) (p : Nat) : List Nat :=
  leNats 8 (s.kget CLOAK_BOOTNO.BOOTNO % 2 ^ 30 + s.seamSelf * 2 ^ 30 + s.seamSize * 2 ^ 32)
    ++ leNats 8 (s.slot (s.fget (SEAM_PORT_CTL.TXSLOT p))).gen
    ++ leNats 8 (bnat (s.hosts (s.fget (SEAM_PORT_STAT.PEER p))))
    ++ leNats 8 (if s.fbit SEAM_TODSTAT.VALID then s.tod else 0)

/-- A frame leaves port `p`: sealed under TXSLOT, or HELLO and HELLOACK under a CMAC of AUTHSLOT; Cloak lane `l` works on
it. None where the key does not allow it. -/
def State.sealFrame (s : State) (p l : Nat) (m : SeamMsg) : Option State :=
  let peer := s.fget (SEAM_PORT_STAT.PEER p)
  let x := s.spair peer
  let f : SeamFrame := { type := m.type, src := s.seamSelf, dst := peer, seq := m.seq, ackseq := x.rxNext - 1
                         credit := 512 - x.held.length, payload := m.payload }
  if m.type = smHELLO ∨ m.type = smHELLOACK then
    let k := s.fget SEAM_CTL.AUTHSLOT
    if !s.authReady k then none
    else
      let f := { f with payload := s.helloBytes p }
      let (s, key) := s.useKey l k (s.slot k).gen
      let f := { f with tag := cmac key (f.header ++ f.payload) }
      some ((s.countUse k 1).onPort p fun y => { y with lastTx := some f })
  else
    let k := s.fget (SEAM_PORT_CTL.TXSLOT p)
    if !s.txReady k then none
    else
      let s := s.rollUse k
      let y := s.slot k
      let f := { f with epoch := y.gen % 4, ivcnt := y.used % 2 ^ 64 }
      let iv := s.sealIv k
      let (s, key) := s.useKey l k y.gen
      let (c, tag) := gcmSeal key iv f.header f.payload
      let f := { f with payload := c, tag := tag }
      some (((s.countUse k 1).noteNext k).onPort p fun y => { y with lastTx := some f })

/-- What a sending leaves behind: t1 goes out in TFOLLOW, t3 is kept (R542). -/
def State.sentUnseq (s : State) (p : Nat) (m : SeamMsg) : State :=
  let s := s.look
  if m.type = smTSYNC then
    s.seamUnseq p smTFOLLOW (m.payload.take 8 ++ leNats 8 s.tod)
  else if m.type = smTDREQ then s.onPort p fun x => { x with t3 := s.tod }
  else s

/-- Port `p` goes DOWN (R525, R549): its unacknowledged frames are sent again on another port. -/
def State.portDown (s : State) (p cause : Nat) : State :=
  let st := s.fget (SEAM_PORT_STAT.STATE p)
  if st = 0 ∨ st = 5 then s
  else
    let peer := s.fget (SEAM_PORT_STAT.PEER p)
    let s := (s.fset (SEAM_PORT_STAT.STATE p) 5).fset (SEAM_PORT_STAT.DOWNCAUSE p) cause
    let s := s.onPort p fun _ => {}
    let s := if st = 4 then
        s.onPair peer fun y => { y with replay := y.sent.filter fun m => m.port == p || y.replay.any fun q => q.seq == m.seq }
      else s
    (s.updReach.raiseC { loc := locCode 0x2 4 0xFF (0x10 + p), d1 := cause * 2 ^ 12 }).updMir

/-- The Cloak lane that works on a Seam frame given to lane `l` (R513, R514): that one, or another where it is out of service;
none while no unit is granted. -/
def State.seamLane (s : State) (l : Nat) : Option Nat :=
  if !s.fbit CLOAK_CTL.EN then none
  else if s.unitUp .cloak l then some l
  else some (s.otherUnit .cloak l)

/-- SEAM_FRAME_SEAL (R503, R525, R527): port `p` sends its next frame with Cloak lane `e.l`: HELLO while it is in step 3;
when UP an unsequenced frame, else a frame to be sent again, else the next sequenced frame within the credit. `e.bad` of the
frame's checks fail; after two the frame is not sent and waits to be sent again (R513, R524). With every lane OUT the port
goes DOWN (R518; its cause 8 DEDUCED, log entry 137). -/
def execSeamFrameSeal (p : Nat) (e : SealIn) (s : State) : Res :=
  .next (
    let l := e.l
    let st0 := s.fget (SEAM_PORT_STAT.STATE p)
    if !s.up || decide (4 ≤ p) || decide (64 ≤ l) || (st0 ≠ 3 && st0 ≠ 4) then s
    else if s.fget CLOAK_LANEUP.LANEUP = 0 then s.portDown p 8
    else
    match s.seamLane l with
    | none => s
    | some l =>
    let (s, lost) := s.runChecks .cloak l e.bad
    if lost then s
    else
    let st := s.fget (SEAM_PORT_STAT.STATE p)
    let x := s.sport p
    let peer := s.fget (SEAM_PORT_STAT.PEER p)
    let y := s.spair peer
    if st = 3 then
      let m := x.unseq.head?.getD { type := smHELLO, payload := [] }
      (match s.sealFrame p l m with
        | some s => s.onPort p fun x => { x with unseq := x.unseq.drop 1 }
        | none => s)
    else if st ≠ 4 then s
    else match x.unseq with
      | m :: _ =>
        (match s.sealFrame p l m with
          | some s => (s.onPort p fun x => { x with unseq := x.unseq.drop 1 }).sentUnseq p m
          | none => s)
      | [] =>
        match y.replay, y.pend with
        | m :: rest, _ =>
          (match s.sealFrame p l m with
            | some s => s.onPair peer fun y => { y with
                replay := rest
                sent := y.sent.map fun q => if q.seq == m.seq then { q with port := p } else q }
            | none => s)
        | [], m :: rest =>
          if y.ackSeen + y.credit < y.txNext ∨ 512 ≤ y.sent.length then s
          else
            let m := { m with seq := y.txNext, port := p }
            (match s.sealFrame p l m with
              | some s =>
                (s.onPair peer fun y => { y with
                  pend := rest, txNext := y.txNext + 1, sent := y.sent ++ [m]
                  mir := if m.type = smMIRREC ∨ m.type = smMIRMARK then y.mir ++ [m.seq] else y.mir }).updMir
              | none => s)
        | [], [] => s)

/-! ### Ports (R521, R527) -/

/-- The port enters step 3 with HELLO, or fails with a cause (R527). -/
def State.portTrain (s : State) (p res : Nat) : State :=
  let s := s.fset (SEAM_PORT_STAT.STATE p) 1
  if res = 0 then (s.fset (SEAM_PORT_STAT.STATE p) 3).onPort p fun _ => { unseq := [{ type := smHELLO, payload := [] }] }
  else s.portDown p (if res = 4 then 4 else 3)

/-- A write of PORT[p].CTL.EN: 1 starts the port, 0 takes it down. -/
def State.portEn (s : State) (p : Nat) (en : Bool) : State :=
  let st := s.fget (SEAM_PORT_STAT.STATE p)
  if en then (if (st = 0 ∨ st = 5) ∧ s.fbit SEAM_CTL.EN ∧ 1 ≤ s.seamSize then s.fset (SEAM_PORT_STAT.STATE p) 1 else s)
  else (s.portDown p 7).fset (SEAM_PORT_STAT.STATE p) 0

/-- SEAM_PORT_BRINGUP: EN of port `p` is 1; `res` is how training and deskew ended: 0 passed, 3 training failed, 4 lane
skew. -/
def execSeamPortBringup (p res : Nat) (s : State) : Res :=
  .next (if s.up && decide (p < 4) then
    let s := (s.fset (SEAM_PORT_CTL.EN p) 1).portEn p true
    if s.fget (SEAM_PORT_STAT.STATE p) = 1 then s.portTrain p res else s
  else s)

/-- SEAM_PORT_RETRY: RETRY seconds after port `p` went DOWN; 0 stays DOWN. -/
def execSeamPortRetry (p res : Nat) (s : State) : Res :=
  .next (if s.up && decide (p < 4) && s.fget (SEAM_PORT_STAT.STATE p) == 5 && s.fbit (SEAM_PORT_CTL.EN p)
      && s.fget (SEAM_PORT_CTL.RETRY p) != 0 && s.fbit SEAM_CTL.EN && decide (1 ≤ s.seamSize) then s.portTrain p res else s)

/-- SEAM_LOCK_LOSS: a lane of port `p` loses a lock, and the whole port goes DOWN (R521). -/
def execSeamLockLoss (p : Nat) (s : State) : Res :=
  .next (if s.up && decide (p < 4) && decide (1 ≤ s.fget (SEAM_PORT_STAT.STATE p) ∧ s.fget (SEAM_PORT_STAT.STATE p) ≤ 4) then
    (s.fcount (SEAM_PORT_ERR.UNLOCKS p) 1).portDown p 1
  else s)

/-- Step 5 of R527: the port is UP to module `m`. Claims are synchronised (R536), a host's epoch advances (R530), the source
sends its records again (R531). -/
def State.portGo (s : State) (p m : Nat) : State :=
  let k := s.fget (SEAM_PORT_CTL.RXSLOT p)
  let (s, rx) := (s.slotWrite k 0x08 (s.spair m).txgen).slotRead k
  match rx.filter fun x => x.valid && x.mode == 2 && s.fbit CLOAK_SLOTBASE.VALID with
  | none => s.portDown p 6 -- step 4 fails; its cause is 6 (DEDUCED, log entry 137)
  | some x =>
  let s := s.slotTake k x
  let s := ((s.fset (SEAM_PORT_STAT.STATE p) 4).fset (SEAM_PORT_STAT.DOWNCAUSE p) 0).updReach
  let s := (List.range 256).foldl (fun s n =>
    if s.chRole n = 0 then s else s.seamSend m smCLAIMSYNC (leNats 8 n ++ leNats 8 (s.kget (CHAN_CLAIM.CLAIM n)))) s
  let s := if s.hosts m then
      let (s, ok) := s.keepWrite (SEAM_MIREP.EPOCH m) (s.kget (SEAM_MIREP.EPOCH m) + 1)
      -- a refused write stops the hosting; HELLOACK says so to the source (log entry 137)
      if ok then s
      else (s.onSeam fun x => { x with hostOff := AMap.set false x.hostOff m true }).seamUnseq p smHELLOACK []
    else s
  if s.mirPartner = m then s.mirResend else s

/-! ### Reception (R524, R525) -/

/-- The acknowledgement of a header: frames up to ACKSEQ leave, CREDIT is taken, a delivered TXMSG is reported (R538). -/
def State.seamAck (s : State) (p m ackseq credit : Nat) : State :=
  let x := s.spair m
  let gone := x.sent.filter fun q => q.seq ≤ ackseq
  let s := s.onPair m fun x => { x with
    sent := x.sent.filter fun q => ackseq < q.seq
    replay := x.replay.filter fun q => ackseq < q.seq
    ackSeen := max x.ackSeen ackseq, credit := credit }
  let s := if gone.isEmpty then s else s.onPort p fun y => { y with replays := 0 }
  if gone.any (·.txm) then s.fset SEAM_TXRES.RESULT 5 else s

/-- The generation whose key opens a frame of epoch `e` on slot `k` (R510): the current one; the next, which becomes
current; or the old one while it is kept. -/
def State.openGen (s : State) (k e : Nat) : State × Option Nat :=
  let x := s.slot k
  if !x.valid || x.mode != 2 || !s.rootLocked then (s, none)
  else if e = x.gen % 4 then (s, some x.gen)
  else if e = (x.gen + 1) % 4 then
    let g := (x.gen + 1) % 2 ^ 64
    ((s.setSlot k { x with gen := g, used := 0, old := some x.gen }).slotWrite k 0x08 g, some g)
  else match x.old with
    | some o => (s, if e = o % 4 then some o else none)
    | none => (s, none)

/-- A sealed frame is opened under RXSLOT. -/
def State.openFrame (s : State) (p : Nat) (f : SeamFrame) : State × Option (List Nat) :=
  let k := s.fget (SEAM_PORT_CTL.RXSLOT p)
  match s.openGen k f.epoch with
  | (s, none) => (s, none)
  | (s, some g) =>
    let (s, key) := s.useKey f.lane k g
    let iv := f.src * 2 ^ 94 + (s.spair f.src).bootno.getD 0 % 2 ^ 30 * 2 ^ 64 + f.ivcnt
    (s, gcmOpen key iv f.header f.payload f.tag)

/-- A frame other than HELLO and HELLOACK on port `p`: its checks, its acknowledgement, then `take` on its plaintext. -/
def State.seamRx (s : State) (p : Nat) (f : SeamFrame) (take : State → List Nat → State) : State :=
  if !s.up || decide (4 ≤ p) || !s.portUp p then s
  else if !f.good || f.rsv || f.dst != s.seamSelf || f.src != s.fget (SEAM_PORT_STAT.PEER p) then
    s.fcount (SEAM_PORT_ERR.BADFRAME p) 1
  else if s.fget CLOAK_LANEUP.LANEUP = 0 then s.portDown p 8
  else match s.seamLane (f.lane % 64) with
  | none => s -- no unit is granted: the frame is lost here and replayed
  | some l =>
    let (s, lost) := s.runChecks .cloak l (if f.bad then 2 else if f.once then 1 else 0)
    if lost then s
    else match s.openFrame p { f with lane := l } with
    | (s, none) => s.fcount (SEAM_PORT_ERR.AUTHFAIL p) 1
    | (s, some bs) =>
      let s := (s.wakeBy 3 POWER_WAKE.SEAM_EN).look
      let s := s.onPair f.src fun x => { x with heard := s.tod, silent := false }
      take (s.seamAck p f.src f.ackseq f.credit) bs

/-- Word `i` of a payload. -/
def pw (bs : List Nat) (i : Nat) : Nat := natOfLe ((bs.drop (8 * i)).take 8)

/-! ### Hello (R527, R528) -/

/-- HELLO or HELLOACK on port `p`: the CMAC, then the refusals of R528; a new BOOTNO starts both directions of the pair
afresh; the port is UP once both have been received. -/
def State.takeHello (s : State) (p : Nat) (f : SeamFrame) (ack : Bool) : State :=
  let st := s.fget (SEAM_PORT_STAT.STATE p)
  if !s.up || decide (4 ≤ p) || (st ≠ 3 && st ≠ 4) then s
  else if !f.good || f.rsv then s.fcount (SEAM_PORT_ERR.BADFRAME p) 1
  else
    let k := s.fget SEAM_CTL.AUTHSLOT
    let (s, ok) := if (s.slot k).valid && (s.slot k).mode == 3 && s.rootLocked then
        let (s, key) := s.useKey (f.lane % 64) k (s.slot k).gen
        (s, cmac key (f.header ++ f.payload) == f.tag)
      else (s, false)
    let w0 := pw f.payload 0
    let m := bitsOf w0 31 30
    if !ok then (s.fcount (SEAM_PORT_ERR.AUTHFAIL p) 1).portDown p 6
    else if m = s.seamSelf then s.portDown p 5
    else if bitsOf w0 33 32 ≠ s.seamSize ∨ s.seamSize < m then s.portDown p 9
    else
      let boot := w0 % 2 ^ 30
      let s := (s.wakeBy 3 POWER_WAKE.SEAM_EN).look
      let s := s.fset (SEAM_PORT_STAT.PEER p) m
      let s := if (s.spair m).bootno = some boot then s
        else s.onPair m fun x => { x with
          bootno := some boot, txNext := 1, rxNext := 1, held := [], ackSeen := 0, sent := [], replay := [], mir := []
          pend := (x.sent.map fun q => { q with seq := 0 }) ++ x.pend }
      let s := s.onPair m fun x => { x with
        txgen := pw f.payload 1, parked := if ack then x.parked else false, heard := s.tod, silent := false, credit := f.credit
        noHost := pw f.payload 2 % 2 == 0 }
      let s := if s.mirPartner = m && s.fbit SEAM_MIRCTL.EN && !s.fbit SEAM_TODSTAT.REFUSING then
          (s.fsetB SEAM_MIRSTAT.REFUSED (pw f.payload 2 % 2 == 0)).updMir else s
      let s := if ack then s.onPort p fun x => { x with gotAck := true }
        else s.onPort p fun x => { x with gotHello := true, unseq := x.unseq ++ [{ type := smHELLOACK, payload := [] }] }
      let x := s.sport p
      if st = 3 ∧ x.gotHello ∧ x.gotAck then s.portGo p m else s

def execHello (p : Nat) (f : SeamFrame) (s : State) : Res := .next (s.takeHello p { f with type := smHELLO } false)
def execHelloack (p : Nat) (f : SeamFrame) (s : State) : Res := .next (s.takeHello p { f with type := smHELLOACK } true)

/-! ### Heartbeats, acknowledgement and replay (R452, R525, R534) -/

def execBeat (p : Nat) (f : SeamFrame) (s : State) : Res :=
  .next (s.seamRx p { f with type := smBEAT } fun s bs =>
    s.onPair f.src fun x => { x with age := pw bs 0 % 2 ^ 16, parked := x.parked || bitOf (pw bs 0) 16 })

/-- BEAT_TIMER: port `p` sends a BEAT with the age of the last frame heard from the peer; PARK while the module enters
Vault (R537). -/
def execBeatTimer (p : Nat) (s : State) : Res :=
  .next (if s.up && decide (p < 4) && s.portUp p then
    let s := s.look
    let x := s.spair (s.fget (SEAM_PORT_STAT.PEER p))
    let park := s.fbit POWER_STATE.MOVING && s.fget POWER_STATE.GOAL == 5
    s.seamUnseq p smBEAT (leNats 8 (min 65535 ((s.tod - x.heard) * 10 / 4096) + bnat park * 2 ^ 16))
  else s)

def execSeamLack (p : Nat) (f : SeamFrame) (s : State) : Res := .next (s.seamRx p { f with type := smLACK } fun s _ => s)

/-- The unacknowledged frames of the pair are sent again on port `p`; after 8 replays without an advance the port goes
DOWN (R452, R525). -/
def State.seamReplay (s : State) (p m : Nat) : State :=
  let x := s.spair m
  if x.sent.isEmpty then s
  else if 8 ≤ (s.sport p).replays then s.portDown p 2
  else
    let s := (s.onPort p fun y => { y with replays := y.replays + 1 }).fcount (SEAM_PORT_ERR.REPLAYS p) 1
    s.onPair m fun x => { x with replay := x.sent }

def execSeamNak (p : Nat) (f : SeamFrame) (s : State) : Res :=
  .next (s.seamRx p { f with type := smNAK } fun s _ => s.seamReplay p f.src)
def execSeamAckTimeout (p : Nat) (s : State) : Res :=
  .next (if s.up && decide (p < 4) && s.portUp p then
    let m := s.fget (SEAM_PORT_STAT.PEER p)
    if (s.spair m).sent.any fun q => q.port == p then s.seamReplay p m else s
  else s)

/-! ### The mirror's host (R530) -/

/-- Slots of the region for source `m`, and its first byte. -/
def State.mirSlots (s : State) (m : Nat) : Nat := 2 ^ (12 + s.fget (SEAM_MIRSRC.SLOTS m))
def State.mirBase (s : State) (m : Nat) : Nat := windowBase + s.fget (SEAM_MIRSRC.GRAN m) * 2 ^ 21

/-- Does the host store for `m` now? -/
def State.mirHosts (s : State) (m : Nat) : Bool := s.hosts m && !s.fbit SEAM_TODSTAT.REFUSING

/-- Store bytes in the mirror of `m` durably, and answer MIRACK. -/
def State.mirStore (s : State) (p m off : Nat) (bs : List Nat) : State :=
  ((s.opWrite (seamAgent p) (s.mirBase m + off) (bs.map (BitVec.ofNat 8))).1).hubDurable

/-! ### Takeover (R464, R533–R536) -/

/-- Is claim `a` higher than claim `b` (R464)? -/
def claimHigher (a b : Nat) : Bool :=
  let d := (a + 2 ^ 16 - b % 2 ^ 16) % 2 ^ 16
  decide (1 ≤ d ∧ d < 2 ^ 15)

/-- A higher claim received over Seam is written into the channel's own (R536). -/
def State.takeClaim (s : State) (n claim : Nat) : State :=
  if claimHigher claim (s.kget (CHAN_CLAIM.CLAIM n)) then (s.keepWrite (CHAN_CLAIM.CLAIM n) claim).1 else s

/-- The takeover of channel `n` (R464, R535): RESULT 1, or 5 not enabled, 2 not allowed, 4 the Keep write refused. -/
def State.takeover (s : State) (n : Nat) (auto : Bool) : State :=
  let res (s : State) (v : Nat) : State := if auto then s else s.fset (CHAN_CMD.RESULT n) v
  if !s.fbit (CHAN_CTL.EN n) then res s 5
  else if s.fbit SEAM_TODSTAT.REFUSING || (!auto && s.chRole n != 0 && !s.reach (s.fget (SEAM_CHSUCC.PEER n))) then res s 2
  else
    let c := (s.kget (CHAN_CLAIM.CLAIM n) + 1) % 2 ^ 16
    match s.keepWrite (CHAN_CLAIM.CLAIM n) c with
    | (s, false) => res s 4
    | (s, true) =>
      let role := s.chRole n
      let fenced := s.fbit (CHAN_STAT.FENCED n)
      let s := s.fset (CHAN_STAT.FENCED n) 0
      let s := if role = 2 then s.fset (SEAM_CHSUCC.ROLE n) 1 else s
      let s := [n, n + 256].foldl (fun s m => if s.laneUp m then s.queueUnseq m (s.linkInfoFrame m) else s) s
      let s := if role = 0 then s
        else s.seamOthers.foldl (fun s m => s.seamSend m smTAKE (leNats 8 n ++ leNats 8 c)) s
      let s := if s.attach n ≠ 0 ∧ (s.laneUp n || s.laneUp (n + 256)) then s.upChan n
        else if fenced then
          (s.chanTxns n).foldl (fun s t => match s.txn t with
            | some x => if x.stage = .ready then s.readyTxn t else s
            | none => s) s
        else s
      res s 1

/-- CHAN_TAKE: firmware writes CHAN[n].CMD.OP = TAKE. -/
def execChanTake (n : Nat) (s : State) : Res := .next (if s.up && decide (n < 256) then s.takeover n false else s)

/-- HOLDTIME_SILENCE: nothing has been heard from module `m` on any port for HOLDTIME (R534). -/
def execHoldtimeSilence (m : Nat) (s : State) : Res :=
  .next (if s.up && decide (m < 4 ∧ m ≠ s.seamSelf ∧ 1 ≤ s.seamSize) then s.onPair m fun x => { x with silent := true } else s)

/-- TAKEWAIT_SILENCE: nothing has been heard from the owner of channel `n` for TAKEWAIT (R535). -/
def execTakewaitSilence (n : Nat) (s : State) : Res :=
  .next (if s.up && decide (n < 256) && s.chRole n == 2 && s.fbit (SEAM_CHSUCC.AUTO n) && decide (1 ≤ s.seamSize)
      && !(s.spair (s.fget (SEAM_CHSUCC.PEER n))).parked then s.takeover n true else s)

/-! ### Delivery of sequenced frames -/

/-- A sequenced message of module `m`, in SEQ order. -/
def State.deliverSeam (s : State) (p m seq type : Nat) (bs : List Nat) : State :=
  if type = smMIRREC then
    if !s.mirHosts m then s
    else
      let rec_ := (bs.drop 8).take 0x78 ++ leNats 8 (s.kget (SEAM_MIREP.EPOCH m))
      let s := s.mirStore p m (pw bs 0 % s.mirSlots m * 128) rec_
      (s.onSeam fun x => { x with mirTop := AMap.set 0 x.mirTop m seq }).seamUnseq p smMIRACK (leNats 8 seq)
  else if type = smMIRMARK then
    let off := pw bs 1
    if !s.mirHosts m || !(off == 0x60 || off == 0x68 || off == 0x70) then s
    else
      let s := s.mirStore p m (pw bs 0 % s.mirSlots m * 128 + off) ((bs.drop 16).take 8)
      (s.onSeam fun x => { x with mirTop := AMap.set 0 x.mirTop m seq }).seamUnseq p smMIRACK (leNats 8 seq)
  else if type = smTAKE then
    let n := pw bs 0 % 256
    let c := pw bs 1 % 2 ^ 16
    let higher := claimHigher c (s.kget (CHAN_CLAIM.CLAIM n))
    let s := s.takeClaim n c
    if higher then s.standDown n (some m) else s
  else if type = smCLAIMSYNC then s.takeClaim (pw bs 0 % 256) (pw bs 1 % 2 ^ 16)
  else if type = smRWRITE then
    if !s.fbit SEAM_RXWIN.VALID then s.fcount (SEAM_PORT_ERR.BADFRAME p) 1
    else
      let a := s.fget SEAM_RXWIN.ADDR * 65536 + pw bs 1 % 65536
      let d := (bs.drop 16).take (bitsOf (pw bs 0) 47 32)
      let s := ((s.opWrite (seamAgent p) a (d.map (BitVec.ofNat 8))).1).hubDurable -- R297: durable before the event
      let src := bitsOf (pw bs 0) 31 16
      if src = 0 then s else if sourceKnown src then s.collarEvent src else s.hubFault none 0xFF (0x10 + p) src
  else s

/-- Held frames that now follow in order are delivered. -/
def State.deliverSeamHeld (s : State) (p m : Nat) : Nat → State
  | 0 => s
  | fuel + 1 =>
    let x := s.spair m
    match firstThat (fun h => h.1 == x.rxNext) x.held with
    | none => s
    | some h =>
      let s := s.onPair m fun x => { x with rxNext := x.rxNext + 1, held := x.held.filter fun q => q.1 != h.1 }
      (s.deliverSeam p m h.1 h.2.1 h.2.2).deliverSeamHeld p m fuel

/-- A sequenced frame of module `m` (R452, R454, R525): a duplicate is dropped, a frame up to 512 ahead is held, one
beyond that is answered with NAK; receipt is acknowledged. -/
def State.seamSeq (s : State) (p : Nat) (f : SeamFrame) (bs : List Nat) : State :=
  let m := f.src
  let x := s.spair m
  if x.rxNext + 512 < f.seq then s.seamUnseq p smNAK []
  else
    let s := if f.seq < x.rxNext ∨ x.held.any (fun h => h.1 == f.seq) then s
      else (s.onPair m fun x => { x with held := x.held ++ [(f.seq, f.type, bs)] }).deliverSeamHeld p m 513
    if (s.sport p).unseq.any (fun q => q.type == smLACK) then s else s.seamUnseq p smLACK []

def State.rxSeq (s : State) (p type : Nat) (f : SeamFrame) : State :=
  let f := { f with type := type }
  s.seamRx p f fun s bs => s.seamSeq p f bs

def execMirrec (p : Nat) (f : SeamFrame) (s : State) : Res := .next (s.rxSeq p smMIRREC f)
def execMirmark (p : Nat) (f : SeamFrame) (s : State) : Res := .next (s.rxSeq p smMIRMARK f)
def execSeamTake (p : Nat) (f : SeamFrame) (s : State) : Res := .next (s.rxSeq p smTAKE f)
def execClaimsync (p : Nat) (f : SeamFrame) (s : State) : Res := .next (s.rxSeq p smCLAIMSYNC f)
def execRwrite (p : Nat) (f : SeamFrame) (s : State) : Res := .next (s.rxSeq p smRWRITE f)

/-- MIRACK (R529): everything up to its SEQ is durable in the mirror. -/
def execMirack (p : Nat) (f : SeamFrame) (s : State) : Res :=
  .next (s.seamRx p { f with type := smMIRACK } fun s bs =>
    (s.onPair f.src fun x => { x with mir := x.mir.filter fun q => pw bs 0 < q }).updMir)

/-! ### Firmware messages (R538) -/

/-- TXMSG: firmware names the message block at `a`. -/
def State.txmsg (s : State) (a : Nat) : State :=
  let res (s : State) (v : Nat) : State := s.fset SEAM_TXRES.RESULT v
  if s.fbit SEAM_TODSTAT.REFUSING then res s 3
  else
    match s.opRead (seamAgent 0) (a / 64 * 64) 16 with
    | (s, .done hd) =>
      let hd := hd.map (·.toNat)
      let w0 := pw hd 0
      let len := bitsOf w0 47 32
      let off := pw hd 1
      let dst := w0 % 4
      if len < 8 ∨ 4072 < len ∨ len % 8 ≠ 0 ∨ off % 8 ≠ 0 ∨ 65536 < off + len then res s 4
      else if dst = s.seamSelf ∨ s.seamSize < dst ∨ !s.reach dst then res s 2
      else
        (match s.opRead (seamAgent 0) (a / 64 * 64 + 16) len with
          | (s, .done d) => res (s.seamSend dst smRWRITE (hd ++ d.map (·.toNat)) true) 1
          | (s, _) => res s 4)
    | (s, _) => res s 4
def execTxmsg (a : Word) (s : State) : Res := .next (if s.up then s.txmsg (a.toNat % 2 ^ 52) else s)

/-! ### Time-of-day (R539–R543) -/

/-- REFUSING changes (R543): mirroring stops with it, and resumes with the resend of R531. -/
def State.setRefusing (s : State) (b : Bool) : State :=
  let b := b && decide (1 ≤ s.seamSize)
  if s.fbit SEAM_TODSTAT.REFUSING == b then s
  else
    let s := s.fsetB SEAM_TODSTAT.REFUSING b
    if b then
      if s.fbit SEAM_MIRCTL.EN then (s.fset SEAM_MIRSTAT.REFUSED 1).updMir else s
    else (s.fsetB SEAM_MIRSTAT.REFUSED (s.fbit SEAM_MIRCTL.EN && (s.spair s.mirPartner).noHost)).mirResend

/-- ROLE: 0 follower, 1 master by PPS, 2 master free; 3 acts as 0 (R540). -/
def State.todRole (s : State) : Nat := s.fget SEAM_TODCTL.ROLE % 3

/-- GUARD in units of TOD: 10 ns is 40.96 units. -/
def State.guardUnits (s : State) : Nat := s.fget SEAM_TODCTL.GUARD * 4096 / 100

/-- A TODSET takes effect with value `w` (R540, R543). -/
def State.todTake (s : State) (w src : Nat) : State :=
  let s := { s with tod := w }
  let s := ((s.fset SEAM_TODSTAT.VALID 1).fset SEAM_TODSTAT.UNCERTAIN 0).fset SEAM_TODSTAT.SOURCE src
  let s := (s.fset SEAM_TODSTAT.SETRES 1).fset SEAM_TODSTAT.MASTER s.seamSelf
  (s.onSeam fun x => { x with measured := true, todWait := none, masterRole := none }).setRefusing false

/-- A write of SEAM.TODSET (R540). -/
def State.todset (s : State) (w : Nat) : State :=
  let s := s.look
  let res (s : State) (v : Nat) : State := s.fset SEAM_TODSTAT.SETRES v
  if s.todRole = 0 then res s 3
  else if s.fbit SEAM_TODSTAT.VALID && decide (w < s.tod) then res s 2
  else if s.todRole = 2 then s.todTake w 2
  else if w % 4096000000 ≠ 0 then res s 5
  else res (s.onSeam fun x => { x with todWait := some w }) 4
def execTodset (w : Word) (s : State) : Res := .next (if s.up then s.todset w.toNat else s)

/-- A rising edge of PPS_IN in ROLE 1 (R83, R540): the stamp, and a TODSET that has waited for it. -/
def State.ppsEdge (s : State) : State :=
  let s := s.look
  let s := s.fset SEAM_PPSSTAMP.PPSSTAMP s.tod
  if s.todRole ≠ 1 then s
  else match s.seam.todWait with
    | none => s
    | some w =>
      if s.fbit SEAM_TODSTAT.VALID && decide (w < s.tod) then
        (s.onSeam fun x => { x with todWait := none }).fset SEAM_TODSTAT.SETRES 2
      else s.todTake w 1

/-- Does the module follow another (R541)? -/
def State.follows (s : State) : Bool := s.todRole == 0 || s.fget SEAM_TODSTAT.SOURCE == 3

/-- TSYNC (R541, R542): `role` is the sender's ROLE, which no frame carries. A module that does not rank the sender higher
takes no notice. t2 is the arrival. -/
def execTsync (p : Nat) (f : SeamFrame) (role : Nat) (s : State) : Res :=
  .next (s.seamRx p { f with type := smTSYNC } fun s bs =>
    let mine := s.todRole
    let before (r m q n : Nat) : Bool := decide (r < q) || (r == q && decide (m < n))
    let higher := mine == 0 || !s.fbit SEAM_TODSTAT.VALID || before role f.src mine s.seamSelf
    let cur := s.fget SEAM_TODSTAT.MASTER
    let first := match s.seam.masterRole with
      | none => true
      | some q => f.src == cur || before role f.src q cur
    if !higher || !first then s
    else
      let s := (s.fset SEAM_TODSTAT.MASTER f.src).onSeam fun x => { x with masterRole := some role }
      s.onPort p fun x => { x with sync := pw bs 0 % 2 ^ 16, t2 := s.tod })

/-- TFOLLOW carries t1; the follower sends TDREQ. -/
def execTfollow (p : Nat) (f : SeamFrame) (s : State) : Res :=
  .next (s.seamRx p { f with type := smTFOLLOW } fun s bs =>
    if (s.sport p).sync = pw bs 0 % 2 ^ 16 ∧ s.fget SEAM_TODSTAT.MASTER = f.src then
      (s.onPort p fun x => { x with t1 := pw bs 1 }).seamUnseq p smTDREQ (bs.take 8)
    else s)

/-- TDREQ: the master answers with t4. -/
def execTdreq (p : Nat) (f : SeamFrame) (s : State) : Res :=
  .next (s.seamRx p { f with type := smTDREQ } fun s bs => s.seamUnseq p smTDRESP (bs.take 8 ++ leNats 8 s.tod))

/-- A measured offset (R542, R543), positive when the follower is ahead: a follower behind by more than GUARD steps
forward; every other correction is a matter of rate. -/
def State.measure (s : State) (off : Int) : State :=
  let s := s.fset SEAM_TODOFFS.TODOFFS (wrapTo 64 off)
  let far := decide (s.guardUnits < off.natAbs)
  let s := if far && decide (off < 0) then { s with tod := s.tod + off.natAbs } else s
  let s := (s.fset SEAM_TODSTAT.VALID 1).fset SEAM_TODSTAT.SOURCE 3
  let s := (s.fsetB SEAM_TODSTAT.UNCERTAIN far).onSeam fun x => { x with measured := true }
  s.setRefusing (decide (4096000 < off.natAbs))

/-- TDRESP: the follower computes its offset ((t2 − t1) − (t4 − t3)) ÷ 2. -/
def execTdresp (p : Nat) (f : SeamFrame) (s : State) : Res :=
  .next (s.seamRx p { f with type := smTDRESP } fun s bs =>
    let x := s.sport p
    if x.sync = pw bs 0 % 2 ^ 16 ∧ s.fget SEAM_TODSTAT.MASTER = f.src then
      s.measure (((x.t2 : Int) - x.t1 - ((pw bs 1 : Int) - x.t3)) / 2)
    else s)

/-- SYNC_PERIOD: the master sends TSYNC on one UP port to each follower. -/
def execSyncPeriod (s : State) : Res :=
  .next (if s.up && s.fbit SEAM_TODSTAT.VALID && !s.follows && decide (1 ≤ s.seamSize) then
    s.seamOthers.foldl (fun s m => match s.upPorts m with
      | p :: _ =>
        let k := ((s.sport p).sync + 1) % 2 ^ 16
        (s.onPort p fun x => { x with sync := k }).seamUnseq p smTSYNC (leNats 8 k)
      | [] => s) s
  else s)

/-- SYNC_LOSS: a follower has made no measurement for 16 × SYNCPER (R541, R543); a module with a master's role takes it up
again. -/
def execSyncLoss (s : State) : Res :=
  .next (if s.up && s.follows && decide (1 ≤ s.seamSize) then
    let s := (s.fset SEAM_TODSTAT.UNCERTAIN 1).onSeam fun x => { x with masterRole := none }
    if s.todRole = 0 then s
    else (s.fset SEAM_TODSTAT.SOURCE s.todRole).fset SEAM_TODSTAT.MASTER s.seamSelf
  else s)

end Sys2Proof.Machine
end

