-- ==== Sys2Proof/Machine/Sha.lean ====
section
/-! DEFINITION. SHA-384 and the verification of ECDSA over P-384, which the image checks of
22_boot_reset_live_change.md (R596, checks 4 and 5) name: FIPS 180-4 and FIPS 186-5 (log entry 23). -/

namespace Sys2Proof.Machine

/-- The greatest number that `r` and the powers of two below `2 ^ b` add up to and whose `k`-th power is at most `n`. -/
def rootUpTo (k n : Nat) : Nat → Nat → Nat
  | 0, r => r
  | b + 1, r => rootUpTo k n b (if (r + 2 ^ b) ^ k ≤ n then r + 2 ^ b else r)

/-- The first 64 bits of the fraction of the `k`-th root of `n`. -/
def rootFraction (k n : Nat) : Nat := rootUpTo k (n * 2 ^ (64 * k)) 69 0 % 2 ^ 64

/-- The primes up to 409: the first eighty. -/
def eightyPrimes : List Nat := (List.range 410).filter fun n => 1 < n && (List.range n).all fun d => d < 2 || n % d != 0

/-- The round constants of SHA-384, by the rule that FIPS 180-4 gives for them: from the cube roots of the first eighty
primes. -/
def shaK : List Nat := eightyPrimes.map (rootFraction 3)

/-- The initial hash value of SHA-384, by its rule: from the square roots of the ninth to the sixteenth prime. -/
def sha384Init : List Nat := ((eightyPrimes.drop 8).take 8).map (rootFraction 2)

/-- The exclusive or of a 64-bit word rotated right by each of the counts. -/
def xorRotated (counts : List Nat) (x : Nat) : Nat :=
  counts.foldl (fun acc k => acc ^^^ (x >>> k + (x % 2 ^ k) <<< (64 - k))) 0

/-- The message schedule of a block: each further word is the sum of the words 16 and 7 places before it and of the mixed
words 15 and 2 places before it. `w` holds the words so far, newest first. -/
def shaExtend (w : List Nat) (_ : Nat) : List Nat :=
  let back (k : Nat) : Nat := w.getD (k - 1) 0
  let mixed := (xorRotated [1, 8] (back 15) ^^^ back 15 >>> 7) + (xorRotated [19, 61] (back 2) ^^^ back 2 >>> 6)
  (mixed + back 7 + back 16) % 2 ^ 64 :: w

/-- One round. The working variables a to h are the places 0 to 7 of `v`: all move up by one place, a is new, and e takes
the sum of d and the round's first term. -/
def shaRound (v : List Nat) (kw : Nat) : List Nat :=
  let at_ (i : Nat) : Nat := v.getD i 0
  let choice := at_ 6 ^^^ (at_ 4 &&& (at_ 5 ^^^ at_ 6))
  let majority := (at_ 0 &&& at_ 1) ||| (at_ 2 &&& (at_ 0 ||| at_ 1))
  let first := kw + choice + xorRotated [14, 18, 41] (at_ 4) + at_ 7
  let moved := (first + majority + xorRotated [28, 34, 39] (at_ 0)) :: v.take 7
  (moved.set 4 (at_ 3 + first)).map (· % 2 ^ 64)

/-- One block of 128 bytes: eighty rounds, and the sum with the value before them. -/
def shaBlock (h : List Nat) (blk : List Nat) : List Nat :=
  let words := ((List.range 64).foldl shaExtend ((piecesOf 8 17 blk).map natOfBe).reverse).reverse
  let mixed := (shaK.zipWith (· + ·) words).foldl shaRound h
  (h.zip mixed).map fun p => (p.1 + p.2) % 2 ^ 64

/-- SHA-384 of a list of bytes. -/
def sha384 (d : List Nat) : List Nat :=
  let z := (240 - (d.length + 1) % 128) % 128
  let m := d ++ [0x80] ++ List.replicate z 0 ++ beNats 16 (8 * d.length)
  (((piecesOf 128 (m.length / 128 + 1) m).foldl shaBlock sha384Init).take 6).flatMap (beNats 8)

/-! ### P-384 -/

def p384P : Nat := 2 ^ 384 - 2 ^ 128 - 2 ^ 96 + 2 ^ 32 - 1
def p384N : Nat := 0xffffffffffffffffffffffffffffffffffffffffffffffffc7634d81f4372ddf581a0db248b0a77aecec196accc52973
def p384B : Nat := 0xb3312fa7e23ee7e4988e056be3f82d19181d9c6efe8141120314088f5013875ac656398d8a2ed19d2a85c8edd3ec2aef
def p384G : Nat × Nat :=
  (0xaa87ca22be8b05378eb1c71ef320ad746e1d3b628ba79b9859f741e082542a385502f25dbf55296c3a545e3872760ab7,
   0x3617de4a96262c6f5d9e98bf9292dc29f8f41dbd289a147ce9da3113b5f0b8c00a60b1ce1d7e819d7a431d7c90ea0e5f)

/-- `b ^ e` modulo `m`, bit by bit. -/
def powMod (m b : Nat) : Nat → Nat → Nat
  | 0, _ => 1
  | fuel + 1, e =>
    if e = 0 then 1
    else
      let h := powMod m (b * b % m) fuel (e / 2)
      if e % 2 = 1 then h * b % m else h

/-- The inverse modulo a prime. -/
def invMod (m a : Nat) : Nat := powMod m (a % m) 384 (m - 2)

/-- Points of the curve; none is the point at infinity. -/
abbrev EcPoint := Option (Nat × Nat)

def ecAdd (a b : EcPoint) : EcPoint :=
  match a, b with
  | none, b => b
  | a, none => a
  | some (x1, y1), some (x2, y2) =>
    let p := p384P
    if x1 = x2 ∧ (y1 + y2) % p = 0 then none
    else
      let l := if x1 = x2 then (3 * x1 * x1 + p - 3) * invMod p (2 * y1) % p
        else (y2 + p - y1) * invMod p (x2 + p - x1) % p
      let x := (l * l + 2 * p - x1 - x2) % p
      some (x, (l * (x1 + p - x) + p - y1) % p)

/-- `k` times a point. -/
def ecMul : Nat → Nat → EcPoint → EcPoint
  | 0, _, _ => none
  | fuel + 1, k, q =>
    if k = 0 then none
    else
      let h := ecMul fuel (k / 2) (ecAdd q q)
      if k % 2 = 1 then ecAdd h q else h

def onCurve (x y : Nat) : Bool :=
  decide (x < p384P) && decide (y < p384P) && y * y % p384P == (x * x * x + (p384P - 3) * x + p384B) % p384P

/-- ECDSA verification of FIPS 186-5 for P-384 with SHA-384: `e` is the hash as a number. -/
def ecdsaOk (x y r t e : Nat) : Bool :=
  if !onCurve x y || r = 0 || p384N ≤ r || t = 0 || p384N ≤ t then false
  else
    let w := invMod p384N t
    match ecAdd (ecMul 384 (e * w % p384N) (some p384G)) (ecMul 384 (r * w % p384N) (some (x, y))) with
    | none => false
    | some (vx, _) => vx % p384N == r

end Sys2Proof.Machine
end

