-- ==== Sys2Proof/Machine/Image.lean ====
section
/-! DEFINITION. Firmware images: the container, its section table and the checks in their order
(22_boot_reset_live_change.md, R594–R598). An image is a list of bytes; a check answers the result code of R596. -/

namespace Sys2Proof.Machine

/-- A section of an image (R594). -/
structure Section where
  kind : Nat
  off : Nat
  len : Nat
  crc : Nat
deriving DecidableEq, Repr

/-- A little-endian number of `k` bytes at `o`. -/
def imgLe (b : List Nat) (o k : Nat) : Nat := natOfLe ((b.drop o).take k)

/-- A big-endian number of `k` bytes at `o`. -/
def imgBe (b : List Nat) (o k : Nat) : Nat := natOfBe ((b.drop o).take k)

def imgType (b : List Nat) : Nat := imgLe b 6 1
def imgLen (b : List Nat) : Nat := imgLe b 8 4
def imgNsect (b : List Nat) : Nat := imgLe b 12 2
def imgVersion (b : List Nat) : Nat := imgLe b 14 2

/-- The limit of IMGLEN: 8 MiB for TYPE 2 to 5 (R595), and for the others `lim`. -/
def imgLimit (b : List Nat) (lim : Nat) : Nat := if 2 ≤ imgType b ∧ imgType b ≤ 5 then min lim (2 ^ 23) else lim

/-- Check 2: MAGIC, FORMAT, reserved fields, IMGLEN within its limit. -/
def imgHeaderOk (b : List Nat) (lim : Nat) : Bool :=
  imgLe b 0 4 == 0x4D4F5A31 && imgLe b 4 2 == 1 && imgLe b 7 1 == 0 && imgLe b 0x18 0x68 == 0
    && imgLen b % 64 == 0 && decide (imgLen b ≤ imgLimit b lim)

/-- The section table. -/
def imgSections (b : List Nat) : List Section :=
  (List.range (imgNsect b)).map fun i =>
    let o := 0x80 + 32 * i
    { kind := imgLe b o 1, off := imgLe b (o + 8) 4, len := imgLe b (o + 12) 4, crc := imgLe b (o + 16) 4 }

/-- Sections of a kind. -/
def ofKind (l : List Section) (k : Nat) : List Section := l.filter (·.kind == k)

/-- The number of sections of each kind that a TYPE must hold (R595): least and most, none where any number may. -/
def kindRule (type kind : Nat) : Nat × Option Nat :=
  match type, kind with
  | 1, 1 | 1, 2 | 1, 4 | 2, 4 | 3, 3 | 4, 2 | 5, 1 => (1, some 1)
  | 1, 3 => (0, some 1)
  | 1, 5 | 5, 5 => (0, none)
  | _, _ => (0, some 0)

/-- The section rule of the image's TYPE (R595). -/
def imgKindsOk (b : List Nat) (l : List Section) : Bool :=
  decide (1 ≤ imgType b ∧ imgType b ≤ 5)
    && l.all (fun x => decide (1 ≤ x.kind ∧ x.kind ≤ 5))
    && [1, 2, 3, 4, 5].all (fun k =>
        let n := (ofKind l k).length
        let r := kindRule (imgType b) k
        decide (r.1 ≤ n) && r.2.all (fun m => decide (n ≤ m)))
    && decide (((ofKind l 1 ++ ofKind l 5).map (·.len)).sum ≤ 2 ^ 23)
    && (ofKind l 2).all (fun x => decide (8 ≤ x.len ∧ x.len ≤ 2 ^ 21) && imgLe b x.off 2 == imgVersion b)
    && (ofKind l 3).all (fun x => x.len == 14864 && imgLe b x.off 2 == imgVersion b && imgLe b (x.off + 8) 8 == 0)
    && (ofKind l 4).all (fun x => decide (x.len ≤ 2 ^ 20) && x.len % 16 == 0)

/-- No two sections overlap. -/
def disjointSections : List Section → Bool
  | [] => true
  | x :: l => l.all (fun y => decide (x.off + x.len ≤ y.off ∨ y.off + y.len ≤ x.off)) && disjointSections l

/-- Check 3: the table within the image, the sections aligned, disjoint and below the signature block. -/
def imgTableOk (b : List Nat) : Bool :=
  let n := imgNsect b
  let l := imgSections b
  decide (1 ≤ n ∧ n ≤ 32) && decide (0x80 + 32 * n + 256 ≤ imgLen b)
    && (List.range n).all (fun i =>
        let o := 0x80 + 32 * i
        imgLe b (o + 1) 7 == 0 && imgLe b (o + 20) 4 == 0 && imgLe b (o + 24) 8 == 0)
    && l.all (fun x => x.off % 64 == 0 && decide (0x80 + 32 * n ≤ x.off) && decide (x.off + x.len ≤ imgLen b - 256))
    && disjointSections l && imgKindsOk b l

/-- Check 4: the hash of the public key is the fused one. -/
def imgKeyOk (b : List Nat) : Bool :=
  sha384 ((b.drop (imgLen b - 256)).take 96) == Config.imageKeyHash.map (·.toNat)

/-- Check 5: the signature over bytes 0 to IMGLEN − 257. -/
def imgSigOk (b : List Nat) : Bool :=
  let o := imgLen b - 256
  ecdsaOk (imgBe b o 48) (imgBe b (o + 0x30) 48) (imgBe b (o + 0x60) 48) (imgBe b (o + 0x90) 48)
    (natOfBe (sha384 (b.take o)))

/-- Check 6: the CRC of every section. -/
def imgCrcOk (b : List Nat) : Bool :=
  (imgSections b).all fun x => crc32c (((b.drop x.off).take x.len).map (BitVec.ofNat 8)) == x.crc

/-- The micro-ROM version a patch section requires (R598). -/
def patchRom (b : List Nat) (x : Section) : Nat := imgLe b (x.off + 2) 2

/-- Check 7 for a patch section: its ROM is that of every physical pair (R598). -/
def State.patchRomOk (s : State) (b : List Nat) : Bool :=
  (ofKind (imgSections b) 3).all fun x => (List.range 48).all fun p => s.fget (CSTORE_VER.ROM p) == patchRom b x

/-- Checks 2 to 6 of R596 in order: 1 where all pass. -/
def imgResult (b : List Nat) (lim : Nat) : Nat :=
  if !imgHeaderOk b lim then 3
  else if !imgTableOk b then 4
  else if !imgKeyOk b then 5
  else if !imgSigOk b then 6
  else if !imgCrcOk b then 7
  else 1

/-- All of R596 for an image of the TYPE expected. A boot image's patch section is looked at when the patch is loaded
(R598), so that check 7 asks only its TYPE. -/
def State.imgCheck (s : State) (b : List Nat) (lim type : Nat) : Nat :=
  let r := imgResult b lim
  if r ≠ 1 then r
  else if imgType b ≠ type ∨ (type ≠ 1 ∧ !s.patchRomOk b) then 8
  else 1

/-- The bytes of an image at a module-physical address as the Tailor or the triad reads them: the header first, then
IMGLEN bytes where the header says no more than `lim`. None where memory is not readable (R596 check 1). -/
def State.imgRead (s : State) (h : HubAgent) (a lim : Nat) : State × Option (List Nat) :=
  match s.opRead h a 128 with
  | (s, .done hd) =>
    let hd := hd.map (·.toNat)
    if !imgHeaderOk hd lim then (s, some hd)
    else
      match s.opRead h a (imgLen hd) with
      | (s, .done bs) => (s, some (bs.map (·.toNat)))
      | (s, _) => (s, none)
  | (s, _) => (s, none)

/-- VERSION and STATEFMT of the triad section. -/
def imgTriad (b : List Nat) : Option (Nat × Nat) :=
  (ofKind (imgSections b) 2).head?.map fun x => (imgLe b x.off 2, imgLe b (x.off + 2) 1)

end Sys2Proof.Machine
end

