-- ==== Sys2Proof/Machine/Triad.lean ====
section
/-! DEFINITION. The triad: agreement on inputs, the vote, ejection and rejoin, the stop and restart, and the firmware
switch (15_channel_triad_and_buffers.md, R411–R426). A batch's own effect is the command that carries the input;
TRIAD_INPUT_BATCH is what its exchange and vote find. -/

namespace Sys2Proof.Machine

/-- STATE of a member: VOTING, OUT, TESTING, COPYING, PROBATION, FAILED (R412). -/
def mbVoting : Nat := 0
def mbOut : Nat := 1
def mbProbation : Nat := 4
def mbFailed : Nat := 5

def State.mb (s : State) (m : Nat) : Nat := s.fget (TRIAD_MEMBER.STATE m)
def State.setMb (s : State) (m st : Nat) : State := s.fset (TRIAD_MEMBER.STATE m) st

/-- The members that vote. -/
def State.voting (s : State) : List Nat := (List.range 3).filter fun m => s.mb m == mbVoting

/-- TRIAD.STAT.MODE: 0 TRIAD, 1 PAIR, 2 STOPPED, 3 RESTARTING. -/
def State.tmode (s : State) : Nat := s.fget TRIAD_STAT.MODE

def dissField (m : Nat) : Field :=
  if m = 0 then TRIAD_VOTESTAT.DISS0 else if m = 1 then TRIAD_VOTESTAT.DISS1 else TRIAD_VOTESTAT.DISS2

/-- Member `m` leaves the vote or its probation for `cause` (R417): OUT, or FAILED when its dissents of the last hour
reach DISSMAX. The record's DETAIL1 is the member's register. -/
def State.eject (s : State) (m cause : Nat) : State :=
  let s := s.look
  let old := (AMap.get [] s.triad.ejections m).filter fun t => s.tod < t + 3600 * 1000000 * 4096
  let l := if cause = 6 then old else old ++ [s.tod]
  let s := s.onTriad fun t => { t with ejections := AMap.set [] t.ejections m l }
  let s := (s.fcount (dissField m) 1).fset (TRIAD_MEMBER.DISSENTS m) (min 255 l.length)
  let s := s.fset (TRIAD_MEMBER.CAUSE m) cause
  let failed := cause ≠ 6 && decide (max 1 (s.fget TRIAD_CTL.DISSMAX) ≤ l.length)
  let s := s.setMb m (if failed then mbFailed else mbOut)
  let s := s.onTriad fun t => { t with inStep := t.inStep.filter (· ≠ m) }
  s.raiseC { loc := locCode 0x2 4 0xFF (1 + m), d1 := cause * 2 ^ 16 + min 255 l.length * 2 ^ 8 + s.mb m }

/-- A ring pair keeps its binding through a restart: it is zeroed and its records are settled (R373, R423 steps 6, 7). -/
def State.restartRings (s : State) : State :=
  (List.range 4096).foldl (fun s r => if 2 ≤ s.rst r then s.rebind r else s) s

/-- Step 4 of a restart (R393, R423): records whose votes had not passed are found by the scan or given back; the
journal is read; the doorbells that had passed wait unvalidated again. -/
def State.restartScan (s : State) : State :=
  let fl := s.triad.flights
  let s := (s.onTriad fun t => { t with flights := [] }).scanJournal false
  let s := fl.foldl (fun s f =>
    if (s.txn f.jr.tsn).isSome then s else s.uncountPass (hdrRing f.jr.hdr) f.jr.desc) s
  let s := (s.triad.dbq.filter (·.passed)).foldl (fun s d => s.uncountPass d.ring d.words) s
  s.onTriad fun t => { t with dbq := t.dbq.map fun d => { d with passed := false } }

/-- Frames that the triad had queued for the links and that had no FSN yet are lost with its state. -/
def State.dropQueued (s : State) : State :=
  { s with link := { s.link with
      chans := s.link.chans.map fun e => (e.1, { e.2 with queue := [] })
      lanes := s.link.lanes.map fun e => (e.1, { e.2 with queue := [] }) } }

/-- A stop and the restart that follows it (R422, R423). `tests` has bit `m` set where member `m` passes its self-test.
The record's DETAIL1 names the cause and the members in a layout the spec leaves open: a free value. -/
def State.triadStop (s : State) (tests : Nat) : State :=
  let s := (s.fset TRIAD_STAT.MODE 2).fset TRIAD_STAT.ACCEPTING 0
  let (w, s) := s.draw
  let s := s.raise { loc := locCode 0x6 4 0xFF 0x04, d1 := w.toNat }
  let s := s.fset TRIAD_STAT.MODE 3
  let s := (List.range 3).foldl (fun s m => s.setMb m (if bitOf tests m then mbVoting else mbFailed)) s
  let s := ((s.fset TRIAD_FWSTAT.SVALID 0).fset TRIAD_FWSTAT.STAGED 0).onTriad fun t =>
    { t with staged := none, offeredAgain := false, rejoinWaits := none
             inStep := (List.range 3).filter fun m => bitOf tests m }
  let n := s.voting.length
  let s := s.fcount TRIAD_STAT.RESTARTS 1
  if n < 2 then (s.raise { loc := locCode 0xB 4 0xFF 0x04 }).updMinset
  else
    let s := s.dropQueued.restartScan
    let s := s.rebuildPools.endUnanswered fun _ => true
    let s := (s.fset TRIAD_STAT.MODE (if n = 3 then 0 else 1)).updMinset
    let s := if s.fget FAULT_MINSET.MINSET = 0 then s.fset TRIAD_STAT.ACCEPTING 1 else s
    s.restartRings.landAll

/-- The value that at least two of the voting members gave, and those that gave another or none (R414, R415). -/
def agreed (l : List (Nat × Option Nat)) : Option (Nat × List (Nat × Option Nat)) :=
  let vs := l.filterMap (·.2)
  (firstThat (fun v => 2 ≤ (vs.filter (· == v)).length) vs).map fun v => (v, l.filter fun e => e.2 ≠ some v)

/-- The copies of the voting members. -/
def State.copies (s : State) (l : List (Option Nat)) : List (Nat × Option Nat) := s.voting.map fun m => (m, l.getD m none)

/-- The odd member of a TRIAD-mode agreement leaves (R414, R415); `cause` tells the cause from its copy. -/
def State.ejectOdd (s : State) (odd : List (Nat × Option Nat)) (cause : Option Nat → Nat) : State :=
  match odd with
  | [] => s
  | e :: _ => (s.eject e.1 (cause e.2)).fset TRIAD_STAT.MODE 1

/-- The vote on a unit (R415, R416, R420 step 5): the unit leaves, a member is ejected, or the triad stops. -/
def State.voteUnit (s : State) (outs : List (Option Nat)) (halves : Bool) (tests : Nat) : State :=
  if !halves then s.triadStop tests
  else match agreed (s.copies outs) with
    | none => s.triadStop tests
    | some (v, odd) =>
      let s := s.ejectOdd odd fun c => if c.isNone then 2 else 1
      (List.range 3).foldl (fun s m =>
        if s.mb m == mbProbation && outs.getD m none != some v then s.eject m 5 else s) s

/-- TRIAD_INPUT_BATCH (R414–R416): the digests of the batch and the copies of an output unit that it leads to, one place
for each member, none for one absent or late by 8 ns; whether the voter's halves agree; and which members pass the
self-test of a restart. -/
def execTriadInputBatch (digests outs : List (Option Nat)) (halves : Bool) (tests : Nat) (s : State) : Res :=
  .next (if s.up && decide (s.tmode ≤ 1) then
    match agreed (s.copies digests) with
    | none =>
      if s.triad.offeredAgain then s.triadStop tests
      else (s.fcount TRIAD_VOTESTAT.AGREEFAIL 1).onTriad fun t => { t with offeredAgain := true }
    | some (_, odd) =>
      let s := s.onTriad fun t => { t with offeredAgain := false }
      (s.ejectOdd odd fun _ => 3).voteUnit outs halves tests
  else s)

/-- MEMBER_SELF_ERROR of member `m` (R417 cause 4): a VOTING member leaves the vote, in PAIR mode the triad stops
(R422); a PROBATION member is ejected. -/
def execMemberSelfError (m tests : Nat) (s : State) : Res :=
  .next (if s.up && decide (m < 3) && decide (s.tmode ≤ 1) then
    if s.mb m = mbVoting then
      (if s.tmode = 0 then (s.eject m 4).fset TRIAD_STAT.MODE 1 else (s.eject m 4).triadStop tests)
    else if s.mb m = mbProbation then s.eject m 4
    else s
  else s)

/-- TRIAD.CMD.OP = EJECT (R417, R418). -/
def State.triadEject (s : State) (m : Nat) : State :=
  if 2 < m ∨ s.tmode ≠ 0 ∨ s.mb m ≠ mbVoting then s.fset TRIAD_CMD.RESULT 2
  else ((s.eject m 6).fset TRIAD_STAT.MODE 1).fset TRIAD_CMD.RESULT 1
def execTriadEject (m : Nat) (s : State) : Res := .next (if s.up then s.triadEject m else s)

/-- A rejoin that begins now (R420, R421): self-test, load, copy of the lower-numbered VOTING member's state memory, start; the
member is in PROBATION at its end, its memory equal to theirs. A source word that is uncorrectable is taken from the
other VOTING member; where that one's is too, the source is ejected with cause 4, the rejoin ends and the triad stops. -/
def State.rejoin (s : State) (m : Nat) (pass : Bool) (copy : CopyIn) : State :=
  if !pass then (s.setMb m mbFailed).fset TRIAD_CMD.RESULT 4
  else if copy.bad.any (·.2) then
    match s.voting with
    | [] => s
    | src :: _ => ((s.setMb m mbOut).eject src 4).triadStop copy.tests
  else (s.setMb m mbProbation).onTriad fun t => { t with inStep := t.inStep.filter (· ≠ m) ++ [m] }

/-- May a rejoin of `m` begin: PAIR mode, and no other member on its way in (R419)? -/
def State.mayRejoin (s : State) : Bool :=
  s.tmode == 1 && (List.range 3).all fun k => s.mb k == mbVoting || s.mb k == mbOut || s.mb k == mbFailed

/-- TRIAD.CMD.OP = REJOIN (R419, R420); `pass` is the outcome of the self-test. A Tailor restart holds it (R426). -/
def State.triadRejoin (s : State) (m : Nat) (pass : Bool) (copy : CopyIn) : State :=
  if 2 < m ∨ !s.mayRejoin ∨ (s.mb m ≠ mbOut ∧ s.mb m ≠ mbFailed) then s.fset TRIAD_CMD.RESULT 2
  else
    let s := if s.mb m = mbFailed then
        (s.fset (TRIAD_MEMBER.DISSENTS m) 0).onTriad fun t => { t with ejections := AMap.erase m t.ejections }
      else s
    let s := s.fset TRIAD_CMD.RESULT 1
    if s.fbit TAILOR_TFWSTAT.BUSY then s.onTriad fun t => { t with rejoinWaits := some (m, pass, copy) }
    else s.rejoin m pass copy
def execTriadRejoin (m : Nat) (e : RejoinIn) (s : State) : Res :=
  .next (if s.up then s.triadRejoin m e.pass e.copy else s)

/-- AUTO_REJOIN of member `m`, 1 ms after its ejection (R419). -/
def execAutoRejoin (m : Nat) (e : RejoinIn) (s : State) : Res :=
  .next (if s.up && s.fbit TRIAD_CTL.AUTOREJOIN && decide (m < 3) && s.mb m == mbOut && s.mayRejoin then
    if s.fbit TAILOR_TFWSTAT.BUSY then s.onTriad fun t => { t with rejoinWaits := some (m, e.pass, e.copy) }
    else s.rejoin m e.pass e.copy
  else s)

/-- A rejoin that a Tailor restart has held begins (R426, R601). -/
def State.rejoinHeld (s : State) : State :=
  match s.triad.rejoinWaits with
  | none => s
  | some (m, pass, copy) =>
    let s := s.onTriad fun t => { t with rejoinWaits := none }
    if s.mayRejoin then s.rejoin m pass copy else s

/-- PROBATION_END of member `m` (R420 step 6). -/
def execProbationEnd (m : Nat) (s : State) : Res :=
  .next (if s.up && decide (m < 3) && s.mb m == mbProbation && s.tmode == 1 then
    (s.setMb m mbVoting).fset TRIAD_STAT.MODE 0
  else s)

/-! ### Firmware switch (R424, R425) -/

/-- Is a member TESTING or COPYING, or a load or a switch running? -/
def State.fwBusy (s : State) : Bool :=
  s.fbit TRIAD_FWSTAT.BUSY || (List.range 3).any fun m => s.mb m == 2 || s.mb m == 3

/-- TRIAD.FWCTL.OP = LOAD of the image at `a` (R424). -/
def State.triadLoad (s : State) (a : Nat) : State :=
  let s := s.fset TRIAD_FWCTL.ADDR (a / 4096)
  let res (s : State) (v : Nat) : State := s.fset TRIAD_FWSTAT.RESULT v
  if 1 < s.tmode then res s 7
  else if s.fwBusy then res s 3
  else
    match s.imgRead triadHub (a / 4096 * 4096) (2 ^ 23) with
    | (s, none) => res s 6
    | (s, some b) =>
      if !imgHeaderOk b (2 ^ 23) || !imgTableOk b || imgType b ≠ 4 || !imgCrcOk b then res s 6
      else match imgTriad b with
        | none => res s 6
        | some (v, f) =>
          if f ≠ s.triad.active.format then res s 5
          else
            let s := s.onTriad fun t => { t with staged := some { version := v, format := f } }
            ((res s 1).fset TRIAD_FWSTAT.SVALID 1).fset TRIAD_FWSTAT.STAGED v
def execTriadFwLoad (a : Nat) (s : State) : Res := .next (if s.up then s.triadLoad (a % 2 ^ 52) else s)

/-- TRIAD.FWCTL.OP = SWITCH (R425): the banks flip and FWSWTSN is the next TSN. -/
def State.triadSwitch (s : State) : State :=
  let res (s : State) (v : Nat) : State := s.fset TRIAD_FWSTAT.RESULT v
  if 1 < s.tmode then res s 7
  else if s.fwBusy then res s 3
  else match s.triad.staged with
    | none => res s 4
    | some i =>
      let old := s.triad.active
      let s := s.onTriad fun t => { t with active := i, staged := some old }
      let s := (s.fset TRIAD_FWSTAT.ACTIVE i.version).fset TRIAD_FWSTAT.STAGED old.version
      (res s 2).fset TRIAD_FWSWTSN.FWSWTSN (s.fget HEM_TSNNEXT.TSNNEXT)
def execTriadFwSwitch (s : State) : Res := .next (if s.up then s.triadSwitch else s)

/-- TRIAD.FWCTL.OP = 3: STAGED is discarded. -/
def State.triadDiscard (s : State) : State :=
  if s.fwBusy then s.fset TRIAD_FWSTAT.RESULT 3
  else ((s.fset TRIAD_FWSTAT.SVALID 0).fset TRIAD_FWSTAT.STAGED 0).onTriad fun t => { t with staged := none }
def execTriadFwDiscard (s : State) : Res := .next (if s.up then s.triadDiscard else s)

end Sys2Proof.Machine
end

