-- ==== Sys2Proof/Machine/Reset.lean ====
section
/-! DEFINITION. What a Cold and a Module reset keep, and the stop of R45 (00_scope.md, R10–R13; 02_power_input_and_states.md,
R45, R46; 03_module_lands_and_board.md, R76; 22_boot_reset_live_change.md, R585, R586). -/

namespace Sys2Proof.Machine

/-- The field of a key of the field map. -/
def fieldAt (key : Nat) : Option Field := firstThat (fun f => f.lo == key % 64) (regFields (key / 64))

/-- Does a field keep its value through a reset whose entry for it is `e` (R12)? A strap field is loaded again when the
straps are sampled, at a Cold reset only; a fuse field always holds its fuse. -/
def ResetEntry.kept (cold : Bool) : ResetEntry → Bool
  | .keep | .fuse => true
  | .strap => !cold
  | _ => false

/-- The register fields after a Cold or a Module reset: those that the reset keeps, every other at its entry. Every
Module entry of the spec's tables that is a number equals the Cold entry. -/
def State.keptFields (s : State) (cold : Bool) : AMap Nat :=
  AMap.keep (fun k => match fieldAt k with
    | some f => (if cold then f.rC else f.rM).kept cold
    | none => false) s.fields

/-- Hem window words that are in flight when Hem writes stop (R45): each 64-bit word is whole on a die or absent there,
which of the two is free (log entry 1). -/
def State.settleWindows (s : State) : State :=
  let words := ((s.mem.winFlight.map fun e => e.1 / 8).eraseDups)
  let s := words.foldl (fun s w =>
    let (c, s) := s.draw
    let bytes := s.mem.winFlight.filter fun e => e.1 / 8 == w
    let put (on : Bool) (h : AMap Byte) : AMap Byte :=
      if on then bytes.foldl (fun h e => match e.2 with
        | some b => AMap.set 0 h e.1 b
        | none => h) h else h
    s.onMem fun m => { m with h0 := put (s.hWritten 0 && c.getLsbD 0) m.h0, h1 := put (s.hWritten 1 && c.getLsbD 1) m.h1 }) s
  s.onMem fun m => { m with winFlight := [], winPend := [] }

/-- Marks that have been issued and are not durable when Hem writes stop (R45): each die holds the mark or not, free. -/
def State.settleMarks (s : State) : State :=
  s.openTxns.foldl (fun s e =>
    let x := e.2
    let mark : Option (Nat × Nat) :=
      if x.retire then some (codeRetired, markWord (s.passOf x) e.1 codeRetired 0)
      else if x.stage = .settled then some (codeAnswered, x.ansWord)
      else if x.sentWord ≠ 0 ∧ !x.sentDur then some (codeSent, x.sentWord)
      else none
    match mark with
    | none => s
    | some (code, w) =>
      let (c, s) := s.draw
      let put (s : State) (i : Nat) : State :=
        if s.hWritten i && c.getLsbD i then
          s.setJrec i x.slot ((s.jrec i x.slot).map fun r =>
            if code = codeSent then { r with sent := w }
            else if code = codeAnswered then { r with answered := w } else { r with retired := w })
        else s
      put (put s 0) 1) s

/-- Make the module's status outputs and lands undriven (R76). -/
def State.handsOff (s : State) : State :=
  { s with pins := { s.pins with hiZ := true, failN := true, ready := false, ppsOut := false, dimmPwr := [], ddrResetN := [] } }

/-- A Cold or Module reset (R10, R585, R586): what lies outside register fields is kept or cleared as the table of R585
says; DRAM is lost under R78. The boot follows as a command of its own. -/
def State.resetAll (s : State) (cold : Bool) (cause : Nat) : State :=
  let s := s.settleWindows.settleMarks
  let b : State := {}
  let t := s.triad
  let s' : State := { b with
    pending := s.pending
    fresh := s.fresh
    fields := s.keptFields cold
    power := { b.power with
      phase := if cold then .coldReset else .moduleReset
      vinA := s.power.vinA, vinB := s.power.vinB, cap := s.power.cap, hottest := s.power.hottest, coldest := s.power.coldest
      cause := cause, module := !cold }
    pins := { s.pins with bootSel := if cold then 0 else s.pins.bootSel, vaultAllow := !cold && s.pins.vaultAllow
                          ftmN := cold || s.pins.ftmN }
    tap := if cold then {} else s.tap
    faults := { s.faults with queue := [], lost := false, holdsFatal := false, onlyReplays := true, bootFail := false
                              lostNoted := false }
    apron := s.apron
    mem := { b.mem with h0 := s.mem.h0, h1 := s.mem.h1, winPoison := s.mem.winPoison }
    triad := { b.triad with j0 := t.j0, j1 := t.j1, cleanStop := t.cleanStop, retiredDie := t.retiredDie
                            singleMeta := t.singleMeta, wear := t.wear, wearG := t.wearG }
    link := { b.link with epoch := s.link.epoch + 1 }
    eng := { b.eng with root := s.eng.root }
    tailor := { b.tailor with flash := s.tailor.flash, flashSize := s.tailor.flashSize } }
  let s' := s'.handsOff.rootClear
  if cold then s'.fcount LIFE_POWERON.COLDRESETS 1 else s'.fcount LIFE_RESETS.MODULE 1

/-- The lifetime fields of the APRON block, by key (R578). -/
def isLifeKey (k : Nat) : Bool := decide (0x8000 * 64 ≤ k ∧ k < 0xE000 * 64)

/-- Write every changed lifetime word to MRAM (R582). -/
def State.lifeFlushAll (s : State) : State :=
  { s with apron := { s.apron with lifeFlushed := AMap.keep isLifeKey s.fields } }

/-- The stop of R45: no vote passes and Hem writes stop (nothing acts outside `Phase.run`), every output is
high-impedance, LASTSTOP is written, and the lifetime words are flushed within the hold-up time. -/
def State.stopInput (s : State) (ph : Phase) (last : Nat) (count : Field) : State :=
  let s := (s.handsOff).fcount count 1
  let s := (s.keepWrite POWER_STATUS.LASTSTOP last).1.lifeFlushAll
  { s with power := { s.power with phase := ph } }

/-- A Module reset for `cause` (R586) from a phase in which the dies are powered. -/
def State.moduleReset (s : State) (cause : Nat) : State :=
  match s.power.phase with
  | .moduleReset | .lockWait | .bootFailed | .service | .run => s.resetAll false cause
  | _ => s

/-- Boot CAUSE of a Cold reset (R586): power-on when the Apron island itself had lost power, else the recovery from
lockout. -/
def State.coldCause (s : State) : Nat := if s.faults.islandLost then 1 else 2

end Sys2Proof.Machine
end

