-- ==== Sys2Proof/Machine/Power.lean ====
section
/-! DEFINITION. The 48 V input, the power states, the clusters' clocks, and the lands that start resets and wakes
(02_power_input_and_states.md, 03_module_lands_and_board.md). -/

namespace Sys2Proof.Machine

def State.onPower (s : State) (f : PowerState → PowerState) : State := { s with power := f s.power }

/-! ### The input (R41–R46) -/

/-- The power cap in mW (R43): the smaller of 1,350 W and 25.0 A times the voltage of each pair present, in mV. A pair
below 33.0 V is lost (R44). -/
def powerCap (a b : Nat) : Nat :=
  let stage (v : Nat) : Nat := if v < 33000 then 0 else 25 * v
  min 1350000 (stage a + stage b)

/-- The sensed voltages in mV, with the cap they leave (R43). POWER.INPUT follows them, in units of 10 mV; the currents are
free (log entry 1). -/
def State.sense (s : State) (a b : Nat) : State :=
  let s := s.onPower fun p => { p with vinA := a, vinB := b, cap := powerCap a b }
  if s.up || s.power.phase == .service then
    let (w, s) := s.draw
    (((s.fset POWER_INPUT.VIN_A (a / 10)).fset POWER_INPUT.VIN_B (b / 10)).fset POWER_INPUT.IIN_A w.toNat).fset
      POWER_INPUT.IIN_B (w.toNat / 2 ^ 16)
  else s

/-- A bit of POWER.STATUS sets: a corrected-class event (R67); the unit is the input stage or the power stage. -/
def State.powerFlag (s : State) (f : Field) (die unit : Nat) : State :=
  if s.fbit f then s else (s.fset f 1).raiseC { loc := locCode 0x3 die 0xFF unit }

/-- UNDERVOLTAGE_RELEASE: the higher pair rises through 35.0 V ± 0.3 V. `a`, `b` are the pairs' voltages in mV. -/
def execUndervoltageRelease (a b : Nat) (s : State) : Res :=
  .next (if s.power.phase = .off ∧ 34700 ≤ max a b then
    (s.sense a b).onPower fun p => { p with phase := .softStart true, cause := s.coldCause }
  else s)

/-- SOFT_START_END: the ramp of R42 ends; the reset begins. -/
def execSoftStartEnd (s : State) : Res :=
  .next (match s.power.phase with
    | .softStart cold => s.resetAll cold s.power.cause
    | _ => s)

/-- COLD_RESET (R10, R11): it takes over from every narrower reset. -/
def execColdReset (s : State) : Res := .next (s.resetAll true s.coldCause)

/-- MODULE_RESET for a cause of R586. -/
def execModuleReset (cause : Nat) (s : State) : Res := .next (s.moduleReset (cause % 16))

/-- UNDERVOLTAGE_TRIP: the higher pair falls through 33.0 V ± 0.3 V (R45); where the dies are already off nothing is left
to stop. -/
def execUndervoltageTrip (a b : Nat) (s : State) : Res :=
  .next (if max a b < 33300 then
    let s := s.sense a b
    match s.power.phase with
    | .off => s
    | .vault | .overvoltage | .thermal | .softStart _ => s.onPower fun p => { p with phase := .off }
    | _ => s.stopInput .off 1 LIFE_STOPS.UNDER
  else s)

/-- OVERVOLTAGE_SHUTDOWN: the higher pair rises through 80.0 V ± 0.3 V. In Vault and after a thermal stop the dies are off
already: nothing is left to stop, LASTSTOP keeps the stop that was, and the module is held all the same (log entry 117). -/
def execOvervoltageShutdown (a b : Nat) (s : State) : Res :=
  .next (if 79700 ≤ max a b then
    let s := s.sense a b
    match s.power.phase with
    | .off | .overvoltage => s
    | .vault | .thermal | .softStart _ => s.onPower fun p => { p with phase := .overvoltage }
    | _ => s.stopInput .overvoltage 2 LIFE_STOPS.OVER
  else s)

/-- OVERVOLTAGE_RECOVERY: the fall through 77.0 V: soft-start, then a Module reset of CAUSE 7. A module that is still too
hot waits for R66's 140 °C first (log entry 117). -/
def execOvervoltageRecovery (a b : Nat) (s : State) : Res :=
  .next (if s.power.phase = .overvoltage ∧ max a b ≤ 77300 then
    (s.sense a b).onPower fun p =>
      if 140 + 64 < p.hottest then { p with phase := .thermal } else { p with phase := .softStart false, cause := 7 }
  else s)

def execBrownout (a b : Nat) (s : State) : Res :=
  .next (if s.up && decide (max a b < 36300 ∧ 32700 ≤ max a b) then (s.sense a b).powerFlag POWER_STATUS.BROWN 9 0x03 else s)

def execOvervoltageFlag (a b : Nat) (s : State) : Res :=
  .next (if s.up && decide (74700 < max a b ∧ max a b < 80300) then (s.sense a b).powerFlag POWER_STATUS.OVER 9 0x03 else s)

/-- PAIR_LOST: the module runs on and the cap is recomputed (`State.sense`); pair `p` (0 A, 1 B) falls below 33.0 V while the other is in range (R44). -/
def execPairLost (p a b : Nat) (s : State) : Res :=
  .next (let (lost, held) := if p = 0 then (a, b) else (b, a)
    if s.up && decide (lost < 33300 ∧ 32700 ≤ held) then
      let s := s.sense a b
      if p = 0 then s.powerFlag POWER_STATUS.A_LOST 9 0x01 else s.powerFlag POWER_STATUS.B_LOST 9 0x02
    else s)

/-! ### Core clocks (R43, R64, R65) -/

def State.tempMHz (s : State) (c : Nat) : Nat := AMap.get 4600 s.power.tempLimit c
def State.capMHz (s : State) (c : Nat) : Nat := AMap.get 4600 s.power.capLimit c

/-- A cluster runs at the lower of its two limits (R65); LIMIT names the one that holds, temperature where both do. -/
def State.updCluster (s : State) (c : Nat) : State :=
  let t := s.tempMHz c
  let k := s.capMHz c
  (s.fset (POWER_CLUSTER.FREQ c) (min t k)).fset (POWER_CLUSTER.LIMIT c)
    (if min t k = 4600 then 0 else if t ≤ k then 1 else 2)

/-- POWER_CAP_STEP of cluster `c` while the module draws `drawn` mW (R43, R65): above the cap, down by 100 MHz, the hottest
cluster above the floor first; else up again. -/
def execPowerCapStep (c drawn : Nat) (s : State) : Res :=
  .next (if !s.up || decide (12 ≤ c) then s
  else if drawn ≤ s.power.cap then
    if s.capMHz c < 4600 then
      (s.onPower fun p => { p with capLimit := AMap.set 4600 p.capLimit c (s.capMHz c + 100) }).updCluster c
    else s
  else
    let tj (d : Nat) : Nat := s.fget (POWER_CLUSTER.TJ d)
    let first := (List.range 12).all fun d => s.capMHz d ≤ 1600 || decide (tj d ≤ tj c)
    if first && decide (1600 < s.capMHz c) then
      let s := (s.onPower fun p => { p with capLimit := AMap.set 4600 p.capLimit c (s.capMHz c - 100) }).updCluster c
      s.powerFlag POWER_STATUS.CAPPED 9 0x03
    else s)

/-- The clock of R64 at a junction temperature, given in °C plus 64. -/
def clockAt (t : Nat) : Nat := if t ≤ 110 + 64 then 4600 else if t ≤ 130 + 64 then 4000 else 3200

def State.setTemp (s : State) (c t mhz : Nat) : State :=
  ((s.onPower fun p => { p with tempLimit := AMap.set 4600 p.tempLimit c mhz }).fset (POWER_CLUSTER.TJ c) t).updCluster c

/-- At boot every cluster runs at the clock that the hottest sensor allows (R64; log entry 5). -/
def State.bootClocks (s : State) : State :=
  let t := s.power.hottest
  let s := (List.range 12).foldl (fun s c => s.setTemp c t (clockAt t)) s
  if clockAt t < 4600 then s.powerFlag POWER_STATUS.HOT 0xF 0x00 else s

/-- CLUSTER_CLOCK_STEP_DOWN: the hottest sensor of cluster `c` reads `t` (°C plus 64), above a boundary. -/
def execClusterClockStepDown (c t : Nat) (s : State) : Res :=
  .next (if s.up && decide (c < 12) && decide (clockAt t < s.tempMHz c) then
    (s.setTemp c t (clockAt t)).powerFlag POWER_STATUS.HOT 0xF 0x00
  else s)

/-- CLUSTER_CLOCK_STEP_UP: every sensor has stayed 5 °C below the boundary for 10 ms; the hottest reads `t`. -/
def execClusterClockStepUp (c t : Nat) (s : State) : Res :=
  .next (if s.up && decide (c < 12) && decide (s.tempMHz c < clockAt (t + 5)) then s.setTemp c t (clockAt (t + 5)) else s)

/-- THERMAL_STOP: a die sensor reads `t`, at least 155 °C (R66). -/
def execThermalStop (t : Nat) (s : State) : Res :=
  .next (if s.hubOn && decide (155 + 64 ≤ t) then
    (s.onPower fun p => { p with hottest := t }).stopInput .thermal 3 LIFE_STOPS.THERMAL
  else s)

/-- THERMAL_RESTART: the hottest sensor reads `t`, at most 140 °C; an overvoltage shutdown holds the module until it ends. -/
def execThermalRestart (t : Nat) (s : State) : Res :=
  .next (if 140 + 64 < t then s else
    let sampled := s.onPower fun p => { p with hottest := t }
    match s.power.phase with
    | .thermal => sampled.resetAll false 8
    | .overvoltage => sampled
    | _ => s)

/-- COLD_SENSOR_RESAMPLE: the coldest sensor reads `t` (°C plus 64); the boot waits below −40 °C (R66). -/
def execColdSensorResample (t : Nat) (s : State) : Res :=
  .next (if s.power.phase = .coldReset then s.onPower fun p => { p with coldest := t } else s)

/-! ### Park, Nap and Drowse (R51, R52, R276–R279) -/

/-- Is some context runnable? -/
def State.anyRunnable (s : State) : Bool := (List.range 768).any fun c => s.pk c == pkReady || s.pk c == pkRunning

/-- The power manager drains the L2 of pair `p` to DISABLED (R279) and notes it for the exit; a drain that firmware began is
finished first, with its DONE. -/
def State.napDrain (s : State) (p : Nat) : State :=
  let s := if s.l2st p = 2 ∨ s.l2st p = 3 then s.cacheDrainDone false p else s
  if s.l2st p = 1 then (s.l2Off p).onMem fun m => { m with napL2 := m.napL2 ++ [p] } else s

/-- Every L2 is drained to DISABLED; no committed store waits any more. -/
def State.allL2Off (s : State) : State := (List.range 48).foldl State.napDrain s.sbFlushAll

/-- Every way group of the L3 that is ON, but those that `keep` picks, is drained to OFF; drains that firmware began are
finished first. -/
def State.l3GroupsOff (s : State) (keep : Nat → Bool) : State :=
  (List.range 4).foldl (fun s d =>
    let s := s.cacheDrainDone true d
    (List.range 4).foldl (fun s g => if keep g || s.gstate d g != 1 then s else s.l3GroupOff d g) s) s

/-- POWER_STATE_ENTRY: the deepest state that qualifies (R51); the L2s and way groups 1–3 are drained as R279 says. -/
def execPowerStateEntry (s : State) : Res :=
  .next (
    let s := s.look.updTeff
    let t := (leastTol s.tolTerms).2
    if s.up && s.cur == 0 && !s.fbit POWER_STATE.MOVING && s.fbit POWER_CTL.AUTO && !s.anyRunnable then
      if tolAtLeast t (exitLatency 3) then ((s.allL2Off.l3GroupsOff (· == 0)).refreshAll.fset POWER_STATE.CUR 3).fset POWER_STATE.GOAL 3
      else if tolAtLeast t (exitLatency 2) then (s.allL2Off.fset POWER_STATE.CUR 2).fset POWER_STATE.GOAL 2
      else if tolAtLeast t (exitLatency 1) then (s.fset POWER_STATE.CUR 1).fset POWER_STATE.GOAL 1
      else s
    else s)

/-- The wake events of R52, R56, R61 and R63 by kind: 1 WAKE_N, 2 calendar alarm, 3 Seam, 4 adapter, 5 firmware, 0 another. -/
def wakeEn (kind : Nat) : Field :=
  if kind = 1 then POWER_WAKE.WAKE_EN else if kind = 2 then POWER_WAKE.ALARM_EN
  else if kind = 3 then POWER_WAKE.SEAM_EN else POWER_WAKE.ADAPTER_EN

/-- Is a Vault entry under way, between step 1 and step 5? -/
def State.vaulting (s : State) : Bool := s.up && s.fbit POWER_STATE.MOVING && s.fget POWER_STATE.GOAL == 5

/-- A Vault entry is abandoned (R61), or Vault ends (R63), for an event of kind `kind`: a Module reset. -/
def State.leaveVault (s : State) (kind : Nat) : State := (s.fset POWER_WAKE.CAUSE kind).resetAll false 6

/-- An event of kind 1 or 2 at a Vault entry, when its enable is 1. -/
def State.wakeVault (s : State) (kind : Nat) : State :=
  if s.vaulting && s.fbit (wakeEn kind) then s.leaveVault kind else s

/-- WAKE_EVENT of a kind: the return to Run begins, or an entry is abandoned. An alarm does nothing in Park, Nap and
Drowse (R571). -/
def State.wakeEvent (s : State) (kind : Nat) : State :=
  if s.vaulting then (if kind = 1 ∨ kind = 2 then s.wakeVault kind else s)
  else if kind = 2 ∧ s.cur ≤ 3 ∧ s.fget POWER_STATE.GOAL ≠ 4 then s
  else if 1 ≤ kind ∧ kind ≤ 4 then s.wakeBy kind (wakeEn kind)
  else s.wake
def execWakeEvent (kind : Nat) (s : State) : Res := .next (if s.up then s.wakeEvent kind else s)

/-- What the last step of an exit re-enables (R279): the L2s that the entry drained and the way groups, but for what firmware
has cleared. -/
def State.cachesOn (s : State) (l3 : Bool) : State :=
  let s := s.mem.napL2.foldl (fun (s : State) p =>
    if s.fbit (WEFT_L2CTL.EN p) && s.fget (WEFT_L2STAT.STATE p) == 0 then s.fset (WEFT_L2STAT.STATE p) 1 else s) s
  let s := s.onMem fun m => { m with napL2 := [] }
  if l3 then
    (List.range 4).foldl (fun s d => (List.range 4).foldl (fun s g =>
      if bitOf (s.fget (WEFT_L3CTL.WGEN d)) g && s.gstate d g == 0 then s.setGstate d g 1 else s) s) s
  else s

/-- The contexts whose Pockets Shutter saves: those that hold state and have a save area (R206). -/
def State.shutterCtxs (s : State) : List Nat :=
  (List.range 768).filter fun c => s.pk c != pkFree && s.fbit (POCKET_SAVE.VALID c)

/-- The end of Shutter: the Weft dies are on, every Pocket is restored (R208), Collar's requests are made (R245), the
completion entries that waited are written, and then the doorbells are decided (R55). -/
def State.shutterEnd (s : State) : State :=
  let ctxs := s.shutterCtxs
  let s := (s.refreshAll.fset POWER_STATE.CUR 0).cachesOn true
  let s := ctxs.foldl (fun s c =>
    let held := (s.ctx c).blocks
    let r := s.restore c id
    if r.2 = 1 then r.1.setCtx c { r.1.ctx c with blocks := held } else r.1.fset (POCKET_STAT.CMDRES c) r.2) s
  let s := s.collar.ages.foldl (fun s x => (s.targetsOf x).foldl State.eventFor s) s
  let s := (s.triad.rings.map (·.1)).foldl State.flushRing s
  let s := (List.range 256).foldl State.updHold s
  s.landAll

/-- POWER_STATE_EXIT_END. -/
def execPowerStateExitEnd (s : State) : Res :=
  .next (if s.up && s.fbit POWER_STATE.MOVING && s.fget POWER_STATE.GOAL == 0 then
    let s := s.fset POWER_STATE.MOVING 0
    if s.cur = 4 then s.shutterEnd
    else if s.cur = 0 then s
    else ((if s.cur = 3 then s.refreshAll else s).cachesOn (s.cur == 3)).fset POWER_STATE.CUR 0
  else s)

/-! ### Shutter and Vault (R54–R56, R61–R63) -/

/-- POWER.CTL.SHUTTER = 1: the conditions of R54, in its order, or the entry begins. DESIGN CHOICE (log entry 118): where
Shutter holds or is being entered, and during a Vault entry, the request changes nothing and REFUSE is not written; while an
exit is in progress the conditions alone decide. -/
def State.shutterReq (s : State) : State :=
  let s := s.look.updTeff
  if s.vaulting || (s.cur == 4 && !s.fbit POWER_STATE.MOVING)
      || (s.fbit POWER_STATE.MOVING && s.fget POWER_STATE.GOAL == 4) then s
  else if s.anyRunnable then s.fset POWER_STATE.REFUSE 2
  else if !tolAtLeast (leastTol s.tolTerms).2 (exitLatency 4) then s.fset POWER_STATE.REFUSE 4
  else if s.fbit FAULT_STAT.FSTATE then s.fset POWER_STATE.REFUSE 5
  else (s.fset POWER_STATE.GOAL 4).fset POWER_STATE.MOVING 1
def execShutterRequest (s : State) : Res := .next (if s.up then s.shutterReq else s)

/-- SHUTTER_ENTRY_END: every Pocket is saved to its save area, every cache is drained and off, the Weft dies are off. -/
def execShutterEntryEnd (s : State) : Res :=
  .next (if s.up && s.fbit POWER_STATE.MOVING && s.fget POWER_STATE.GOAL == 4 then
    let s := s.shutterCtxs.foldl State.fullSave s
    let s := ((s.allL2Off.drainAgent 48).l3GroupsOff fun _ => false).refreshAll
    ((s.fset POWER_STATE.CUR 4).fset POWER_STATE.MOVING 0)
  else s)

/-- Step 2 of a Vault entry: BEATs with PARK on every UP port (R537), and every lane at electrical idle. -/
def State.vaultLinks (s : State) : State :=
  let s := (List.range 4).foldl (fun s p => if s.portUp p then s.seamUnseq p smBEAT (leNats 8 (2 ^ 16)) else s) s
  (List.range 512).foldl (fun s m => if s.lst m = lsOFF then s else (s.setLane m {}).laneTo m lsOFF) s

/-- Step 3: every Hem write in progress completes, and the clean-stop mark is written. -/
def State.vaultHem (s : State) : State :=
  let s := s.winDurable fun _ _ => true
  let s := s.triad.flights.foldl (fun s f =>
    let put (s : State) (i : Nat) : State := if s.hWritten i then s.setJrec i f.slot (some f.jr) else s
    put (put s 0) 1) s
  let s := (s.onTriad fun t => { t with flights := t.flights.map fun f => { f with d0 := true, d1 := true } }).voteAll
  let s := s.openTxns.foldl (fun s e =>
    let x := e.2
    if x.retire then s.writeMark x codeRetired (markWord (s.passOf x) e.1 codeRetired 0)
    else if x.stage = .settled then s.writeMark x codeAnswered x.ansWord
    else if x.sentWord ≠ 0 ∧ !x.sentDur then s.writeMark x codeSent x.sentWord
    else s) s
  s.onTriad fun t => { t with cleanStop := true }

/-- POWER.CTL.VAULT = 1: the conditions of R61 and R63, in their order, or steps 2 to 4. The conditions alone decide, in
Shutter and while another entry or an exit is in progress too; a request during a Vault entry changes nothing (log
entry 118). -/
def State.vaultReq (s : State) : State :=
  let s := s.look.updTeff
  let ordinary := s.openTxns.any (fun e => !e.2.vital) || s.triad.flights.any fun f => !hdrVital f.jr.hdr
  if s.vaulting then s
  else if !s.pins.vaultAllow then s.fset POWER_STATE.REFUSE 1
  else if (List.range 256).any s.active then s.fset POWER_STATE.REFUSE 2
  else if ordinary then s.fset POWER_STATE.REFUSE 3
  else if (leastTol s.tolTerms).2 ≠ none then s.fset POWER_STATE.REFUSE 4
  else if s.fbit FAULT_STAT.FSTATE then s.fset POWER_STATE.REFUSE 5
  else if !s.fbit POWER_WAKE.WAKE_EN && !s.fbit POWER_WAKE.ALARM_EN then s.fset POWER_STATE.REFUSE 6
  else
    let s := ((s.fset POWER_STATE.GOAL 5).fset POWER_STATE.MOVING 1).vaultLinks.vaultHem
    let s := ((s.keepWrite POWER_STATUS.LASTSTOP 4).1.fcount LIFE_VAULT.ENTRIES 1).lifeFlushAll
    { s with apron := { s.apron with calfloor := s.apron.count / 4096000000, calfloorBad := false } }
def execVaultRequest (s : State) : Res := .next (if s.up then s.vaultReq else s)

/-- VAULT_ENTRY_END: step 5, every rail but the Apron pre-regulator goes off. -/
def execVaultEntryEnd (s : State) : Res :=
  .next (if s.vaulting then s.handsOff.onPower fun p => { p with phase := .vault } else s)

/-- POWER.CTL.WAKE = 1 (R56, R61). An exit from Shutter that is under way keeps the CAUSE of the event that began it
(DESIGN CHOICE, log entry 118). -/
def State.wakeWrite (s : State) : State :=
  if s.vaulting then s.leaveVault 5
  else if s.shutterHolds then
    ((s.fset POWER_STATE.GOAL 0).fset POWER_STATE.MOVING 1).fset POWER_WAKE.CAUSE 5
  else s
def execPowerWakeWrite (s : State) : Res := .next (if s.up then s.wakeWrite else s)

/-- Vault ends for an event of kind 1 or 2 (R63, R591): the rails ramp first, then the Module reset of CAUSE 6. -/
def State.vaultExit (s : State) (kind : Nat) : State :=
  if s.power.phase = .vault ∧ (kind = 1 ∨ kind = 2) ∧ s.fbit (wakeEn kind) then
    (s.fset POWER_WAKE.CAUSE kind).onPower fun p => { p with phase := .softStart false, cause := 6 }
  else s
def execVaultExit (kind : Nat) (s : State) : Res := .next (s.vaultExit kind)

/-- A write of PART[n].LTR, or of POWER.LTRFW (R59). -/
def State.ltrWrite (s : State) (fw : Bool) (n w : Nat) : State :=
  let put (f : Field) (s : State) : State := s.fset f (w / 2 ^ f.lo)
  let s := if fw then put POWER_LTRFW.UNBOUNDED (put POWER_LTRFW.SCALE (put POWER_LTRFW.VALUE s))
    else put (PART_LTR.UNBOUNDED n) (put (PART_LTR.SCALE n) (put (PART_LTR.VALUE n) s))
  s.look.updTeff
def execLtrWrite (fw : Bool) (n : Nat) (w : Word) (s : State) : Res :=
  .next (if s.up && (fw || decide (n < 256)) then s.ltrWrite fw n w.toNat else s)

/-! ### Lands (R81–R84, R88) -/

/-- RESET_N low for 1 µs: a Module reset of CAUSE 3, but not during a Cold reset nor in Vault (R84). -/
def execResetNAssert (s : State) : Res := .next ({ s with pins := { s.pins with resetN := false } }.moduleReset 3)
def execResetNRelease (s : State) : Res := .next { s with pins := { s.pins with resetN := true } }

/-- WAKE_N falls and stays low as long as the present state asks; `rested` says that it had been high for 1 ms. -/
def execWakeNAssert (rested : Bool) (s : State) : Res :=
  .next (let s := { s with pins := { s.pins with wakeN := false } }
    if !rested then s
    else if s.power.phase = .vault then s.vaultExit 1
    else if s.up then s.wakeEvent 1 else s)

/-- PRSNT_CHANGE of channel `n`: filtered for 5 ms (R88); a removal takes the channel's adapter away (R474). -/
def execPrsntChange (n : Nat) (fitted : Bool) (s : State) : Res :=
  .next (if n < 256 then
    let s := { s with pins := { s.pins with present := AMap.set false s.pins.present n fitted } }
    if s.up && !fitted then s.unfit n else s
  else s)

/-- REFCLK_LOCK_RETRY: one second after a boot step 2 that found no REFCLK (R81); `there` says whether it is there now,
and then the boot goes on. -/
def execRefclkLockRetry (there : Bool) (s : State) : Res :=
  .next (if s.power.phase = .lockWait then
    if there then
      let s := { s with pins := { s.pins with refclk := true }, faults := { s.faults with bootFail := false } }.handsOff
      -- the straps are not sampled again: `module` keeps the kind of the reset
      s.onPower fun p => { p with phase := .moduleReset }
    else s
  else s)

/-- REFCLK_LOSS for more than 1 µs while the module runs: a fatal event and a Module reset (R81, R549). -/
def execRefclkLoss (s : State) : Res :=
  .next (if s.up || s.power.phase == .service then
    let s := { s with pins := { s.pins with refclk := false } }
    (s.raise { loc := locCode 0xA 0xF 0xFF 0x01 }).moduleReset 5
  else s)

/-- SLOE_FAIL: the island runs from its internal oscillator; the calendar is uncertain (R82, R568). DESIGN CHOICE (log entry
119): R82 names no field for the uncertain calendar, the model clears APRON.STAT.CALVALID; and the event records action 0x2. -/
def execSloeFail (s : State) : Res :=
  .next (if s.apron.powered then
    let s := ((s.fset APRON_STAT.INTOSC 1).fset APRON_STAT.SLOEOK 0).fset APRON_STAT.CALVALID 0
    s.raiseC { loc := locCode 0x2 4 0xFF 0x1A }
  else s)
def execSloeReturn (s : State) : Res :=
  .next (if s.apron.powered then (s.fset APRON_STAT.INTOSC 0).fset APRON_STAT.SLOEOK 1 else s)

/-- PPS_IN_EDGE (R83, R540). -/
def execPpsInEdge (s : State) : Res :=
  .next (let s := { s with pins := { s.pins with ppsIn := true } }
    if s.up then s.ppsEdge else s)

/-- Time-of-day reaches its next whole second (R83, R567). -/
def State.wholeSecond (s : State) : State :=
  let s := s.look
  { s with tod := (s.tod + 4095999999) / 4096000000 * 4096000000 }

/-- PPS_OUT_SECOND: PPS_OUT rises while time-of-day is valid, and is held low otherwise (R83). -/
def execPpsOutSecond (s : State) : Res :=
  .next (if s.up && !s.pins.hiZ then
    let s := s.wholeSecond
    { s with pins := { s.pins with ppsOut := s.fbit SEAM_TODSTAT.VALID } }
  else s)

end Sys2Proof.Machine
end

