-- ==== Sys2Proof/Machine/Apron.lean ====
section
/-! DEFINITION. The Apron island: its power, the time count and the calendar, the alarm, Keep writes of firmware and the
lifetime records (21_apron_keep_and_lifetime.md, R566–R584). -/

namespace Sys2Proof.Machine

def State.onApron (s : State) (f : ApronState → ApronState) : State := { s with apron := f s.apron }

/-- Units of the time count in one second. -/
def secondUnits : Nat := 4096000000

/-- The island's count moves on by an unknown number of ticks (R567, log entry 11); the fraction is free. -/
def State.apronLook (s : State) : State :=
  if s.apron.powered then
    let (w, s) := s.draw
    let n := s.fresh
    ({ s with fresh := n + 1 }).onApron fun a => { a with count := a.count + Config.freeElapsed n, frac := w.toNat % 2 ^ 24 }
  else s

/-- The calendar (R567). -/
def State.calendar (s : State) : Nat := s.apron.count / secondUnits % 2 ^ 48

/-- Does a field of the APRON block outlive a loss of island power (R566): identity, TRIM, KEEPFW, lifetime records? -/
def apronKept (key : Nat) : Bool :=
  let o := key / 64
  decide (0x10000 ≤ o) || decide (o < 0x10) || o == 0x28 || decide (0x2000 ≤ o)

/-- APRON_POWER_LOSS: VIN48 falls below 9.0 V (R47, R566): the unflushed lifetime counts, the count and the island's own
fields are lost. -/
def execApronPowerLoss (s : State) : Res :=
  .next (if s.apron.powered && !s.hubOn then
    let life := s.apron.lifeFlushed
    let kept := (AMap.keep (fun k => !isLifeKey k && apronKept k) s.fields)
    let fields := life.foldl (fun m e => AMap.insert e.1 e.2 m) kept
    (({ s with fields := fields }).onApron fun a => { a with powered := false, count := 0 }).onPower fun p => { p with phase := .off }
  else s)

/-- APRON_POWER_UP (R566, R569): the island starts on its internal oscillator, 4,096 s above CALFLOOR, or at 0 when
CALFLOOR is uncorrectable; whether it is is what the store shows, a free coin (log entry 80). The collector has no power then: that event is raised at the boot that follows (log entry 139). -/
def execApronPowerUp (s : State) : Res :=
  .next (if s.apron.powered then s
  else
    let (w, s) := s.draw
    let bad := w.toNat % 2 == 0
    let s := s.onApron fun a => { a with powered := true, calfloorBad := bad, count := if bad then 0 else (a.calfloor + 4096) * secondUnits }
    let s := (((s.fset APRON_STAT.CALVALID 0).fset APRON_STAT.INTOSC 1).fset APRON_STAT.SLOEOK 0).fcount LIFE_STOPS.BLACKOUT 1
    { s with faults := { s.faults with islandLost := true } })

/-- CALFLOOR_SAVE: every 4,096 s of count. -/
def execCalfloorSave (s : State) : Res :=
  .next (if s.apron.powered then
    s.apronLook.onApron fun a => { a with calfloor := a.count / secondUnits, calfloorBad := false }
  else s)

/-- TOD_SECOND_CAPTURE: a whole second of valid time-of-day (R567, R569). -/
def execTodSecondCapture (s : State) : Res :=
  .next (if s.up && s.apron.powered && s.fbit SEAM_TODSTAT.VALID then
    let s := s.wholeSecond
    (s.onApron fun a => { a with count := s.tod }).fset APRON_STAT.CALVALID 1
  else s)

/-- TRIM_WINDOW_END: the measured error in units of 0.01 ppm (R568, R583). -/
def execTrimWindowEnd (err : Int) (s : State) : Res :=
  .next (if s.up && s.cur == 0 && s.fbit APRON_TRIM.AUTO && s.fbit APRON_STAT.SLOEOK && !s.fbit APRON_STAT.INTOSC && s.pins.refclk then
    let s := (s.fset APRON_SLOEMEAS.ERROR (wrapTo 32 err)).fcount APRON_SLOEMEAS.WINDOWS 1
    if 10000 < err ∨ err < -10000 then (s.fset APRON_STAT.SLOEBAD 1).raiseC { loc := locCode 0x3 4 0xFF 0x1A }
    else s.fset APRON_TRIM.TRIM (wrapTo 16 (-err))
  else s)

/-- The alarm fires (R571): in Shutter, in Vault and during a Vault entry it is a wake event. -/
def State.alarm (s : State) : State :=
  let s := (s.fset APRON_STAT.ALARMHIT 1).fset APRON_ALARM.EN 0
  if s.power.phase = .vault then s.vaultExit 2
  else if s.up then s.wakeEvent 2 else s

/-- ALARM_FIRE: the calendar has reached the armed second. -/
def execAlarmFire (s : State) : Res :=
  .next (if s.apron.powered && s.fbit APRON_ALARM.EN then
    let s := s.apronLook
    (s.onApron fun a => { a with count := max a.count (s.fget APRON_ALARM.SECONDS * secondUnits) }).alarm
  else s)

/-- A write of APRON.ALARM: an alarm at or below the present calendar fires at once. -/
def State.alarmWrite (s : State) (w : Nat) : State :=
  let s := s.apronLook
  let s := (s.fset APRON_ALARM.EN (w / 2 ^ 63)).fset APRON_ALARM.SECONDS w
  if s.fbit APRON_ALARM.EN && decide (s.fget APRON_ALARM.SECONDS ≤ s.calendar) then s.alarm else s

/-- KEEP_WRITE of APRON.KEEPFW[k] (R573, R574). -/
def execKeepWrite (k : Nat) (v : Word) (s : State) : Res :=
  .next (if s.up && decide (k < 1024) then (s.keepWrite (APRON_KEEPFW.VALUE k) v.toNat).1 else s)

/-- The thermal band of a junction temperature in °C plus 64 (R579). -/
def thermBand (t : Nat) : Nat :=
  if t < 64 then 0 else if t ≤ 85 + 64 then 1 else if t ≤ 105 + 64 then 2 else if t ≤ 125 + 64 then 3
  else if t ≤ 140 + 64 then 4 else if t ≤ 150 + 64 then 5 else 6

/-- LIFE_SAMPLE: a minute has passed; `temps` is the hottest sensor of each thermal group (°C plus 64), `hour` says that
an hour of the counts of R578, R580 and R581 is complete. -/
def execLifeSample (temps : List Nat) (hour : Bool) (s : State) : Res :=
  .next (if s.hubOn then
    let s := (List.range 9).foldl (fun s g => s.fcount (LIFE_THERM.MINUTES g (thermBand (temps.getD g 0))) 1) s
    if hour then
      let s := s.fcount LIFE_POWERON.HOURS 1
      let s := (List.range 48).foldl (fun s k =>
        if s.chanUp (k / 2) && bitOf (s.fget (MC_STAT.SLOTS (k / 2))) (k % 2) then s.fcount (LIFE_DIMM1.HOURS k) 1 else s) s
      (List.range 512).foldl (fun s m => if s.laneUp m then s.fcount (LIFE_LANE0.HOURS m) 1 else s) s
    else s
  else if s.power.phase = .vault then
    let s := s.fcount (LIFE_VTHERM.MINUTES (thermBand (temps.getD 7 0))) 1
    if hour then s.fcount LIFE_VAULT.HOURS 1 else s
  else s)

def execLifeFlush (s : State) : Res := .next (if s.hubOn then s.lifeFlushAll else s)
def execLifectlFlush (s : State) : Res := .next (if s.up then s.lifeFlushAll else s)

/-- PAIR_RETURN: a lost blade pair is in range again; the cap of R43 is recomputed from the present pairs. -/
def execPairReturn (p a b : Nat) (s : State) : Res :=
  .next (if s.up && decide (32700 ≤ (if p = 0 then a else b)) then s.sense a b else s)

end Sys2Proof.Machine
end

