-- ==== Sys2Proof/Machine/Partition.lean ====
section
/-! DEFINITION. Partitions: their creation, destruction and reset, and the gating of a core pair
(07_pockets_and_contexts.md, R218, R226–R229; 08, R247; 13, R347, R373; 14, R401; 15, R433). -/

namespace Sys2Proof.Machine

/-- The contexts partition `n` owns. -/
def State.ctxsOf (s : State) (n : Nat) : List Nat := (List.range 768).filter fun c => s.partOf c == some n

/-- The ring pairs bound to partition `n`. -/
def State.ringsOf (s : State) (n : Nat) : List Nat :=
  (List.range 4096).filter fun r => s.rst r != 0 && s.rpart r == n

/-- A command of PART[n].CTL is refused. -/
def State.partRefuse (s : State) (n why : Nat) : State := s.fset (PART_STATE.REFUSE n) why

/-- CREATE (R227 steps 3 and 4). -/
def State.partCreate (s : State) (n : Nat) : State :=
  if s.fget (PART_STATE.STATE n) ≠ 0 then s.partRefuse n 1
  else if !s.fbit (PART_ROOT2.VALID n) then s.partRefuse n 3
  else if !(s.ctxsOf n).any fun c => s.fbit (POCKET_SAVE.VALID c) then s.partRefuse n 4
  else (s.fset (PART_STATE.STATE n) 1).updTeff
def execPartitionCreate (n : Nat) (s : State) : Res := .next (if s.up && decide (n < 256) then s.partCreate n else s)

/-- The Collar part of a Partition reset or DESTROY (R247): timers of `n`'s contexts disarm; PEND, SERV and LOST of its
sources are cleared. -/
def State.partCollar (s : State) (n : Nat) : State :=
  let cs := s.ctxsOf n
  let s := { s with collar := { s.collar with timers := AMap.keep (fun c => !cs.contains c) s.collar.timers } }
  let mine (x : Nat) : Bool := s.srcOwner x == some n
  let lost := (s.fields.filter fun e => decide (0x70000 * 64 ≤ e.1 ∧ e.1 < 0x78000 * 64)).map fun e =>
    (e.1 / 64 - 0x70000) + e.1 % 64 / 8
  let s := (s.collar.ages.filter mine).foldl (fun s x => s.setPend x false) s
  let s := (s.servList.filter mine).foldl (fun s x => (s.setServ x false).setHolder x 0) s
  ((lost.filter mine).foldl (fun s x => s.fset (lostField x) 0) s).updNotgt

/-- The cached stage 2 translations of `n` are dropped on every pair, as by TLB2I (R115). -/
def State.dropTlb2 (s : State) (n : Nat) : State :=
  { s with core := { s.core with tlb2 := s.core.tlb2.filter fun t => t.part != n } }

/-- PARTX stops of `n`'s contexts are withdrawn (R228). -/
def State.withdrawPartx (s : State) (n : Nat) : State :=
  (List.range 48).foldl (fun s k => s.setPartx k ((s.partxOf k).filter fun e => s.partOf e.ctx != some n)) s

/-- What the debug port holds of `n`'s contexts goes with them; a CTXCMD of `n` that waits is refused, for the partition is
not ACTIVE (R228 step 2), or, in a Partition reset, it goes with the zeroed registers. -/
def State.dropPending (s : State) (n : Nat) : State :=
  let cs := s.ctxsOf n
  let mine := s.core.ctxCmds.filter fun k => k.part == n
  let held := s.core.heldCmds.filterMap fun h => match h with
    | .fw _ _ => none
    | .part q => if q.part = n then some q else none
  let s := { s with core := { s.core with
    ctxCmds := s.core.ctxCmds.filter fun k => k.part != n
    heldCmds := s.core.heldCmds.filter fun h => match h with
      | .fw c _ => !cs.contains c
      | .part q => q.part != n } }
  let s := if s.fget (PART_STATE.STATE n) = 1 then s else (held ++ mine).foldl State.ctxCmd s
  { s with dbg := { s.dbg with
    halted := AMap.keep (fun c => !cs.contains c) s.dbg.halted
    stepping := AMap.keep (fun c => !cs.contains c) s.dbg.stepping
    passBp := AMap.keep (fun c => !cs.contains c) s.dbg.passBp
    pend := s.dbg.pend.filter fun e => !cs.contains e.1 } }

/-- A Pocket of a partition that is reset (R229): zeroed, its fields at their Partition entries, STOPPED. -/
def State.resetPocket (s : State) (c : Nat) : State :=
  let s := ((s.zeroPocket c).fset (POCKET_STAT.WLIVE c) 1).fset (POCKET_STAT.CMDRES c) 0
  s.setPk c pkStopped

/-- Every PART[n] field takes its Partition entry (R12, R229). -/
def State.partRegs (s : State) (n : Nat) : State :=
  (List.range 128).foldl (fun s i => (regFields (0x200000 + 1024 * n + 8 * i)).foldl (fun s f =>
    match f.rP with
    | .num v => s.fset f v
    | _ => s) s) s

/-- Is a slot that holds a context of `n` moving (R331)? -/
def State.partMoves (s : State) (n : Nat) : Bool := (s.ctxsOf n).any fun c => s.slotMoves (slotOf c)

/-- DESTROY (1) or Partition reset (2) of `n` waits for a move to end, or no longer does. -/
def State.setPartWait (s : State) (n v : Nat) : State :=
  { s with core := { s.core with partWaits := AMap.set 0 s.core.partWaits n v } }

/-- A Partition reset (R229): the ring pairs are bound again, their records keep their outcomes. It waits for the end of a move
that touches a slot of `n` (R331). -/
def State.partReset (s : State) (n : Nat) : State :=
  if s.fget (PART_STATE.STATE n) ≠ 1 then s.partRefuse n 1
  else if s.partMoves n then s.setPartWait n 2
  else
    let s := (s.dropPending n).withdrawPartx n
    let s := (s.ctxsOf n).foldl State.resetPocket (s.partCollar n)
    let s := ((s.engAbort .pleat n 0x0A).engAbort .cloak n 0x08).partRegs n
    let s := ((s.dropTlb2 n).returnPart n).endUnanswered fun b => b.owner == n
    ((s.ringsOf n).foldl State.rebind s).updTeff
def execPartitionReset (n : Nat) (s : State) : Res := .next (if s.up && decide (n < 256) then s.partReset n else s)

/-- A Pocket of a partition that is destroyed (R228 step 6): it and its save area are zeroed, and it is FREE. -/
def State.freePocket (s : State) (c : Nat) : State :=
  let s := if s.fbit (POCKET_SAVE.VALID c) then s.pairWrite (slotOf c) (s.saveAddr c) (List.replicate 1024 0) else s
  if s.pk c = pkFree then s else (s.setPk c pkStopped).ownerWrite c false 0

/-- Steps 3 to 7 of DESTROY (R228): step 3 waits for the end of a move that touches a slot of `n` (R331). -/
def State.destroyEnd (s : State) (n : Nat) : State :=
  if s.partMoves n then s.setPartWait n 1
  else
    let s := ((s.setPartWait n 0).dropPending n).withdrawPartx n
    let s := (s.ctxsOf n).foldl (fun s c => s.setPk c pkStopped) s
    let s := s.dropTlb2 n
    let s := (s.engDrop .pleat n).engDrop .cloak n
    let s := (s.ringsOf n).foldl (fun s r => (s.setRing r {}).fset (RING_STAT.STATE r) 0) s
    let s := (List.range 8).foldl (fun s k => s.fset (PART_HWINA.VALID n k) 0) s
    let s := (s.returnPart n).endUnanswered fun b => b.owner == n
    let s := (s.ctxsOf n).foldl State.freePocket s
    (s.fset (PART_STATE.STATE n) 0).updTeff

/-- DESTROY (R228): refused, or steps 2 to 7. -/
def State.partDestroy (s : State) (n : Nat) : State :=
  if s.fget (PART_STATE.STATE n) ≠ 1 then s.partRefuse n 1
  else if (s.ringsOf n).any fun r => s.fget (RING_STAT.OPEN r) != 0 then s.partRefuse n 2
  else ((((s.fset (PART_STATE.STATE n) 2).dropPending n).withdrawPartx n).partCollar n).destroyEnd n
def execPartitionDestroy (n : Nat) (s : State) : Res := .next (if s.up && decide (n < 256) then s.partDestroy n else s)

/-- What waited for a move goes on once it has ended (R331): the commands held for its slot, then DESTROY and Partition resets. -/
def State.movesEnded (s : State) : State :=
  let s := (List.range 48).foldl (fun s k => if s.slotMoves k then s else s.runHeld k) s
  s.core.partWaits.foldl (fun s e =>
    if s.partMoves e.1 then s
    else if e.2 = 1 then s.destroyEnd e.1
    else (s.setPartWait e.1 0).partReset e.1) s

def execSpareMove (e : SpareIn) (s : State) : Res := .next (if s.up then (s.spareMove e.p e.env).movesEnded else s)

/-- A write of PART[n].CTL.CMD. -/
def State.partCtl (s : State) (n cmd : Nat) : State :=
  if cmd = 1 then s.partCreate n else if cmd = 2 then s.partDestroy n else if cmd = 3 then s.partReset n else s

/-- The least tolerance of the partitions and the firmware that hold contexts on a slot (R60). -/
def State.slotTol (s : State) (k : Nat) : Option Nat :=
  let parts := ((upFrom (16 * k) 15).filterMap s.partOf).eraseDups
  (leastTol ((TolSrc.fw, s.fwTol) :: parts.map fun n => (TolSrc.part n, s.partTol n))).2

/-- PAIR_GATE of slot `k`: with no READY or RUNNING Pocket it power-gates where PAIRGATE and a tolerance of 15 µs allow,
else it clock-gates where 200 ns are allowed (R60, R218). -/
def execPairGate (k : Nat) (s : State) : Res :=
  .next (if s.coresUp && decide (k < 48) && (upFrom (16 * k) 16).all fun c => s.pk c != pkReady && s.pk c != pkRunning then
    let g := if s.fbit POWER_CTL.PAIRGATE && tolAtLeast (s.slotTol k) 15000 then 2
      else if tolAtLeast (s.slotTol k) 200 then 1 else AMap.get 0 s.core.gate k
    { s with core := { s.core with gate := AMap.set 0 s.core.gate k g } }
  else s)

end Sys2Proof.Machine
end

