-- ==== Sys2Proof/Machine/Tailor.lean ====
section
/-! DEFINITION. The Tailor's own commands: image checks, Tailor restarts, Unit resets, the boot flash, and Module resets that
firmware asks for (22_boot_reset_live_change.md, R586–R588, R599–R605). -/

namespace Sys2Proof.Machine

def State.onTailor (s : State) (f : TailorState → TailorState) : State := { s with tailor := f s.tailor }

/-- The Tailor as a Hub agent (R548). -/
def tailorHub : HubAgent := { part := none, tile := 0xFF, unit := 0x05 }

/-! ### Configuration records (R597) -/

/-- A configuration record: its offset, its step, and its value; `none` for a reserved field that is not 0. -/
structure CfgRec where
  w0 : Nat
  value : Nat
deriving DecidableEq, Repr

def CfgRec.off (r : CfgRec) : Nat := r.w0 / 8 % 2 ^ 20 * 8
def CfgRec.step (r : CfgRec) : Nat := bitsOf r.w0 27 24
def CfgRec.rsvOk (r : CfgRec) : Bool := r.w0 % 8 == 0 && bitsOf r.w0 23 23 == 0 && decide (r.w0 < 2 ^ 28)

/-- The records of a configuration section, in order. -/
def cfgRecs (b : List Nat) : List CfgRec :=
  ((piecesOf 16 (b.length / 16 + 1) b).filter fun p => p.length == 16).map fun p => { w0 := imgLe p 0 8, value := imgLe p 8 8 }

/-- The boot value of a writable field: that of the last record that names its register, or 0 (R597). -/
def State.cfgValue (s : State) (f : Field) : Nat :=
  match ((cfgRecs s.tailor.config).filter fun r => r.off == f.off).getLast? with
  | some r => bitsOf r.value f.hi f.lo
  | none => 0

/-- A Unit reset sets every field of `n` registers from `off` to its Module entry (R13). -/
def State.unitRegs (s : State) (off n : Nat) : State :=
  (List.range n).foldl (fun s i => (regFields (off + 8 * i)).foldl (fun s f =>
    match f.rM with
    | .num v => s.fset f v
    | .boot => s.fset f (s.cfgValue f)
    | _ => s) s) s

/-! ### Unit resets (R587) -/

/-- Of a lane: its registers take their Module entries, its counters and the EPOCH stay (R451, R585); it trains again. -/
def State.laneReset (s : State) (m : Nat) : State :=
  if 512 ≤ m then s.fset TAILOR_UNITRST.RESULT 3
  else
    let tx := s.fget (LANE_FSN.TXNEXT m)
    let rx := s.fget (LANE_FSN.RXNEXT m)
    let st := s.lst m
    let s := (s.unitRegs (0x140000 + 512 * m) 10).fset (LANE_STAT.STATE m) st
    let s := (s.fset (LANE_FSN.TXNEXT m) tx).fset (LANE_FSN.RXNEXT m) rx
    let s := s.onLane m LaneState.unlocked
    (s.laneTo m (if s.fbit (LANE_CTL.EN m) then lsDETECT else lsOFF)).fset TAILOR_UNITRST.RESULT 1
def execUnitrstLane (m : Nat) (s : State) : Res := .next (if s.up then s.laneReset m else s)
def execUnitrstPair (p : Nat) (s : State) : Res := .next (if s.up then s.pairReset p else s)

/-- TAILOR.UNITRST. -/
def State.unitrst (s : State) (kind num : Nat) : State :=
  if kind = 1 then s.pairReset num else if kind = 2 then s.laneReset num else s.fset TAILOR_UNITRST.RESULT 4

/-- UNIT_RESET of a unit: `kind` 1 core pair, 2 lane, 3 Pleat engine, 4 Cloak lane; `pass` is an engine's self-test. -/
def execUnitReset (kind num : Nat) (pass : Bool) (s : State) : Res :=
  .next (if !s.up then s
  else if kind = 3 then (if num < 32 then s.unitReset .pleat num pass else s)
  else if kind = 4 then (if num < 64 then s.unitReset .cloak num pass else s)
  else s.unitrst kind num)

/-- TAILOR.RESETCTL: OP 1 with CONFIRM 0xA5 starts a Module reset of CAUSE 4. -/
def State.resetctl (s : State) (w : Nat) : State :=
  if w % 4 = 1 ∧ bitsOf w 15 8 = 0xA5 then s.moduleReset 4 else s
def execResetctl (w : Word) (s : State) : Res := .next (if s.up then s.resetctl w.toNat else s)

/-! ### Image checks (R599) -/

/-- TAILOR.IMGCHK: the boot ROM applies R596 to the image at `a`. -/
def State.imgchk (s : State) (a type : Nat) : State :=
  match s.imgRead tailorHub a 50331648 with
  | (s, none) => s.fset TAILOR_IMGRES.RESULT 2
  | (s, some b) =>
    let r := s.imgCheck b 50331648 type
    let s := (s.fset TAILOR_IMGRES.RESULT r).fset TAILOR_IMGRES.VERSION (imgVersion b)
    let s := s.fset TAILOR_IMGRES.STATEFMT (match (if r = 1 ∨ 5 ≤ r then imgTriad b else none) with
      | some v => v.2
      | none => 0)
    if r = 1 then s.onTailor fun t => { t with imgOk := AMap.set 0 t.imgOk type (a + 1) } else s
def execImgchk (a type : Nat) (s : State) : Res :=
  .next (if s.up then s.imgchk (a % 2 ^ 52 / 64 * 64) (type % 8) else s)

/-! ### Tailor restarts (R549, R601) -/

/-- The execution area as it is loaded from an image: its sections of kinds 1 and 5. -/
def execArea (b : List Nat) : List Nat :=
  (((imgSections b).filter fun x => x.kind == 1 || x.kind == 5).map fun x => (b.drop x.off).take x.len).flatten

/-- The Tailor runs again: a roll-call pass that the restart ended starts as a full pass, and the moves and the rejoin that waited
go on (R426, R473, R601). -/
def State.tailorRuns (s : State) : State :=
  let s := if s.fbit TAILOR_ROLLSTAT.BUSY then s.fset TAILOR_ROLLSTAT.AGAIN 0 else s
  s.movesHeld.movesEnded.rejoinHeld

/-- The Tailor is lacking (R560). -/
def State.tailorLost (s : State) : State :=
  let s := s.raise { loc := locCode 0xB 4 0xFF 0x05 }
  s.setMinset (setBitNat (s.fget FAULT_MINSET.MINSET) 2 true)

/-- A restart from CUR; a failure within 1 s of another leaves the module without a Tailor (R549). -/
def State.tailorFromCur (s : State) (pass : Bool) : State :=
  if pass then (s.onTailor fun t => { t with exec := execArea t.cur }).tailorRuns
  else
    let s := s.look
    let last := s.tailor.lastFail
    let s := s.onTailor fun t => { t with lastFail := s.tod + 1 }
    if last ≠ 0 ∧ s.tod < last - 1 + secondUnits then s.tailorLost else s

/-- A restart that the watchdog or a fault starts. -/
def State.tailorRestart (s : State) (pass : Bool) : State :=
  (s.raise { loc := locCode 0x6 4 0xFF 0x05 }).tailorFromCur pass

/-- TFWCTL.OP = RESTART (R601 step 1). A pair that waits after step 1 of its move does not refuse it. -/
def State.tfwRestart (s : State) (a : Nat) : State :=
  let s := s.fset TAILOR_TFWCTL.ADDR (a / 64)
  if s.fbit TAILOR_TFWSTAT.BUSY then s.fset TAILOR_TFWSTAT.RESULT 5
  else if AMap.get 0 s.tailor.imgOk 5 ≠ a + 1 then s.fset TAILOR_TFWSTAT.RESULT 2
  else if (List.range 48).any fun p => s.ph p == phMovingIn then s.fset TAILOR_TFWSTAT.RESULT 3
  else (s.fset TAILOR_TFWSTAT.BUSY 1).onTailor fun t => { t with restartAt := a }
def execTfwRestart (a : Nat) (s : State) : Res := .next (if s.up then s.tfwRestart (a % 2 ^ 52 / 64 * 64) else s)

/-- Steps 3 to 5 of R601. `fails` is 0 where the self-test and the start pass, 1 where they fail and the restart from
CUR passes, 2 where that fails too. -/
def State.tfwGo (s : State) (fails : Nat) : State :=
  if !s.fbit TAILOR_TFWSTAT.BUSY then s
  else
    let (s, im) := s.imgRead tailorHub s.tailor.restartAt (2 ^ 23)
    let good := match im with
      | some b => imgHeaderOk b (2 ^ 23) && imgTableOk b && imgCrcOk b
      | none => false
    let s := s.fset TAILOR_TFWSTAT.BUSY 0
    match im with
    | some b =>
      if fails = 0 && good then
        ((s.onTailor fun t => { t with exec := execArea b, alt := t.cur, cur := b }).fset TAILOR_TFWSTAT.RESULT 1).tailorRuns
      else
        let s := s.fset TAILOR_TFWSTAT.RESULT 4
        if fails = 2 then s.tailorLost else s.tailorFromCur true
    | none =>
      let s := s.fset TAILOR_TFWSTAT.RESULT 4
      if fails = 2 then s.tailorLost else s.tailorFromCur true
def execTfwReady (fails : Nat) (s : State) : Res := .next (if s.up then s.tfwGo fails else s)
def execQuiesceTimeout (fails : Nat) (s : State) : Res := .next (if s.up then s.tfwGo fails else s)

/-! ### Boot flash (R593, R600) -/

def State.flashByte (s : State) (a : Nat) : Nat := (AMap.get 0xFF s.tailor.flash a).toNat
def State.setFlash (s : State) (a v : Nat) : State :=
  s.onTailor fun t => { t with flash := AMap.set 0xFF t.flash a (BitVec.ofNat 8 v) }

/-- TAILOR.FLASHCMD: OP 1 erases the 64 KiB sector at `a`, 2 programs the 256-byte page, 3 reads 256 bytes. -/
def State.flashCmd (s : State) (op a : Nat) : State :=
  if op = 0 then s
  else if s.fbit TAILOR_FLASHCMD.BUSY then s.fset TAILOR_FLASHCMD.RESULT 2
  else (s.fset TAILOR_FLASHCMD.BUSY 1).onTailor fun t =>
    { t with flashOp := some (op, a / 256 * 256, s.fget TAILOR_FLASHSRC.ADDR * 256) }
def execFlashErase (a : Nat) (s : State) : Res := .next (if s.up then s.flashCmd 1 (a % 2 ^ 32) else s)
def execFlashProgram (a : Nat) (s : State) : Res := .next (if s.up then s.flashCmd 2 (a % 2 ^ 32) else s)
def execFlashRead (a : Nat) (s : State) : Res := .next (if s.up then s.flashCmd 3 (a % 2 ^ 32) else s)

/-- FLASH_DONE: the flash reports the end of the command, or an error, which leaves what it was to change free. A
programmed bit only falls from 1 to 0 (PRESUMED, log entry 25). -/
def execFlashDone (err : Bool) (s : State) : Res :=
  .next (match s.tailor.flashOp with
    | none => s
    | some (op, a, src) =>
      if !s.up then s
      else
        let n := s.fresh
        let s := if err then { s with fresh := n + 1 } else s
        let junk := Config.freeBytes n
        let j (i : Nat) : Nat := (junk.getD i 0).toNat
        let s :=
          if op = 1 then
            (List.range 65536).foldl (fun s i => s.setFlash (a / 65536 * 65536 + i) (if err then j i else 0xFF)) s
          else if op = 2 then
            let (s, d, _) := s.hubRead tailorHub src 256
            (List.range 256).foldl (fun s i =>
              s.setFlash (a + i) (if err then j i else s.flashByte (a + i) &&& (d.getD i 0).toNat)) s
          else
            (s.opWrite tailorHub src ((List.range 256).map fun i => BitVec.ofNat 8 (if err then j i else s.flashByte (a + i)))).1
        let s := s.onTailor fun t => { t with flashOp := none }
        (s.fset TAILOR_FLASHCMD.BUSY 0).fset TAILOR_FLASHCMD.RESULT (if err then 3 else 1))

end Sys2Proof.Machine
end

