-- ==== Sys2Proof/Machine/Faults.lean ====
section
/-! DEFINITION. The fault collector (20_fault_handling.md, R546–R565): fault events and the actions of R549 and R550, the
log, the fault state, replay, the restart after a checkstop, and the timeouts of R271–R274. -/

namespace Sys2Proof.Machine

def State.onFaults (s : State) (f : FaultState → FaultState) : State := { s with faults := f s.faults }

/-! ### The log (R552–R556) -/

/-- The first 56 bytes of a record (R552). -/
def FaultRec.body (r : FaultRec) : List Byte :=
  let w := r.ctx.getD 0 % 2 ^ 10 + bnat r.ctx.isSome * 2 ^ 15 + r.part.getD 0 % 256 * 2 ^ 16 + bnat r.part.isSome * 2 ^ 24
    + bnat r.replay * 2 ^ 25 + bnat r.todu * 2 ^ 26 + bnat r.lostBefore * 2 ^ 27 + 2 ^ 48
  [r.loc, r.seq, r.tod, w, r.d0, r.d1, r.d2].flatMap (leBytes 8)

/-- A record as its 64 bytes. -/
def FaultRec.bytes (r : FaultRec) : List Byte := r.body ++ leBytes 8 (crc32c r.body)

/-- The record in 64 bytes of the log, if its FORMAT and CRC hold. -/
def recOfBytes (bs : List Byte) : Option FaultRec :=
  let w (k : Nat) : Nat := leNat ((bs.drop (8 * k)).take 8)
  let x := w 3
  if bitsOf x 63 48 = 1 ∧ w 7 = crc32c (bs.take 56) then
    some { loc := w 0, seq := w 1, tod := w 2
           ctx := if bitOf x 15 then some (x % 2 ^ 10) else none
           part := if bitOf x 24 then some (bitsOf x 23 16) else none
           replay := bitOf x 25, todu := bitOf x 26, lostBefore := bitOf x 27
           d0 := w 4, d1 := w 5, d2 := w 6 }
  else none

/-- Is the log in use: VALID with two granules in the windows (R553, R564)? -/
def State.logOn (s : State) : Bool := s.fbit FAULT_LOGBASE.VALID && decide (s.fget FAULT_LOGBASE.GRAN ≤ 766)

/-- The module-physical address of log slot `k`. -/
def State.logAddr (s : State) (k : Nat) : Nat := windowBase + s.fget FAULT_LOGBASE.GRAN * 2 ^ 21 + 64 * k

/-- The slots of the log that hold window bytes. -/
def State.logSlots (s : State) : List Nat :=
  let base := s.fget FAULT_LOGBASE.GRAN * 2 ^ 21
  let h := if s.fbit HEM_STAT.H0OK then s.mem.h0 else s.mem.h1
  ((h.filter fun e => decide (base ≤ e.1 ∧ e.1 < base + 2 ^ 22)).map fun e => (e.1 - base) / 64).eraseDups

/-- LOGHEAD and UNREADS follow the log and LOGACK (R554, R555). -/
def State.updLog (s : State) : State :=
  let ack := s.fget FAULT_LOGACK.LOGACK
  let unread := s.faults.log.filterMap fun e => match e.2 with
    | some r => if ack < r.seq then some (e.1, r) else none
    | none => none
  let head := firstThat (fun e => unread.all fun f => e.2.seq ≤ f.2.seq) unread
  let s := s.fset FAULT_LOGSTAT.UNREADS (unread.filter fun e => !e.2.corrected).length
  match head with
  | some e => (s.fset FAULT_LOGHEAD.EMPTY 0).fset FAULT_LOGHEAD.SLOT e.1
  | none => (s.fset FAULT_LOGHEAD.EMPTY 1).fset FAULT_LOGHEAD.SLOT 0

/-- The collector reads its log: at boot and when LOGBASE changes. The next SEQ lies above every valid one (R553). -/
def State.readLog (s : State) : State :=
  let recs := if s.logOn then s.logSlots.filterMap fun k =>
      (recOfBytes ((upFrom (s.logAddr k) 64).map s.winByte)).map fun r => (k, r)
    else []
  let top := (recs.map fun e => e.2.seq).foldl max 0
  let s := s.onFaults fun f => { f with
    log := recs.foldl (fun m e => AMap.set none m e.1 (some e.2)) []
    seqNext := max f.seqNext (top + 1) }
  (s.fsetB FAULT_STAT.LOGVALID s.logOn).updLog

/-- The lowest number that is no key of a rising map. -/
def firstGap {α : Type} : Nat → AMap α → Nat
  | n, [] => n
  | n, (j, _) :: m => if j = n then firstGap (n + 1) m else n

/-- The slot a new record goes to (R554): an empty one, else that of the oldest record that is corrected or read. -/
def State.logSlot (s : State) : Option Nat :=
  let g := firstGap 0 s.faults.log
  if g < 65536 then some g
  else
    let ack := s.fget FAULT_LOGACK.LOGACK
    let free := s.faults.log.filterMap fun e => match e.2 with
      | some r => if r.corrected || decide (r.seq ≤ ack) then some (e.1, r.seq) else none
      | none => none
    (firstThat (fun e => free.all fun f => e.2 ≤ f.2) free).map (·.1)

/-- The collector as a Hub agent (R548). -/
def collectorHub : HubAgent := { part := none, tile := 0xFF, unit := 0x07 }

/-- The head of the queue leaves it. -/
def State.unqueueRec (s : State) : State :=
  let q := s.faults.queue.drop 1
  (s.onFaults fun f => { f with queue := q, mirrorQueued := !q.isEmpty }).fset FAULT_STAT.QUEUED q.length

/-- Collar sources for a record that is in the log (R556); `was` is UNREADS before it. -/
def State.logSources (s : State) (r : FaultRec) (was : Nat) : State :=
  let s := if r.corrected then (if s.fbit FAULT_CTL.CSIG then s.collarEvent 0x2000 else s)
    else s.collarEvent (if r.fatal then 0x2002 else 0x2001)
  let near := s.fget FAULT_CTL.NEARFULL * 256
  let s := if was < near ∧ s.fget FAULT_LOGSTAT.UNREADS = near then s.collarEvent 0x2003 else s
  if r.replay then s.collarEvent 0x2008 else s

/-- LOG_WRITE: the oldest queued record goes to the log on channel W. -/
def State.logWrite (s : State) : State :=
  if !s.hubOn || !s.logOn || !(s.fbit HEM_STAT.H0OK || s.fbit HEM_STAT.H1OK) then s
  else match s.faults.queue with
    | [] => s
    | r :: _ =>
      match s.logSlot with
      | none => if r.corrected then s.unqueueRec.countLost true else s
      | some k =>
        let r := { r with lostBefore := s.faults.lost }
        let was := s.fget FAULT_LOGSTAT.UNREADS
        let s := (s.hubWrite collectorHub (s.logAddr k) r.bytes).hubDurable
        let s := s.unqueueRec.onFaults fun f => { f with log := AMap.set none f.log k (some r), lost := false }
        s.updLog.logSources r was
def execLogWrite (s : State) : Res := .next s.logWrite

/-- A write of FAULT.LOGACK (R555): below the current value or above the newest SEQ it is ignored. -/
def State.logack (s : State) (v : Nat) : State :=
  if v < s.fget FAULT_LOGACK.LOGACK ∨ s.faults.seqNext ≤ v then s
  else (s.fset FAULT_LOGACK.LOGACK v).updLog
def execLogack (v : Word) (s : State) : Res := .next (if s.up then s.logack v.toNat else s)

/-! ### Actions of units (R549, R550) -/

/-- Every sector a lost pair holds dirty is poisoned at its home, a window sector keeps what was written back; its other
copies are dropped, with its stores that are not performed (DEDUCED from R273 to R275, log entry 85). -/
def State.agentLost (s : State) (p : Nat) : State :=
  let s := (s.setSbuf p []).setEvict p []
  let held := (s.mem.dir.filter fun e => e.2.owner == some p || e.2.sharers.contains p).map (·.1)
  held.foldl (fun t x =>
    let dirty := t.cst p x == .m || t.cst p x == .o
    let t := t.forget p x
    if dirty && spaceOf (x * 64) != .window then t.setHomePois x true else t) s

/-- A pair that is FAILED with the state of its contexts lost (R550): one record for each owning partition. -/
def State.pairLost (s : State) (p : Nat) : State :=
  let s := (s.keepWrite (TAILOR_PHYS.FAILREC p) 1).1
  let s := (s.agentLost p).l2Off p
  let s := match s.slotServed p with
    | none => s
    | some k =>
      let cs := (upFrom (k * 16) 15).filter fun c => (s.partOf c).isSome
      let s := cs.foldl (fun (t : State) c => ((t.zeroPocket c).setPk c pkStopped).fset (POCKET_STAT.FWHOLD c) 1) s
      let s := s.setPartx k []
      let parts := (cs.filterMap s.partOf).eraseDups
      let mask (s : State) (n : Nat) : Nat := (cs.map fun c => if s.partOf c == some n then 2 ^ (c % 16) else 0).sum
      let s := parts.foldl (fun (t : State) n => t.raise { loc := pairLoc 0x5 p 0x03, part := some n, d1 := k, d2 := mask t n }) s
      s.fset (TAILOR_SLOT.SERVING k) 0
  (s.setPh p phFailed).updMinset

/-- A Weft die is out of service (R305, R623): its pairs are lost, its memory answers with poison. -/
def State.weftLost (s : State) (d : Nat) : State :=
  let s := (s.onMem fun m => { m with weftOut := AMap.set false m.weftOut d true }).fset (DIR_PLACE.UP 13) 0
  ((upFrom (12 * d) 12).foldl State.pairLost s).updMinset

/-- A Port die is out of service (R623): its lanes are DOWN. -/
def State.portLost (s : State) (d : Nat) : State :=
  let s := (s.onMem fun m => { m with portOut := AMap.set false m.portOut d true }).fset (DIR_PLACE.UP 7) 0
  ((upFrom (256 * d) 256).foldl (fun s m => s.laneDown m 1) s).updMinset

/-- Both Hem dies are treated as failed (R395, R550). -/
def State.hemLost (s : State) : State := (s.dieFail 0).dieFail 1

/-- An uncorrectable word of a context's Pocket or wide bank (R320): the context is stopped with MCHK via PARTX; a
firmware Pocket is stopped. -/
def State.pocketLost (s : State) (c : Nat) : State :=
  if isFw c then s.stopPocket c true
  else if s.pk c = pkFree ∨ s.pk c = pkStopped then s
  else s.partxStop c { code := Xc.mchk } 0 (s.ctx c).pc

/-- An error in a clean L2 sector (R270): record and action do not tell a corrected bit from an uncorrectable sector, which
becomes I and is fetched again, so which it was is free (log entry 1). -/
def State.cleanHit (s : State) (p sec : Nat) : State :=
  let (w, s) := s.draw
  if w.getLsbD 0 then s.leave p sec else s

/-- An uncorrectable tag or directory entry of a privileged sector (R270, R273): the sector is poisoned at its home, and the
entry names no holder any more. -/
def State.entryLost (s : State) (sec : Nat) : State :=
  let e := s.dirOf sec
  (((e.owner.toList ++ e.sharers).foldl (fun (t : State) q => t.forget q sec) s).setHomePois sec true)

/-- What the unit named by a location code does on its fault (R320, R549), beyond the record. `sec` is the address
concerned ÷ 64. Sources that have a command of their own act there. -/
def State.unitAction (s : State) (f : FaultIn) : State :=
  let act := bitsOf f.loc 63 60
  let die := bitsOf f.loc 59 56
  let tile := bitsOf f.loc 55 48
  let unit := bitsOf f.loc 47 40
  let pair := die * 12 + tile
  let sec := f.d0 / 64
  if act = 0xA then s.moduleReset 5
  else if act = 8 then s.stopCompute
  else if die < 4 ∧ tile < 12 then
    (if unit = 5 ∧ (act = 4 ∨ act = 9) then s.pocketLost (f.ctx.getD 0)
    else if unit = 6 ∧ act = 7 then (if s.served f.d0 then s.setHomePois sec true else s).spareOut pair false
    else if (unit = 1 ∨ unit = 2) ∧ act = 1 then s.l1Parity pair
    else if unit = 4 ∧ act = 7 ∧ (s.cst pair sec == .m || s.cst pair sec == .o) then s.setCopyPois pair sec true
    else if unit = 4 ∧ act = 0 ∧ (s.cst pair sec == .e || s.cst pair sec == .s) then s.cleanHit pair sec
    else s)
  else if die < 4 ∧ 16 ≤ tile ∧ tile < 32 then
    (if act ≠ 7 then s
    else if unit = 0x10 then s.setHomePois sec true
    else if unit = 0x11 ∨ unit = 0x12 then s.entryLost sec
    else s)
  else if die < 4 ∧ tile = 0xFF ∧ unit = 0x30 then s.weftLost die
  else if (die = 5 ∨ die = 6) ∧ tile = 0xFF ∧ unit = 0x30 then s.portLost (die - 5)
  else if die = 4 ∧ tile = 0xFF then
    (if unit = 5 ∧ act = 6 then s.tailorFromCur f.pass
    else if unit = 5 ∧ act = 0xB then s.setMinset (setBitNat (s.fget FAULT_MINSET.MINSET) 2 true)
    else if unit = 8 ∧ act = 0xB then s.hemLost
    else if unit = 0x1A ∧ act = 9 then s.setKeepMeta f.d2 { s.keepMeta f.d2 with uncorr := true }
    else s)
  else s

/-- FAULT_EVENT: a unit raises a fault event with the location code of R547; codes 0xC to 0xF are reserved. The collector
records it, and the unit takes its own action whether or not the record is logged (R546). -/
def execFaultEvent (f : FaultIn) (s : State) : Res :=
  .next (if s.hubOn && decide (bitsOf f.loc 63 60 < 0xC) then
    (s.raise { loc := f.loc % 2 ^ 64, ctx := f.ctx, part := f.part, d0 := f.d0 % 2 ^ 64, d1 := f.d1 % 2 ^ 64,
               d2 := f.d2 % 2 ^ 64, bare := true }).unitAction f
  else s)

/-! ### Timeouts (R271–R274) -/

/-- Is a sector privileged (R272)? The home die's table decides for DRAM. -/
def State.privileged (s : State) (sec : Nat) : Bool :=
  let a := sec * 64
  match spaceOf a with
  | .window => true
  | .doorbell => true
  | .dram => (match s.place a with
    | some p => (List.range 64).any fun k => s.fbit (WEFT_PRIVBASE.VALID p.die k)
        && decide (s.fget (WEFT_PRIVBASE.BASE p.die k) ≤ a / 4096) && decide (a / 4096 ≤ s.fget (WEFT_PRIVLIM.LIMIT p.die k))
    | none => false)
  | _ => false

/-- The action against a silent agent (R550): `readable` says whether the Tailor can still read a pair's Pocket array,
`pass` the outcome of a Tailor restart. -/
def State.silentAgent (s : State) (agent : Nat) (readable pass : Bool) : State :=
  if agent = 48 then s.tailorRestart pass
  else if 48 < agent then s
  else if !readable then s.pairLost agent
  else match s.slotServed agent with
    | some k => (s.keepWrite (TAILOR_PHYS.FAILREC agent) 1).1.loseSlot agent k
    | none => s.pairLost agent

/-- The location of the home of a sector (R27, R548): the home logic of its slice, or the Hem home on the Hub. -/
def State.homeLoc (s : State) (action sec : Nat) : Nat :=
  let (d, tile) := s.homeOf sec
  locCode action d tile (if d = 4 then 0x08 else 0x14)

/-- The context of requester `r` that waits for a sector takes MCHK, a contained-class fault against it (R257, R273): the one
that its pair runs. -/
def State.waiterMchk (s : State) (r sec : Nat) : State :=
  match (s.slotServed r).bind s.runningOf with
  | none => s
  | some c =>
    let (w, s) := s.draw
    let pc := (s.ctx c).pc
    (s.ctxFault c (sec * 64)).takeExc c { code := Xc.mchk } w.toNat pc pc

/-- HOME_TIMEOUT of sector `sec`: agent `agent` has not answered its home within TO µs (R271, R273, R274, R550). -/
def execHomeTimeout (sec agent : Nat) (readable pass : Bool) (s : State) : Res :=
  .next (match s.txnOf sec with
    | none => s
    | some t =>
      if !s.up || !(t.fwd == some agent || t.inv.contains agent) then s
      else if s.privileged sec then
        let s := (s.forget agent sec).setHomePois sec true
        let s := s.onMem fun m => { m with txns := AMap.set none m.txns sec (some { t with
          fwd := if t.fwd = some agent then none else t.fwd, inv := t.inv.filter (· ≠ agent), po := true }) }
        let s := s.raise { loc := s.homeLoc 0x7 sec, d0 := sec * 64, d2 := agent }
        (s.waiterMchk t.requester sec).silentAgent agent readable pass
      else s.checkstop sec agent)

/-- Does requester `r` have a request at the home of a sector that is not answered? A device access to a doorbell page shows
itself nowhere else. -/
def State.outstanding (s : State) (r sec : Nat) : Bool :=
  spaceOf (sec * 64) == .doorbell || s.mem.nacked.any (fun q => q.requester == r && q.sector == sec)
    || (s.txnOf sec).any fun t => t.requester == r

/-- REQUESTER_TIMEOUT of agent `r` for `sec` (R271, R273, R274): a privileged request installs nothing and completes as
poisoned, MCHK for the context that waits; a window's silent home is the Hem home, both of whose dies are then treated as
failed (R550, DEDUCED). The silent agent is the home that the location names (log entry 130). -/
def execRequesterTimeout (r sec : Nat) (s : State) : Res :=
  .next (if !s.up || !s.outstanding r sec then s
  else if s.privileged sec then
    let mine (q : NackedReq) : Bool := q.requester == r && q.sector == sec
    let s := s.onMem fun m => { m with
      nacked := m.nacked.filter fun q => !mine q
      txns := m.txns.filter fun e => !(e.1 == sec && e.2.any fun t => t.requester == r) }
    let s := (s.raise { loc := s.homeLoc 0x7 sec, d0 := sec * 64, d2 := s.homeKey sec }).waiterMchk r sec
    if spaceOf (sec * 64) = .window then s.hemLost else s
  else s.checkstop sec (s.homeKey sec))

/-! ### Restart after a checkstop (R551) -/

/-- FAULT.CMD.OP = RESUME, carried out to its end: every serving pair is Unit-reset, partition Pockets are STOPPED with
FWHOLD, firmware Pockets take MCHK with DETAIL 0x01. -/
def State.faultResume (s : State) : State :=
  if !s.fbit FAULT_STAT.CHECKSTOP then s.fset FAULT_CMD.RESULT 2
  else
    let s := s.onMem fun m => { m with checkstop := false }
    let s := (List.range 48).foldl (fun s k =>
      if !s.fbit (TAILOR_SLOT.SERVING k) then s
      else
        let s := s.pairRetry (s.physOf k)
        let s := (upFrom (16 * k) 15).foldl (fun s c =>
          if s.pk c = pkFree then s else (s.setPk c pkStopped).fset (POCKET_STAT.FWHOLD c) 1) s
        let c := fwOf k
        let pc := (s.ctx c).pc
        let s := s.takeExc c { code := Xc.mchk, detail := 0x01 } 0 pc pc
        if s.pk c = pkBlocked then s.makeReady c else s) s
    let s := (s.fset FAULT_STAT.CHECKSTOP 0).collarEvent 0x2006
    (s.fset FAULT_CMD.RESULT 1).faultEnd
def execFaultResume (s : State) : Res := .next (if s.up then s.faultResume else s)

/-! ### Replay (R562) -/

/-- FAULT.REPLAY with GO = 1 for the record at `a`. -/
def State.replay (s : State) (a : Nat) : State :=
  let res (s : State) (r : Nat) : State := s.fset FAULT_REPLAY.RESULT r
  if !s.fbit FAULT_CTL.REPLAYEN then res s 2
  else
    let (s, bs, po) := s.hubRead collectorHub a 64
    let w (k : Nat) : Nat := leNat ((bs.drop (8 * k)).take 8)
    if po ∨ 0xC ≤ bitsOf (w 0) 63 60 then res s 3
    else if 256 ≤ s.faults.queue.length then res s 4
    else
      let x := w 3
      res (s.raise { loc := w 0, replay := true, bare := true, d0 := w 4, d1 := w 5, d2 := w 6
                     ctx := if bitOf x 15 then some (x % 2 ^ 10) else none
                     part := if bitOf x 24 then some (bitsOf x 23 16) else none }) 1
def execReplay (a : Nat) (s : State) : Res := .next (if s.up then s.replay (a % 2 ^ 52 / 64 * 64) else s)

/-! ### The fault state, the watchdog, the self-check (R558, R564) -/

/-- QUIET_EXPIRY: QUIET ms have passed since the last contained or fatal event. A state that something else of R558 holds ends when
that does. -/
def execQuietExpiry (s : State) : Res :=
  .next (if s.up && s.fbit FAULT_STAT.FSTATE then
    ((s.fset FAULT_STAT.QUIETLEFT 0).onFaults fun f => { f with quietOver := true }).faultEnd
  else s)

/-- WATCHDOG_EXPIRY: no write of FAULT.PET within WDOG ms; `pass` is the outcome of the Tailor restart. -/
def execWatchdogExpiry (pass : Bool) (s : State) : Res :=
  .next (if s.up && s.fget FAULT_CTL.WDOG != 0 then s.tailorRestart pass else s)

/-- PET: a write of FAULT.PET restarts the watchdog, whose count is time and no state of the model. -/
def execPet (s : State) : Res := .next s

/-- COLLECTOR_SELFCHECK_FAIL: the fatal event of R549, and a Module reset. -/
def execCollectorSelfcheckFail (s : State) : Res :=
  .next (if s.hubOn then (s.raise { loc := locCode 0xA 4 0xFF 0x07, bare := true }).moduleReset 5 else s)

/-! ### Signals of partitions (R565) -/

/-- FAULTSIG_WRITE by context `c` to PART[n]: EN = 1 must name a software source of `n`'s own groups. -/
def State.faultsigWrite (s : State) (c n w : Nat) : State :=
  let src := w % 2 ^ 16
  if bitOf w 16 && !(isSw src && s.srcOwner src == some n) then s.ctxFault c (controlBase + 0x200090 + 1024 * n)
  else (s.fset (PART_FAULTSIG.EN n) (w / 2 ^ 16)).fset (PART_FAULTSIG.SOURCE n) src
def execFaultsigWrite (c n : Nat) (w : Word) (s : State) : Res :=
  .next (if !s.up then s
  else if s.partReach c n then s.faultsigWrite c n w.toNat
  else s.ctxFault c (controlBase + 0x200090 + 1024 * n))

end Sys2Proof.Machine
end

