-- ==== Sys2Proof/Machine/RegAccess.lean ====
section
/-! DEFINITION. Accesses to the control window and the doorbell pages: who reaches what (R18, R230, R619, R622, R623), what a
read returns and does, what a write does (R14–R18, R621), and the accesses of R349 to a doorbell page
(24_control_window_map.md). -/

namespace Sys2Proof.Machine

/-! ### Who reaches what -/

/-- The offsets that no block holds (R618). -/
def reservedOff (o : Nat) : Bool :=
  decide (0x1C0000 ≤ o ∧ o < 0x200000) || decide (0x240000 ≤ o ∧ o < 0x300000) || decide (0x420000 ≤ o ∧ o < 0x7FF000)

/-- The offsets of PART[n] that partition `n` may write (R628). -/
def partMayWrite (o : Nat) : Bool :=
  [0x20, 0x28, 0x30, 0x40, 0x50, 0x58, 0x60, 0x68, 0x78, 0x90].contains (o % 1024)

/-- Is the die of the block at an offset out of service (R622, R623)? SCHED and POCKET are forwarded. -/
def State.offOut (s : State) (o : Nat) : Bool :=
  if 0x300000 ≤ o ∧ o < 0x400000 then
    let i := o % 262144
    !(decide (0x8000 ≤ i ∧ i ≤ 0x8058) || decide (0x10000 ≤ i ∧ i ≤ 0x117F8))
      && AMap.get false s.mem.weftOut ((o - 0x300000) / 262144)
  else if 0x140000 ≤ o ∧ o < 0x180000 then AMap.get false s.mem.portOut ((o - 0x140000) / 0x20000)
  else false

/-- What becomes of an access: it is performed, it reads 0 and is ignored, or that with a contained fault. -/
inductive Reach where
  | perform | silent | fault
deriving DecidableEq, Repr

/-- An access of `n` bytes at offset `o`, by the firmware context or (`part`) with the rights of a partition. -/
def State.winReach (s : State) (part : Option (Option Nat)) (o n : Nat) (write : Bool) : Reach :=
  if n ≠ 8 ∨ o % 8 ≠ 0 ∨ reservedOff o then .fault
  else match part with
    | none => if s.offOut o then .silent else .perform
    | some p =>
      if !(decide (0x200000 ≤ o ∧ o < 0x240000) && p == some ((o - 0x200000) / 1024)) then .fault
      else if (regFields o).isEmpty then .silent
      else if write && !partMayWrite o then .fault
      else .perform

/-- The rights of a context: the firmware's, or its partition's. -/
def State.rights (s : State) (c : Nat) : Option (Option Nat) := if isFw c then none else some (s.partOf c)

/-! ### Reads -/

/-- The MAP registers are one set, reached through any WEFT block (R303). -/
def mapOff (o : Nat) : Nat :=
  if 0x300000 ≤ o ∧ o < 0x400000 ∧ 0x20000 ≤ o % 262144 ∧ o % 262144 < 0x20100 then 0x300000 + o % 262144 else o

/-- The value a field reads (R14). -/
def State.fieldReads (s : State) (f : Field) : Nat := match f.acc with
  | .wo => 0
  | .rk | .rwk => s.kget f
  | _ => s.fget f

/-- The value of a register: its fields in their places, reserved bits 0 (R17). -/
def State.regWord (s : State) (o : Nat) : Nat :=
  ((regFields o).map fun f => s.fieldReads f * 2 ^ f.lo).foldl (· + ·) 0

/-- APRON.KEEPCNT of the entry that KEEPSEL names (R576, R584). -/
def State.keepCnt (s : State) : Nat :=
  let e := s.fget APRON_KEEPSEL.ENTRY
  let m := s.keepMeta e
  bnat (m.uncorr || decide (keepRating ≤ m.count)) * 2 ^ 63 + bnat m.near * 2 ^ 62 + bnat m.uncorr * 2 ^ 61 + m.count % 2 ^ 40

/-- A Collar source register with its fixed fields: the target of a timer, the owner of a fault source (R248). -/
def State.srcWord (s : State) (x : Nat) : Nat :=
  let put (w : Nat) (f : Field) (v : Nat) : Nat := w - s.fieldReads f * 2 ^ f.lo + v * 2 ^ f.lo
  let w := s.regWord (0x50000 + 8 * x)
  if isTimer x then
    let w := put w (COLLAR_SRC.FWOWN x) (bnat (isFw (x - 0x3000)))
    let w := put w (COLLAR_SRC.OWNER x) ((s.srcOwner x).getD 0)
    put (put w (COLLAR_SRC.PAIR x) (s.srcPair x)) (COLLAR_SRC.MASK x) (s.srcMask x)
  else if 0x2000 ≤ x ∧ x ≤ 0x20FF then put w (COLLAR_SRC.FWOWN x) 1
  else w

/-- The context of a POCKET register's offset. -/
def pocketOf (o : Nat) : Nat := (o - 0x300000) / 262144 * 192 + (o % 262144 - 0x10000) / 32

/-- RINGSTAT.WAITLEFT of a WAITING channel counts down (R368, R377): how long has passed is free (log entry 11). REATTACH = 0xFFFF
never expires. -/
def State.waitLook (s : State) (n : Nat) : State :=
  if s.fget (CHAN_RINGSTAT.ATTACH n) ≠ 1 ∨ s.fget (CHAN_RINGCTL.REATTACH n) = 0xFFFF then s
  else
    ({ s with fresh := s.fresh + 1 }).fset (CHAN_RINGSTAT.WAITLEFT n)
      (s.fget (CHAN_RINGSTAT.WAITLEFT n) - Config.freeElapsed s.fresh)

/-- DISSENTS of member `m` counts the ejections of the last hour of TOD (R417). -/
def State.dissentLook (s : State) (m : Nat) : State :=
  let s := s.look
  let l := (AMap.get [] s.triad.ejections m).filter fun t => s.tod < t + 3600 * 1000000 * 4096
  (s.onTriad fun t => { t with ejections := AMap.set [] t.ejections m l }).fset (TRIAD_MEMBER.DISSENTS m) (min 255 l.length)

/-- QUIETLEFT falls with the time (R564): what is left of it is free, and 1 at least until QUIET_EXPIRY (log entry 11). -/
def State.quietLook (s : State) : State :=
  let left := s.fget FAULT_STAT.QUIETLEFT
  if left ≤ 1 then s
  else ({ s with fresh := s.fresh + 1 }).fset FAULT_STAT.QUIETLEFT (max 1 (left - Config.freeElapsed s.fresh))

/-- What the time has changed in a status register since the last look: QUIETLEFT, the walkers of the caches (R277), WAITLEFT, and the
dissents of a triad member. -/
def State.regLook (s : State) (o : Nat) : State :=
  let d := (o - 0x300000) / 262144
  let k := o % 262144
  if o = 0x20000 then s.quietLook
  else if 0x80018 ≤ o ∧ o < 0x80030 then s.dissentLook ((o - 0x80018) / 8)
  else if 0x100000 ≤ o ∧ o < 0x140000 then (if o % 1024 = 8 then s.waitLook ((o - 0x100000) / 1024) else s)
  else if 0x300000 ≤ o ∧ o < 0x400000 then
    (if k = 0x108 then s.l3Walk d else if 0x300 ≤ k ∧ k < 0x360 then s.l2Walk (12 * d + (k - 0x300) / 8) else s)
  else s

/-- A read of the register at `o` by context `c`: its value, and what the read does. RS fields are cleared after it
(R14, R16); a read of CLAIM claims (R241). -/
def State.regRead (s : State) (c o : Nat) : State × Nat :=
  let o := mapOff o
  let inPart := decide (0x200000 ≤ o ∧ o < 0x240000)
  if o = 0x40018 ∨ (inPart ∧ o % 1024 = 0x48) then s.claim c
  else if o = 0x40028 ∨ (inPart ∧ o % 1024 = 0x60) then (s, AMap.get 0 s.collar.timers c)
  else if o = 0x18 then (s.apronLook, s.apronLook.calendar)
  else if o = 0x48 then (s, s.keepCnt)
  else if 0x50000 ≤ o ∧ o < 0x69800 then (s, s.srcWord ((o - 0x50000) / 8))
  else if 0x300000 ≤ o ∧ o < 0x400000 ∧ 0x10000 ≤ o % 262144 ∧ o % 262144 < 0x11800 ∧ o % 32 = 0 ∧ isFw (pocketOf o) then
    (s, s.regWord o - s.fget (POCKET_CTL.PRI (pocketOf o)) * 2 ^ 32 - s.fget (POCKET_CTL.FW (pocketOf o)) * 2 ^ (POCKET_CTL.FW (pocketOf o)).lo
      + 8 * 2 ^ 32 + 2 ^ (POCKET_CTL.FW (pocketOf o)).lo)
  else
    let s := s.regLook o
    let v := s.regWord o
    let s := (regFields o).foldl (fun (s : State) f => if f.acc = .rs then s.fset f 0 else s) s
    (if o = 0x20030 then s.onFaults fun x => { x with lostNoted := false } else s, v)

/-! ### Writes -/

/-- A write of a field (R14). -/
def State.putField (s : State) (w : Nat) (f : Field) : State :=
  let v := bitsOf w f.hi f.lo
  match f.acc with
  | .rw => s.fset f v
  | .w1c => if v = 0 then s else s.fset f 0
  | .w1s => if v = 0 then s else s.fset f v
  | .rwk => (s.keepWrite f v).1
  | _ => s

/-- A write that only sets fields: those of the register, or of a list. -/
def State.putFields (s : State) (w : Nat) (l : List Field) : State := l.foldl (fun t f => t.putField w f) s
def State.plain (s : State) (o w : Nat) : State := s.putFields w (regFields o)

/-- A free outcome for a command whose outcome the write does not carry (log entry 1). -/
def State.coin (s : State) (k : Nat) (f : State → Nat → State) : State :=
  let (v, s) := s.draw
  f s (v.toNat % k)

def State.apronWrite (s : State) (o w : Nat) : State :=
  if o = 0x20 then s.alarmWrite w
  else if o = 0x50 then (if bitOf w 0 then s.lifeFlushAll else s)
  else s.plain o w

def State.tailorWrite (s : State) (o w : Nat) : State :=
  if o = 0x11000 then
    let s := s.plain o w
    let p := bitsOf w 13 8
    if bitsOf w 3 2 = 1 then (s.spareMove p).movesEnded
    else if bitsOf w 3 2 = 2 then s.coin 2 fun s v => s.reinstate p (v == 0)
    else s
  else if o = 0x12000 then (let s := s.plain o w; if bitOf w 1 then s.rollGo else s)
  else if o = 0x13000 then s.resetctl w
  else if o = 0x13018 then (if bitOf w 0 then s.imgchk (bitsOf w 51 6 * 64) (bitsOf w 5 3) else s)
  else if o = 0x13028 then
    let s := s.plain o w
    let s := if w % 4 = 1 then s.tfwRestart (bitsOf w 51 6 * 64) else s
    if bitOf w 2 then s.coin 3 fun s v => s.tfwGo v else s
  else if o = 0x13038 then s.unitrst (bitsOf w 12 10) (w % 1024)
  else if o = 0x13040 then s.flashCmd (bitsOf w 33 32) (bitsOf w 31 8 * 256)
  else s.plain o w

def State.faultWrite (s : State) (o w : Nat) : State :=
  if o = 0x20008 then (s.plain o w).updFail
  else if o = 0x20010 then (if w % 4 = 1 then s.faultResume else s)
  else if o = 0x20018 then
    -- GRAN 767 to 1,023 leave VALID ignored (R564)
    (if 767 ≤ bitsOf w 10 1 then s.putFields w [FAULT_LOGBASE.GRAN] else s.plain o w).readLog
  else if o = 0x20028 then s.logack w
  else if o = 0x20050 then (if bitOf w 0 then s.replay (bitsOf w 51 6 * 64) else s)
  else s.plain o w

def State.powerWrite (s : State) (o w : Nat) : State :=
  if o = 0x30008 then
    -- R67: WAKE ignores the others; VAULT and SHUTTER together request Vault
    let s := s.plain o w
    if bitOf w 2 then s.wakeWrite else if bitOf w 1 then s.vaultReq else if bitOf w 0 then s.shutterReq else s
  else if o = 0x30010 then s.ltrWrite true 0 w
  else s.plain o w

/-- After a write of a source's or a group's target fields: a PENDING source reaches targets it did not have
(DEDUCED from R236, log entry 26). -/
def State.retarget (s : State) (old : List (Nat × List Nat)) : State :=
  (old.foldl (fun (s : State) e =>
    if s.srcPend e.1 && (s.targetsOf e.1).any fun c => !e.2.contains c then s.deliver e.1 else s) s).updNotgt

def State.collarWrite (s : State) (c o w : Nat) : State :=
  if o = 0x40000 then s.gdisWrite (bitOf w 0)
  else if o = 0x40010 then s.fwSend c (w % 2 ^ 16)
  else if o = 0x40020 then s.eos c (w % 2 ^ 16)
  else if o = 0x40028 then s.armTimer c w
  else if 0x50000 ≤ o ∧ o < 0x69800 then
    let x := (o - 0x50000) / 8
    if !sourceKnown x then s
    else
      let old := [(x, s.targetsOf x)]
      let s := s.putFields w (
        if isTimer x then [COLLAR_SRC.EN x, COLLAR_SRC.PRI x]
        else if 0x2000 ≤ x ∧ x ≤ 0x20FF then
          [COLLAR_SRC.EN x, COLLAR_SRC.PRI x, COLLAR_SRC.OWNER x, COLLAR_SRC.PAIR x, COLLAR_SRC.MASK x]
        else regFields o)
      let s := (s.enOff x).retarget old
      if bitOf w 63 then s.endService x else s
  else if 0x41000 ≤ o ∧ o < 0x41800 then
    let g := (o - 0x41000) / 8
    let old := (s.collar.ages.filter fun x => isSw x && swGroup x == g).map fun x => (x, s.targetsOf x)
    let s := ((s.plain o w).enOff (0x4000 + 64 * g)).retarget old
    if bitOf w 63 then s.endService (0x4000 + 64 * g + bitsOf w 27 22) else s
  else s.plain o w

def State.triadWrite (s : State) (o w : Nat) : State :=
  if o = 0x80010 then
    let m := bitsOf w 5 4
    if w % 4 = 1 then s.coin 2 fun s v => s.triadRejoin m (v == 0) {}
    else if w % 4 = 2 then s.triadEject m
    else s
  else if o = 0x80040 then
    let s := s.plain o w
    if w % 4 = 1 then s.triadLoad (bitsOf w 51 12 * 4096)
    else if w % 4 = 2 then s.triadSwitch
    else if w % 4 = 3 then s.triadDiscard
    else s
  else if 0xA0000 ≤ o ∧ o < 0xC0000 then
    (if o / 8 % 4 < 3 then s.poolWrite ((o - 0xA0000) / 32) (o / 8 % 4) w else s)
  else if 0xC0000 ≤ o then
    let r := (o - 0xC0000) / 64
    let k := o % 64
    if k = 0x38 then
      (if w % 4 = 1 then s.bind r else if w % 4 = 2 then s.unbind r else if w % 4 = 3 then s.resumeRing r else s)
    else if (k = 0x00 ∨ k = 0x08 ∨ k = 0x10) ∧ s.rst r ≠ 0 then s
    else s.plain o w
  else s.plain o w

def State.chanWrite (s : State) (o w : Nat) : State :=
  let n := (o - 0x100000) / 1024
  if o % 1024 = 0x28 then
    (if w % 4 = 1 then s.chanMode n 1 else if w % 4 = 2 then s.chanMode n 2
     else if w % 4 = 3 then s.takeover n false else s)
  else s.plain o w

def State.laneWrite (s : State) (o w : Nat) : State :=
  let m := (o - 0x140000) / 512
  if o % 512 = 0x00 then
    let was := s.fbit (LANE_CTL.EN m)
    let s := s.plain o w
    if s.fbit (LANE_CTL.EN m) == was then s else s.laneEn m
  else if o % 512 = 0x10 then
    match w % 8 with
    | 1 => s.laneRetrain m
    | 2 => s.laneRecalCmd m
    | 3 => s.laneDownCmd m
    | 4 => s.snap m
    | _ => s
  else s.plain o w

def State.hemRegWrite (s : State) (o w : Nat) : State :=
  if o = 0x180008 then
    let i := bnat (bitOf w 4)
    if w % 4 = 1 then s.hemRetire i
    else if w % 4 = 2 then s.coin 2 fun s v => s.hemRejoin i (v == 0)
    else s
  else if 0x180100 ≤ o ∧ o < 0x180700 then s.gownWrite ((o - 0x180100) / 8) w
  else (s.plain o w)

/-- OP of an engine or lane register: 1 a Unit reset, 2 takes it out of service. -/
def State.unitOp (s : State) (k : EngKind) (u w : Nat) : State :=
  if bitsOf w 9 8 = 1 then s.coin 2 fun s v => s.unitReset k u (v == 0)
  else if bitsOf w 9 8 = 2 then s.unitTakeOut k u
  else s

def State.pleatWrite (s : State) (o w : Nat) : State :=
  if o = 0x190010 then s.engSubmit .pleat none (bitsOf w 51 6 * 64)
  else if 0x190100 ≤ o ∧ o < 0x190200 then s.unitOp .pleat ((o - 0x190100) / 8) w
  else s.plain o w

def State.cloakWrite (s : State) (o w : Nat) : State :=
  if o = 0x1A0018 then s.engSubmit .cloak none (bitsOf w 51 6 * 64)
  else if 0x1A0100 ≤ o ∧ o < 0x1A0300 then s.unitOp .cloak ((o - 0x1A0100) / 8) w
  else if o = 0x1A0040 then
    (match w % 4 with
     | 1 => s.rootAdd
     | 2 => s.coin 2 fun s v => s.rootLock (bitsOf w 31 8) (v == 0)
     | 3 => s.rootCmd fun s => s.rootClear.fset CLOAK_ROOTSTAT.RESULT 1
     | _ => s)
  else if 0x1A0050 ≤ o ∧ o < 0x1A0070 then
    (if s.serviceBoot then s.fset (CLOAK_ROOTSHARE.SHARE ((o - 0x1A0050) / 8)) w else s)
  else if o = 0x1A0070 then (if bitsOf w 17 16 = 1 then s.slotLoad (w % 4096) false else s)
  else s.plain o w

def State.seamWrite (s : State) (o w : Nat) : State :=
  if o = 0x1B0000 then
    let was := s.fbit SEAM_CTL.EN
    let s := s.plain o w
    let s := if was && !s.fbit SEAM_CTL.EN then (List.range 4).foldl (fun (t : State) p => t.portEn p false) s
      else if !was && s.fbit SEAM_CTL.EN then
        (List.range 4).foldl (fun (t : State) p => if t.fbit (SEAM_PORT_CTL.EN p) then t.portEn p true else t) s
      else s
    s.updReach
  else if o = 0x1B0038 then
    let was := s.mirOn
    let s := (s.plain o w).updMir
    if s.mirOn && !was then s.mirResend else s
  else if o = 0x1B0048 then s.txmsg (bitsOf w 51 6 * 64)
  else if o = 0x1B0020 then s.todset w
  else if 0x1B0100 ≤ o ∧ o < 0x1B0180 ∧ o % 32 = 0 then
    let p := (o - 0x1B0100) / 32
    let was := s.fbit (SEAM_PORT_CTL.EN p)
    let s := s.plain o w
    if s.fbit (SEAM_PORT_CTL.EN p) == was then s else s.portEn p (!was)
  else if 0x1B1000 ≤ o ∧ o < 0x1B1800 then
    let n := (o - 0x1B1000) / 8
    let was := s.chRole n
    let s := s.plain o w
    let now := s.chRole n
    if was ≠ 2 ∧ now = 2 then s.waitChan n
    else if was = 2 ∧ now ≠ 2 ∧ (s.laneUp n || s.laneUp (n + 256)) then s.upChan n
    else s
  else s.plain o w

/-- A write to PART[n] by context `c`, which may write there. -/
def State.partWrite (s : State) (c o w : Nat) : State :=
  let n := (o - 0x200000) / 1024
  let k := o % 1024
  if k = 0x08 then s.partCtl n (w % 4)
  else if k = 0x10 then (if s.fget (PART_STATE.STATE n) = 0 then s.plain o w else s)
  else if k = 0x30 then
    s.ctxcmdWrite n (bitsOf w 25 16) (w % 8)
  else if k = 0x40 then s.ltrWrite false n w
  else if k = 0x50 then s.eos c (w % 2 ^ 16)
  else if k = 0x58 then s.partSend c n (w % 2 ^ 16)
  else if k = 0x60 then s.armTimer c w
  else if k = 0x68 then s.engSubmit .pleat (some n) (bitsOf w 45 6 * 64)
  else if k = 0x78 then s.engSubmit .cloak (some n) (bitsOf w 45 6 * 64)
  else if k = 0x90 then s.faultsigWrite c n w
  else if 0x180 ≤ k ∧ k < 0x200 then
    (if k % 16 = 0 then s.hwinaWrite n ((k - 0x180) / 16) w else s.hwinbWrite n ((k - 0x180) / 16) w)
  else s.plain o w

/-- POCKET[c].CTL (R231): the owner, whose change zeroes the Pocket first, then SLICE, then PRI unless it is above the
owner's PRIMAX; a firmware Pocket's PRI is fixed. -/
def State.pocketCtlWrite (s : State) (c w : Nat) : State :=
  let s := (s.ownerWrite c (bitOf w 16) (w % 256)).putFields w [POCKET_CTL.SLICE c]
  let top := match s.partOf c with
    | some n => s.fget (PART_PRIMAX.PRIMAX n)
    | none => 7
  if isFw c ∨ top < bitsOf w 35 32 then s else s.putFields w [POCKET_CTL.PRI c]

def State.weftWrite (s : State) (o w : Nat) : State :=
  let d := (o - 0x300000) / 262144
  let i := o % 262144
  if 0x200 ≤ i ∧ i < 0x260 then
    let p := 12 * d + (i - 0x200) / 8
    let was := s.fbit (WEFT_L2CTL.EN p)
    let s := s.putFields w [WEFT_L2CTL.DONESRC p, WEFT_L2CTL.DONEEN p, WEFT_L2CTL.DLIM p]
    if bitOf w 0 == was then s else s.l2EnWrite p (bitOf w 0)
  else if i = 0x100 then
    let s := s.putFields w [WEFT_L3CTL.DONESRC d, WEFT_L3CTL.DONEEN d]
    if w % 16 = s.fget (WEFT_L3CTL.WGEN d) then s else s.wgenWrite d (w % 16)
  else if 0x10000 ≤ i ∧ i < 0x11800 then
    let c := pocketOf o
    if i % 32 = 0 then s.pocketCtlWrite c w
    else if i % 32 = 0x10 then s.pocketOp c (w % 8)
    else s.plain o w
  else if 0x20000 ≤ i ∧ i < 0x20100 then s.mapWrite ((i - 0x20000) / 16) (i % 16 == 8) w
  else if 0x21000 ≤ i ∧ i < 0x24000 ∧ i % 4096 % 256 = 0x10 ∧ 0x100 ≤ i % 4096 ∧ i % 4096 < 0x300 then
    let ch := 6 * d + 2 * ((i - 0x21000) / 4096) + (i % 4096 - 0x100) / 256
    if w % 4 = 1 then s.chRemove ch (bnat (bitOf w 8))
    else if w % 4 = 2 then
      (let (s, l) := s.freeDimms ch; s.chInsert ch l)
    else s.fset (MC_STAT.RESULT ch) 2
  else s.plain o w

/-- A write to CSTORE. UNSEAL comes before SEAL where one write has both (DESIGN CHOICE, log entry 134). -/
def State.cstoreWrite (s : State) (o w : Nat) : State :=
  if o = 0x400000 then
    let s := s.plain o w
    let s := if bitOf w 2 then s.stageUnseal else s
    if bitOf w 1 then s.stageSeal (bitsOf w 63 32) (bitsOf w 31 16) else s
  else if o = 0x400008 then
    (if bitOf w 8 then s.coin 5 fun s v => s.patchApply (bitsOf w 5 0) v else s)
  else if 0x410000 ≤ o then (if s.fbit CSTORE_STAGECTL.SEALED then s else s.plain o w)
  else s.plain o w

/-- A write of `w` to the register at `o` by context `c` (R14, R621). -/
def State.regWrite (s : State) (c o w : Nat) : State :=
  if (regFields o).isEmpty then s
  else if o < 0x10000 then s.apronWrite o w
  else if o < 0x20000 then s.tailorWrite o w
  else if o < 0x30000 then s.faultWrite o w
  else if o < 0x40000 then s.powerWrite o w
  else if o < 0x80000 then s.collarWrite c o w
  else if o < 0x100000 then s.triadWrite o w
  else if o < 0x140000 then s.chanWrite o w
  else if o < 0x180000 then s.laneWrite o w
  else if o < 0x190000 then s.hemRegWrite o w
  else if o < 0x1A0000 then s.pleatWrite o w
  else if o < 0x1B0000 then s.cloakWrite o w
  else if o < 0x200000 then s.seamWrite o w
  else if o < 0x300000 then s.partWrite c o w
  else if o < 0x400000 then s.weftWrite o w
  else if o < 0x7FF000 then s.cstoreWrite o w
  else s

/-! ### Accesses as a context makes them -/

/-- A read of `n` bytes at window offset `o` with the given rights; a fault names context `c`. -/
def State.winRead (s : State) (part : Option (Option Nat)) (c o n : Nat) : State × Word :=
  match s.winReach part o n false with
  | .perform => (let r := s.regRead c o; (r.1, BitVec.ofNat 64 r.2))
  | .silent => (s, 0)
  | .fault =>
    -- a firmware-only offset of another party reads 0 with the fault; so does a misformed access (R18, R619)
    (s.ctxFault c (controlBase + o), 0)

/-- A write of `n` bytes at window offset `o`. -/
def State.winWrite (s : State) (part : Option (Option Nat)) (c o n : Nat) (w : Word) : State :=
  match s.winReach part o n true with
  | .perform => s.regWrite c o w.toNat
  | .silent => s
  | .fault => s.ctxFault c (controlBase + o)

/-- A read of `n` bytes at offset `o` of the doorbell pages by context `c` (R349). -/
def State.bellRead (s : State) (c o n : Nat) : State × Word :=
  let r := o / 4096
  let k := o % 4096
  if n = 8 ∧ (k = 0x50 ∨ k = 0x58 ∨ k = 0x60) then
    (s, BitVec.ofNat 64 (s.regWord (0xC0000 + 64 * r + if k = 0x50 then 0x20 else if k = 0x58 then 0x28 else 0x30)))
  else (s.ctxFault c (doorbellBase + o), 0)

/-- A write of the bytes `bs` at offset `o` of the doorbell pages by context `c`; `st64`: it is one ST64 (R349, R350). -/
def State.bellWrite (s : State) (c o : Nat) (bs : List Byte) (st64 : Bool) : State :=
  let r := o / 4096
  let k := o % 4096
  if k < 0x40 then
    (if k = 0 ∧ st64 then
      s.doorbell { ring := r, ctx := some c, words := (chunksOf 8 8 bs).map leWord }
    else s.doorbell { ring := r, ctx := some c, bad := true, words := List.replicate 8 0 })
  else if bs.length = 8 ∧ (k = 0x40 ∨ k = 0x48) then s.ack c r (k == 0x48) (leNat bs)
  else s.ctxFault c (doorbellBase + o)

/-! ### Posted device stores (R283–R286, R622) -/

/-- The first offsets of the destination blocks of the control window (R622), and of the reserved ranges between them. -/
def blockStarts : List Nat :=
  [0x0, 0x10000, 0x20000, 0x30000, 0x40000, 0x80000, 0x100000, 0x140000, 0x160000, 0x180000, 0x190000, 0x1A0000, 0x1B0000,
   0x1C0000, 0x200000, 0x240000, 0x300000, 0x340000, 0x380000, 0x3C0000, 0x400000, 0x420000, 0x7FF000]

/-- The destination block of a device address: by its first offset, or `0x800000` for the doorbell pages together. -/
def devBlock (mp : Nat) : Nat :=
  if mp < controlBase then 0x800000 else (blockStarts.filter (· ≤ mp - controlBase)).getLastD 0

/-- WEFT[d] as a destination block. -/
def weftBlock (d : Nat) : Nat := 0x300000 + d * 0x40000

/-- The stream and destination of a posted store: Stitch keeps the issue order of those that agree in both (R285). -/
def DevStore.way (d : DevStore) : Nat × Nat := ((Issuer.context d.ctx).streamId, devBlock d.mp)

/-- The destination acts on a posted store: it is performed. -/
def State.performDev (s : State) (d : DevStore) : State :=
  if spaceOf d.mp = .control then
    s.winWrite (s.rights d.ctx) d.ctx (d.mp - controlBase) d.bytes.length (leWord (d.bytes.take 8))
  else s.bellWrite d.ctx (d.mp - doorbellBase) d.bytes d.st64

def State.setDevq (s : State) (l : List DevStore) : State := { s with core := { s.core with devq := l } }

/-- A device store enters the device queue, where it has committed. -/
def State.devPut (s : State) (d : DevStore) : State := s.setDevq (s.core.devq ++ [d])

/-- The oldest of the posted stores that `p` picks is performed. -/
def State.devFirst (s : State) (p : DevStore → Bool) : State :=
  match firstThat p s.core.devq with
  | none => s
  | some d => (s.setDevq (s.core.devq.erase d)).performDev d

/-- The posted stores that `p` picks are performed, oldest first, at most `n` of them. -/
def State.devRun (s : State) (p : DevStore → Bool) : Nat → State
  | 0 => s
  | n + 1 => (s.devFirst p).devRun p n

/-- Every posted store of context `c` to the blocks that `p` picks is performed. -/
def State.devOwn (s : State) (c : Nat) (p : Nat → Bool) : State :=
  s.devRun (fun d => d.ctx == c && p (devBlock d.mp)) s.core.devq.length

/-- Every posted store is performed. -/
def State.devFlush (s : State) : State := s.devRun (fun _ => true) s.core.devq.length

/-- A free one of the ways with posted stores goes on by its oldest, `n` times: ways to other destinations overtake
(R285, log entry 31). -/
def State.devTurns (s : State) : Nat → State
  | 0 => s
  | n + 1 =>
    let (w, s) := s.draw
    let ways := (s.core.devq.map DevStore.way).eraseDups
    let k := ways.getD (w.toNat % ways.length) (0, 0)
    (s.devFirst fun d => d.way == k).devTurns n

/-- Posted stores arrive as time passes: a free number of them (log entry 31). -/
def State.devProgress (s : State) : State :=
  if s.core.devq.isEmpty then s
  else
    let (w, s) := s.draw
    s.devTurns (w.toNat % (s.core.devq.length + 1))

/-- Time passes between two commands (log entry 31): committed stores are performed and posted ones arrive. -/
def State.idle (s : State) : State := s.sbProgress.devProgress

/-- Do the blocks of the window answer: in every power state that keeps the Hub up? -/
def State.regsUp (s : State) : Bool := s.up || s.power.phase == .service

/-- REGISTER_WRITE: the block acts on a write of `w` by context `c` to the register at window offset `o`, after the posted
stores of `c` to that block (R286). -/
def execRegisterWrite (c o : Nat) (w : Word) (s : State) : Res :=
  .next (if s.regsUp && decide (o < 2 ^ 23 ∧ c < 768) then
    let s := s.devOwn c (· == devBlock (controlBase + o))
    s.winWrite (s.rights c) c o 8 w else s)

/-- RS_READ: context `c` reads the register at window offset `o` (R14), after its posted stores to that block (R286). -/
def execRsRead (c o : Nat) (s : State) : Res :=
  .next (if s.regsUp && decide (o < 2 ^ 23 ∧ c < 768) then
    let s := s.devOwn c (· == devBlock (controlBase + o))
    (s.winRead (s.rights c) c o 8).1 else s)

end Sys2Proof.Machine
end

