-- ==== Sys2Proof/Machine/Boot.lean ====
section
/-! DEFINITION. The boot (22_boot_reset_live_change.md, R589–R598): steps 1 to 11 after a Cold or Module reset, as one step of
the model. What the outside world and the self-tests bring is the command's operand (log entry 6). -/

namespace Sys2Proof.Machine

/-- A boot under way: the state, and whether the next step is run. -/
abbrev Boot := State × Bool

/-- The next step of a boot that has not ended; it is recorded in BOOTSTAT. -/
def Boot.step (b : Boot) (k : Nat) (f : State → Boot) : Boot :=
  if b.2 then f (b.1.fset TAILOR_BOOTSTAT.STEP k) else b

/-- An exit that gives no service (R590): the record, the minimum-set bit it lacks if any, FAIL_N low. -/
def State.bootEnds (s : State) (r : FaultRec) (bit : Option Nat) : Boot :=
  let s := s.raise r
  let s := match bit with
    | some k => s.setMinset (setBitNat (s.fget FAULT_MINSET.MINSET) k true)
    | none => s
  let s := s.onFaults fun f => { f with bootFail := true }
  (s.updFail.onPower fun p => { p with phase := .bootFailed }, false)

/-- Before step 1: the reset ends, the lands are driven again, the time and what the collector's mirror says. -/
def State.bootBegin (s : State) : State :=
  let s := { s with pins := { s.pins with hiZ := false } }.onPower fun p => { p with phase := .run }
  let s := (s.fsetB TAILOR_RESETSTAT.KIND s.power.module).fset TAILOR_RESETSTAT.CAUSE s.power.cause
  let s := (s.apronLook).sense s.power.vinA s.power.vinB
  -- R570
  let s := { s with tod := s.apron.count }
  let floorBad := s.faults.islandLost && s.apron.calfloorBad
  let s := s.onFaults fun f => { f with lost := f.mirrorQueued || f.islandLost, mirrorQueued := false, islandLost := false }
  let s := if floorBad then s.raiseC { loc := locCode 0x3 4 0xFF 0x1A } else s
  s.updFail

/-- The straps are sampled at the end of a Cold reset (R79). -/
def State.sampleStraps (s : State) (e : BootEnv) : State :=
  let s := { s with pins := { s.pins with bootSel := e.bootSel % 4, vaultAllow := e.vaultAllow, ftmN := e.ftmN } }
  (s.fset SEAM_STAT.SELF e.seamId).fsetB TAILOR_DBGCTL.SERVICE (e.bootSel % 4 == 3)

/-- Step 1: the straps at a Cold reset (R79), FTM_N (R80), the collector's self-check. -/
def State.boot1 (s : State) (e : BootEnv) (cold : Bool) : Boot :=
  let s := if cold then s.sampleStraps e else s
  if !s.pins.ftmN then s.bootEnds { loc := locCode 0xB 0xF 0xFF 0x02 } none
  else if !e.collector then s.bootEnds { loc := locCode 0xB 4 0xFF 0x07 } none
  else (s, true)

/-- Step 2: without REFCLK the boot waits and tries again each second (R81). -/
def State.boot2 (s : State) (e : BootEnv) : Boot :=
  let s := { s with pins := { s.pins with refclk := e.refclk } }
  if e.refclk then (s, true)
  else
    let s := (s.bootEnds { loc := locCode 0xB 0xF 0xFF 0x01 } none).1
    (s.onPower fun p => { p with phase := .lockWait }, false)

def State.boot3 (s : State) (e : BootEnv) : Boot :=
  if e.tailor then (s, true) else s.bootEnds { loc := locCode 0xB 4 0xFF 0x05 } (some 2)

/-! ### Steps 4 and 5: the boot image -/

/-- The bytes of the boot image at a flash offset, as far as its header says; only the header where that is bad. -/
def State.flashImage (s : State) (base lim : Nat) : List Nat :=
  let bytes (n : Nat) : List Nat := (List.range n).map fun i => s.flashByte (base + i)
  let hd := bytes 128
  if imgHeaderOk hd lim then bytes (imgLen hd) else hd

/-- The limit of a boot image (R593): half of the flash, and 48 MiB. -/
def State.bootLimit (s : State) : Nat := min (s.tailor.flashSize / 2) 50331648

/-- The image of half `i` of the flash and the result code of its checks (R596). -/
def State.bootImage (s : State) (e : BootEnv) (i : Nat) : List Nat × Nat :=
  let b := s.flashImage (i * (s.tailor.flashSize / 2)) s.bootLimit
  if (if i = 0 then e.flashA else e.flashB) then (b, s.imgCheck b s.bootLimit 1) else (b, 2)

/-- The halves in the order BOOT_SEL tries them (R79). -/
def bootOrder (sel : Nat) : List Nat := if sel = 1 then [1, 0] else if sel = 2 then [0] else [0, 1]

/-- The bytes of the first section of a kind. -/
def sectionOf (b : List Nat) (kind : Nat) : List Nat :=
  match ofKind (imgSections b) kind with
  | [] => []
  | x :: _ => (b.drop x.off).take x.len

/-- The SRAM regions of R588 as they are loaded from a boot image. -/
def State.loadBoot (s : State) (b : List Nat) : State :=
  let s := s.onTailor fun t => { t with
    exec := execArea b, cur := b, alt := [], triadBank := sectionOf b 2, config := sectionOf b 4, patch := sectionOf b 3 }
  let v := (imgTriad b).getD (0, 0)
  s.onTriad fun t => { t with active := { version := v.1, format := v.2 } }

/-- Steps 4 and 5 (R590, R592): the images are checked in their order until one passes, in a service boot both. -/
def State.boot4 (s : State) (e : BootEnv) : Boot :=
  let resField (i : Nat) : Field := if i = 0 then TAILOR_BOOTSTAT.RESULTA else TAILOR_BOOTSTAT.RESULTB
  let sel := s.pins.bootSel
  let (s, got) := (bootOrder sel).foldl (fun (a : State × Option (Nat × List Nat)) i =>
    let (s, got) := a
    if got.isSome && sel != 3 then a
    else
      let (b, r) := s.bootImage e i
      (s.fset (resField i) r, if r = 1 then got.orElse fun _ => some (i, b) else got)) (s, none)
  match got with
  | none =>
    if sel = 3 then (s.onPower fun p => { p with phase := .service }, false)
    else s.bootEnds { loc := locCode 0xB 0xF 0xFF 0x00 } none
  | some (i, b) =>
    let s := ((s.fset TAILOR_BOOTSTAT.IMAGE i).fset TAILOR_BOOTSTAT.IMGVER (imgVersion b)).loadBoot b
    let s := s.fset TAILOR_BOOTSTAT.STEP 5
    if sel = 3 then (s.onPower fun p => { p with phase := .service }, false) else (s, true)

/-! ### Configuration records (R590, R597) -/

/-- WEFT, CSTORE, CHAN, LANE and PART, which a record of step 6 may not name. -/
def barredAt6 (o : Nat) : Bool :=
  decide (0x300000 ≤ o ∧ o < 0x420000) || decide (0x100000 ≤ o ∧ o < 0x180000) || decide (0x200000 ≤ o ∧ o < 0x240000)

/-- Has the register at `o` just refused a write under its own rule (R398, R399, R434)? -/
def State.writeRefused (s : State) (o : Nat) : Bool :=
  if 0xA0000 ≤ o ∧ o < 0xC0000 then o / 8 % 4 ≠ 3 && decide (2 ≤ s.fget (POOL_STAT.RESULT ((o - 0xA0000) / 32)))
  else if 0x180100 ≤ o ∧ o < 0x180700 then s.fget HEM_STAT.RESULT == 3
  else if 0x200000 ≤ o ∧ o < 0x240000 ∧ 0x180 ≤ o % 1024 ∧ o % 1024 < 0x200 then
    let r := s.fget (PART_HWINSTAT.RESULT ((o - 0x200000) / 1024))
    if o % 16 = 0 then decide (2 ≤ r ∧ r ≤ 4) else r == 5
  else false

/-- One record at its step; the second part says whether it is refused. -/
def State.cfgApply (s : State) (step : Nat) (r : CfgRec) : State × Bool :=
  if !r.rsvOk || !(r.step == 6 || r.step == 10) then (s, step == 6)
  else if r.step ≠ step || s.power.phase != .run then (s, false)
  else if (regFields r.off).isEmpty || (step == 6 && barredAt6 r.off) then (s, true)
  else
    let t := s.winWrite none 15 r.off 8 (BitVec.ofNat 64 r.value)
    (t, t.writeRefused r.off)

/-- The records of a step in order; the refused ones are counted, and their offsets answered. -/
def State.cfgStep (s : State) (step : Nat) : State × List Nat :=
  (cfgRecs s.tailor.config).foldl (fun (a : State × List Nat) r =>
    let (s, bad) := a
    let (s, refused) := s.cfgApply step r
    if refused then (s.fcount TAILOR_BOOTSTAT.CFGERR 1, bad ++ [r.off]) else (s, bad)) (s, [])

/-- The records of refused configuration records. -/
def State.cfgRaise (s : State) (bad : List Nat) : State :=
  bad.foldl (fun (t : State) o => t.raise { loc := locCode 0x6 0xF 0xFF 0x00, d0 := o }) s

/-! ### Step 6: records, Hem dies, fault log -/

/-- The Hem dies that are in service (R406): those that pass and that the metadata does not name retired. -/
def State.bootHem (s : State) (e : BootEnv) : State :=
  let old := s.triad.retiredDie
  let s := (s.fsetB HEM_STAT.H0OK (e.h0 && old != 1)).fsetB HEM_STAT.H1OK (e.h1 && old != 2)
  let s := s.fsetB HEM_STAT.SINGLE (s.hOk 0 != s.hOk 1)
  s.fset HEM_SINGLETSN.SINGLETSN s.triad.singleMeta

/-- The record of a stop of R45 or R66, written from LASTSTOP at the boot that follows it (R549). -/
def State.bootStopRec (s : State) : State :=
  let l := s.kget POWER_STATUS.LASTSTOP
  if (l = 1 ∨ l = 2 ∨ l = 3) ∧ [1, 2, 7, 8].contains s.power.cause then
    s.raise { loc := locCode 0x6 0xF 0xFF 0x00, bare := true }
  else s

def State.boot6 (s : State) (e : BootEnv) : Boot :=
  let (s, bad) := s.cfgStep 6
  if s.power.phase ≠ .run then (s, false)
  else
    let s := s.bootHem e
    if !s.hOk 0 && !s.hOk 1 then s.bootEnds { loc := locCode 0xB 4 0xFF 0x08 } (some 4)
    else
      let s := (s.onFaults fun f => { f with seqNext := 1 }).readLog
      let s := (s.fsetB SEAM_TODSTAT.REFUSING (s.fget SEAM_CTL.SIZE != 0)).fset SEAM_TODSTAT.UNCERTAIN 1
      let s := s.bootStopRec.cfgRaise bad
      -- a LOCKFAIL module tells so at each boot (R517)
      let s := if s.fget CLOAK_ROOTSTAT.STATE = 3 then s.raise { loc := locCode 0x6 0xF 0xFF 0x00 } else s
      (s, true)

/-! ### Step 7: the triad and the journal -/

/-- The next TSN is the ceiling, and the ceiling rises before the first assignment (R386, R575). -/
def State.bootTsn (s : State) : State :=
  let ceil := s.kget HEM_TSNCEIL.TSNCEIL
  let s := s.fset HEM_TSNNEXT.TSNNEXT (s.tsnOf (max 1 ceil))
  (s.keepWrite HEM_TSNCEIL.TSNCEIL (ceil + 2 ^ 32)).1

/-- A die that failed its self-test and that no metadata names retired leaves service (R393 step 3, R406). -/
def State.bootSingle (s : State) (e : BootEnv) : State :=
  if s.triad.retiredDie ≠ 0 ∨ (e.h0 && e.h1) then s
  else
    let i := if e.h0 then 1 else 0
    let low := s.fget HEM_TSNNEXT.TSNNEXT
    let s := (s.fset HEM_SINGLETSN.SINGLETSN low).onTriad fun t => { t with retiredDie := i + 1, singleMeta := low }
    s.raise { loc := locCode 0x6 (7 + i) 0xFF 0x03 }

def State.boot7 (s : State) (e : BootEnv) : Boot :=
  let s := (List.range 3).foldl (fun s m => s.setMb m (if bitOf e.members m then mbVoting else mbFailed)) s
  let s := s.onTriad fun t => { t with inStep := (List.range 3).filter fun m => bitOf e.members m }
  let n := s.voting.length
  if n < 2 then s.bootEnds { loc := locCode 0xB 4 0xFF 0x04 } (some 3)
  else
    let s := (s.fset TRIAD_STAT.MODE (if n = 3 then 0 else 1)).fset TRIAD_FWSTAT.ACTIVE s.triad.active.version
    let s := ((s.scanJournal true).bootTsn).bootSingle e
    -- the clean-stop mark of a Vault entry has been used
    (s.onTriad fun t => { t with cleanStop := false }, true)

/-! ### Step 8: pairs, slot map, boot patch, L3 -/

/-- The slot map of R335: pair `k` serves slot `k`, or a spare chosen under R328 where it has failed. -/
def State.slotMap (s : State) (e : BootEnv) : State :=
  let s := e.pairsBad.foldl (fun (s : State) p => if p < 48 then (s.keepWrite (TAILOR_PHYS.FAILREC p) 1).1 else s) s
  let failed (s : State) (p : Nat) : Bool := s.kget (TAILOR_PHYS.FAILREC p) == 1 || e.pairsBad.contains p
  let s := (List.range 48).foldl (fun (s : State) p =>
    s.fset (TAILOR_PHYS.STATE p) (if failed s p then phFailed else if e.spares.contains p then phSpare else phServing)) s
  let serve (s : State) (k p : Nat) : State :=
    let s := ((s.fset (TAILOR_PHYS.STATE p) phServing).fset (TAILOR_SLOT.PHYS k) p).fset (TAILOR_SLOT.SERVING k) 1
    (s.setPk (fwOf k) pkStopped).fset (POCKET_STAT.FWHOLD (fwOf k)) 1
  let s := (List.range 48).foldl (fun (s : State) k =>
    if e.spares.contains k then s
    else if s.ph k = phServing then serve s k k
    else match s.chooseSpare k with
      | some q => serve s k q
      | none => s) s
  s.updSpare

/-- A 64-bit word of the patch section. -/
def patchWord (b : List Nat) (i : Nat) : Nat := imgLe b (8 * i) 8

/-- The boot patch goes into staging, is sealed and is loaded into every pair, or no pair has a patch (R598). -/
def State.bootPatch (s : State) : State :=
  let b := s.tailor.patch
  if b.isEmpty then s
  else
    let romOk := (List.range 48).all fun p => s.fget (CSTORE_VER.ROM p) == imgLe b 2 2
    let bad (s : State) : State := s.raise { loc := locCode 0x6 0xF 0xFF 0x00 }
    if !romOk then bad s
    else
      let s := (List.range 1024).foldl (fun (s : State) i => s.fset (CSTORE_SMICRO.WORD i) (patchWord b (2 + i))) s
      let s := (List.range 768).foldl (fun (s : State) i => s.fset (CSTORE_SNANO.WORD (i / 3) (i % 3)) (patchWord b (1026 + i))) s
      let s := (List.range 64).foldl (fun (s : State) i =>
        let w := patchWord b (1794 + i)
        ((s.fset (CSTORE_SMATCH.EN i) (w / 2 ^ 63)).fset (CSTORE_SMATCH.TARGET i) (w / 2 ^ 32)).fset (CSTORE_SMATCH.ROMADDR i) w) s
      let s := s.stageSeal (imgLe b 4 4) (imgLe b 0 2)
      if !s.fbit CSTORE_STAGECTL.SEALED then bad s
      else
        let d := s.stageDamson
        (List.range 48).foldl (fun (s : State) p => (s.setDamson p d).fset (CSTORE_VER.PATCH p) (imgLe b 0 2)) s

/-- The way groups that the configuration enables are ON. -/
def State.bootL3 (s : State) : State :=
  (List.range 4).foldl (fun (s : State) d =>
    let w := s.cfgValue (WEFT_L3CTL.WGEN d)
    let s := s.fset (WEFT_L3CTL.WGEN d) w
    (List.range 4).foldl (fun (s : State) g => if bitOf w g then s.setGstate d g 1 else s) s) s

def State.boot8 (s : State) (e : BootEnv) : Boot :=
  let s := s.slotMap e
  if (List.range 48).all fun k => !s.fbit (TAILOR_SLOT.SERVING k) then s.bootEnds { loc := locCode 0xB 0xF 0xFF 0x00 } (some 6)
  else (s.bootPatch.bootL3.bootClocks, true)

/-! ### Step 9: memory (R300–R302, R306, R580) -/

/-- Is a channel named by a mirrored region of the configuration image (R301, R315)? -/
def State.cfgMirrored (s : State) (ch : Nat) : Bool :=
  let recs := cfgRecs s.tailor.config
  let val (f : Field) : Nat := match (recs.filter fun r => mapOff r.off == f.off).getLast? with
    | some r => bitsOf r.value f.hi f.lo
    | none => 0
  (List.range 16).any fun k => val (WEFT_MAPA.VALID 0 k) == 1 && val (WEFT_MAPA.MIRROR 0 k) == 1
    && bitOf (val (WEFT_MAPB.CHMASK 0 k)) ch

/-- The DIMM of a slot at the end of training: 1, or the RESULT that takes it out of service (R306). -/
def State.dimmResult (s : State) (l : List DimmIn) (slot : Nat) : Option (DimmIn × Nat) :=
  dimmCheck l (s.cfgMirrored (slot / 2) && population l (slot / 2) ≠ population l (partner (slot / 2))) slot

/-- The DIMMs accepted at step 2, by channel. -/
def State.accepted (s : State) (l : List DimmIn) (ch : Nat) : List DimmIn :=
  [2 * ch, 2 * ch + 1].filterMap fun t => (s.dimmResult l t).bind fun x => if x.2 = 3 ∨ x.2 = 4 then none else some x.1

/-- The data rate of every channel (R302): 1 4800, 2 5200, 3 5600, 4 6400 MT/s. -/
def State.dimmRate (s : State) (e : BootEnv) : Nat :=
  (List.range 24).foldl (fun r ch =>
    let l := s.accepted e.dimms ch
    let top := if l.length < 2 then 4 else if l.any (·.stack == 2) then 2 else 3
    (if l.isEmpty then r else min r top) |> fun r => l.foldl (fun r d => min r d.rate) r) (min 4 (max 1 e.rateLimit))

/-- A channel is trained and filled with zeros, or stays vacant (R306). -/
def State.trainChannel (s : State) (e : BootEnv) (rate ch : Nat) : State :=
  let l := [0, 1].filterMap fun t => (s.dimmResult e.dimms (2 * ch + t)).map fun x => (t, x)
  let s := l.foldl (fun (s : State) x => s.knowDimm (2 * ch + x.1) x.2.1) s
  let good := l.filter fun x => x.2.2 == 1
  let bad := l.filter fun x => x.2.2 != 1
  let s := bad.foldl (fun (s : State) x => s.raise { loc := chanLoc 0x6 ch (2 * x.1) 0 }) s
  if l.isEmpty then s
  else
    let r := match bad.getLast? with
      | some x => x.2.2
      | none => 1
    let s := (s.fset (MC_STAT.RESULT ch) r).fset (MC_STAT.STEP ch) (if good.isEmpty then trainStep r else 7)
    if good.isEmpty then s
    else
      let s := (s.fset (MC_STAT.STATE ch) 1).fset (MC_STAT.SLOTS ch) ((good.map fun x => 2 ^ x.1).sum)
      let s := (s.fset (MC_STAT.RATE ch) rate).onMem fun m =>
        { m with chanGiB := AMap.set 0 m.chanGiB ch ((good.map fun x => x.2.1.gib).sum) }
      { s with pins := { s.pins with
        dimmPwr := good.foldl (fun p x => AMap.set false p (2 * ch + x.1) true) s.pins.dimmPwr
        ddrResetN := AMap.set false s.pins.ddrResetN ch true } }

def State.boot9 (s : State) (e : BootEnv) : Boot :=
  let rate := s.dimmRate e
  let s := (List.range 24).foldl (fun (s : State) ch => s.trainChannel e rate ch) s
  if (List.range 24).all fun ch => s.fget (MC_STAT.STATE ch) == 0 then
    s.bootEnds { loc := locCode 0xB 0xF 0xFF 0x00 } (some 7)
  else (s, true)

/-! ### Steps 10 and 11 -/

/-- CLOAK.BOOTNO advances (R503): refused, or at its end, it leaves every GCM seal refused. -/
def State.bootNo (s : State) : State :=
  let n := s.kget CLOAK_BOOTNO.BOOTNO
  let (s, ok) := if n = 2 ^ 30 - 1 then (s, false) else s.keepWrite CLOAK_BOOTNO.BOOTNO (n + 1)
  if ok && s.kget CLOAK_BOOTNO.BOOTNO != 2 ^ 30 - 1 then s
  else ({ s with eng := { s.eng with sealOff := true } }).raise { loc := locCode 0x6 0xF 0xFF 0x00 }

/-- Every channel is WAITING or DETACHED from here (R368); the channel data path is up. -/
def State.bootChans (s : State) : State :=
  let s := (List.range 256).foldl (fun (s : State) n =>
    if s.fbit (CHAN_CTL.EN n) then (s.fset (CHAN_RINGSTAT.ATTACH n) 0).waitChan n else s.fset (CHAN_RINGSTAT.ATTACH n) 2) s
  let s := (s.fset PLEAT_STAT.ENGUP (2 ^ 32 - 1)).fset CLOAK_LANEUP.LANEUP (2 ^ 64 - 1)
  (List.range 16).foldl (fun (s : State) k => s.fset (DIR_PLACE.UP k) 1) s

def State.boot10 (s : State) (e : BootEnv) : Boot :=
  let (s, bad) := s.cfgStep 10
  if s.power.phase ≠ .run then (s, false)
  else
    let s := s.cfgRaise bad
    -- R433: every word of every pool with GEN 0
    let s := (List.range 4096).foldl (fun (s : State) p =>
      if s.fbit (POOL_CFG.VALID p) then (s.poolInit p).fset (POOL_STAT.BUSY p) 0 else s) s
    let s := (List.range 4096).foldl (fun (s : State) k => s.slotLoad k true) s.bootNo
    let s := s.bootChans.updReach
    (s.rollGo.rollPass e.found [] e.voids, true)

/-- Step 11: doorbells land and READY is high when nothing of the minimum set lacks. -/
def State.boot11 (s : State) : Boot :=
  let s := s.updMinset
  if s.fget FAULT_MINSET.MINSET = 0 then
    ((s.fset TRIAD_STAT.ACCEPTING 1).updFail, true)
  else (s.updFail, false)

/-- The steps in their order. -/
def State.boot (s : State) (e : BootEnv) : State :=
  let cold := s.power.phase == .coldReset
  let b : Boot := (s.bootBegin, true)
  let b := b.step 1 fun s => s.boot1 e cold
  let b := b.step 2 fun s => s.boot2 e
  let b := b.step 3 fun s => s.boot3 e
  let b := b.step 4 fun s => s.boot4 e
  let b := b.step 6 fun s => s.boot6 e
  let b := b.step 7 fun s => s.boot7 e
  let b := b.step 8 fun s => s.boot8 e
  let b := b.step 9 fun s => s.boot9 e
  let b := b.step 10 fun s => s.boot10 e
  (b.step 11 State.boot11).1

/-- The fused spares are as many pairs as the enabled count leaves (R5, R6). -/
def State.sparesFit (s : State) (e : BootEnv) : Bool :=
  decide e.spares.Nodup && e.spares.all (fun p => decide (p < 48))
    && e.spares.length + s.fget TAILOR_SPARESTAT.ENABLED == 48

/-- BOOT_SEQUENCE after a Cold reset, which waits at −40 °C (R66), or a Module reset, which waits for RESET_N (R84). A
RESET_N low at the end of a Cold reset makes the module stay in Module reset, with the straps sampled (R79). -/
def execBootSequence (e : BootEnv) (s : State) : Res :=
  .next (if !s.sparesFit e then s
  else match s.power.phase with
    | .coldReset => if s.power.coldest < 24 then s else if s.pins.resetN then s.boot e else (s.sampleStraps e).resetAll false 3
    | .moduleReset => if s.pins.resetN then s.boot e else s
    | _ => s)

end Sys2Proof.Machine
end

