-- ==== Sys2Proof/Machine/Float.lean ====
section
/-! DEFINITION. Floating-point results, rounding and exceptions (05_arithmetic_and_timing.md, R145–R153):
IEEE 754-2019 binary32 and binary64, computed exactly on integers and rounded once. -/

namespace Sys2Proof.Machine

/-- A binary format: its precision with the hidden bit, its exponent field width. -/
structure FFmt where
  p : Nat
  eb : Nat
deriving DecidableEq, Repr

/-- binary64 (R94). -/
def fmtD : FFmt := ⟨53, 11⟩
/-- binary32 (R94). -/
def fmtS : FFmt := ⟨24, 8⟩

/-- The format that func bit 5 selects (R130). -/
def fmtOf (single : Bool) : FFmt := if single then fmtS else fmtD

/-- The exponent of the least subnormal: the value of a subnormal with fraction m is m × 2^qmin. -/
def FFmt.qmin (F : FFmt) : Int := 3 - Int.ofNat (2 ^ (F.eb - 1)) - Int.ofNat F.p

/-- The encoding of +∞: every exponent bit set. -/
def FFmt.inf (F : FFmt) : Nat := (2 ^ F.eb - 1) * 2 ^ (F.p - 1)

/-- The sign bit of an encoding. -/
def FFmt.sgn (F : FFmt) (s : Bool) : Nat := if s then 2 ^ (F.p - 1 + F.eb) else 0

/-- The default NaN (R148). -/
def FFmt.dnan (F : FFmt) : Nat := F.inf + 2 ^ (F.p - 2)

/-- A floating value by class: zero, infinity, NaN with its bits, or a finite non-zero m × 2^e. -/
inductive FVal where
  | zero (s : Bool)
  | inf (s : Bool)
  | nan (bits : Nat) (signalling : Bool)
  | fin (s : Bool) (m : Nat) (e : Int)
deriving DecidableEq, Repr

/-- The value an encoding holds. -/
def FFmt.decode (F : FFmt) (b : Nat) : FVal :=
  let s := bitOf b (F.p - 1 + F.eb)
  let ex := b / 2 ^ (F.p - 1) % 2 ^ F.eb
  let fr := b % 2 ^ (F.p - 1)
  if ex = 2 ^ F.eb - 1 then
    (if fr = 0 then .inf s else .nan (b % 2 ^ (F.p + F.eb)) (decide (fr < 2 ^ (F.p - 2))))
  else if ex = 0 then (if fr = 0 then .zero s else .fin s fr F.qmin)
  else .fin s (fr + 2 ^ (F.p - 1)) (F.qmin + Int.ofNat (ex - 1))

/-- The result of a floating operation: its encoding and the exceptions it raised, bit 4 invalid, bit 3 divide by
zero, bit 2 overflow, bit 1 underflow, bit 0 inexact (R98, R153). -/
structure FRes where
  bits : Nat
  raised : Nat := 0
deriving DecidableEq, Repr

/-- Round the magnitude n + rem/den·½-style remainder up? `half` compares the remainder with one half:
0 exact, 1 below, 2 equal, 3 above (R146). -/
def roundUp (rm : Nat) (s : Bool) (odd : Bool) (half : Nat) : Bool :=
  if half = 0 then false
  else if rm = 1 then false
  else if rm = 2 then !s
  else if rm = 3 then s
  else if rm = 4 then decide (2 ≤ half)
  else half = 3 || (half = 2 && odd)

/-- How the dropped low `d` bits of `m`, with a sticky bit below them, compare with one half. -/
def halfOf (m d : Nat) (sticky : Bool) : Nat :=
  let r := m % 2 ^ d
  let h := 2 ^ d / 2
  if r = 0 && !sticky then 0
  else if d = 0 then 1
  else if r < h then 1
  else if r = h && !sticky then 2
  else 3

/-- Round (m + sticky) × 2^e, m > 0, to multiples of 2^q: the multiple, and whether it is inexact.
When q ≤ e the value is exact (then sticky is false). -/
def roundAt (rm : Nat) (s : Bool) (m : Nat) (e : Int) (sticky : Bool) (q : Int) : Nat × Bool :=
  if q ≤ e then (m * 2 ^ (e - q).toNat, sticky)
  else
    let d := (q - e).toNat
    let n := m / 2 ^ d
    let h := halfOf m d sticky
    (n + bnat (roundUp rm s (n % 2 == 1) h), h ≠ 0)

/-- The delivered result of an exact non-zero value (m + sticky) × 2^e with sign `s` (R146–R148). `ute` is the
underflow trap enable: an exact tiny result raises underflow only then. With sticky set, m has at least p + 2 bits. -/
def FFmt.round (F : FFmt) (rm : Nat) (ute : Bool) (s : Bool) (m : Nat) (e : Int) (sticky : Bool) : FRes :=
  let top : Int := Int.ofNat (bitLen m) + e
  let qn : Int := top - Int.ofNat F.p
  -- tininess after rounding with unbounded exponent (R147)
  let un := roundAt rm s m e sticky qn
  let topu : Int := Int.ofNat (bitLen un.1) + qn
  let tiny := decide (topu < F.qmin + Int.ofNat F.p)
  let q : Int := if qn < F.qmin then F.qmin else qn
  let r := roundAt rm s m e sticky q
  let enc := (q - F.qmin).toNat * 2 ^ (F.p - 1) + r.1
  if F.inf ≤ enc then
    -- overflow (R148)
    let toInf := rm = 0 || rm = 4 || 5 ≤ rm || (rm = 2 && !s) || (rm = 3 && s)
    ⟨F.sgn s + (if toInf then F.inf else F.inf - 1), 0b00101⟩
  else
    ⟨F.sgn s + enc, (if tiny && (r.2 || ute) then 0b00010 else 0) + bnat r.2⟩

/-- The NaN result of an operation with NaN operands (R149): the first signalling NaN made quiet, failing that the
first quiet NaN; invalid when one is signalling. -/
def FFmt.nanOf (F : FFmt) (vs : List FVal) : Option FRes :=
  let sig := vs.findSome? (fun v => match v with | .nan b true => some b | _ => none)
  let qui := vs.findSome? (fun v => match v with | .nan b false => some b | _ => none)
  match sig, qui with
  | some b, _ => some ⟨b + 2 ^ (F.p - 2), 0b10000⟩
  | none, some b => some ⟨b, 0⟩
  | none, none => none

/-- The default NaN with invalid. -/
def FFmt.invalid (F : FFmt) : FRes := ⟨F.dnan, 0b10000⟩

/-- Is the value a signalling NaN? -/
def FVal.isSig : FVal → Bool
  | .nan _ b => b
  | _ => false

/-- Is the value a NaN? -/
def FVal.isNan : FVal → Bool
  | .nan _ _ => true
  | _ => false

/-- The sign of a value that is no NaN. -/
def FVal.sign : FVal → Bool
  | .zero s | .inf s | .fin s _ _ => s
  | .nan _ _ => false

/-- The signed significand of a finite value at exponent `e`, at or below its own. -/
def signedAt (s : Bool) (m : Nat) (e0 e : Int) : Int :=
  let k := Int.ofNat (m * 2 ^ (e0 - e).toNat)
  if s then -k else k

/-- The exact sum of two finite values, rounded (R145, R148: the sign of an exact zero sum). -/
def FFmt.sum (F : FFmt) (rm : Nat) (ute : Bool) (a b : FVal) : FRes :=
  match a, b with
  | .inf s, .inf t => if s = t then ⟨F.sgn s + F.inf, 0⟩ else F.invalid
  | .inf s, _ => ⟨F.sgn s + F.inf, 0⟩
  | _, .inf t => ⟨F.sgn t + F.inf, 0⟩
  | .zero s, .zero t => ⟨F.sgn (if s = t then s else rm = 3), 0⟩
  | .fin s m e, .zero _ => F.round rm ute s m e false
  | .zero _, .fin s m e => F.round rm ute s m e false
  | .fin s m e, .fin t n g =>
    let q := if e ≤ g then e else g
    let k := signedAt s m e q + signedAt t n g q
    if k = 0 then ⟨F.sgn (rm = 3), 0⟩ else F.round rm ute (decide (k < 0)) k.natAbs q false
  | _, _ => F.invalid

/-- The exact product of two values that are no NaN and do not multiply zero by infinity. -/
def fmulExact (a b : FVal) : FVal :=
  let s := a.sign != b.sign
  match a, b with
  | .inf _, _ => .inf s
  | _, .inf _ => .inf s
  | .fin _ m e, .fin _ n g => .fin s (m * n) (e + g)
  | _, _ => .zero s

/-- Zero times infinity? -/
def zeroInf (a b : FVal) : Bool :=
  match a, b with
  | .zero _, .inf _ => true
  | .inf _, .zero _ => true
  | _, _ => false

/-- The value with its sign inverted, a NaN unchanged. -/
def FVal.neg : FVal → FVal
  | .zero s => .zero (!s)
  | .inf s => .inf (!s)
  | .fin s m e => .fin (!s) m e
  | v => v

/-- FADD (R145); FSUB adds the negated second operand, with the NaNs as they stand. -/
def FFmt.add (F : FFmt) (rm : Nat) (ute : Bool) (a b : FVal) : FRes :=
  match F.nanOf [a, b] with
  | some r => r
  | none => F.sum rm ute a b

/-- FSUB (R145). -/
def FFmt.sub (F : FFmt) (rm : Nat) (ute : Bool) (a b : FVal) : FRes :=
  match F.nanOf [a, b] with
  | some r => r
  | none => F.sum rm ute a b.neg

/-- An exact value delivered in the format. -/
def FFmt.deliver (F : FFmt) (rm : Nat) (ute : Bool) (v : FVal) : FRes :=
  match v with
  | .zero s => ⟨F.sgn s, 0⟩
  | .inf s => ⟨F.sgn s + F.inf, 0⟩
  | .nan b _ => ⟨b, 0⟩
  | .fin s m e => F.round rm ute s m e false

/-- FMUL (R145). -/
def FFmt.mul (F : FFmt) (rm : Nat) (ute : Bool) (a b : FVal) : FRes :=
  match F.nanOf [a, b] with
  | some r => r
  | none => if zeroInf a b then F.invalid else F.deliver rm ute (fmulExact a b)

/-- FMADD and, with `c` negated, FMSUB: one rounding. 0 × ∞ is invalid even when rc is a quiet NaN, which is then
the NaN returned (R147, R149). -/
def FFmt.fma (F : FFmt) (rm : Nat) (ute negC : Bool) (a b c : FVal) : FRes :=
  match F.nanOf [a, b, c] with
  | some r => if zeroInf a b then ⟨r.bits, 0b10000⟩ else r
  | none =>
    if zeroInf a b then F.invalid else F.sum rm ute (fmulExact a b) (if negC then c.neg else c)

/-- FDIV (R145, R147). -/
def FFmt.div (F : FFmt) (rm : Nat) (ute : Bool) (a b : FVal) : FRes :=
  match F.nanOf [a, b] with
  | some r => r
  | none =>
    let s := a.sign != b.sign
    match a, b with
    | .inf _, .inf _ => F.invalid
    | .zero _, .zero _ => F.invalid
    | .inf _, _ => ⟨F.sgn s + F.inf, 0⟩
    | _, .inf _ => ⟨F.sgn s, 0⟩
    | .zero _, _ => ⟨F.sgn s, 0⟩
    | .fin _ m e, .fin _ n g =>
      let k := F.p + 3 + bitLen n
      let num := m * 2 ^ k
      F.round rm ute s (num / n) (e - g - Int.ofNat k) (num % n ≠ 0)
    | _, _ => ⟨F.sgn s + F.inf, 0b01000⟩

/-- One bit of the integer square root by digit recurrence: `r` so far, tried from bit `k - 1` down. -/
def isqrtFrom (n : Nat) : Nat → Nat → Nat
  | 0, r => r
  | k + 1, r => let t := r + 2 ^ k
                if t * t ≤ n then isqrtFrom n k t else isqrtFrom n k r

/-- The integer square root of `n`, rounded down. -/
def isqrt (n : Nat) : Nat := isqrtFrom n (bitLen n / 2 + 1) 0

/-- FSQRT (R145, R147): the root of −0 is −0, below −0 is invalid. -/
def FFmt.sqrt (F : FFmt) (rm : Nat) (ute : Bool) (a : FVal) : FRes :=
  match F.nanOf [a] with
  | some r => r
  | none =>
    match a with
    | .zero s => ⟨F.sgn s, 0⟩
    | .inf s => if s then F.invalid else ⟨F.inf, 0⟩
    | .fin s m e =>
      if s then F.invalid
      else
        let k := 2 * (F.p + 3) + bnat (e % 2 ≠ 0)
        let n := m * 2 ^ k
        let r := isqrt n
        F.round rm ute false r ((e - Int.ofNat k) / 2) (r * r ≠ n)
    | .nan _ _ => F.invalid

/-- Order of two values that are no NaN, with zeros equal: −1, 0 or 1. -/
def FVal.cmp (a b : FVal) : Int :=
  match a, b with
  | .inf s, .inf t => if s = t then 0 else if s then -1 else 1
  | .inf s, _ => if s then -1 else 1
  | _, .inf t => if t then 1 else -1
  | .zero _, .zero _ => 0
  | .zero _, .fin t _ _ => if t then 1 else -1
  | .fin s _ _, .zero _ => if s then -1 else 1
  | .fin s m e, .fin t n g =>
    let q := if e ≤ g then e else g
    let d := signedAt s m e q - signedAt t n g q
    if d < 0 then -1 else if d = 0 then 0 else 1
  | _, _ => 0

/-- FMIN and FMAX: minimumNumber and maximumNumber, −0 below +0 (R149, R150). -/
def FFmt.minMax (F : FFmt) (wantMax : Bool) (ab bb : Nat) : FRes :=
  let a := F.decode ab
  let b := F.decode bb
  let inv := if a.isSig || b.isSig then 0b10000 else 0
  if a.isNan && b.isNan then (F.nanOf [a, b]).getD F.invalid
  else if a.isNan then ⟨bb, inv⟩
  else if b.isNan then ⟨ab, inv⟩
  else
    let c := a.cmp b
    let aLess := decide (c < 0) || (decide (c = 0) && a.sign && !b.sign)
    ⟨if aLess != wantMax then ab else bb, 0⟩

/-- A finite value rounded to an integer by mode: the integer and whether it is inexact. -/
def roundInt (rm : Nat) (s : Bool) (m : Nat) (e : Int) : Int × Bool :=
  let r := roundAt rm s m e false 0
  (if s then -Int.ofNat r.1 else Int.ofNat r.1, r.2)

/-- FCVTI (signed) and FCVTU (R151): the 64-bit result and the exceptions. -/
def fcvtInt (rm : Nat) (signed : Bool) (v : FVal) : FRes :=
  let lo : Int := if signed then -(2 ^ 63) else 0
  let hi : Int := if signed then 2 ^ 63 - 1 else 2 ^ 64 - 1
  match v with
  | .nan _ _ => ⟨0, 0b10000⟩
  | .inf s => ⟨wrapTo 64 (if s then lo else hi), 0b10000⟩
  | .zero _ => ⟨0, 0⟩
  | .fin s m e =>
    let r := roundInt rm s m e
    if r.1 < lo then ⟨wrapTo 64 lo, 0b10000⟩
    else if hi < r.1 then ⟨wrapTo 64 hi, 0b10000⟩
    else ⟨wrapTo 64 r.1, bnat r.2⟩

/-- ICVTF and UCVTF (R130, R146). -/
def FFmt.ofInt (F : FFmt) (rm : Nat) (ute : Bool) (i : Int) : FRes :=
  if i = 0 then ⟨0, 0⟩ else F.round rm ute (decide (i < 0)) i.natAbs 0 false

/-- FRND: roundToIntegralExact (R151); a zero result keeps the operand's sign. -/
def FFmt.toIntegral (F : FFmt) (rm : Nat) (v : FVal) : FRes :=
  match v with
  | .nan _ _ => (F.nanOf [v]).getD F.invalid
  | .inf s => ⟨F.sgn s + F.inf, 0⟩
  | .zero s => ⟨F.sgn s, 0⟩
  | .fin s m e =>
    let r := roundAt rm s m e false 0
    if r.1 = 0 then ⟨F.sgn s, bnat r.2⟩
    else ⟨(F.round rm false s r.1 0 false).bits, bnat r.2⟩

/-- FCVT between the formats (R130, R149): the source format `F`, the destination `G`. -/
def fcvtFmt (F G : FFmt) (rm : Nat) (ute : Bool) (v : FVal) : FRes :=
  match v with
  | .nan b sig =>
    let s := bitOf b (F.p - 1 + F.eb)
    let pay := b % 2 ^ (F.p - 2)
    let pay' := if F.p > G.p then pay / 2 ^ (F.p - G.p) else pay * 2 ^ (G.p - F.p)
    ⟨G.sgn s + G.dnan + pay', if sig then 0b10000 else 0⟩
  | .inf s => ⟨G.sgn s + G.inf, 0⟩
  | .zero s => ⟨G.sgn s, 0⟩
  | .fin s m e => G.round rm ute s m e false

/-- FCLASS (R152). -/
def FFmt.classMask (F : FFmt) (b : Nat) : Nat :=
  match F.decode b with
  | .inf s => if s then 2 ^ 0 else 2 ^ 7
  | .zero s => if s then 2 ^ 3 else 2 ^ 4
  | .nan _ sig => if sig then 2 ^ 8 else 2 ^ 9
  | .fin s m _ =>
    let sub := decide (m < 2 ^ (F.p - 1))
    if s then (if sub then 2 ^ 2 else 2 ^ 1) else (if sub then 2 ^ 5 else 2 ^ 6)

/-- The rounding mode in force; codes 5–7 select mode 0 (R98, R146). -/
def rmOf (fcsr : Word) : Nat := if 4 < fcsr.toNat % 8 then 0 else fcsr.toNat % 8

/-- FCSR.TE as the five exception bits. -/
def teOf (fcsr : Word) : Nat := bitsOf fcsr.toNat 20 16

end Sys2Proof.Machine
end

