-- ==== Sys2Proof/Machine/Decimal.lean ====
section
/-! DEFINITION. Packed decimal encodings and results (05_arithmetic_and_timing.md, R155–R163): register decimals of
15 digits, ledger strings, zoned strings. A decimal value is a sign and a magnitude. -/

namespace Sys2Proof.Machine

/-- A valid decimal value: its sign (true for minus) and its magnitude. -/
structure Dec where
  neg : Bool
  mag : Nat
deriving DecidableEq, Repr

/-- The value as an integer; −0 and +0 are equal (R160). -/
def Dec.val (d : Dec) : Int := if d.neg then -Int.ofNat d.mag else Int.ofNat d.mag

/-- The number `k` nibbles hold as decimal digits, or none when a digit code is above 9 (R155). -/
def bcdNat : Nat → Nat → Option Nat
  | 0, _ => some 0
  | k + 1, n =>
    if 9 < n % 16 then none
    else (bcdNat k (n / 16)).map (fun h => n % 16 + 10 * h)

/-- The low `k` decimal digits of `n`, one to a nibble. -/
def natBcd : Nat → Nat → Nat
  | 0, _ => 0
  | k + 1, n => n % 10 + 16 * natBcd k (n / 10)

/-- A sign code: none when invalid, true for minus (R155). -/
def decSign (c : Nat) : Option Bool := if c < 10 then none else some (c % 2 == 1)

/-- The preferred sign code (R155). -/
def signCode (neg : Bool) : Nat := if neg then 0xB else 0xA

/-- The register decimal a word holds, if it is valid (R156, R159). -/
def regDec (w : Nat) : Option Dec :=
  match decSign (w % 16), bcdNat 15 (w / 16 % 2 ^ 60) with
  | some s, some m => some ⟨s, m⟩
  | _, _ => none

/-- A register decimal: the low 15 digits of `m` with the preferred code of `neg`. -/
def decReg (neg : Bool) (m : Nat) : Nat := natBcd 15 m * 16 + signCode neg

/-- Digits 31 to 16 of `m`: the high register of a 31-digit result (R156). -/
def decHigh (m : Nat) : Nat := natBcd 16 (m / 10 ^ 15)

/-- The result of a decimal operation: the sign and magnitude delivered, the true result's Z and N, and V. -/
structure DecRes where
  neg : Bool
  mag : Nat
  z : Bool
  n : Bool
  v : Bool
deriving DecidableEq, Repr

/-- A true result fitted into `digits` digits: overflow keeps the low-order digits with the sign of the true
result (R160, R161). -/
def fitDec (digits : Nat) (i : Int) : DecRes :=
  let m := i.natAbs
  ⟨decide (i < 0), m % 10 ^ digits, i = 0, decide (i < 0), decide (10 ^ digits ≤ m)⟩

/-- A quotient truncated toward zero. -/
def truncDiv (a b : Int) : Int :=
  let q := Int.ofNat (a.natAbs / b.natAbs)
  if decide (a < 0) != decide (b < 0) then -q else q

/-- DSHL (R161): `k` digits left, the sign kept. -/
def decShl (d : Dec) (k : Nat) : DecRes := fitDec 15 (d.val * Int.ofNat (10 ^ k))

/-- DSHR (R161): `k` digits right, rounded half up on the last digit shifted out when `rnd`. -/
def decShr (d : Dec) (k : Nat) (rnd : Bool) : DecRes :=
  let q := d.mag / 10 ^ k
  let up := rnd && decide (0 < k) && decide (5 ≤ d.mag / 10 ^ (k - 1) % 10)
  let m := q + bnat up
  fitDec 15 (if d.neg then -Int.ofNat m else Int.ofNat m)

/-- The bytes of a ledger string of `l` digits (R157). -/
def ledgerLen (l : Nat) : Nat := l / 2 + 1

/-- The value of a ledger string of `l` digits, its bytes from the lowest address, if it is valid: digits, sign and,
for an even length, a zero pad nibble (R157, R159). -/
def ledgerDec (l : Nat) (bs : List Byte) : Option Dec :=
  let n := beNat bs
  if l = 0 then none
  else if l % 2 = 0 ∧ n / 16 ^ (l + 1) ≠ 0 then none
  else match decSign (n % 16), bcdNat l (n / 16) with
    | some s, some m => some ⟨s, m⟩
    | _, _ => none

/-- A ledger string of `l` digits: the low digits of `m` with the preferred sign code (R157, R162). -/
def decLedger (l : Nat) (neg : Bool) (m : Nat) : List Byte :=
  beBytes (ledgerLen l) (natBcd l m * 16 + signCode neg)

/-- The digits of a zoned string, most significant first, if every byte is 0x30–0x39 (R158). -/
def zonedDigits : List Byte → Nat → Option Nat
  | [], acc => some acc
  | b :: bs, acc =>
    if 0x30 ≤ b.toNat ∧ b.toNat ≤ 0x39 then zonedDigits bs (acc * 10 + (b.toNat - 0x30)) else none

/-- The value of a zoned string of `l` digits and a sign character (R158). -/
def zonedDec (l : Nat) (bs : List Byte) : Option Dec :=
  if l = 0 then none
  else match zonedDigits (bs.take l) 0, (bs.drop l).head? with
    | some m, some sg =>
      if sg.toNat = 0x2B then some ⟨false, m⟩ else if sg.toNat = 0x2D then some ⟨true, m⟩ else none
    | _, _ => none

/-- The low `l` digits of `m` as zoned characters, least significant first. -/
def zonedRev : Nat → Nat → List Byte
  | 0, _ => []
  | l + 1, m => BitVec.ofNat 8 (0x30 + m % 10) :: zonedRev l (m / 10)

/-- A zoned string of `l` digits: leading digit bytes 0x30, and the sign character; zero is written with 0x2B (R158). -/
def decZoned (l : Nat) (neg : Bool) (m : Nat) : List Byte :=
  (zonedRev l m).reverse ++ [if neg && m ≠ 0 then 0x2D else 0x2B]

end Sys2Proof.Machine
end

