-- ==== Sys2Proof/Machine/Arith.lean ====
section
/-! DEFINITION. The 64-bit results of CA-64's integer groups (04 R126–R128, R133; 05 R140–R143), and as the codes of nano-words
name them (06 R177, R184). -/

namespace Sys2Proof.Machine

/-- Signed quotient truncated toward zero; −2^63 ÷ −1 is −2^63 (R143). -/
def divS (a b : Word) : Word := wordOfInt (truncDiv a.toInt b.toInt)
/-- Signed remainder: a − (a DIVS b) × b (R127, R143; log entry 115). -/
def remS (a b : Word) : Word := a - divS a b * b

/-- The position and width of EXTU, EXTS and INSF (R133). -/
def fieldPos (imm : BitVec 16) : Nat := bitsOf imm.toNat 11 6
def fieldWidth (imm : BitVec 16) : Nat := bitsOf imm.toNat 5 0 + 1
def fieldBad (imm : BitVec 16) : Bool := bitsOf imm.toNat 15 12 != 0 || decide (64 < fieldPos imm + fieldWidth imm)

/-- Leading zeros, trailing zeros, ones, reversed bits and bytes (R128). -/
def clz64 (w : Word) : Word := BitVec.ofNat 64 (64 - bitLen w.toNat)
def ctz64 (w : Word) : Word := BitVec.ofNat 64 (((List.range 64).find? (fun k => w.getLsbD k)).getD 64)
def popc64 (w : Word) : Word := BitVec.ofNat 64 ((List.range 64).filter (fun k => w.getLsbD k)).length
def brev64 (w : Word) : Word := BitVec.ofNat 64 (((List.range 64).map fun k => bnat (w.getLsbD k) * 2 ^ (63 - k)).sum)
def bswap64 (w : Word) : Word := BitVec.ofNat 64 (beNat (leBytes 8 w.toNat))

/-! ### By function code (R126–R128, R177) -/

/-- The major 0x00 operation of function code `func`: its result, and the flags it writes. `fl` holds the flags it reads, `cond`
the condition of SEL. -/
def intOp (func : Nat) (a b fl : Word) (cond : Nat) : Word × FlagSet :=
  let x := a.toNat
  let y := b.toNat
  let ci := stBit fl ST.c
  match func with
  | 0x00 => (a + b, {})
  | 0x01 => (a + b, addFlags 64 x y false)
  | 0x02 => (BitVec.ofNat 64 (addRes 64 x y ci), addFlags 64 x y ci)
  | 0x03 => (a - b, {})
  | 0x04 => (a - b, subFlags 64 x y true)
  | 0x05 => (BitVec.ofNat 64 (subRes 64 x y ci), subFlags 64 x y ci)
  | 0x06 => (0 - a, {})
  | 0x07 => (a - b, subFlags 64 x y true)
  | 0x08 => (a &&& b, {})
  | 0x09 => (a ||| b, {})
  | 0x0A => (a ^^^ b, {})
  | 0x0B => (a &&& ~~~b, {})
  | 0x0C => (a ||| ~~~b, {})
  | 0x0D => (a &&& b, logicFlags 64 (a &&& b).toNat)
  | 0x0E => (if condHolds fl cond then a else b, {})
  | 0x0F => (if a.slt b then 1 else 0, {})
  | 0x10 => (if a.ult b then 1 else 0, {})
  | 0x11 => (if a.slt b then a else b, {})
  | 0x12 => (if a.slt b then b else a, {})
  | 0x13 => (if a.ult b then a else b, {})
  | 0x14 => (if a.ult b then b else a, {})
  | 0x15 => (if a.msb then 0 - a else a, {})
  | 0x16 => ((a.setWidth 8).signExtend 64, {})
  | 0x17 => ((a.setWidth 16).signExtend 64, {})
  | 0x18 => ((a.setWidth 32).signExtend 64, {})
  | _ => ((a.setWidth 32).setWidth 64, {})

/-- The major 0x02 operation of function code `func`. -/
def shiftOp (func : Nat) (a b : Word) : Word :=
  let k := b.toNat % 64
  match func with
  | 0x00 => a <<< k
  | 0x01 => a >>> k
  | 0x02 => a.sshiftRight k
  | 0x03 => a.rotateRight k
  | 0x04 => clz64 a
  | 0x05 => ctz64 a
  | 0x06 => popc64 a
  | 0x07 => brev64 a
  | _ => bswap64 a

/-- The major 0x01 operation of function code `func`: its first and second results; none for a zero divisor. -/
def mulOp (func : Nat) (a b c : Word) : Option (Word × Word) :=
  let wide (p : Nat) : Word × Word := (BitVec.ofNat 64 (p / 2 ^ 64), BitVec.ofNat 64 p)
  let s := wide (wrapTo 128 (a.toInt * b.toInt))
  let u := wide (a.toNat * b.toNat)
  match func with
  | 0x00 => some (u.2, 0)
  | 0x01 => some (s.1, 0)
  | 0x02 => some (u.1, 0)
  | 0x03 => some s
  | 0x04 => some u
  | 0x05 => some (c + a * b, 0)
  | 0x06 => some (c - a * b, 0)
  | 0x07 => if b = 0 then none else some (divS a b, 0)
  | 0x08 => if b = 0 then none else some (a / b, 0)
  | 0x09 => if b = 0 then none else some (remS a b, 0)
  | _ => if b = 0 then none else some (a % b, 0)

/-! ### Digit nibbles (R184) -/

/-- The 16 nibbles of a word, the lowest first. -/
def nibbles (a : Word) : List Nat := (List.range 16).map fun k => a.toNat / 16 ^ k % 16

/-- The word of 16 nibbles. -/
def ofNibbles (l : List Nat) : Word := BitVec.ofNat 64 (l.foldr (fun d n => d % 16 + 16 * n) 0)

/-- The carries out of the nibbles of a + b + cin: bit k for nibble k. -/
def nibCarries (a b : Nat) (cin : Bool) : Nat :=
  ((List.range 16).map fun k =>
    if 16 ^ (k + 1) ≤ a % 16 ^ (k + 1) + b % 16 ^ (k + 1) + bnat cin then 2 ^ k else 0).sum

/-- DVALID: is a digit among the lowest `n` invalid, or the sign nibble, which is the lowest one when `sign`? -/
def dvalidBad (a : Word) (n : Nat) (sign : Bool) : Bool :=
  let l := nibbles a
  let digits := if sign then (l.drop 1).take n else l.take n
  digits.any (fun d => decide (9 < d)) || (sign && decide (l.headD 0 < 10))

/-- DBIAS: 6 added to every digit nibble, with no carries between nibbles. -/
def dbias (a : Word) : Word :=
  ofNibbles (((nibbles a).zip (List.range 16)).map fun e => if e.2 = 0 then e.1 else (e.1 + 6) % 16)

/-- DADJA and DADJS: 6 subtracted from every nibble without a carry, which after SBC is one with a borrow. -/
def dadj (a : Word) (carry : Nat) : Word :=
  ofNibbles (((nibbles a).zip (List.range 16)).map fun e => if bitOf carry e.2 then e.1 else (e.1 + 10) % 16)

/-- DSHIFT by `n` digit places. -/
def dshift (a : Word) (n : Nat) (right : Bool) : Word := if right then a >>> (4 * n) else a <<< (4 * n)

/-- DCNT: the significant digits of 16 digit nibbles. -/
def dcnt (a : Word) : Word := BitVec.ofNat 64 ((bitLen a.toNat + 3) / 4)

end Sys2Proof.Machine
end

