-- ==== Sys2Proof/Machine/Access.lean ====
section
/-! DEFINITION. Data accesses of contexts: translation of every page, alignment, and where the access goes (R103–R106,
R257, R620, R629). A store goes to its pair's store buffer or device queue when its instruction commits (R282, R283). -/

namespace Sys2Proof.Machine

/-! ### Accesses -/

/-- The pieces of an access that are translated, in ascending order, and the exception of the first that fails: the lowest
faulting byte address (R105). -/
def State.xlateAll (s : State) (c : Nat) (acc : Acc) : List (Nat × Nat) → State × List (Tr × Nat) × Option Exc
  | [] => (s, [], none)
  | (a, k) :: rest =>
    match s.xlate c acc (BitVec.ofNat 64 a) with
    | .exc s e => (s, [], some e)
    | .gone s => (s, [], none)
    | .ok s t =>
      let (s, l, e) := s.xlateAll c acc rest
      (s, (t, k) :: l, e)

/-- The kinds of data access: a plain one; that of a string, which raises ALIGN in device memory but in the control window,
where R106 holds; that of an atomic or a block instruction, which raises it in all device memory (R105, R106, R157, R620). -/
inductive AccKind where
  | plain | string | block
deriving DecidableEq, Repr

/-- The ALIGN of an access whose pieces `l` are translated, if any. -/
def alignFault (acc : Acc) (va : Word) (l : List (Tr × Nat)) (mis strict : Bool) (k : AccKind) : Option Exc :=
  let device := l.any fun x => x.1.attr == 2
  if k != .block && !l.isEmpty && l.all (fun x => spaceOf x.1.mp == .control) then none
  else if mis && strict then some (excAlign 0x01 va acc.w)
  else if k != .plain && device then some (excAlign 0x02 va acc.w)
  else if mis && device then some (excAlign 0x01 va acc.w)
  else none

/-- Where the pieces `ps` of an access go, or its exception in the order of R121: MCHK of a walk, ALIGN, a translation fault
(R105, R106, R620, R629). `mis` says that it is misaligned, `strict` that its instruction raises ALIGN for that in every
memory type. -/
def State.reachData (s : State) (c : Nat) (acc : Acc) (ps : List (Nat × Nat)) (mis strict : Bool) (k : AccKind) :
    Out (List (Tr × Nat)) :=
  let (t, l, e) := s.xlateAll c acc ps
  let fix := alignFault acc (BitVec.ofNat 64 (ps.headD (0, 0)).1) l mis strict k
  match e, fix with
  | none, none => .ok t l
  | none, some a => .exc t a
  | some e, none => .exc t e
  | some e, some a => .exc t (if e.code = Xc.mchk then e else a)

/-- The first address of an access after translation. -/
def refMp (l : List (Tr × Nat)) : Nat := match l with
  | [] => 0
  | x :: _ => x.1.mp

/-- The bytes of a load from memory, with the first piece that is poison. -/
def State.loadMem (s : State) (c : Nat) (l : List (Tr × Nat)) : State × List Byte × Option Nat :=
  l.foldl (fun (acc : State × List Byte × Option Nat) x =>
    let (s, bs, po) := acc
    let (s, b, p) := s.memRead c x.1.mp x.2 (x.1.attr != 0)
    (s, bs ++ b, if po.isNone && p then some x.1.mp else po)) (s, [], none)

/-- What is performed before a load of context `c` at `mp`: some of the waiting stores of every context, and of its own posted
stores all those to the block it reads (R281, R286). Where one of them stops the context, the load is abandoned with its
instruction. -/
def State.arrive (s : State) (c mp : Nat) : Out Unit :=
  let s := s.idle
  let s := if (spaceOf mp).device then s.devOwn c (· == devBlock mp) else s
  if s.canRun c then .ok s () else .gone s

/-- Perform a load of `n` bytes (R18, R257, R349): a piece that is poison raises MCHK, a contained-class fault against
the context. -/
def State.loadData (s : State) (c : Nat) (va : Word) (l : List (Tr × Nat)) (n : Nat) : Out (List Byte) :=
  let mp := refMp l
  (s.arrive c mp).bind fun s _ =>
  if spaceOf mp = .control then
    let (s, w) := s.winRead (s.rights c) c (mp - controlBase) n
    .ok s (leBytes n w.toNat)
  else if spaceOf mp = .doorbell then
    let (s, w) := s.bellRead c (mp - doorbellBase) n
    .ok s (leBytes n w.toNat)
  else
    let r := s.loadMem c l
    match r.2.2 with
    | some a => .exc (r.1.ctxFault c a) { code := Xc.mchk, faddr := some va }
    | none => .ok r.1 r.2.1

/-- A store of `bs` commits (R180, R282, R283): to memory it enters the pair's store buffer, to device memory the device
queue. `whole` marks one operation that clears the poison of the sectors it covers (R258), `st64` an ST64. -/
def State.storeData (s : State) (c : Nat) (l : List (Tr × Nat)) (bs : List Byte) (whole st64 : Bool) : State :=
  let mp := refMp l
  if (spaceOf mp).device then s.devPut { ctx := c, mp := mp, bytes := bs, st64 := st64 }
  else
    (l.foldl (fun (acc : State × List Byte) x =>
      (acc.1.sbPut { ctx := c, mp := x.1.mp, bytes := acc.2.take x.2, uncached := x.1.attr != 0, whole := whole },
       acc.2.drop x.2)) (s, bs)).1

/-- The store of an atomic, which its response performs (R131, R180). -/
def State.storeNow (s : State) (c : Nat) (l : List (Tr × Nat)) (bs : List Byte) : State :=
  (l.foldl (fun (acc : State × List Byte) x =>
    (acc.1.ctxWrite c x.1.mp (acc.2.take x.2) (x.1.attr != 0) false, acc.2.drop x.2)) (s, bs)).1

/-! ### The wide part (R121, R219) -/

/-- The wide part is needed for a floating load or store: LAZY before any effect (R219), its bank at the end (R121). -/
def State.wideIf (s : State) (c : Nat) (fp : Bool) : Out Unit := if fp then s.wide c else .ok s ()
def State.lazyIf (s : State) (c : Nat) (fp : Bool) : Out Unit := if fp then s.lazy c else .ok s ()
def State.bankIf (s : State) (c : Nat) (fp : Bool) : Out Unit := if fp then s.needWide c else .ok s ()

end Sys2Proof.Machine
end

