-- ==== Sys2Proof/Machine/SysOps.lean ====
section
/-! DEFINITION. The system registers, and what the S format instructions from BAR to LOADM do (04_native_architecture.md R97–R100,
R115, R132; 07 R216, R219–R224; 09 R269; 10 R287–R292). -/

namespace Sys2Proof.Machine

/-! ### System registers (R97, R98, R100) -/

/-- A system register's number by level: 1 needs S, 2 needs F. None: not listed. -/
def sysLevel (n : Nat) : Option Nat :=
  if n ≤ 0x005 then some 0
  else if (0x010 ≤ n ∧ n ≤ 0x016) ∨ n = 0x018 then some 1
  else if 0x020 ≤ n ∧ n ≤ 0x029 then some 2
  else none

/-- FCSR and DCR belong to the wide part (R219). -/
def sysWide (n : Nat) : Bool := n == 0x001 || n == 0x002

/-- CTX: context number, partition, and 1 in the firmware context. -/
def State.ctxReg (s : State) (c : Nat) : Word :=
  BitVec.ofNat 64 (c % 1024 + (s.partOf c).getD 0 % 256 * 2 ^ 16 + bnat (isFw c) * 2 ^ 24)

/-- Register `k` of a level's group, numbered from 0x010 or 0x020. -/
def SysRegs.read (r : SysRegs) (k : Nat) : Word :=
  match k with
  | 0 => r.vbar
  | 1 => r.rpc
  | 2 => r.rst
  | 3 => r.cause
  | 4 => r.faddr
  | 5 => r.scr0
  | 6 => r.scr1
  | 7 => r.fpr
  | 8 => r.ctx
  | _ => r.root

/-- Write register `k` of a level's group; F.CTX is read-only. -/
def SysRegs.write (r : SysRegs) (k : Nat) (fw : Bool) (w : Word) : SysRegs :=
  match k with
  | 0 => { r with vbar := w &&& ~~~0xFFF#64 }
  | 1 => { r with rpc := w }
  | 2 => { r with rst := maskSt w }
  | 3 => { r with cause := maskCause w }
  | 4 => { r with faddr := w }
  | 5 => { r with scr0 := w }
  | 6 => { r with scr1 := w }
  | 7 => { r with fpr := w }
  | 8 => r
  | _ => { r with root := if fw then maskRootF w else maskRootS w }

/-- The S registers' group has S.ROOT at 0x018. -/
def sIndex (n : Nat) : Nat := if n = 0x018 then 9 else n - 0x010

/-- Read a system register. -/
def State.sysRead (s : State) (c n : Nat) : State × Word :=
  let x := s.ctx c
  match n with
  | 0x000 => (s, x.st)
  | 0x001 => (s, x.fcsr)
  | 0x002 => (s, x.dcr)
  | 0x003 => (s, x.cyc)
  | 0x004 => let s := s.look; (s, BitVec.ofNat 64 s.tod)
  | 0x005 => (s, s.ctxReg c)
  | _ => (s, if n < 0x020 then x.sr.read (sIndex n) else x.fr.read (n - 0x020))

/-- ST after a write at level P: only the flags change; at S and F also IE, SS and EX (R97). -/
def stWrite (st w : Word) (user : Bool) : Word :=
  let m : Word := if user then 0x1F#64 else 0x701F#64
  (st &&& ~~~m) ||| (w &&& m)

/-- Write a system register; read-only ones ignore it. -/
def State.sysWrite (s : State) (c n : Nat) (w : Word) : State :=
  let x := s.ctx c
  match n with
  | 0x000 => s.setCtx c { x with st := stWrite x.st w (s.level c == 0) }
  | 0x001 => s.setCtx c { x with fcsr := maskFcsr w }
  | 0x002 => s.setCtx c { x with dcr := maskDcr w }
  | 0x003 => s
  | 0x004 => s
  | 0x005 => s
  | _ =>
    if n < 0x020 then s.setCtx c { x with sr := x.sr.write (sIndex n) false w }
    else s.setCtx c { x with fr := x.fr.write (n - 0x020) true w }

/-! ### The operations of S format that a nano-word can issue (R132, R177) -/

/-- No field of the instruction is used. -/
def sBare (f : SFmt) : Bool := f.rd != 0 || f.ra != 0 || f.imm != 0

/-- `bad` is the UNDEF condition of an S format instruction, `lvl` the level it needs (PRIV, R99). -/
def State.atLevel (s : State) (c : Nat) (bad : Bool) (lvl : Nat) (body : State → Done) : Done :=
  guardUndef s bad (if s.level c < lvl then .exc s (excPriv 0x01) else body s)

/-- What BAR waits for by its scope (R287): 0 core, the stores of the context; 1 cluster, also its posted stores to the WEFT
block of the die of its physical pair (R327); 2 system, all its posted stores. -/
def State.barrier (s : State) (c scope : Nat) : State :=
  let s := s.sbOwn c
  if scope = 0 then s
  else if scope = 1 then s.devOwn c (· == weftBlock (s.agentOf c / 12))
  else s.devOwn c fun _ => true

/-- An instruction completes, unless a store that it waited for has stopped its context. -/
def State.goOn (s : State) (c : Nat) (k : State → State) : Done := if s.canRun c then .next (k s) else .wait s

/-- BAR (R287–R289): it commits when what it waits for is complete, which one command carries through; an interrupt that is
allowed is taken in its place, and it runs again (log entry 31). -/
def State.barBody (s : State) (c : Nat) (f : SFmt) : Done :=
  s.atLevel c (f.rd != 0 || f.ra != 0 || decide (2 < f.imm.toNat)) 0 fun s => (s.barrier c f.imm.toNat).goOn c id

/-- PERSIST (R292, R293): as a BAR of system scope, and every Hem window store of the pair is durable; it waits while no Hem
die is in service. -/
def State.persistBody (s : State) (c : Nat) (f : SFmt) : Done :=
  s.atLevel c (sBare f) 0 fun s =>
    if !s.fbit HEM_STAT.H0OK && !s.fbit HEM_STAT.H1OK then .wait s
    else
      let p := s.agentOf c
      (s.barrier c 2).goOn c fun s => (s.persistClean p).winDurable fun _ g => g == p + 1

/-- ISYNC: instructions are fetched one command at a time (log entry 15). -/
def State.isyncBody (s : State) (c : Nat) (f : SFmt) : Done := s.atLevel c (sBare f) 0 fun s => .next s

/-- WFE: commits and clears the EVENT latch, or the Pocket is BLOCKED at it; a firmware Pocket for which a PARTX waits is READY
again at once (R217). An interrupt allowed while the latch is set is taken after it commits. -/
def State.wfeBody (s : State) (c : Nat) (f : SFmt) : Done :=
  s.atLevel c (sBare f) 0 fun s =>
    if s.fbit (POCKET_STAT.EVENT c) then .next (s.fset (POCKET_STAT.EVENT c) 0)
    else .wait (s.setPk c (if isFw c && !(s.partxOf (slotOf c)).isEmpty then pkReady else pkBlocked))

/-- Before an invalidation (R290): every access that was translated is performed, on every pair. -/
def State.quiet (s : State) : State := s.sbFlushAll.devFlush

/-- TLBI drops stage 1 translations of the context's partition: by address, by ASID, or all. -/
def State.tlbiBody (s : State) (c : Nat) (f : SFmt) : Done :=
  s.atLevel c (f.rd != 0 || decide (2 < f.imm.toNat) || (f.imm == 2 && f.ra != 0)) 1 fun s =>
    let a := (s.g c f.ra).toNat
    let hit (t : Tlb1) : Bool := some t.part == s.partOf c && (match f.imm.toNat with
      | 0 => a / 2 ^ t.bits == t.va / 2 ^ t.bits
      | 1 => t.asid == a % 2 ^ 16
      | _ => true)
    s.quiet.goOn c fun s => { s with core := { s.core with tlb1 := s.core.tlb1.filter fun t => !hit t } }

/-- TLB2I drops stage 2 translations of the partition that rd names: by address or all. -/
def State.tlb2iBody (s : State) (c : Nat) (f : SFmt) : Done :=
  s.atLevel c (decide (1 < f.imm.toNat) || (f.imm == 1 && f.ra != 0)) 2 fun s =>
    let a := (s.g c f.ra).toNat
    let n := (s.g c f.rd).toNat
    let hit (t : Tlb2) : Bool := t.part == n && (f.imm != 0 || a / 2 ^ t.bits == t.pr / 2 ^ t.bits)
    s.quiet.goOn c fun s => { s with core := { s.core with tlb2 := s.core.tlb2.filter fun t => !hit t } }

/-- The address `t` in the Classic window of context `c` (R195). -/
def State.inWindow (s : State) (c t : Nat) : Word :=
  BitVec.ofNat 64 ((s.g c 28).toNat / 2 ^ 32 * 2 ^ 32 + t % 2 ^ 32)

/-- The pieces of `n` bytes at Classic address `a`: past the top of the window they go on at its bottom. -/
def State.cpieces (s : State) (c a n : Nat) : List (Nat × Nat) :=
  let w := (s.inWindow c 0).toNat
  if a + n ≤ 2 ^ 32 then pagePieces (w + a) n
  else pagePieces (w + a) (2 ^ 32 - a) ++ pagePieces w (a + n - 2 ^ 32)

/-- CSW to Classic (R220). -/
def State.cswBody (s : State) (c : Nat) (f : SFmt) : Done :=
  s.atLevel c (f.imm != 0) 0 fun s =>
    let t := (s.g c f.ra).toNat
    let s := s.setG c f.rd ((s.ctx c).pc + 4)
    .jump (s.setCtx c { s.ctx c with st := stSet (s.ctx c).st ST.cls true }) (s.inWindow c (t / 4 * 4))

/-! ### Cache operations (R269) -/

/-- CCLEAN of a sector, throughout the coherence domain. -/
def State.cleanSector (s : State) (sec : Nat) : State :=
  let s := s.settle sec
  let s := match (s.dirOf sec).owner with
    | some q => s.cleanAt q sec
    | none => s
  s.l3Clean sec

/-- CFLUSH: then every cached copy → I, L3 included. -/
def State.flushSector (s : State) (sec : Nat) : State :=
  let s := (s.cleanSector sec).recallAll sec
  (s.l3Clean sec).l3Drop sec

/-- CINV: every cached copy → I, dirty data discarded, memory unchanged. It clears no poison (R258): the sector stays as
poisoned as its current value was. -/
def State.invSector (s : State) (sec : Nat) : State :=
  let s := s.settle sec
  let po := s.curPois sec
  let s := match (s.dirOf sec).owner with
    | some q => ((s.dropBytes sec).undirty q sec).setDir sec { s.dirOf sec with st := .e }
    | none => s
  let s := (s.recallAll sec).l3Drop sec
  if s.homePois sec == po then s else s.setHomePois sec po

/-- A cache instruction at ra, after the context's earlier stores (R281): nothing in device memory; what the Hem home refuses
is a contained-class fault. -/
def State.cacheBody (s : State) (c : Nat) (f : SFmt) (acc : Acc) (fwOnly : Bool) (op : State → Nat → State) : Done :=
  s.atLevel c (f.rd != 0 || f.imm != 0) (if fwOnly then 2 else 0) fun s =>
    (s.xlate c acc (s.g c f.ra)).fin fun s t =>
    if t.attr = 2 ∨ (spaceOf t.mp).device ∨ !s.served t.mp then .next s
    else if !s.mayReach (s.partOf c) t.mp then .next (s.ctxFault c t.mp)
    else .next (op (s.sbOwn c) (t.mp / 64))

/-- PREF: ReadS or ReadM without waiting; a faulting, device or poisoned address makes it do nothing. -/
def State.prefBody (s : State) (c : Nat) (f : SFmt) : Done :=
  s.atLevel c (f.rd != 0 || decide (1 < f.imm.toNat)) 0 fun s =>
    match s.xlate c (if f.imm = 1 then accStore else accLoad) (s.g c f.ra) with
    | .exc _ _ => .next s
    | .gone _ => .next s
    | .ok t tr =>
      let sec := tr.mp / 64
      if tr.attr = 2 ∨ (spaceOf tr.mp).device ∨ !t.served tr.mp ∨ t.curPois sec ∨ !t.mayReach (t.partOf c) tr.mp then .next t
      else if f.imm = 1 ∧ t.l2st (t.agentOf c) = 1 then
        .next ((t.meet (t.agentOf c) sec).readOwn (t.agentOf c) sec)
      else .next (t.loadSector (t.agentOf c) sec false)

/-! ### Block save and restore by mask (R221–R224) -/

/-- What a save chain holds. -/
inductive SaveItem where
  | g (k : Nat)
  | f (k : Nat)
  | x (k : Nat)
deriving DecidableEq, Repr

/-- The items of a GMASK and an XMASK, in order (R222). -/
def saveItems (gm xm : Nat) : List SaveItem :=
  ((List.range 32).filter (bitOf gm)).map .g ++ ((List.range 32).filter fun k => bitOf gm (32 + k)).map .f
    ++ ((List.range 10).filter (bitOf xm)).map .x

/-- Items of the wide part. -/
def SaveItem.wide : SaveItem → Bool
  | .g _ => false
  | .f _ => true
  | .x k => k == 7 || k == 8

/-- The value of an item. -/
def Ctx.item (x : Ctx) : SaveItem → Word
  | .g k => x.readG k
  | .f k => x.readF k
  | .x 0 => x.sr.rpc
  | .x 1 => x.sr.rst
  | .x 2 => x.sr.cause
  | .x 3 => x.sr.faddr
  | .x 4 => x.sr.scr0
  | .x 5 => x.sr.scr1
  | .x 6 => x.sr.root
  | .x 7 => x.fcsr
  | .x 8 => x.dcr
  | .x _ => BitVec.ofNat 64 (abandonWord x.abandonLow)

/-- Restore an item. -/
def Ctx.putItem (x : Ctx) (i : SaveItem) (w : Word) : Ctx :=
  match i with
  | .g k => x.writeG k w
  | .f k => x.writeF k w
  | .x 7 => { x with fcsr := maskFcsr w }
  | .x 8 => { x with dcr := maskDcr w }
  | .x 9 => { x with abandonLow := abandonFrom w }
  | .x k => { x with sr := x.sr.write (if k < 6 then k + 1 else 9) false w }

/-- Does LOADM hold the item for its final commit: XMASK items, and ra and rd (R223)? -/
def SaveItem.held (i : SaveItem) (f : SFmt) : Bool :=
  match i with
  | .g k => k == f.ra.toNat || k == f.rd.toNat
  | .f _ => false
  | .x _ => true

/-- A save block's header (R221). -/
structure SaveHead where
  link : Nat
  size : Nat
  gmask : Nat
  xmask : Nat
  prog : Nat
  rest : Nat
deriving DecidableEq, Repr

def SaveHead.of (bs : List Byte) : SaveHead :=
  let w (o : Nat) : Nat := leNat ((bs.drop o).take 8)
  { link := w 0, size := w 8, gmask := w 0x10, xmask := w 0x18, prog := w 0x20, rest := leNat (bs.drop 0x28) }
def SaveHead.first (h : SaveHead) : Nat := h.prog % 128
def SaveHead.count (h : SaveHead) : Nat := bitsOf h.prog 14 8

/-- Word 0x20 of a block. -/
def progWord (first count : Nat) : List Byte := leBytes 8 (first % 128 + count % 128 * 256)

/-- A block whose header raises UNDEF 0x02 (R224): SIZE 0, a reserved field, a selection SAVEM must not make. `fresh`: the
SAVEM that writes word 0x20 first. -/
def SaveHead.bad (h : SaveHead) (f : SFmt) (save fresh : Bool) : Bool :=
  h.size == 0 || decide (63 < h.size) || decide (2 ^ 10 ≤ h.xmask) || h.rest != 0
    || (!fresh && (bitOf h.prog 7 || decide (2 ^ 15 ≤ h.prog)))
    || (save && (bitOf h.gmask 0 || bitOf h.gmask f.ra.toNat || bitOf h.gmask f.rd.toNat))

/-- Go to block `a` for `n` bytes at offset `o` (R224): aligned, and not in device memory. -/
def State.reachBlock (s : State) (c : Nat) (acc : Acc) (a : Word) (o n : Nat) : Out (List (Tr × Nat)) :=
  if a.toNat % 64 ≠ 0 then .exc s (excAlign 0x01 a acc.w)
  else s.reachData c acc (pagePieces (a + BitVec.ofNat 64 o).toNat n) false false .block

/-- Where the unit that starts with `p` items done ends: its items, whether it fills its block, whether it is the last. -/
structure SaveUnit where
  items : List SaveItem
  /-- number of the unit's first item in its block -/
  off : Nat
  fills : Bool
  final : Bool

def saveUnit (l : List SaveItem) (h : SaveHead) (first p : Nat) : SaveUnit :=
  let off := p - first
  let k := min (8 - off % 8) (l.length - p)
  { items := (l.drop p).take k, off := off, fills := off + k == 8 * h.size, final := p + k == l.length }

/-- What the SAVEM or LOADM at the PC of context `c` keeps between its units. -/
def State.blockProg (s : State) (c : Nat) : BlockProg := AMap.get {} (s.ctx c).blocks (s.ctx c).pc.toNat

/-- Set what the SAVEM or LOADM at the PC keeps. -/
def State.setBlockProg (s : State) (c : Nat) (b : BlockProg) : State :=
  let x := s.ctx c
  s.setCtx c { x with blocks := AMap.set {} x.blocks x.pc.toNat b }

/-- What SAVEM and LOADM share: the fields, the header of the block at ra, the selection and the position; then `unit` does
one unit, with the first item's number of the block, and brings the wide part in once its accesses are checked (R121). -/
def State.saveBody (s : State) (c : Nat) (f : SFmt) (save : Bool)
    (unit : State → SaveHead → List SaveItem → Nat → Nat → Done) : Done :=
  if decide (1 < f.imm.toNat) || f.rd == f.ra || f.rd == 0 || f.ra == 0 then .exc s (excUndef 0x02)
  else if s.level c < 1 then .exc s (excPriv 0x01)
  else
    let a := s.g c f.ra
    let p := (s.g c f.rd).toNat
    (s.reachBlock c accLoad a 0 64).fin fun s hp =>
    (s.loadData c a hp 64).fin fun s bs =>
    let h := SaveHead.of bs
    let fresh := p == 0
    let first := if save && fresh then 0 else h.first
    let entry := fresh || (s.blockProg c).entered == some p
    let l := saveItems h.gmask h.xmask
    if h.bad f save (save && fresh) then .exc s (excUndef 0x02)
    else if !save && entry && h.first != p then .exc s (excUndef 0x03)
    else if p < first ∨ (p < l.length ∧ 8 * h.size ≤ p - first) then .exc s (excUndef 0x03)
    else unit s h l first p

/-- The end of a SAVEM or LOADM. -/
def State.saveDone (s : State) (c : Nat) (f : SFmt) (save : Bool) : State :=
  let s := s.setBlockProg c {}
  if f.imm.getLsbD 0 then s.fset (POCKET_STAT.WLIVE c) (bnat (!save)) else s

/-- A unit's commit sets the progress, and ra when the next block is entered. -/
def State.saveMove (s : State) (c : Nat) (f : SFmt) (p : Nat) (next : Option Nat) : State :=
  let s := s.setG c f.rd (BitVec.ofNat 64 p)
  let s := match next with
    | some b => s.setG c f.ra (BitVec.ofNat 64 b)
    | none => s
  s.setBlockProg c { s.blockProg c with entered := next.map fun _ => p }

/-- SAVEM: one unit; the last one completes the instruction. -/
def State.savemBody (s : State) (c : Nat) (f : SFmt) : Done :=
  s.saveBody c f true fun s h l first p =>
    let a := s.g c f.ra
    if l.length ≤ p ∧ p ≠ 0 then .next (s.saveDone c f true)
    else
      let u := saveUnit l h first p
      let n := u.items.length
      let cross := u.fills && !u.final
      let b := BitVec.ofNat 64 h.link
      let body : Out (List (Tr × Nat)) := if n = 0 then .ok s [] else s.reachBlock c accStore a (0x40 + 8 * u.off) (8 * n)
      body.fin fun s bp =>
      (s.reachBlock c accStore a 0x20 8).fin fun s pp =>
      if cross && h.link == 0 then .exc s (excUndef 0x01)
      else
        let nx : Out (List (Tr × Nat)) := if cross then s.reachBlock c accStore b 0x10 24 else .ok s []
        nx.fin fun s np =>
        (s.bankIf c (l.any SaveItem.wide)).fin fun s _ =>
        let x := s.ctx c
        let s := if n = 0 then s
          else s.storeData c bp (u.items.flatMap fun i => leBytes 8 (x.item i).toNat) true false
        let s := if p = 0 then s.storeData c pp (progWord 0 0) false false else s
        let s := if u.fills || u.final then s.storeData c pp (progWord first (u.off + n)) false false else s
        let s := if cross then
            s.storeData c np (leBytes 8 h.gmask ++ leBytes 8 h.xmask ++ progWord (p + n) 0) false false
          else s
        let s := s.saveMove c f (p + n) (if cross then some h.link else none)
        if u.final then .next (s.saveDone c f true) else .again s

/-- The final commit of LOADM writes what it held; an item no longer held is a free value (log entry 32). -/
def State.loadFinal (s : State) (c : Nat) (f : SFmt) (l : List SaveItem) : State :=
  (l.zip (List.range l.length)).foldl (fun (s : State) (e : SaveItem × Nat) =>
    if e.1.held f then
      match AMap.find? e.2 (s.blockProg c).held with
      | some w => s.setCtx c ((s.ctx c).putItem e.1 w)
      | none => let (w, s) := s.draw; s.setCtx c ((s.ctx c).putItem e.1 w)
    else s) s

/-- LOADM: one unit; the last one completes the instruction. -/
def State.loadmBody (s : State) (c : Nat) (f : SFmt) : Done :=
  s.saveBody c f false fun s h l first p =>
    let a := s.g c f.ra
    if l.length ≤ p ∧ p ≠ 0 then .next (s.saveDone c f false)
    else
      let u := saveUnit l h first p
      let n := u.items.length
      let cross := u.fills && !u.final
      let body : Out (List (Tr × Nat)) := if n = 0 then .ok s [] else s.reachBlock c accLoad a (0x40 + 8 * u.off) (8 * n)
      body.fin fun s bp =>
      let rd : Out (List Byte) := if n = 0 then .ok s [] else s.loadData c (a + BitVec.ofNat 64 (0x40 + 8 * u.off)) bp (8 * n)
      rd.fin fun s bs =>
      if cross && h.link == 0 then .exc s (excUndef 0x01)
      else if (u.fills || u.final) && h.count != u.off + n then .exc s (excUndef 0x03)
      else
        (s.bankIf c (l.any SaveItem.wide)).fin fun s _ =>
        let s := if p = 0 then s.setBlockProg c { s.blockProg c with held := [] } else s
        let s := (u.items.zip (List.range n)).foldl (fun (s : State) (e : SaveItem × Nat) =>
          let w := leWord ((bs.drop (8 * e.2)).take 8)
          let b := s.blockProg c
          if e.1.held f then s.setBlockProg c { b with held := AMap.insert (p + e.2) w b.held }
          else s.setCtx c ((s.ctx c).putItem e.1 w)) s
        let s := s.saveMove c f (p + n) (if cross then some h.link else none)
        if u.final then .next ((s.loadFinal c f l).saveDone c f false) else .again s

/-- The operation of an S-format sub-op from BAR to LOADM (R177). -/
def State.sysBody (s : State) (c sub : Nat) (f : SFmt) : Done :=
  match sub with
  | 0x07 => s.barBody c f
  | 0x08 => s.persistBody c f
  | 0x09 => s.isyncBody c f
  | 0x0A => s.wfeBody c f
  | 0x0B => s.tlbiBody c f
  | 0x0C => s.tlb2iBody c f
  | 0x0D => s.cacheBody c f accLoad false State.cleanSector
  | 0x0E => s.cacheBody c f accLoad false State.flushSector
  | 0x0F => s.cacheBody c f accStore true State.invSector
  | 0x10 => s.prefBody c f
  | 0x11 => s.cswBody c f
  | 0x12 => s.savemBody c f
  | _ => s.loadmBody c f

end Sys2Proof.Machine
end

