-- ==== Sys2Proof/Machine/Micro.lean ====
section
/-! DEFINITION. The control store (06_control_store_and_classic_mode.md R169–R187): how micro-words are fetched and sequenced,
what a nano-word does, and the frame of one instruction.

The routines of the micro-ROM do what the instructions' own definitions say: their words are not in the spec (log entry 135).
Where a pair's Damson has an enabled match register, its routines are run word by word from their entry points; a routine that
has met no Damson word when it ends is the ROM's, and its instruction does what its definition says. -/

namespace Sys2Proof.Machine

/-! ### Fetching words (R169, R170, R174, R185) -/

/-- What a read of the control stores answers: a word (and, of a micro-word, its address and whether it is Damson's), a parity
error in an array (R185), or that the address is reserved. -/
inductive Fetched where
  | word (w addr : Nat) (damson : Bool)
  | parity (array : Nat)
  | reserved

/-- Read micro-word `k` of a Damson. -/
def Damson.microWord (d : Damson) (k : Nat) : Fetched :=
  let w := AMap.get 0 d.micro k
  if parityOk 24 w then .word (w % 2 ^ 24) (0x8000 + k) true else .parity 2

/-- The enabled match register that names micro-ROM address `a`, as its TARGET (R187). -/
def Damson.target (d : Damson) (a : Nat) : Option Nat :=
  (firstThat (fun e => bitOf e.2 63 && e.2 % 2 ^ 15 == a) d.mtch).map fun e => bitsOf e.2 41 32

/-- The micro-word at address `a`: a micro-ROM address that an enabled match register names gives the Damson word in its place
(R174, R187). -/
def Damson.fetchMicro (d : Damson) (a : Nat) : Fetched :=
  if a < 0x8000 then
    if d.mtch.any (fun e => !parityOk 64 e.2) then .parity 4
    else match d.target a with
      | some t => d.microWord t
      | none => .word (Config.microRom a).toNat a false
  else if a < 0x8400 then d.microWord (a - 0x8000)
  else .reserved

/-- The nano-word at address `a`; word 0 of the nano-ROM is all zero (R169). -/
def Damson.fetchNano (d : Damson) (a : Nat) : Fetched :=
  if a = 0 then .word 0 0 false
  else if a < 0x1000 then .word (Config.nanoRom a).toNat a false
  else if a < 0x1100 then
    let w := AMap.get 0 d.nano (a - 0x1000)
    if parityOk 176 w then .word (w % 2 ^ 176) a true else .parity 3
  else .reserved

/-! ### Nano-words (R175–R177) -/

/-- The fields of a nano-word. -/
structure Nano where
  ctl : Nat
  alu : Nat
  srca : Nat
  srcb : Nat
  dsta : Nat
  dstb : Nat
  lit : Nat
  mem : Nat
  asrc : Nat
  aidx : Nat
  ascale : Nat
  flag : Nat
  muldiv : Nat
  fpu : Nat
  sys : Nat
  disp : Nat
  loop : Nat
  xmode : Nat
  low : Nat
deriving DecidableEq, Repr

def Nano.of (w : Nat) : Nano :=
  let b := bitsOf w
  { ctl := b 175 168, alu := b 167 160, srca := b 159 154, srcb := b 153 148, dsta := b 147 142, dstb := b 141 136
    lit := b 135 120, mem := b 119 112, asrc := b 111 106, aidx := b 105 100, ascale := b 99 96, flag := b 95 88
    muldiv := b 87 80, fpu := b 79 72, sys := b 71 64, disp := b 63 56, loop := b 55 48, xmode := b 47 40, low := b 39 0 }

/-- A code from `a` to `b`. -/
def within (x a b : Nat) : Bool := decide (a ≤ x) && decide (x ≤ b)

/-- The six selectors. -/
def Nano.selectors (n : Nano) : List Nat := [n.srca, n.srcb, n.dsta, n.dstb, n.asrc, n.aidx]

/-- A selector that is no destination (R176). -/
def noDest (code : Nat) : Bool := code == 49 || code == 50 || code == 52 || code == 53 || code == 55

/-- A reserved field that is not 0, or a reserved code (R175–R177, R186). -/
def Nano.bad (n : Nano) : Bool :=
  let alu := n.alu == 0 || within n.alu 0x01 0x19 || within n.alu 0x20 0x28 || within n.alu 0x30 0x37
  let fpu := n.fpu == 0 || (within n.fpu 0x01 0x40 && decide ((n.fpu - 1) % 32 ≤ 0x17))
  let mem := n.mem == 0 || within n.mem 0x18 0x2A || within n.mem 0x40 0x4B || within n.mem 0x60 0x61
  let sys := decide (n.sys ≤ 0x02) || within n.sys 0x17 0x23
  !(alu && fpu && mem && sys) || decide (3 < n.ctl) || decide (0x0B < n.muldiv) || decide (4 < n.disp) || decide (3 < n.loop)
    || decide (4 < n.ascale) || bitOf n.flag 6 || n.xmode % 16 != 0 || n.low != 0
    || n.selectors.any (fun k => decide (60 < k)) || noDest n.dsta || noDest n.dstb
    || (n.ctl == 3 && (n.lit % 256 == 0 || decide (Xc.double < n.lit % 256)))

/-! ### Operands (R176) -/

/-- A routine with the next word at `a`. -/
def Routine.at_ (r : Routine) (a : Nat) : Routine := { r with addr := a }

/-- The number in register field `k` (0 to 3) of the instruction: rd, ra, rb, rc, or the Classic field in that place. -/
def Routine.field (r : Routine) (xm k : Nat) : Nat :=
  if bitOf xm 7 then bitsOf r.ir (23 - 5 * k) (19 - 5 * k) else bitsOf r.ir (25 - 5 * k) (21 - 5 * k)

/-- The g register that selector 56 + `k` names, and its half: 0 the whole register, 1 the even half, 2 the odd half. -/
def Routine.fieldReg (r : Routine) (xm k : Nat) : Nat × Nat :=
  let n := r.field xm k
  if !bitOf xm 7 then (n, 0)
  else (16 + n / 2, if bitsOf xm 6 5 = 3 then 1 + n % 2 else bitsOf xm 6 5)

/-- The half of a register. -/
def halfOf64 (h : Nat) (w : Word) : Word :=
  if h = 0 then w else if h = 1 then w >>> 32 else (w.setWidth 32).setWidth 64

/-- A register with its half `h` replaced. -/
def putHalf (h : Nat) (w v : Word) : Word :=
  if h = 0 then v
  else if h = 1 then (v <<< 32) ||| (w &&& 0xFFFFFFFF#64)
  else (w &&& ~~~0xFFFFFFFF#64) ||| (v &&& 0xFFFFFFFF#64)

/-- What a selector selects. -/
def State.sel (s : State) (c : Nat) (r : Routine) (n : Nano) (code : Nat) : Word :=
  let x := s.ctx c
  if code < 32 then x.readG code
  else if code < 48 then AMap.get 0 r.temps (code - 32)
  else match code with
    | 48 => x.pc
    | 49 => 0
    | 50 => (BitVec.ofNat 16 n.lit).signExtend 64
    | 51 => r.flags
    | 52 => BitVec.ofNat 64 r.ir
    | 53 => BitVec.ofNat 64 r.ir2
    | 54 => BitVec.ofNat 64 r.loop
    | 55 => r.data
    | 60 => x.readG 28 &&& ~~~0xFFFFFFFF#64
    | _ =>
      let gh := r.fieldReg n.xmode (code - 56)
      halfOf64 gh.2 (x.readG gh.1)

/-- An operand of the FPU field: codes 0 to 31 are f registers, and so are 56 to 59 by the instruction's field (DEDUCED, log
entry 135). -/
def State.selF (s : State) (c : Nat) (r : Routine) (n : Nano) (code : Nat) : Word :=
  if code < 32 then (s.ctx c).readF code
  else if 56 ≤ code ∧ code < 60 then (s.ctx c).readF (r.field n.xmode (code - 56))
  else s.sel c r n code

/-- Deliver `v` to a destination: at once to a part of the routine's own state, and to g and f registers and the PC only in a
word that commits (R180). -/
def State.deliverTo (s : State) (c : Nat) (r : Routine) (n : Nano) (code : Nat) (v : Word) (fp commit : Bool) : State × Routine :=
  let x := s.ctx c
  if within code 32 47 then (s, { r with temps := AMap.set 0 r.temps (code - 32) v })
  else if code = 51 then (s, { r with flags := v &&& 0x1F#64 })
  else if code = 54 then (s, { r with loop := v.toNat % 2 ^ 16 })
  else if !commit then (s, r)
  else if code = 48 then (s, { r with target := some v })
  else if code = 60 then (s.setCtx c (x.writeG 28 (putHalf 1 (x.readG 28) (v >>> 32))), r)
  else if code < 32 then (s.setCtx c (if fp then x.writeF code v else x.writeG code v), r)
  else if fp then (s.setCtx c (x.writeF (r.field n.xmode (code - 56)) v), r)
  else
    let gh := r.fieldReg n.xmode (code - 56)
    (s.setCtx c (x.writeG gh.1 (putHalf gh.2 (x.readG gh.1) v)), r)

/-! ### Operations (R177, R184) -/

/-- What an operation delivers: results for DSTA and DSTB, whether these are f registers, and the flags it computes. -/
structure NanoRes where
  a : Word
  b : Word := 0
  fp : Bool := false
  fl : FlagSet := {}

/-- Decimal nano-operations (R184). DSIGN puts the preferred sign code into t15, and DMUL10 multiplies in binary (DEDUCED, log
entry 135). -/
def Routine.decimal (r : Routine) (code : Nat) (a b : Word) (lit : Nat) : Routine × Option NanoRes :=
  match code with
  | 0x30 => ({ r with dbad := dvalidBad a (lit % 32) (bitOf lit 5) }, none)
  | 0x31 => (r, some { a := dbias a })
  | 0x32 => (r, some { a := dadj a r.carry })
  | 0x33 => (r, some { a := dadj a r.carry })
  | 0x34 =>
    let zero := a.toNat / 16 == 0
    let neg := bitOf a.toNat 0 && !zero
    let t := AMap.get 0 r.temps 15
    ({ r with flags := stSet (stSet r.flags ST.n neg) ST.z zero
              temps := AMap.set 0 r.temps 15 ((t &&& ~~~0xF#64) ||| BitVec.ofNat 64 (signCode neg)) }, none)
  | 0x35 => (r, some { a := dshift a (b.toNat % 64) (bitOf b.toNat 6) })
  | 0x36 => (r, some { a := dcnt a })
  | _ =>
    let v := a.toNat * 10 + b.toNat % 16
    ({ r with flags := stSet r.flags ST.c (decide (2 ^ 64 ≤ v)) }, some { a := BitVec.ofNat 64 v })

/-- The ALU field. ADC and SBC leave their carries out of the nibbles in the carry vector; SEL takes its condition from the
instruction's rc field (DEDUCED, log entry 135). -/
def Routine.alu (r : Routine) (code : Nat) (a b : Word) (lit : Nat) : Routine × Option NanoRes :=
  if code = 0 then (r, none)
  else if 0x30 ≤ code then r.decimal code a b lit
  else if 0x20 ≤ code then (r, some { a := shiftOp (code - 0x20) a b })
  else
    let x := intOp code a b r.flags (bitsOf r.ir 9 6)
    let ci := stBit r.flags ST.c
    let r := if code = 0x02 then { r with carry := nibCarries a.toNat b.toNat ci }
      else if code = 0x05 then { r with carry := nibCarries a.toNat (~~~b).toNat ci }
      else r
    (r, some { a := x.1, fl := x.2 })

/-- Where a floating operation's result goes: f rd, g rd, or the flags (R130). -/
inductive FpTo where
  | f | g | flags
deriving DecidableEq, Repr

def fpTo (func : Nat) : FpTo :=
  match func with
  | 0x0B => .flags
  | 0x0C | 0x0D | 0x0E | 0x0F | 0x10 | 0x14 | 0x16 => .g
  | _ => .f

/-- The major 0x04 operation of function code `func` on operands' bits (R130, R145–R152): of FCMP the flags Z, N, C and V. -/
def fpuOp (func : Nat) (single : Bool) (wa wb wc : Word) (rm : Nat) (ute : Bool) : FRes :=
  let F := fmtOf single
  let low (w : Word) : Nat := if single then w.toNat % 2 ^ 32 else w.toNat
  let a := F.decode (low wa)
  let b := F.decode (low wb)
  let un := a.isNan || b.isNan
  let sig := a.isSig || b.isSig
  let rel (r quiet : Bool) : FRes := ⟨bnat (!un && r), if (if quiet then sig else un) then 0b10000 else 0⟩
  let sb := F.p - 1 + F.eb
  match func with
  | 0x00 => F.add rm ute a b
  | 0x01 => F.sub rm ute a b
  | 0x02 => F.mul rm ute a b
  | 0x03 => F.div rm ute a b
  | 0x04 => F.sqrt rm ute a
  | 0x05 => F.fma rm ute false a b (F.decode (low wc))
  | 0x06 => F.fma rm ute true a b (F.decode (low wc))
  | 0x07 => F.minMax false (low wa) (low wb)
  | 0x08 => F.minMax true (low wa) (low wb)
  | 0x09 => ⟨low wa % 2 ^ sb, 0⟩
  | 0x0A => ⟨low wa ^^^ 2 ^ sb, 0⟩
  | 0x0B => ⟨if un then 8 else if a.cmp b = 0 then 1 else if a.cmp b < 0 then 2 else 4, if sig then 0b10000 else 0⟩
  | 0x0C => rel (a.cmp b == 0) true
  | 0x0D => rel (decide (a.cmp b < 0)) false
  | 0x0E => rel (decide (a.cmp b ≤ 0)) false
  | 0x0F => fcvtInt rm true a
  | 0x10 => fcvtInt rm false a
  | 0x11 => F.ofInt rm ute wa.toInt
  | 0x12 => F.ofInt rm ute (Int.ofNat wa.toNat)
  | 0x13 => fcvtFmt F (fmtOf (!single)) rm ute a
  | 0x14 => ⟨low wa, 0⟩
  | 0x15 => ⟨low wa, 0⟩
  | 0x16 => ⟨F.classMask (low wa), 0⟩
  | _ => F.toIntegral rm a

/-- The result and the flags of a floating operation. -/
def fpuRes (func : Nat) (bits : Nat) : NanoRes :=
  match fpTo func with
  | .f => { a := BitVec.ofNat 64 bits, fp := true }
  | .g => { a := BitVec.ofNat 64 bits }
  | .flags => { a := 0, fl := { z := some (bitOf bits 0), n := some (bitOf bits 1), c := some (bitOf bits 2), v := some (bitOf bits 3) } }

/-- The FPU field: LAZY and SPILL as an instruction that uses wide state, FPX where the exception is trapped; else the exceptions
raised wait for the commit. -/
def State.nanoFpu (s : State) (c : Nat) (r : Routine) (n : Nano) : Out (Routine × Option NanoRes) :=
  if n.fpu = 0 then .ok s (r, none)
  else (s.wide c).bind fun s _ =>
    let func := (n.fpu - 1) % 32
    let fcsr := (s.ctx c).fcsr
    let te := teOf fcsr
    let gA := func == 0x11 || func == 0x12 || func == 0x15
    let a := if gA then s.sel c r n n.srca else s.selF c r n n.srca
    let x := fpuOp func (decide (32 ≤ n.fpu - 1)) a (s.selF c r n n.srcb) (s.selF c r n 59) (rmOf fcsr) (bitOf te 1)
    if x.raised &&& te ≠ 0 then .exc s { code := Xc.fpx, detail := x.raised }
    else .ok s ({ r with raised := r.raised ||| x.raised }, some (fpuRes func x.bits))

/-- The MULDIV field; the third operand of MADD and MSUB is the instruction's rc (DEDUCED, log entry 135). -/
def State.nanoMul (s : State) (c : Nat) (r : Routine) (n : Nano) : Out (Option NanoRes) :=
  if n.muldiv = 0 then .ok s none
  else match mulOp (n.muldiv - 1) (s.sel c r n n.srca) (s.sel c r n n.srcb) (s.sel c r n 59) with
    | none => .exc s { code := Xc.idiv }
    | some x => .ok s (some { a := x.1, b := x.2 })

/-! ### Memory (R177, R179, R180) -/

/-- The bytes that a memory-group major accesses, whether a load sign-extends, and whether it stores (R134). -/
def memShape (major : Nat) : Nat × Bool × Bool :=
  match major with
  | 0x18 => (1, true, false)
  | 0x19 => (1, false, false)
  | 0x1A => (2, true, false)
  | 0x1B => (2, false, false)
  | 0x1C => (4, true, false)
  | 0x1D => (4, false, false)
  | 0x1E => (8, false, false)
  | 0x1F => (16, false, false)
  | 0x20 => (1, false, true)
  | 0x21 => (2, false, true)
  | 0x22 => (4, false, true)
  | 0x23 => (8, false, true)
  | 0x24 => (16, false, true)
  | 0x25 => (4, false, false)
  | 0x26 => (8, false, false)
  | 0x27 => (4, false, true)
  | 0x28 => (8, false, true)
  | _ => (64, false, true)

/-- The address of a nano-word's access, and its pieces: with XMODE [4] in the Classic window. -/
def State.nanoAddr (s : State) (c : Nat) (r : Routine) (n : Nano) : Word :=
  let a := s.sel c r n n.asrc + (s.sel c r n n.aidx <<< n.ascale) + (BitVec.ofNat 16 n.lit).signExtend 64
  if bitOf n.xmode 7 && bitOf n.xmode 4 then s.inWindow c a.toNat else a
def State.nanoPieces (s : State) (c : Nat) (n : Nano) (a : Word) (k : Nat) : List (Nat × Nat) :=
  if bitOf n.xmode 7 && bitOf n.xmode 4 then s.cpieces c (a.toNat % 2 ^ 32) k else pagePieces a.toNat k

/-- The bytes that a store takes from its operands: SRCA, SRCB for the second half of STP; ST64 takes eight registers in a row
(DEDUCED, log entry 135). -/
def State.nanoBytes (s : State) (c : Nat) (r : Routine) (n : Nano) (k : Nat) : List Byte :=
  if k = 64 then
    let first := if 56 ≤ n.srca then (r.fieldReg n.xmode (n.srca - 56)).1 else n.srca
    (List.range 8).flatMap fun i => leBytes 8 (s.sel c r n ((first + i) % 48)).toNat
  else if k = 16 then leBytes 8 (s.sel c r n n.srca).toNat ++ leBytes 8 (s.sel c r n n.srcb).toNat
  else leBytes k (s.sel c r n n.srca).toNat

/-- The bytes in the pending-store list. -/
def Routine.storeBytes (r : Routine) : Nat := (r.stores.map fun u => u.bytes.length).sum

/-- Does a nano-word store more bytes than the pending-store list has room for? It waits, and nothing frees the list before
the commit. -/
def Routine.full (r : Routine) (n : Nano) : Bool :=
  let m := memShape n.mem
  within n.mem 0x18 0x2A && n.mem != 0x29 && m.2.2 && decide (128 < r.storeBytes + m.1)

/-- What an atomic stores, from the value in memory and its operands: CAS has the expected value in SRCA (R131). -/
def atomicNew (func old a b : Nat) : Option Nat :=
  match func / 2 with
  | 0 => if old = a then some b else none
  | 1 => some b
  | 2 => some (old + b)
  | 3 => some (old &&& b)
  | 4 => some (old ||| b)
  | _ => some (old ^^^ b)

/-- The MEM field. A load answers its data, a store goes to the pending-store list, an atomic acts at once, and codes 0x60 and
0x61 only check. -/
def State.nanoMem (s : State) (c : Nat) (r : Routine) (n : Nano) : Out (Routine × Option NanoRes) :=
  let a := s.nanoAddr c r n
  let deliver (r : Routine) (x y : Word) : Routine × Option NanoRes := ({ r with data := x }, some { a := x, b := y })
  if n.mem = 0 then .ok s (r, none)
  else if n.mem = 0x29 then .ok s (r, some { a := a })
  else if 0x60 ≤ n.mem then
    let acc := if n.mem = 0x61 then accStore else accLoad
    match s.reachData c acc (s.nanoPieces c n a ((s.sel c r n n.srcb).toNat % 64)) false false .plain with
    | .ok s _ => .ok s ({ r with chk := false }, none)
    | .exc s _ => .ok s ({ r with chk := true }, none)
    | .gone s => .gone s
  else if 0x40 ≤ n.mem then
    let func := n.mem - 0x40
    let k := if func % 2 = 1 then 8 else 4
    let low (w : Word) : Nat := w.toNat % 2 ^ (8 * k)
    (s.reachData c accAtomic (s.nanoPieces c n a k) (a.toNat % k != 0) true .block).bind fun s l =>
    ((s.sbOwn c).loadData c a l k).bind fun s bs =>
    let old := leNat bs
    let s := match atomicNew func old (low (s.sel c r n n.srca)) (low (s.sel c r n n.srcb)) with
      | some v => s.storeNow c l (leBytes k v)
      | none => s
    .ok s (deliver r (BitVec.ofNat 64 old) 0)
  else
    let m := memShape n.mem
    let k := m.1
    let acc := if m.2.2 then accStore else accLoad
    (s.reachData c acc (s.nanoPieces c n a k) (a.toNat % k != 0) (decide (16 ≤ k)) .plain).bind fun s l =>
    if m.2.2 then
      let u : UStore := { pieces := l.map fun e => (e.1.mp, e.1.attr, e.2), bytes := s.nanoBytes c r n k, st64 := k == 64 }
      .ok s ({ r with stores := r.stores ++ [u] }, none)
    else
      (s.loadData c a l k).bind fun s bs =>
      let v := leNat (bs.take 8)
      .ok s (deliver r (if m.2.1 then wordOfInt (signedOf (8 * k) v) else BitVec.ofNat 64 v) (leWord (bs.drop 8)))

/-- The pending-store list is released in program order (R180). -/
def State.release (s : State) (c : Nat) (l : List UStore) : State :=
  l.foldl (fun s u => s.storeData c (u.pieces.map fun p => ({ mp := p.1, attr := p.2.1 }, p.2.2)) u.bytes u.st64 u.st64) s

/-! ### System operations and control (R177, R180) -/

/-- The system register that the SYS field names. -/
def Routine.sysNo (r : Routine) (n : Nano) : Nat := if bitOf n.lit 15 then bitsOf r.ir 15 6 else n.lit % 2 ^ 10

/-- The instruction's word as one of S format. -/
def Routine.sfmt (r : Routine) : SFmt :=
  { rd := BitVec.ofNat 5 (bitsOf r.ir 25 21), ra := BitVec.ofNat 5 (bitsOf r.ir 20 16), imm := BitVec.ofNat 10 (bitsOf r.ir 15 6) }

/-- How a word of a routine ends. -/
inductive MicroOut where
  /-- the routine goes on -/
  | go (s : State) (r : Routine)
  /-- SEQ = END -/
  | done (s : State) (r : Routine)
  /-- a unit of a progressive instruction has committed -/
  | unit (s : State) (r : Routine)
  /-- the word waits, or its context has been stopped: nothing has committed -/
  | wait (s : State) (r : Routine)
  /-- an exception: the routine is abandoned -/
  | exc (s : State) (r : Routine) (e : Exc)
  /-- a parity error in a control store (R185) -/
  | parity (s : State) (r : Routine) (array : Nat)
  /-- a format violation at the word's address (R186) -/
  | bad (s : State) (r : Routine)

/-- The value of a checked computation, or the end of the word. -/
def Out.micro {α : Type} (x : Out α) (r : Routine) (f : State → α → MicroOut) : MicroOut :=
  match x with
  | .ok s a => f s a
  | .exc s e => .exc s r e
  | .gone s => .wait s r

/-- A read of a system register by the SYS field; an unlisted number reads a free value. -/
def State.nanoSysRead (s : State) (c : Nat) (r : Routine) (n : Nano) : Out (Option NanoRes) :=
  if n.sys ≠ 1 then .ok s none
  else
    let k := r.sysNo n
    (s.wideIf c (sysWide k)).bind fun s _ =>
    let (s, w) : State × Word := if (sysLevel k).isNone then (let (w, s) := s.draw; (s, w)) else s.sysRead c k
    .ok s (some { a := w })

/-- The results of a word's operations: several of them leave what its destinations get open, and a load's data goes there
where no other operation has a result (log entry 135). -/
def State.oneResult (s : State) (ops : List (Option NanoRes)) (mem : Option NanoRes) : State × Option NanoRes :=
  match ops.filterMap id with
  | [] => (s, mem)
  | [x] => (s, some x)
  | x :: _ =>
    let (v, s) := s.draw
    let (w, s) := s.draw
    (s, some { x with a := v, b := w })

/-- The LOOP field. -/
def Routine.count (r : Routine) (n : Nano) (a : Word) : Routine :=
  match n.loop with
  | 1 => { r with loop := a.toNat % 2 ^ 16 }
  | 2 => { r with loop := n.lit }
  | 3 => { r with loop := r.loop - 1 }
  | _ => r

/-- The micro-flags that FLAG names, copied to ST (R175). -/
def flagCopy (st flags : Word) (mask : Nat) : Word :=
  let m := BitVec.ofNat 64 (mask % 32)
  (st &&& ~~~m) ||| (flags &&& m)

/-- What a word that commits does beside its destinations (R180): FLAG, the SYS write, the floating exceptions and the stores. -/
def State.commitWord (s : State) (c : Nat) (r : Routine) (n : Nano) (a : Word) : State :=
  let x := s.ctx c
  let s := if bitOf n.flag 5 then s.setCtx c { x with st := flagCopy x.st r.flags n.flag } else s
  let s := if n.sys = 2 then s.sysWrite c (r.sysNo n) a else s
  let x := s.ctx c
  let s := s.setCtx c { x with fcsr := x.fcsr ||| BitVec.ofNat 64 (r.raised * 256) }
  s.release c r.stores

/-- The condition a word waits for is met at once, but for an event (R178): the latch is cleared, or the Pocket is BLOCKED. -/
def State.nanoWait (s : State) (c : Nat) (waitc : Nat) : Out Unit :=
  if waitc ≠ 0x0B then .ok s ()
  else if s.fbit (POCKET_STAT.EVENT c) then .ok (s.fset (POCKET_STAT.EVENT c) 0) ()
  else .gone (s.setPk c (if isFw c && !(s.partxOf (slotOf c)).isEmpty then pkReady else pkBlocked))

/-- What the operations of a nano-word and then its CTL field do (R175–R180). -/
def State.nano (s : State) (c : Nat) (r : Routine) (n : Nano) (waitc : Nat) : MicroOut :=
  let commit := n.ctl == 1 || n.ctl == 2
  (s.nanoWait c waitc).micro r fun s _ =>
  if r.full n then .wait s r
  else if n.ctl = 3 then
    .exc s r { code := n.lit % 256, detail := n.lit / 256 }
  else
    (s.nanoFpu c r n).micro r fun s f =>
    let (r, rf) := f
    (s.nanoMul c r n).micro r fun s rm =>
    (s.nanoSysRead c r n).micro r fun s rs =>
    let a := s.sel c r n n.srca
    let b := s.sel c r n n.srcb
    (s.nanoMem c r n).micro r fun s m =>
    let (r, mr) := m
    let (r, ra) := r.alu n.alu a b n.lit
    let (s, res) := s.oneResult [ra, rf, rm, rs] mr
    let r := match res with
      | some x => if bitOf n.flag 7 then { r with flags := stFlags r.flags x.fl } else r
      | none => r
    let (s, r) := match res with
      | some x =>
        let (s, r) := s.deliverTo c r n n.dsta x.a x.fp commit
        s.deliverTo c r n n.dstb x.b false commit
      | none => (s, r)
    let fields := n.selectors.filter fun k => within k 56 59
    let r := { r.count n a with outside := bitOf n.xmode 7 && fields.any fun k => decide (23 < r.field n.xmode (k - 56)) }
    let (s, r) := if commit then (s.commitWord c r n a, { r with stores := [], raised := 0, committed := n.ctl == 1 }) else (s, r)
    let end_ (s : State) (r : Routine) : MicroOut := if n.ctl = 2 then .unit s r else .go s r
    if n.sys < 0x17 then end_ s r
    else match s.sysBody c (n.sys - 0x10) r.sfmt with
      | .next s => end_ s r
      | .post s eff => end_ (eff s) r
      | .jump s pc => end_ s { r with target := some pc }
      | .again s => .unit s r
      | .wait s => .wait s r
      | .exc s e => .exc s r e
      | .after s e _ => .exc s r e

/-! ### Micro-words (R171–R174) -/

/-- COND of a Form B word (R173); none for a reserved code. COND 0x16 asks for the fields that the last nano-word named. -/
def State.microCond (s : State) (c : Nat) (r : Routine) (k : Nat) : Option Bool :=
  let st := (s.ctx c).st
  if k < 16 then some (condHolds r.flags k)
  else match k with
    | 0x10 => some r.dbad
    | 0x11 => some (r.loop == 0)
    | 0x12 => some (stBit st ST.cls)
    | 0x13 => some (decide (1 ≤ stPL st))
    | 0x14 => some (stPL st == 2)
    | 0x15 => some r.chk
    | 0x16 => some r.outside
    | _ => none

/-- The address after `a`: none after the last word of a store (R186). -/
def nextMicro (a : Nat) : Option Nat := if a = 0x7FFF ∨ a = 0x83FF then none else some (a + 1)

/-- The value of the DISP field (R175). -/
def Routine.dispatchOn (r : Routine) (d : Nat) : Nat :=
  match d with
  | 1 => bitsOf r.ir 5 0
  | 2 => bitsOf r.ir 15 14
  | 3 => bitsOf r.ir 27 24
  | 4 => bnat r.dbad
  | _ => 0

/-- A Form B word `w` at address `a`. -/
def State.branchWord (s : State) (c : Nat) (r : Routine) (w a : Nat) : MicroOut :=
  match s.microCond c r (bitsOf w 22 18), nextMicro a with
  | none, _ => .bad s (r.at_ a)
  | some b, nx =>
    if b == bitOf w 17 then
      if !bitOf w 16 then .go s (r.at_ (w % 2 ^ 16))
      else if r.ret.length = 4 then .bad s (r.at_ a)
      else .go s { r with ret := (a + 1) :: r.ret, addr := w % 2 ^ 16 }
    else match nx with
      | some b => .go s (r.at_ b)
      | none => .bad s (r.at_ a)

/-- A Form A word `w` at address `a` with nano-word `n`: where its SEQ goes is found first, then it acts. -/
def State.operateWord (s : State) (c : Nat) (r : Routine) (w a : Nat) (n : Nano) : MicroOut :=
  let waitc := bitsOf w 20 16
  let commit := n.ctl == 1 || n.ctl == 2
  if bitsOf w 15 13 ≠ 0 ∨ 0x0C < waitc ∨ n.bad ∨ ((waitc = 6 ∨ waitc = 7) ∧ !commit) ∨ (commit ∧ r.committed) then
    .bad s (r.at_ a)
  else
    let run (f : State → Routine → MicroOut) : MicroOut :=
      match s.nano c (r.at_ a) n waitc with
      | .go s r => f s r
      | .unit s r => (match f s r with
          | .go s r => .unit s r
          | x => x)
      | x => x
    match bitsOf w 22 21 with
    | 0 => (match nextMicro a with
        | some b => run fun s r => .go s (r.at_ b)
        | none => .bad s (r.at_ a))
    | 1 => (match r.ret with
        | b :: rest => run fun s r => .go s { r with ret := rest, addr := b }
        | [] => .bad s (r.at_ a))
    | 2 => run .done
    | _ => run fun s r => .go s (r.at_ (a + 1 + 2 * r.dispatchOn n.disp))

/-- One micro-word of a routine of pair `p`. -/
def State.microWord (s : State) (p c : Nat) (r : Routine) : MicroOut :=
  let d := s.damsonOf p
  match d.fetchMicro r.addr with
  | .parity k => .parity s r k
  | .reserved => .bad s r
  | .word w a dm =>
    let r := { r with patched := r.patched || dm }
    if bitOf w 23 then s.branchWord c r w a
    else match d.fetchNano (w % 2 ^ 13) with
      | .parity k => .parity s r k
      | .reserved => .bad s (r.at_ a)
      | .word x _ dn => s.operateWord c { r with patched := r.patched || dn } w a (Nano.of x)

/-- Up to `fuel` words of a routine. -/
def State.microRun (p c : Nat) : Nat → State → Routine → MicroOut
  | 0, s, r => .go s r
  | fuel + 1, s, r =>
    match s.microWord p c r with
    | .go s r => State.microRun p c fuel s r
    | x => x

/-! ### Routines (R174, R179, R182) -/

/-- An instruction as the control store sees it: its architecture and its words. -/
structure Words where
  cls : Bool
  ir : Nat
  ir2 : Nat
deriving DecidableEq, Repr

/-- The index of an instruction in its entry table (R174): the Classic opcode, or the major opcode with func or sub-op. -/
def Words.index (w : Words) : Nat :=
  let major := w.ir / 2 ^ 26 % 64
  if w.cls then w.ir / 2 ^ 24 % 256
  else major * 64 + (if major ≤ 0x07 then w.ir % 64 else 0)

/-- The routine of an instruction at its entry point: the micro-flags are a copy of ST's flags (R179). -/
def State.entry (s : State) (c : Nat) (w : Words) : Routine :=
  let x := s.ctx c
  { ctx := c, pc := x.pc, cls := w.cls, ir := w.ir, ir2 := w.ir2, addr := (Config.microEntry w.cls w.index).toNat
    flags := x.st &&& 0x1F#64 }

/-- The routine that the instruction goes on with: the one in progress, if it is this instruction's, or a fresh one. -/
def State.routineFor (s : State) (p c : Nat) (w : Words) : Routine :=
  match AMap.get none s.core.routines p with
  | some r => if r.ctx = c ∧ r.pc = (s.ctx c).pc ∧ r.cls = w.cls ∧ r.ir = w.ir ∧ r.ir2 = w.ir2 then r else s.entry c w
  | none => s.entry c w

/-- Does an enabled match register of the pair's Damson redirect fetches (R174)? -/
def State.patched (s : State) (c : Nat) : Bool := (s.damsonOf (s.agentOf c)).mtch.any fun e => bitOf e.2 63

/-- A format violation (R186): a contained-class fault whose record names the micro address in DETAIL2, and MCHK. -/
def State.violation (s : State) (p c addr : Nat) : State :=
  s.raise { loc := pairLoc 0x4 p 0x07, ctx := some c, part := s.partOf c, d2 := addr }

/-- An exception of a routine: once the instruction has committed, RPC holds the next one, as it does for SVC, FWC and STEP
(R117). -/
def Routine.raise_ (r : Routine) (s : State) (e : Exc) : Done :=
  if r.committed || e.code == Xc.svc || e.code == Xc.fwc || e.code == Xc.step then .after s e r.target else .exc s e

/-- THE INSTRUCTION OF A PATCHED PAIR: the words of its routine, and what `body` says where no Damson word is met. A routine
that has run 4,096 words goes on with the next command for it. -/
def State.micro (s : State) (c : Nat) (w : Words) (body : State → Done) : Done :=
  let p := s.agentOf c
  let s0 := s.dropRoutine p
  let out (r : Routine) (d : Done) : Done := if r.patched then d else body s0
  match State.microRun p c 4096 s0 (s.routineFor p c w) with
  | .go t r => out r (.wait (t.keepRoutine p r))
  | .done t r => out r (match r.target, r.committed with
      | some pc, true => .jump t pc
      | _, true => .next t
      | _, false => .wait t)
  | .unit t r => out r (.again (t.keepRoutine p r))
  | .wait t r => out r (.wait t)
  | .exc t r e => out r (r.raise_ t e)
  | .parity t r k => out r (.wait ((t.fcount (CSTORE_VER.PERR p) 1).mismatch p 7 k))
  | .bad t r => out r (r.raise_ (t.violation p c r.addr) { code := Xc.mchk })

/-! ### The frame of one instruction -/

/-- ONE INSTRUCTION of context `c`, `len` bytes long, with instruction word `insn`. A waiting PARTX or an allowed
interrupt is taken in its place (R121, R217); then the fetch, the body, and how it ended. `hold` says that an allowed
interrupt is taken after this instruction has committed (WFE, R216). The ST.SS that counts for STEP is the one before the
instruction, for an instruction that changes ST or the level too (MTSR, RFE, R97; DEDUCED, log entry 122). `insn2` is the second
word of a DS instruction. -/
def State.instr (s : State) (c len insn : Nat) (cls : Bool) (body : State → Done) (hold : Bool := false) (insn2 : Nat := 0) :
    State :=
  if !s.canRun c || stBit (s.ctx c).st ST.cls != cls then s
  else if s.partxDue c then (s.dropRoutine (s.agentOf c)).takePartx c
  else if !hold && s.intrDue c then (s.dropRoutine (s.agentOf c)).takeIntr c
  else match s.bpAt c with
  | some i => s.debugHalt c 2 i
  | none =>
    let pc := (s.ctx c).pc
    let ss := stBit (s.ctx c).st ST.ss
    let lvlS := s.level c == 1
    let npc := pcPlus cls pc len
    let ended (s : State) (npc : Word) : State :=
      let s := s.commit c lvlS npc
      (if ss then s.takeExc c { code := Xc.step } insn npc npc else s).debugEnd c
    match s.fetchAll c len cls with
    | .exc s e =>
      let (s, w) := s.fetchedWord c insn e
      s.takeExc c e w pc pc
    | .gone s => s
    | .ok s _ =>
      match (if s.patched c then s.micro c ⟨cls, insn, insn2⟩ body else body s) with
      | .next t => ended t npc
      | .post t eff => eff (ended t npc)
      | .jump t npc => ended t npc
      | .again t => t.commit c lvlS pc
      | .wait t => t
      | .exc t e => (t.takeExc c e insn pc pc).debugEnd c
      | .after t e nx =>
        let npc := nx.getD npc
        ((t.commit c lvlS npc).takeExc c e insn npc pc).debugEnd c

/-- A native instruction (R101). -/
def State.native (s : State) (c insn : Nat) (body : State → Done) : State := s.instr c 4 insn false body

end Sys2Proof.Machine
end

