-- ==== Sys2Proof/Machine/Integer.lean ====
section
/-! DEFINITION. The meanings of CA-64's integer, multiply and divide, shift, immediate and branch instructions
(04_native_architecture.md R126–R128, R133, R135; 05 R140–R143). Each runs in the frame `State.native`. -/

namespace Sys2Proof.Machine

/-! ### Shared shapes -/

/-- An R format instruction with a result in rd; `bad` is its UNDEF condition (R102). -/
def State.rOp (s : State) (c major func : Nat) (f : RFmt) (bad : Bool) (op : State → State) : State :=
  s.native c (wordR major func f) fun s => guardUndef s bad (.next (op s))

/-- rd := op ra rb; rc is reserved. -/
def State.rab (s : State) (c major func : Nat) (f : RFmt) (op : Word → Word → Word) : State :=
  s.rOp c major func f (f.rc != 0 || wordR major func f == 0) fun s => s.setG c f.rd (op (s.g c f.ra) (s.g c f.rb))

/-- rd := op ra; rb and rc are reserved. -/
def State.ra1 (s : State) (c major func : Nat) (f : RFmt) (op : Word → Word) : State :=
  s.rOp c major func f (f.rb != 0 || f.rc != 0) fun s => s.setG c f.rd (op (s.g c f.ra))

/-- An addition or subtraction that writes Z N C V (R140). -/
def State.arith (s : State) (c func : Nat) (f : RFmt) (sub write : Bool) (cin : State → Bool) : State :=
  s.rOp c 0x00 func f (f.rc != 0 || (!write && f.rd != 0)) fun s =>
    let a := (s.g c f.ra).toNat
    let b := (s.g c f.rb).toNat
    let ci := cin s
    let r := if sub then subRes 64 a b ci else addRes 64 a b ci
    let s := s.flags c (if sub then subFlags 64 a b ci else addFlags 64 a b ci)
    if write then s.setG c f.rd (BitVec.ofNat 64 r) else s

/-- Write the two halves of a product (R142): rd the high, rc the low. -/
def State.mulWide (s : State) (c func : Nat) (f : RFmt) (signed : Bool) : State :=
  s.rOp c 0x01 func f (f.rd == f.rc) fun s =>
    let a := s.g c f.ra
    let b := s.g c f.rb
    let p := if signed then wrapTo 128 (a.toInt * b.toInt) else a.toNat * b.toNat
    (s.setG c f.rd (BitVec.ofNat 64 (p / 2 ^ 64))).setG c f.rc (BitVec.ofNat 64 p)

/-- A divide: a zero divisor raises IDIV (R143). -/
def State.divide (s : State) (c func : Nat) (f : RFmt) (op : Word → Word → Word) : State :=
  s.native c (wordR 0x01 func f) fun s =>
    guardUndef s (f.rc != 0)
      (if s.g c f.rb = 0 then .exc s { code := Xc.idiv }
       else .next (s.setG c f.rd (op (s.g c f.ra) (s.g c f.rb))))

/-- rd := op ra imm16 in I format. -/
def State.immOp (s : State) (c major : Nat) (f : IFmt) (bad : Bool) (op : Word → Word) : State :=
  s.native c (wordI major f) fun s => guardUndef s bad (.next (s.setG c f.rd (op (s.g c f.ra))))

/-- A compare-branch (R135): the target is PC + sext(imm16) × 4. -/
def State.cmpBranch (s : State) (c major : Nat) (f : IFmt) (rel : Word → Word → Bool) : State :=
  s.native c (wordI major f) fun s =>
    if rel (s.g c f.rd) (s.g c f.ra) then .jump s ((s.ctx c).pc + (f.imm.signExtend 64) * 4#64) else .next s

/-! ### Integer group, major 0x00 (R126) -/

def execAdd (c : Nat) (f : RFmt) (s : State) : Res := .next (s.rab c 0x00 0x00 f (· + ·))
def execAdds (c : Nat) (f : RFmt) (s : State) : Res := .next (s.arith c 0x01 f false true fun _ => false)
def execAdc (c : Nat) (f : RFmt) (s : State) : Res := .next (s.arith c 0x02 f false true fun s => s.flag c ST.c)
def execSub (c : Nat) (f : RFmt) (s : State) : Res := .next (s.rab c 0x00 0x03 f (· - ·))
def execSubs (c : Nat) (f : RFmt) (s : State) : Res := .next (s.arith c 0x04 f true true fun _ => true)
def execSbc (c : Nat) (f : RFmt) (s : State) : Res := .next (s.arith c 0x05 f true true fun s => s.flag c ST.c)
def execNeg (c : Nat) (f : RFmt) (s : State) : Res := .next (s.ra1 c 0x00 0x06 f fun a => 0 - a)
def execCmp (c : Nat) (f : RFmt) (s : State) : Res := .next (s.arith c 0x07 f true false fun _ => true)
def execAnd (c : Nat) (f : RFmt) (s : State) : Res := .next (s.rab c 0x00 0x08 f (· &&& ·))
def execOr (c : Nat) (f : RFmt) (s : State) : Res := .next (s.rab c 0x00 0x09 f (· ||| ·))
def execXor (c : Nat) (f : RFmt) (s : State) : Res := .next (s.rab c 0x00 0x0A f (· ^^^ ·))
def execAndn (c : Nat) (f : RFmt) (s : State) : Res := .next (s.rab c 0x00 0x0B f fun a b => a &&& ~~~b)
def execOrn (c : Nat) (f : RFmt) (s : State) : Res := .next (s.rab c 0x00 0x0C f fun a b => a ||| ~~~b)

/-- TST writes Z and N of ra and rb (R140); rd is g0. -/
def execTst (c : Nat) (f : RFmt) (s : State) : Res :=
  .next (s.rOp c 0x00 0x0D f (f.rc != 0 || f.rd != 0) fun s =>
    s.flags c (logicFlags 64 (s.g c f.ra &&& s.g c f.rb).toNat))

/-- SEL: ra if condition rc[3:0] holds, else rb; rc[4] = 0. -/
def execSel (c : Nat) (f : RFmt) (s : State) : Res :=
  .next (s.rOp c 0x00 0x0E f (f.rc.getLsbD 4) fun s =>
    s.setG c f.rd (if condHolds (s.ctx c).st f.rc.toNat then s.g c f.ra else s.g c f.rb))

def execSlt (c : Nat) (f : RFmt) (s : State) : Res := .next (s.rab c 0x00 0x0F f fun a b => if a.slt b then 1 else 0)
def execSltu (c : Nat) (f : RFmt) (s : State) : Res := .next (s.rab c 0x00 0x10 f fun a b => if a.ult b then 1 else 0)
def execMin (c : Nat) (f : RFmt) (s : State) : Res := .next (s.rab c 0x00 0x11 f fun a b => if a.slt b then a else b)
def execMax (c : Nat) (f : RFmt) (s : State) : Res := .next (s.rab c 0x00 0x12 f fun a b => if a.slt b then b else a)
def execMinu (c : Nat) (f : RFmt) (s : State) : Res := .next (s.rab c 0x00 0x13 f fun a b => if a.ult b then a else b)
def execMaxu (c : Nat) (f : RFmt) (s : State) : Res := .next (s.rab c 0x00 0x14 f fun a b => if a.ult b then b else a)
def execAbs (c : Nat) (f : RFmt) (s : State) : Res := .next (s.ra1 c 0x00 0x15 f fun a => if a.msb then 0 - a else a)
def execSextb (c : Nat) (f : RFmt) (s : State) : Res := .next (s.ra1 c 0x00 0x16 f fun a => (a.setWidth 8).signExtend 64)
def execSexth (c : Nat) (f : RFmt) (s : State) : Res := .next (s.ra1 c 0x00 0x17 f fun a => (a.setWidth 16).signExtend 64)
def execSextw (c : Nat) (f : RFmt) (s : State) : Res := .next (s.ra1 c 0x00 0x18 f fun a => (a.setWidth 32).signExtend 64)
def execZextw (c : Nat) (f : RFmt) (s : State) : Res := .next (s.ra1 c 0x00 0x19 f fun a => (a.setWidth 32).setWidth 64)

/-- A jump to a register (R117, ALIGN): bits [1:0] of the target must be 0. -/
def State.jumpReg (s : State) (a : Word) (t : State) : Done :=
  if a.toNat % 4 ≠ 0 then .exc s (excAlign 0x01 a) else .jump t a

def execJr (c : Nat) (f : RFmt) (s : State) : Res :=
  .next (s.native c (wordR 0x00 0x30 f) fun s =>
    guardUndef s (f.rd != 0 || f.rb != 0 || f.rc != 0) (s.jumpReg (s.g c f.ra) s))
def execCallr (c : Nat) (f : RFmt) (s : State) : Res :=
  .next (s.native c (wordR 0x00 0x31 f) fun s =>
    guardUndef s (f.rb != 0 || f.rc != 0) (s.jumpReg (s.g c f.ra) (s.setG c f.rd ((s.ctx c).pc + 4))))

/-! ### Multiply and divide, major 0x01 (R127, R142, R143) -/

def execMul (c : Nat) (f : RFmt) (s : State) : Res := .next (s.rab c 0x01 0x00 f (· * ·))
def execMulhs (c : Nat) (f : RFmt) (s : State) : Res :=
  .next (s.rab c 0x01 0x01 f fun a b => BitVec.ofNat 64 (wrapTo 128 (a.toInt * b.toInt) / 2 ^ 64))
def execMulhu (c : Nat) (f : RFmt) (s : State) : Res :=
  .next (s.rab c 0x01 0x02 f fun a b => BitVec.ofNat 64 (a.toNat * b.toNat / 2 ^ 64))
def execMulw (c : Nat) (f : RFmt) (s : State) : Res := .next (s.mulWide c 0x03 f true)
def execMulwu (c : Nat) (f : RFmt) (s : State) : Res := .next (s.mulWide c 0x04 f false)
def execMadd (c : Nat) (f : RFmt) (s : State) : Res :=
  .next (s.rOp c 0x01 0x05 f false fun s => s.setG c f.rd (s.g c f.rc + s.g c f.ra * s.g c f.rb))
def execMsub (c : Nat) (f : RFmt) (s : State) : Res :=
  .next (s.rOp c 0x01 0x06 f false fun s => s.setG c f.rd (s.g c f.rc - s.g c f.ra * s.g c f.rb))
def execDivs (c : Nat) (f : RFmt) (s : State) : Res := .next (s.divide c 0x07 f divS)
def execDivu (c : Nat) (f : RFmt) (s : State) : Res := .next (s.divide c 0x08 f fun a b => a / b)
def execRems (c : Nat) (f : RFmt) (s : State) : Res := .next (s.divide c 0x09 f remS)
def execRemu (c : Nat) (f : RFmt) (s : State) : Res := .next (s.divide c 0x0A f fun a b => a % b)

/-! ### Shift and bit, major 0x02 (R128, R141) -/

def execSll (c : Nat) (f : RFmt) (s : State) : Res := .next (s.rab c 0x02 0x00 f fun a b => a <<< (b.toNat % 64))
def execSrl (c : Nat) (f : RFmt) (s : State) : Res := .next (s.rab c 0x02 0x01 f fun a b => a >>> (b.toNat % 64))
def execSra (c : Nat) (f : RFmt) (s : State) : Res := .next (s.rab c 0x02 0x02 f fun a b => a.sshiftRight (b.toNat % 64))
def execRor (c : Nat) (f : RFmt) (s : State) : Res := .next (s.rab c 0x02 0x03 f fun a b => a.rotateRight (b.toNat % 64))
def execClz (c : Nat) (f : RFmt) (s : State) : Res := .next (s.ra1 c 0x02 0x04 f clz64)
def execCtz (c : Nat) (f : RFmt) (s : State) : Res := .next (s.ra1 c 0x02 0x05 f ctz64)
def execPopc (c : Nat) (f : RFmt) (s : State) : Res := .next (s.ra1 c 0x02 0x06 f popc64)
def execBrev (c : Nat) (f : RFmt) (s : State) : Res := .next (s.ra1 c 0x02 0x07 f brev64)
def execBswap (c : Nat) (f : RFmt) (s : State) : Res := .next (s.ra1 c 0x02 0x08 f bswap64)

/-! ### Immediate group (R133) -/

def execAddi (c : Nat) (f : IFmt) (s : State) : Res := .next (s.immOp c 0x08 f false (· + f.imm.signExtend 64))
def execAndi (c : Nat) (f : IFmt) (s : State) : Res := .next (s.immOp c 0x09 f false (· &&& f.imm.setWidth 64))
def execOri (c : Nat) (f : IFmt) (s : State) : Res := .next (s.immOp c 0x0A f false (· ||| f.imm.setWidth 64))
def execXori (c : Nat) (f : IFmt) (s : State) : Res := .next (s.immOp c 0x0B f false (· ^^^ f.imm.setWidth 64))

/-- CMPI writes Z N C V of ra − sext(imm16); rd is g0 (R140). -/
def execCmpi (c : Nat) (f : IFmt) (s : State) : Res :=
  .next (s.native c (wordI 0x0C f) fun s => guardUndef s (f.rd != 0)
    (.next (s.flags c (subFlags 64 (s.g c f.ra).toNat (f.imm.signExtend 64).toNat true))))
def execMovi (c : Nat) (f : IFmt) (s : State) : Res := .next (s.immOp c 0x0D f (f.ra != 0) fun _ => f.imm.signExtend 64)

/-- INSH: halfword k of rd := imm16, with k in the ra field's low two bits and its upper bits zero. -/
def execInsh (c : Nat) (f : IFmt) (s : State) : Res :=
  .next (s.native c (wordI 0x0E f) fun s => guardUndef s (decide (4 ≤ f.ra.toNat))
    (.next (s.setG c f.rd ((s.g c f.rd &&& ~~~(0xFFFF#64 <<< (16 * f.ra.toNat)))
      ||| (f.imm.setWidth 64 <<< (16 * f.ra.toNat))))))
def execSlli (c : Nat) (f : IFmt) (s : State) : Res :=
  .next (s.immOp c 0x0F f (bitsOf f.imm.toNat 15 6 != 0) fun a => a <<< (f.imm.toNat % 64))
def execSrli (c : Nat) (f : IFmt) (s : State) : Res :=
  .next (s.immOp c 0x10 f (bitsOf f.imm.toNat 15 6 != 0) fun a => a >>> (f.imm.toNat % 64))
def execSrai (c : Nat) (f : IFmt) (s : State) : Res :=
  .next (s.immOp c 0x11 f (bitsOf f.imm.toNat 15 6 != 0) fun a => a.sshiftRight (f.imm.toNat % 64))
def execMuli (c : Nat) (f : IFmt) (s : State) : Res := .next (s.immOp c 0x12 f false (· * f.imm.signExtend 64))
def execExtu (c : Nat) (f : IFmt) (s : State) : Res :=
  .next (s.immOp c 0x13 f (fieldBad f.imm) fun a =>
    BitVec.ofNat 64 (a.toNat / 2 ^ fieldPos f.imm % 2 ^ fieldWidth f.imm))
def execExts (c : Nat) (f : IFmt) (s : State) : Res :=
  .next (s.immOp c 0x14 f (fieldBad f.imm) fun a =>
    wordOfInt (signedOf (fieldWidth f.imm) (a.toNat / 2 ^ fieldPos f.imm)))

/-- INSF: the field of rd at pos := the low width bits of ra. -/
def execInsf (c : Nat) (f : IFmt) (s : State) : Res :=
  .next (s.native c (wordI 0x15 f) fun s => guardUndef s (fieldBad f.imm)
    (let m : Word := BitVec.ofNat 64 ((2 ^ fieldWidth f.imm - 1) * 2 ^ fieldPos f.imm)
     .next (s.setG c f.rd ((s.g c f.rd &&& ~~~m) ||| ((s.g c f.ra <<< fieldPos f.imm) &&& m)))))

/-! ### Branches (R135) -/

def execBc (c : Nat) (f : BFmt) (s : State) : Res :=
  .next (s.native c (wordB 0x30 f) fun s =>
    if condHolds (s.ctx c).st f.cond.toNat then .jump s ((s.ctx c).pc + (f.disp.signExtend 64) * 4#64) else .next s)
def execJmp (c : Nat) (f : JFmt) (s : State) : Res :=
  .next (s.native c (wordJ 0x31 f) fun s => .jump s ((s.ctx c).pc + (f.disp.signExtend 64) * 4#64))
def execCall (c : Nat) (f : JFmt) (s : State) : Res :=
  .next (s.native c (wordJ 0x32 f) fun s =>
    .jump (s.setG c 31 ((s.ctx c).pc + 4)) ((s.ctx c).pc + (f.disp.signExtend 64) * 4#64))
def execCbeq (c : Nat) (f : IFmt) (s : State) : Res := .next (s.cmpBranch c 0x33 f fun a b => a == b)
def execCbne (c : Nat) (f : IFmt) (s : State) : Res := .next (s.cmpBranch c 0x34 f fun a b => a != b)
def execCblt (c : Nat) (f : IFmt) (s : State) : Res := .next (s.cmpBranch c 0x35 f fun a b => a.slt b)
def execCbge (c : Nat) (f : IFmt) (s : State) : Res := .next (s.cmpBranch c 0x36 f fun a b => b.sle a)
def execCbltu (c : Nat) (f : IFmt) (s : State) : Res := .next (s.cmpBranch c 0x37 f fun a b => a.ult b)
def execCbgeu (c : Nat) (f : IFmt) (s : State) : Res := .next (s.cmpBranch c 0x38 f fun a b => b.ule a)

end Sys2Proof.Machine
end

