-- ==== Sys2Proof/Machine/FloatDec.lean ====
section
/-! DEFINITION. The meanings of CA-64's floating-point and register decimal instructions (04 R129, R130;
05 R145–R161). Each uses wide state (R219). -/

namespace Sys2Proof.Machine

/-! ### Floating point, major 0x04 (R130) -/

/-- The operand of an instruction of the given precision in an f register (R94). -/
def State.fin (s : State) (c : Nat) (single : Bool) (r : RegNo) : Nat :=
  if single then (s.fr c r).toNat % 2 ^ 32 else (s.fr c r).toNat

/-- A floating instruction: FPX when a raised exception is trapped, nothing then being written; else the result is
delivered and the raised exceptions are ORed into FCSR.FLAGS (R148, R153). -/
def State.fpu (s : State) (c func : Nat) (single : Bool) (f : RFmt) (bad : Bool)
    (op : State → Nat → Bool → FRes) (put : State → Nat → State) : State :=
  s.native c (wordR 0x04 (func + 32 * bnat single) f) fun s =>
    guardUndef s bad ((s.wide c).fin fun s _ =>
      let fcsr := (s.ctx c).fcsr
      let te := teOf fcsr
      let r := op s (rmOf fcsr) (bitOf te 1)
      if r.raised &&& te ≠ 0 then .exc s { code := Xc.fpx, detail := r.raised }
      else
        let s := s.setCtx c { s.ctx c with fcsr := fcsr ||| BitVec.ofNat 64 (r.raised * 256) }
        .next (put s r.bits))

/-- The result goes to f rd; a binary32 result clears bits [63:32] (R94). -/
def putF (c : Nat) (f : RFmt) (s : State) (b : Nat) : State := s.setFr c f.rd (BitVec.ofNat 64 b)
/-- The result goes to g rd. -/
def putG (c : Nat) (f : RFmt) (s : State) (b : Nat) : State := s.setG c f.rd (BitVec.ofNat 64 b)

/-- Two operands, a floating result. -/
def State.fpu2 (s : State) (c func : Nat) (single : Bool) (f : RFmt)
    (op : FFmt → Nat → Bool → FVal → FVal → FRes) : State :=
  let F := fmtOf single
  s.fpu c func single f (f.rc != 0)
    (fun s rm ute => op F rm ute (F.decode (s.fin c single f.ra)) (F.decode (s.fin c single f.rb))) (putF c f)

def execFadd (c : Nat) (single : Bool) (f : RFmt) (s : State) : Res := .next (s.fpu2 c 0x00 single f FFmt.add)
def execFsub (c : Nat) (single : Bool) (f : RFmt) (s : State) : Res := .next (s.fpu2 c 0x01 single f FFmt.sub)
def execFmul (c : Nat) (single : Bool) (f : RFmt) (s : State) : Res := .next (s.fpu2 c 0x02 single f FFmt.mul)
def execFdiv (c : Nat) (single : Bool) (f : RFmt) (s : State) : Res := .next (s.fpu2 c 0x03 single f FFmt.div)
def execFsqrt (c : Nat) (single : Bool) (f : RFmt) (s : State) : Res :=
  let F := fmtOf single
  .next (s.fpu c 0x04 single f (f.rb != 0 || f.rc != 0)
    (fun s rm ute => F.sqrt rm ute (F.decode (s.fin c single f.ra))) (putF c f))

/-- FMADD and FMSUB: one rounding. -/
def State.fused (s : State) (c func : Nat) (single : Bool) (f : RFmt) (negC : Bool) : State :=
  let F := fmtOf single
  s.fpu c func single f false
    (fun s rm ute => F.fma rm ute negC (F.decode (s.fin c single f.ra)) (F.decode (s.fin c single f.rb))
      (F.decode (s.fin c single f.rc))) (putF c f)
def execFmadd (c : Nat) (single : Bool) (f : RFmt) (s : State) : Res := .next (s.fused c 0x05 single f false)
def execFmsub (c : Nat) (single : Bool) (f : RFmt) (s : State) : Res := .next (s.fused c 0x06 single f true)

/-- FMIN and FMAX (R150). -/
def State.fminmax (s : State) (c func : Nat) (single : Bool) (f : RFmt) (mx : Bool) : State :=
  s.fpu c func single f (f.rc != 0)
    (fun s _ _ => (fmtOf single).minMax mx (s.fin c single f.ra) (s.fin c single f.rb)) (putF c f)
def execFmin (c : Nat) (single : Bool) (f : RFmt) (s : State) : Res := .next (s.fminmax c 0x07 single f false)
def execFmax (c : Nat) (single : Bool) (f : RFmt) (s : State) : Res := .next (s.fminmax c 0x08 single f true)

/-- The sign bit of a format. -/
def FFmt.signBit (F : FFmt) : Nat := F.p - 1 + F.eb

/-- FABS and FNEG copy every bit but the sign and raise nothing (R147, R149). -/
def execFabs (c : Nat) (single : Bool) (f : RFmt) (s : State) : Res :=
  .next (s.fpu c 0x09 single f (f.rb != 0 || f.rc != 0)
    (fun s _ _ => ⟨s.fin c single f.ra % 2 ^ (fmtOf single).signBit, 0⟩) (putF c f))
def execFneg (c : Nat) (single : Bool) (f : RFmt) (s : State) : Res :=
  .next (s.fpu c 0x0A single f (f.rb != 0 || f.rc != 0)
    (fun s _ _ => ⟨s.fin c single f.ra ^^^ 2 ^ (fmtOf single).signBit, 0⟩) (putF c f))

/-- FCMP (R107, R150): Z equal, N less, C greater, V unordered; invalid only for a signalling NaN. rd is f0. -/
def execFcmp (c : Nat) (single : Bool) (f : RFmt) (s : State) : Res :=
  let F := fmtOf single
  .next (s.fpu c 0x0B single f (f.rd != 0 || f.rc != 0)
    (fun s _ _ =>
      let a := F.decode (s.fin c single f.ra)
      let b := F.decode (s.fin c single f.rb)
      ⟨if a.isNan || b.isNan then 8 else if a.cmp b = 0 then 1 else if a.cmp b < 0 then 2 else 4,
       if a.isSig || b.isSig then 0b10000 else 0⟩)
    (fun s r => s.flags c { z := some (bitOf r 0), n := some (bitOf r 1), c := some (bitOf r 2), v := some (bitOf r 3) }))

/-- FEQ, FLT and FLE write 0 or 1 to g rd (R150). -/
def State.fRel (s : State) (c func : Nat) (single : Bool) (f : RFmt) (quiet : Bool) (rel : Int → Bool) : State :=
  let F := fmtOf single
  s.fpu c func single f (f.rc != 0)
    (fun s _ _ =>
      let a := F.decode (s.fin c single f.ra)
      let b := F.decode (s.fin c single f.rb)
      let un := a.isNan || b.isNan
      ⟨bnat (!un && rel (a.cmp b)), if (if quiet then a.isSig || b.isSig else un) then 0b10000 else 0⟩) (putG c f)
def execFeq (c : Nat) (single : Bool) (f : RFmt) (s : State) : Res := .next (s.fRel c 0x0C single f true (· == 0))
def execFlt (c : Nat) (single : Bool) (f : RFmt) (s : State) : Res :=
  .next (s.fRel c 0x0D single f false fun k => decide (k < 0))
def execFle (c : Nat) (single : Bool) (f : RFmt) (s : State) : Res :=
  .next (s.fRel c 0x0E single f false fun k => decide (k ≤ 0))

/-- One operand. -/
def State.fpu1 (s : State) (c func : Nat) (single : Bool) (f : RFmt)
    (op : State → Nat → Bool → FRes) (put : State → Nat → State) : State :=
  s.fpu c func single f (f.rb != 0 || f.rc != 0) op put

def execFcvti (c : Nat) (single : Bool) (f : RFmt) (s : State) : Res :=
  .next (s.fpu1 c 0x0F single f (fun s rm _ => fcvtInt rm true ((fmtOf single).decode (s.fin c single f.ra))) (putG c f))
def execFcvtu (c : Nat) (single : Bool) (f : RFmt) (s : State) : Res :=
  .next (s.fpu1 c 0x10 single f (fun s rm _ => fcvtInt rm false ((fmtOf single).decode (s.fin c single f.ra))) (putG c f))
def execIcvtf (c : Nat) (single : Bool) (f : RFmt) (s : State) : Res :=
  .next (s.fpu1 c 0x11 single f (fun s rm ute => (fmtOf single).ofInt rm ute (s.g c f.ra).toInt) (putF c f))
def execUcvtf (c : Nat) (single : Bool) (f : RFmt) (s : State) : Res :=
  .next (s.fpu1 c 0x12 single f (fun s rm ute => (fmtOf single).ofInt rm ute (Int.ofNat (s.g c f.ra).toNat)) (putF c f))

/-- FCVT: the precision named is the source's; the result has the other one. -/
def execFcvt (c : Nat) (single : Bool) (f : RFmt) (s : State) : Res :=
  .next (s.fpu1 c 0x13 single f (fun s rm ute =>
    fcvtFmt (fmtOf single) (fmtOf (!single)) rm ute ((fmtOf single).decode (s.fin c single f.ra))) (putF c f))

/-- FMVG and GMVF copy any bit pattern (R149). FMVG.S clears bits [63:32] of the g register: the spec does not state them
(DESIGN CHOICE, log entry 123). -/
def execFmvg (c : Nat) (single : Bool) (f : RFmt) (s : State) : Res :=
  .next (s.fpu1 c 0x14 single f (fun s _ _ => ⟨s.fin c single f.ra, 0⟩) (putG c f))
def execGmvf (c : Nat) (single : Bool) (f : RFmt) (s : State) : Res :=
  .next (s.fpu1 c 0x15 single f
    (fun s _ _ => ⟨if single then (s.g c f.ra).toNat % 2 ^ 32 else (s.g c f.ra).toNat, 0⟩) (putF c f))
def execFclass (c : Nat) (single : Bool) (f : RFmt) (s : State) : Res :=
  .next (s.fpu1 c 0x16 single f (fun s _ _ => ⟨(fmtOf single).classMask (s.fin c single f.ra), 0⟩) (putG c f))
def execFrnd (c : Nat) (single : Bool) (f : RFmt) (s : State) : Res :=
  .next (s.fpu1 c 0x17 single f
    (fun s rm _ => (fmtOf single).toIntegral rm ((fmtOf single).decode (s.fin c single f.ra))) (putF c f))

/-! ### Register decimal, major 0x03 (R129, R159–R161) -/

/-- An invalid decimal operand (R159): D := 1 and nothing else; DECX as well when DCR.DTRAP = 1, with D = 1 in the
saved status. -/
def State.decBad (s : State) (c : Nat) : Done :=
  let t := s.flags c { d := some true }
  if (s.ctx c).dcr.getLsbD 0 then .exc t { code := Xc.decx } else .next t

/-- A decimal string instruction: its fields, then LAZY; the wide part is needed once the strings are read (R121). -/
def State.decStr (s : State) (c func : Nat) (f : RFmt) (bad : Bool) (body : State → Done) : State :=
  s.native c (wordR 0x03 func f) fun s => guardUndef s bad ((s.lazy c).fin fun s _ => body s)

/-- A decimal instruction: its fields, then wide state, then the body. -/
def State.dec (s : State) (c func : Nat) (f : RFmt) (bad : Bool) (body : State → Done) : State :=
  s.native c (wordR 0x03 func f) fun s => guardUndef s bad ((s.wide c).fin fun s _ => body s)

/-- The register decimals of ra and rb, or the invalid case. -/
def State.dec2 (s : State) (c : Nat) (f : RFmt) (body : Dec → Dec → Done) : Done :=
  match regDec (s.g c f.ra).toNat, regDec (s.g c f.rb).toNat with
  | some a, some b => body a b
  | _, _ => s.decBad c

/-- The sign a decimal result carries (R160): the rule of signs, and plus for a zero result that did not overflow. -/
def DecRes.signed (r : DecRes) : Bool := r.neg && !r.z

/-- Deliver a register decimal with its flags; `v` says whether the instruction writes V. -/
def State.putDec (s : State) (c : Nat) (rd : RegNo) (r : DecRes) (v : Bool) : Done :=
  let s := s.flags c { z := some r.z, n := some r.n, v := if v then some r.v else none, d := some false }
  .next (s.setG c rd (BitVec.ofNat 64 (decReg r.signed r.mag)))

def execDadd (c : Nat) (f : RFmt) (s : State) : Res :=
  .next (s.dec c 0x00 f (f.rc != 0) fun s => s.dec2 c f fun a b => s.putDec c f.rd (fitDec 15 (a.val + b.val)) true)
def execDsub (c : Nat) (f : RFmt) (s : State) : Res :=
  .next (s.dec c 0x01 f (f.rc != 0) fun s => s.dec2 c f fun a b => s.putDec c f.rd (fitDec 15 (a.val - b.val)) true)
def execDcmp (c : Nat) (f : RFmt) (s : State) : Res :=
  .next (s.dec c 0x02 f (f.rd != 0 || f.rc != 0) fun s => s.dec2 c f fun a b =>
    .next (s.flags c { z := some (a.val == b.val), n := some (decide (a.val < b.val)), d := some false }))

/-- DMUL: the 31-digit product in rd:rc; a half whose destination is g0 is discarded. -/
def execDmul (c : Nat) (f : RFmt) (s : State) : Res :=
  .next (s.dec c 0x03 f (f.rd == f.rc) fun s => s.dec2 c f fun a b =>
    let p := a.val * b.val
    let s := s.flags c { z := some (p == 0), n := some (decide (p < 0)), d := some false }
    .next ((s.setG c f.rd (BitVec.ofNat 64 (decHigh p.natAbs))).setG c f.rc
      (BitVec.ofNat 64 (decReg (decide (p < 0)) p.natAbs))))

/-- DDIV: quotient in rd, remainder with the sign of ra in rc; a zero divisor raises IDIV. With rd = rc the spec names
two values for one register: it is left free (log entry 16). Of its two results Z and N describe the quotient (DESIGN CHOICE,
log entry 124). -/
def execDdiv (c : Nat) (f : RFmt) (s : State) : Res :=
  .next (s.dec c 0x04 f false fun s => s.dec2 c f fun a b =>
    if b.mag = 0 then .exc s { code := Xc.idiv }
    else
      let q := truncDiv a.val b.val
      let r := a.val - q * b.val
      let s := s.flags c { z := some (q == 0), n := some (decide (q < 0)), v := some false, d := some false }
      if f.rd = f.rc then
        let (w, s) := s.draw
        .next (s.setG c f.rd w)
      else
        .next ((s.setG c f.rd (BitVec.ofNat 64 (decReg (decide (q < 0)) q.natAbs))).setG c f.rc
          (BitVec.ofNat 64 (decReg (decide (r < 0)) r.natAbs))))

/-- The register decimal of ra, or the invalid case. -/
def State.dec1 (s : State) (c : Nat) (f : RFmt) (body : Dec → Done) : Done :=
  match regDec (s.g c f.ra).toNat with
  | some a => body a
  | none => s.decBad c

def execDshl (c : Nat) (f : RFmt) (s : State) : Res :=
  .next (s.dec c 0x05 f (f.rc != 0) fun s => s.dec1 c f fun a =>
    s.putDec c f.rd (decShl a ((s.g c f.rb).toNat % 32)) true)
def execDshr (c : Nat) (f : RFmt) (s : State) : Res :=
  .next (s.dec c 0x06 f (f.rc != 0) fun s => s.dec1 c f fun a =>
    s.putDec c f.rd (decShr a ((s.g c f.rb).toNat % 32) ((s.g c f.rb).getLsbD 5)) false)

/-- DNEG inverts the sign of every operand, zero included (R160). -/
def execDneg (c : Nat) (f : RFmt) (s : State) : Res :=
  .next (s.dec c 0x07 f (f.rb != 0 || f.rc != 0) fun s => s.dec1 c f fun a =>
    let s := s.flags c { z := some (a.mag == 0), n := some (!a.neg && a.mag != 0), d := some false }
    .next (s.setG c f.rd (BitVec.ofNat 64 (decReg (!a.neg) a.mag))))
def execDchk (c : Nat) (f : RFmt) (s : State) : Res :=
  .next (s.dec c 0x08 f (f.rb != 0 || f.rc != 0) fun s => s.dec1 c f fun a => s.putDec c f.rd (fitDec 15 a.val) false)
def execCvbd (c : Nat) (f : RFmt) (s : State) : Res :=
  .next (s.dec c 0x09 f (f.rb != 0 || f.rc != 0) fun s => s.dec1 c f fun a =>
    let s := s.flags c { z := some (a.mag == 0), n := some (decide (a.val < 0)), d := some false }
    .next (s.setG c f.rd (wordOfInt a.val)))

/-- CVDB: a valid operand always, so D := 0 (R159; DEDUCED, log entry 17). -/
def execCvdb (c : Nat) (f : RFmt) (s : State) : Res :=
  .next (s.dec c 0x0A f (f.rb != 0 || f.rc != 0) fun s => s.putDec c f.rd (fitDec 15 (s.g c f.ra).toInt) true)

end Sys2Proof.Machine
end

