-- ==== Sys2Proof/Machine/CpuMem.lean ====
section
/-! DEFINITION. The meanings of the memory group, the atomics and the block instructions (04 R103, R104, R131, R134), the
ledger strings (05 R157–R163) and the cache instructions (09 R269). -/

namespace Sys2Proof.Machine

/-! ### The memory group (R103, R104, R134) -/

/-- The fields of a memory instruction that raise UNDEF (R104); `load` a load of a g register, `lea`, `st64`. -/
def mBad (f : MFmt) (load lea st64 : Bool) : Bool :=
  let m := f.mode.toNat
  (decide (2 ≤ m) && f.ra == 0) || (load && decide (2 ≤ m) && f.rt == f.ra)
    || (m == 1 && (decide (4 < bitsOf f.opnd.toNat 8 6) || bitsOf f.opnd.toNat 5 0 != 0))
    || (lea && decide (2 ≤ m)) || (st64 && m != 0)

/-- The displacement of a memory instruction of access size `sz`. -/
def mDisp (f : MFmt) (sz : Nat) : Word := f.opnd.signExtend 64 * BitVec.ofNat 64 sz

/-- The effective address (R103). -/
def State.ea (s : State) (c : Nat) (f : MFmt) (sz : Nat) : Word :=
  match f.mode.toNat with
  | 0 => (if f.ra = 0 then (s.ctx c).pc else s.g c f.ra) + mDisp f sz
  | 1 => s.g c f.ra + (s.g c (BitVec.ofNat 5 (bitsOf f.opnd.toNat 13 9)) <<< bitsOf f.opnd.toNat 8 6)
  | 2 => s.g c f.ra + mDisp f sz
  | _ => s.g c f.ra

/-- The write-back of the modifying modes (R103), made when the access completes. -/
def State.writeBack (s : State) (c : Nat) (f : MFmt) (sz : Nat) (a : Word) : State :=
  match f.mode.toNat with
  | 2 => s.setG c f.ra a
  | 3 => s.setG c f.ra (a + mDisp f sz)
  | _ => s

/-- A load: the access, the write-back, then `put` delivers the bytes. -/
def State.load (s : State) (c major : Nat) (f : MFmt) (sz : Nat) (fp bad : Bool) (put : State → List Byte → State) :
    State :=
  s.native c (wordM major f) fun s =>
    guardUndef s (mBad f (!fp) false false || bad) (
      (s.lazyIf c fp).fin fun s _ =>
      let a := s.ea c f sz
      (s.reachData c accLoad (pagePieces a.toNat sz) (a.toNat % sz != 0) (sz == 16) .plain).fin fun s l =>
      (s.bankIf c fp).fin fun s _ =>
      (s.loadData c a l sz).fin fun s bs => .next (put (s.writeBack c f sz a) bs))

/-- A store of the bytes `data` reads from the registers. -/
def State.store (s : State) (c major : Nat) (f : MFmt) (sz : Nat) (fp bad : Bool) (data : State → List Byte) : State :=
  s.native c (wordM major f) fun s =>
    guardUndef s (mBad f false false (sz == 64) || bad) (
      (s.lazyIf c fp).fin fun s _ =>
      let a := s.ea c f sz
      (s.reachData c accStore (pagePieces a.toNat sz) (a.toNat % sz != 0) (decide (16 ≤ sz)) .plain).fin fun s l =>
      (s.bankIf c fp).fin fun s _ =>
      let bs := data s
      .post (s.writeBack c f sz a) fun s => s.storeData c l bs (sz == 64) (sz == 64))

/-- The loaded bytes as a register: zero-extended, or sign-extended from `w` bits. -/
def zx (bs : List Byte) : Word := BitVec.ofNat 64 (leNat bs)
def sx (w : Nat) (bs : List Byte) : Word := wordOfInt (signedOf w (leNat bs))

/-- A load into one g register, zero- or sign-extended. -/
def State.loadG (s : State) (c major : Nat) (f : MFmt) (sz : Nat) (signed : Bool) : State :=
  s.load c major f sz false false fun s bs => s.setG c f.rt (if signed then sx (8 * sz) bs else zx bs)
def State.loadF (s : State) (c major : Nat) (f : MFmt) (sz : Nat) : State :=
  s.load c major f sz true false fun s bs => s.setFr c f.rt (zx bs)
def State.storeG (s : State) (c major : Nat) (f : MFmt) (sz : Nat) : State :=
  s.store c major f sz false false fun s => leBytes sz (s.g c f.rt).toNat
def State.storeF (s : State) (c major : Nat) (f : MFmt) (sz : Nat) : State :=
  s.store c major f sz true false fun s => leBytes sz (s.fr c f.rt).toNat

def execLdb (c : Nat) (f : MFmt) (s : State) : Res := .next (s.loadG c 0x18 f 1 true)
def execLdbu (c : Nat) (f : MFmt) (s : State) : Res := .next (s.loadG c 0x19 f 1 false)
def execLdh (c : Nat) (f : MFmt) (s : State) : Res := .next (s.loadG c 0x1A f 2 true)
def execLdhu (c : Nat) (f : MFmt) (s : State) : Res := .next (s.loadG c 0x1B f 2 false)
def execLdw (c : Nat) (f : MFmt) (s : State) : Res := .next (s.loadG c 0x1C f 4 true)
def execLdwu (c : Nat) (f : MFmt) (s : State) : Res := .next (s.loadG c 0x1D f 4 false)
def execLdd (c : Nat) (f : MFmt) (s : State) : Res := .next (s.loadG c 0x1E f 8 false)

/-- LDP: rt even. Where rt + 1 is the base of a modifying mode the spec names two values for it: it is left free (log
entry 28). -/
def execLdp (c : Nat) (f : MFmt) (s : State) : Res :=
  .next (s.load c 0x1F f 16 false (f.rt.getLsbD 0) fun s bs =>
    let s := (s.setG c f.rt (zx (bs.take 8))).setG c (f.rt + 1) (zx (bs.drop 8))
    if 2 ≤ f.mode.toNat ∧ f.rt + 1 = f.ra then
      let (w, s) := s.draw
      s.setG c f.ra w
    else s)
def execStb (c : Nat) (f : MFmt) (s : State) : Res := .next (s.storeG c 0x20 f 1)
def execSth (c : Nat) (f : MFmt) (s : State) : Res := .next (s.storeG c 0x21 f 2)
def execStw (c : Nat) (f : MFmt) (s : State) : Res := .next (s.storeG c 0x22 f 4)
def execStd (c : Nat) (f : MFmt) (s : State) : Res := .next (s.storeG c 0x23 f 8)
def execStp (c : Nat) (f : MFmt) (s : State) : Res :=
  .next (s.store c 0x24 f 16 false (f.rt.getLsbD 0) fun s =>
    leBytes 8 (s.g c f.rt).toNat ++ leBytes 8 (s.g c (f.rt + 1)).toNat)
def execFlds (c : Nat) (f : MFmt) (s : State) : Res := .next (s.loadF c 0x25 f 4)
def execFldd (c : Nat) (f : MFmt) (s : State) : Res := .next (s.loadF c 0x26 f 8)
def execFsts (c : Nat) (f : MFmt) (s : State) : Res := .next (s.storeF c 0x27 f 4)
def execFstd (c : Nat) (f : MFmt) (s : State) : Res := .next (s.storeF c 0x28 f 8)

/-- LEA: rt := the effective address with s = 1; no access and no translation. -/
def execLea (c : Nat) (f : MFmt) (s : State) : Res :=
  .next (s.native c (wordM 0x29 f) fun s =>
    guardUndef s (mBad f false true false) (.next (s.setG c f.rt (s.ea c f 1))))

/-- ST64: rt 8, 16 or 24; the 64 bytes of rt to rt + 7. -/
def execSt64 (c : Nat) (f : MFmt) (s : State) : Res :=
  .next (s.store c 0x2A f 64 false (!(f.rt == 8 || f.rt == 16 || f.rt == 24)) fun s =>
    (List.range 8).flatMap fun k => leBytes 8 (s.g c (f.rt + BitVec.ofNat 5 k)).toNat)

/-! ### Atomics (R131) -/

/-- An atomic of 4 or 8 bytes at ra: `op` answers what is stored, from the value in memory, or none; rd gets that value,
zero-extended. The register operands are read before rd is written (DEDUCED, log entry 29). -/
def State.atomic (s : State) (c func : Nat) (dword : Bool) (f : RFmt) (op : Nat → State → Option Nat) : State :=
  s.native c (wordR 0x06 (func + bnat dword) f) fun s =>
    guardUndef s (f.rd == f.ra || f.rc != 0) (
      let n := if dword then 8 else 4
      let a := s.g c f.ra
      (s.reachData c accAtomic (pagePieces a.toNat n) (a.toNat % n != 0) true .block).fin fun s l =>
      ((s.sbOwn c).loadData c a l n).fin fun s bs =>
      let old := leNat bs
      let new := op old s
      .post (s.setG c f.rd (BitVec.ofNat 64 old)) fun s => match new with
        | some v => s.storeNow c l (leBytes n v)
        | none => s)

/-- The low bits of a register that an atomic uses. -/
def lowOf (dword : Bool) (w : Word) : Nat := if dword then w.toNat else w.toNat % 2 ^ 32

def execCas (c : Nat) (dword : Bool) (f : RFmt) (s : State) : Res :=
  .next (s.atomic c 0x00 dword f fun t s =>
    if t = lowOf dword (s.g c f.rd) then some (lowOf dword (s.g c f.rb)) else none)
def execSwp (c : Nat) (dword : Bool) (f : RFmt) (s : State) : Res :=
  .next (s.atomic c 0x02 dword f fun _ s => some (lowOf dword (s.g c f.rb)))
def execLdadd (c : Nat) (dword : Bool) (f : RFmt) (s : State) : Res :=
  .next (s.atomic c 0x04 dword f fun t s => some (t + lowOf dword (s.g c f.rb)))
def execLdand (c : Nat) (dword : Bool) (f : RFmt) (s : State) : Res :=
  .next (s.atomic c 0x06 dword f fun t s => some (t &&& lowOf dword (s.g c f.rb)))
def execLdor (c : Nat) (dword : Bool) (f : RFmt) (s : State) : Res :=
  .next (s.atomic c 0x08 dword f fun t s => some (t ||| lowOf dword (s.g c f.rb)))
def execLdxor (c : Nat) (dword : Bool) (f : RFmt) (s : State) : Res :=
  .next (s.atomic c 0x0A dword f fun t s => some (t ^^^ lowOf dword (s.g c f.rb)))

/-! ### Block copy and fill (R120, R131) -/

/-- The module-physical address and memory type of every byte of an access. -/
def refBytes (l : List (Tr × Nat)) : List (Nat × Bool) :=
  l.flatMap fun x => (upFrom x.1.mp x.2).map fun a => (a, x.1.attr != 0)

/-- Copy byte by byte in ascending order, so that bytes already written are read again where the ranges overlap: `done`
holds the bytes written so far by address. The unit is one store, which clears the poison of the sectors that it covers whole
(R258). -/
def State.copyBytes (s : State) (c : Nat) (src dst : List (Tr × Nat)) : State :=
  let r := ((refBytes src).zip (refBytes dst)).foldl (fun (acc : State × AMap (Option Byte) × List Byte) p =>
    let (s, done, out) := acc
    let (s, b) : State × Byte := match AMap.get none done p.1.1 with
      | some b => (s, b)
      | none => (let (s, b, _) := s.ctxRead c p.1.1 1 p.1.2; (s, b.headD 0))
    (s, AMap.set none done p.2.1 (some b), out ++ [b])) (s.sbOwn c, [], [])
  r.1.storeData c dst r.2.2 true false

/-- The bytes of the next unit of a block instruction with `n` left: the spec gives no size, so it is free, from 1 to
`n` (log entry 30). -/
def State.unitSize (s : State) (n : Nat) : State × Nat :=
  let (w, s) := s.draw
  (s, 1 + w.toNat % n)

/-- The registers of a block instruction must be distinct and not g0 (R131). -/
def blockBad (f : RFmt) : Bool :=
  f.rd != 0 || f.ra == 0 || f.rb == 0 || f.rc == 0 || f.ra == f.rb || f.ra == f.rc || f.rb == f.rc

/-- MOVBLK: one unit, committed; the last unit completes the instruction. It copies bytes, so that func bit [0] of its group
(R131) selects nothing in it (DEDUCED, log entry 40). -/
def execMovblk (c : Nat) (b : BlkFmt) (s : State) : Res :=
  let f := b.f
  .next (s.native c (wordR 0x06 (0x10 + bnat b.dword) f) fun s =>
    guardUndef s (blockBad f) (
      let n := (s.g c f.rc).toNat
      if n = 0 then .next s
      else
        let (s, k) := s.unitSize n
        let a := s.g c f.ra
        let b := s.g c f.rb
        (s.reachData c accLoad (pagePieces b.toNat k) false false .block).fin fun s src =>
        (s.reachData c accStore (pagePieces a.toNat k) false false .block).fin fun s dst =>
        (s.loadData c b src k).fin fun s _ =>
        let s := s.copyBytes c src dst
        let kw := BitVec.ofNat 64 k
        let s := ((s.setG c f.ra (a + kw)).setG c f.rb (b + kw)).setG c f.rc (BitVec.ofNat 64 (n - k))
        if k = n then .next s else .again s))

/-- FILLBLK, with func bit [0] as in MOVBLK. -/
def execFillblk (c : Nat) (b : BlkFmt) (s : State) : Res :=
  let f := b.f
  .next (s.native c (wordR 0x06 (0x12 + bnat b.dword) f) fun s =>
    guardUndef s (blockBad f) (
      let n := (s.g c f.rc).toNat
      if n = 0 then .next s
      else
        let (s, k) := s.unitSize n
        let a := s.g c f.ra
        (s.reachData c accStore (pagePieces a.toNat k) false false .block).fin fun s dst =>
        let s := s.storeData c dst (List.replicate k ((s.g c f.rb).setWidth 8)) true false
        let s := (s.setG c f.ra (a + BitVec.ofNat 64 k)).setG c f.rc (BitVec.ofNat 64 (n - k))
        if k = n then .next s else .again s))

/-! ### Ledger and zoned strings (R157–R163) -/

/-- The instructions on strings: the operation, and what the string at ra holds. -/
inductive StrOp where
  | add | sub | mul | div | cmp | pack | unpack
deriving DecidableEq, Repr

/-- The bytes of the string at ra and of the string at rb (R157, R158). -/
def StrOp.len1 (op : StrOp) (l1 : Nat) : Nat := if op = .unpack then l1 + 1 else ledgerLen l1
def StrOp.len2 (op : StrOp) (l2 : Nat) : Nat := if op = .pack then l2 + 1 else ledgerLen l2

/-- Is a length 0 or a length rule of R163 broken? -/
def StrOp.lenBad (op : StrOp) (l1 l2 : Nat) : Bool :=
  l1 == 0 || l2 == 0 || (op == .div && decide (ledgerLen l1 ≤ ledgerLen l2))
    || ((op == .pack || op == .unpack) && decide (l1 < l2))

/-- What a string instruction does: an invalid operand, a zero divisor, or the bytes written at ra (none: nothing) and
the flags. -/
inductive StrRes where
  | bad
  | idiv
  | ok (out : Option (List Byte)) (f : FlagSet)

/-- The true result of a string sum, difference or product (R160, R161, R163), written as `l1` digits. -/
def strFit (l1 : Nat) (i : Int) : StrRes :=
  let r := fitDec l1 i
  .ok (some (decLedger l1 r.signed r.mag))
    { z := some r.z, n := some r.n, v := some r.v, d := some false }

/-- The result of a string instruction from the bytes of its operands (R159–R163). Of the two results of a division Z and N
describe the quotient (DESIGN CHOICE, log entry 124). -/
def StrOp.run (op : StrOp) (l1 l2 : Nat) (b1 b2 : List Byte) : StrRes :=
  match (if op = .pack then zonedDec l2 b2 else ledgerDec l2 b2) with
  | none => .bad
  | some y =>
    if op = .pack then .ok (some (decLedger l1 (y.neg && y.mag != 0) y.mag)) { d := some false }
    else if op = .unpack then .ok (some (decZoned l1 y.neg y.mag)) { d := some false }
    else match ledgerDec l1 b1 with
      | none => .bad
      | some x =>
        match op with
        | .add => strFit l1 (x.val + y.val)
        | .sub => strFit l1 (x.val - y.val)
        | .mul => strFit l1 (x.val * y.val)
        | .cmp => .ok none { z := some (x.val == y.val), n := some (decide (x.val < y.val)), d := some false }
        | _ =>
          if y.mag = 0 then .idiv
          else
            let q := truncDiv x.val y.val
            let r := x.val - q * y.val
            let qb := ledgerLen l1 - ledgerLen l2
            let qd := 2 * qb - 1
            let fl (v : Bool) : FlagSet := { z := some (q == 0), n := some (decide (q < 0)), v := some v, d := some false }
            if 10 ^ qd ≤ q.natAbs then .ok none (fl true)
            else .ok (some (decLedger qd (decide (q < 0)) q.natAbs ++ decLedger l2 (decide (r < 0)) r.natAbs)) (fl false)

/-- A string instruction on the pieces `p1` and `p2` of its strings: its lengths, then all its operands are checked,
translated and read, then the wide part is needed, before it writes (R121, R129, R162). Broken lengths are found first, and
no memory is touched then (DESIGN CHOICE, log entry 125). -/
def State.strings (s : State) (c : Nat) (op : StrOp) (l1 l2 : Nat) (p1 p2 : List (Nat × Nat)) (a1 a2 : Word) : Done :=
  if op.lenBad l1 l2 then (s.needWide c).fin fun s _ => s.decBad c
  else
    let acc : Acc := if op = .cmp then accLoad else if op = .pack ∨ op = .unpack then accStore else accAtomic
    (s.reachData c acc p1 false false .string).fin fun s r1 =>
    (s.reachData c accLoad p2 false false .string).fin fun s r2 =>
    let rd1 : Out (List Byte) := if acc.r then s.loadData c a1 r1 (op.len1 l1) else .ok s []
    rd1.fin fun s b1 =>
    (s.loadData c a2 r2 (op.len2 l2)).fin fun s b2 =>
    (s.needWide c).fin fun s _ =>
    match op.run l1 l2 b1 b2 with
    | .bad => s.decBad c
    | .idiv => .exc s { code := Xc.idiv }
    | .ok out fl =>
      .post (s.flags c fl) fun s => match out with
        | some bs => s.storeData c r1 bs false false
        | none => s

/-- The lengths in rc: L1 in [4:0], L2 in [12:8] (R129). -/
def State.stringOp (s : State) (c func : Nat) (f : RFmt) (op : StrOp) : State :=
  s.decStr c func f (f.rd != 0) fun s =>
    let l1 := bitsOf (s.g c f.rc).toNat 4 0
    let l2 := bitsOf (s.g c f.rc).toNat 12 8
    let a1 := s.g c f.ra
    let a2 := s.g c f.rb
    s.strings c op l1 l2 (pagePieces a1.toNat (op.len1 l1)) (pagePieces a2.toNat (op.len2 l2)) a1 a2

def execDsadd (c : Nat) (f : RFmt) (s : State) : Res := .next (s.stringOp c 0x10 f .add)
def execDssub (c : Nat) (f : RFmt) (s : State) : Res := .next (s.stringOp c 0x11 f .sub)
def execDsmul (c : Nat) (f : RFmt) (s : State) : Res := .next (s.stringOp c 0x12 f .mul)
def execDsdiv (c : Nat) (f : RFmt) (s : State) : Res := .next (s.stringOp c 0x13 f .div)
def execDscmp (c : Nat) (f : RFmt) (s : State) : Res := .next (s.stringOp c 0x14 f .cmp)
def execDpack (c : Nat) (f : RFmt) (s : State) : Res := .next (s.stringOp c 0x15 f .pack)
def execDunpk (c : Nat) (f : RFmt) (s : State) : Res := .next (s.stringOp c 0x16 f .unpack)

/-! ### Cache instructions (R269) -/

/-- A cache instruction (S format). -/
def State.cacheOp (s : State) (c sub : Nat) (f : SFmt) (acc : Acc) (fwOnly : Bool) (op : State → Nat → State) : State :=
  s.native c (wordS sub f) fun s => s.cacheBody c f acc fwOnly op
def execCclean (c : Nat) (f : SFmt) (s : State) : Res := .next (s.cacheOp c 0x0D f accLoad false State.cleanSector)
def execCflush (c : Nat) (f : SFmt) (s : State) : Res := .next (s.cacheOp c 0x0E f accLoad false State.flushSector)
def execCinv (c : Nat) (f : SFmt) (s : State) : Res := .next (s.cacheOp c 0x0F f accStore true State.invSector)
def execPref (c : Nat) (f : SFmt) (s : State) : Res := .next (s.native c (wordS 0x10 f) fun s => s.prefBody c f)

end Sys2Proof.Machine
end

