-- ==== Sys2Proof/Machine/CpuSys.lean ====
section
/-! DEFINITION. CA-64's system instructions (04_native_architecture.md R97–R100, R115, R122, R132; 07 R216, R219–R224;
10 R287–R292): system registers, calls and returns, barriers, invalidations, the compatibility switch, and block save and
restore by mask. -/

namespace Sys2Proof.Machine

/-- An S format instruction: `bad` its UNDEF condition, `lvl` the level it needs (PRIV, R99). -/
def State.sys (s : State) (c sub : Nat) (f : SFmt) (bad : Bool) (lvl : Nat) (body : State → Done) (hold : Bool := false) :
    State :=
  s.instr c 4 (wordS sub f) false (fun s => s.atLevel c bad lvl body) hold

/-- An access to a system register (R100): the number, the level, then wide state for FCSR and DCR. -/
def State.sysReg (s : State) (c sub : Nat) (f : SFmt) (bad : Bool) (body : State → Nat → State) : State :=
  let n := f.imm.toNat
  s.sys c sub f (bad || (sysLevel n).isNone) 0 fun s =>
    if s.level c < (sysLevel n).getD 0 then .exc s (excPriv 0x02)
    else (s.wideIf c (sysWide n)).fin fun s _ => .next (body s n)

def execNop (c : Nat) (f : SFmt) (s : State) : Res := .next (s.sys c 0x00 f (sBare f) 0 fun s => .next s)
def execMfsr (c : Nat) (f : SFmt) (s : State) : Res :=
  .next (s.sysReg c 0x01 f (f.ra != 0) fun s n => let (s, w) := s.sysRead c n; s.setG c f.rd w)
def execMtsr (c : Nat) (f : SFmt) (s : State) : Res :=
  .next (s.sysReg c 0x02 f (f.rd != 0) fun s n => s.sysWrite c n (s.g c f.ra))

/-! ### Calls, breakpoint, return (R117, R122, R132) -/

def execSvc (c : Nat) (f : SFmt) (s : State) : Res :=
  .next (s.sys c 0x03 f (f.rd != 0 || f.ra != 0) 0 fun s => .after s { code := Xc.svc, detail := f.imm.toNat % 256 })
def execFwc (c : Nat) (f : SFmt) (s : State) : Res :=
  .next (s.sys c 0x04 f (sBare f) 1 fun s => .after s { code := Xc.fwc })
def execBrk (c : Nat) (f : SFmt) (s : State) : Res :=
  .next (s.sys c 0x06 f (sBare f) 0 fun s => .exc s { code := Xc.brk })

/-- RFE (R122, R195): at S a saved level above S raises PRIV; a misaligned target raises ALIGN; a return to Classic takes
the low 32 bits of its target in the window. -/
def execRfe (c : Nat) (f : SFmt) (s : State) : Res :=
  .next (s.sys c 0x05 f (sBare f) 1 fun s =>
    let fw := s.level c == 2
    let x := s.ctx c
    let r := if fw then x.fr else x.sr
    if !fw && decide (2 ≤ stPL r.rst) then .exc s (excPriv 0x03)
    else if r.rpc.toNat % 4 ≠ 0 then .exc s (excAlign 0x01 r.rpc)
    else
      let y := x.rfe fw
      .jump (s.setCtx c { y with pc := x.pc }) (if stBit y.st ST.cls then s.inWindow c y.pc.toNat else y.pc))

/-! ### Barriers, waiting, invalidations, the switch, block save and restore (R115, R216, R220–R224, R287–R292) -/

def execBar (c : Nat) (f : SFmt) (s : State) : Res := .next (s.native c (wordS 0x07 f) fun s => s.barBody c f)
def execPersist (c : Nat) (f : SFmt) (s : State) : Res := .next (s.native c (wordS 0x08 f) fun s => s.persistBody c f)
def execIsync (c : Nat) (f : SFmt) (s : State) : Res := .next (s.native c (wordS 0x09 f) fun s => s.isyncBody c f)
def execWfe (c : Nat) (f : SFmt) (s : State) : Res :=
  .next (s.instr c 4 (wordS 0x0A f) false (fun s => s.wfeBody c f) (s.fbit (POCKET_STAT.EVENT c)))
def execTlbi (c : Nat) (f : SFmt) (s : State) : Res := .next (s.native c (wordS 0x0B f) fun s => s.tlbiBody c f)
def execTlb2i (c : Nat) (f : SFmt) (s : State) : Res := .next (s.native c (wordS 0x0C f) fun s => s.tlb2iBody c f)
def execCsw (c : Nat) (f : SFmt) (s : State) : Res := .next (s.native c (wordS 0x11 f) fun s => s.cswBody c f)
def execSavem (c : Nat) (f : SFmt) (s : State) : Res := .next (s.native c (wordS 0x12 f) fun s => s.savemBody c f)
def execLoadm (c : Nat) (f : SFmt) (s : State) : Res := .next (s.native c (wordS 0x13 f) fun s => s.loadmBody c f)

end Sys2Proof.Machine
end

