-- ==== Sys2Proof/Machine/Classic.lean ====
section
/-! DEFINITION. CA-32 Classic (06_control_store_and_classic_mode.md R193–R202; R220): its registers on the native ones, its
window of addresses, every row of R200, and words with a reserved opcode (R102, R197). -/

namespace Sys2Proof.Machine

/-! ### Registers (R194) -/

/-- c(r): the high half of g(16 + k) for r = 2k, the low half for r = 2k + 1. -/
def Ctx.readC (x : Ctx) (r : Nat) : Nat :=
  let w := (x.readG (16 + r / 2)).toNat
  if r % 2 = 0 then w / 2 ^ 32 else w % 2 ^ 32

/-- Write c(r); the other half of its g register is unchanged. -/
def Ctx.writeC (x : Ctx) (r v : Nat) : Ctx :=
  let w := (x.readG (16 + r / 2)).toNat
  x.writeG (16 + r / 2)
    (BitVec.ofNat 64 (if r % 2 = 0 then v % 2 ^ 32 * 2 ^ 32 + w % 2 ^ 32 else w / 2 ^ 32 * 2 ^ 32 + v % 2 ^ 32))

def State.cr (s : State) (c : Nat) (r : RegNo) : Nat := (s.ctx c).readC r.toNat
def State.setC (s : State) (c : Nat) (r : RegNo) (v : Nat) : State := s.setCtx c ((s.ctx c).writeC r.toNat v)

/-- The native register of the pair that starts at c(r), r even. -/
def pairReg (r : RegNo) : RegNo := BitVec.ofNat 5 (16 + r.toNat / 2)

/-- The value of pair r. R194 gives pairs that start at even registers; an odd field that no constraint of the row forbids
names none, and its value is free (log entry 33). -/
def State.pairC (s : State) (c : Nat) (r : RegNo) : State × Word :=
  if r.getLsbD 0 then let (w, s) := s.draw; (s, w) else (s, s.g c (pairReg r))

/-- A register field above 23 (R197). -/
def noC (r : RegNo) : Bool := decide (23 < r.toNat)
/-- An address register field: 31 means none. -/
def noB (r : RegNo) : Bool := noC r && r != 31
/-- "even": r1 odd. -/
def odd (r : RegNo) : Bool := r.getLsbD 0
/-- "×4": r1 not a multiple of 4. -/
def notBy4 (r : RegNo) : Bool := r.toNat % 4 != 0

/-! ### Words (R196) -/

def wordR3 (op : Nat) (f : R3Fmt) : Nat :=
  op * 2 ^ 24 + f.r1.toNat * 2 ^ 19 + f.r2.toNat * 2 ^ 14 + f.r3.toNat * 2 ^ 9 + f.z.toNat
def wordRK (op : Nat) (f : RKFmt) : Nat := op * 2 ^ 24 + f.r1.toNat * 2 ^ 19 + f.r2.toNat * 2 ^ 14 + f.k.toNat
def wordRM (op : Nat) (f : RMFmt) : Nat := op * 2 ^ 24 + f.r1.toNat * 2 ^ 19 + f.b.toNat * 2 ^ 14 + f.d.toNat
def wordBJ (op : Nat) (f : BJFmt) : Nat := op * 2 ^ 24 + f.cond.toNat * 2 ^ 20 + f.disp.toNat
def wordDS (op : Nat) (f : DSFmt) : Nat :=
  op * 2 ^ 24 + f.p1.toNat * 2 ^ 19 + f.p2.toNat * 2 ^ 14 + f.l1.toNat * 2 ^ 9 + f.l2.toNat * 2 ^ 4 + f.z.toNat
/-- The second word of a DS instruction. -/
def wordDS2 (f : DSFmt) : Nat := f.d1.toNat * 2 ^ 16 + f.d2.toNat

/-- A Classic instruction of `len` bytes whose words are `w` and `w2`; `bad` its UNDEF condition. -/
def State.classic (s : State) (c len w : Nat) (bad : Bool) (body : State → Done) (w2 : Nat := 0) : State :=
  s.instr c len w true (fun s => guardUndef s bad (body s)) false w2

/-! ### Three registers (R199, R200) -/

/-- An R3 row: its own constraint beside the register fields and the zero field. -/
def State.r3 (s : State) (c op : Nat) (f : R3Fmt) (bad : Bool) (body : State → Done) : State :=
  s.classic c 4 (wordR3 op f) (noC f.r1 || noC f.r2 || noC f.r3 || f.z != 0 || bad) body

/-- r1 := a 32-bit result with the flags it names. -/
def State.cput (s : State) (c : Nat) (r : RegNo) (v : Nat) (fl : FlagSet) : State := (s.flags c fl).setC c r v

/-- An arithmetic row: Z, N, C and V by R140 on 32 bits; `write` says that r1 gets the result. -/
def State.carith (s : State) (c a b : Nat) (r : RegNo) (sub write cin : Bool) : State :=
  let fl := if sub then subFlags 32 a b cin else addFlags 32 a b cin
  if write then s.cput c r (if sub then subRes 32 a b cin else addRes 32 a b cin) fl else s.flags c fl

/-- A logical row: Z and N. -/
def State.clogic (s : State) (c : Nat) (r : RegNo) (v : Nat) : State := s.cput c r v (logicFlags 32 v)

def execSum (c : Nat) (f : R3Fmt) (s : State) : Res :=
  .next (s.r3 c 0x01 f false fun s => .next (s.carith c (s.cr c f.r2) (s.cr c f.r3) f.r1 false true false))
def execSumc (c : Nat) (f : R3Fmt) (s : State) : Res :=
  .next (s.r3 c 0x02 f false fun s => .next (s.carith c (s.cr c f.r2) (s.cr c f.r3) f.r1 false true (s.flag c ST.c)))
def execDif (c : Nat) (f : R3Fmt) (s : State) : Res :=
  .next (s.r3 c 0x03 f false fun s => .next (s.carith c (s.cr c f.r2) (s.cr c f.r3) f.r1 true true true))
def execDifb (c : Nat) (f : R3Fmt) (s : State) : Res :=
  .next (s.r3 c 0x04 f false fun s => .next (s.carith c (s.cr c f.r2) (s.cr c f.r3) f.r1 true true (s.flag c ST.c)))
def execCmr (c : Nat) (f : R3Fmt) (s : State) : Res :=
  .next (s.r3 c 0x05 f (f.r1 != 0) fun s => .next (s.carith c (s.cr c f.r2) (s.cr c f.r3) f.r1 true false true))
def execAnr (c : Nat) (f : R3Fmt) (s : State) : Res :=
  .next (s.r3 c 0x06 f false fun s => .next (s.clogic c f.r1 (s.cr c f.r2 &&& s.cr c f.r3)))
def execOrr (c : Nat) (f : R3Fmt) (s : State) : Res :=
  .next (s.r3 c 0x07 f false fun s => .next (s.clogic c f.r1 (s.cr c f.r2 ||| s.cr c f.r3)))
def execEor (c : Nat) (f : R3Fmt) (s : State) : Res :=
  .next (s.r3 c 0x08 f false fun s => .next (s.clogic c f.r1 (s.cr c f.r2 ^^^ s.cr c f.r3)))
def execCpy (c : Nat) (f : R3Fmt) (s : State) : Res :=
  .next (s.r3 c 0x09 f (f.r3 != 0) fun s => .next (s.setC c f.r1 (s.cr c f.r2)))
def execNegr (c : Nat) (f : R3Fmt) (s : State) : Res :=
  .next (s.r3 c 0x0A f (f.r3 != 0) fun s => .next (s.carith c 0 (s.cr c f.r2) f.r1 true true true))

/-- A 64-bit product into the pair of r1. -/
def State.cmul (s : State) (c op : Nat) (f : R3Fmt) (prod : Nat → Nat → Word) : State :=
  s.r3 c op f (odd f.r1) fun s => .next (s.setG c (pairReg f.r1) (prod (s.cr c f.r2) (s.cr c f.r3)))
def execMuls (c : Nat) (f : R3Fmt) (s : State) : Res :=
  .next (s.cmul c 0x0B f fun a b => wordOfInt (signedOf 32 a * signedOf 32 b))
def execMulu (c : Nat) (f : R3Fmt) (s : State) : Res := .next (s.cmul c 0x0C f fun a b => BitVec.ofNat 64 (a * b))

/-- A signed divide of 32 bits: a zero divisor raises IDIV (R143). -/
def State.cdiv (s : State) (c op : Nat) (f : R3Fmt) (res : Int → Int → Int) : State :=
  s.r3 c op f false fun s =>
    if s.cr c f.r3 = 0 then .exc s { code := Xc.idiv }
    else .next (s.setC c f.r1 (wrapTo 32 (res (signedOf 32 (s.cr c f.r2)) (signedOf 32 (s.cr c f.r3)))))
def execQuo (c : Nat) (f : R3Fmt) (s : State) : Res := .next (s.cdiv c 0x0D f truncDiv)
def execRmd (c : Nat) (f : R3Fmt) (s : State) : Res := .next (s.cdiv c 0x0E f fun a b => a - truncDiv a b * b)

/-- The shifts of 32 bits; they write no flag (R141; DEDUCED, log entry 34). -/
def shl32 (a k : Nat) : Nat := a * 2 ^ (k % 32) % 2 ^ 32
def shr32 (a k : Nat) : Nat := a / 2 ^ (k % 32)
def sha32 (a k : Nat) : Nat := wrapTo 32 (signedOf 32 a / Int.ofNat (2 ^ (k % 32)))

def execShl (c : Nat) (f : R3Fmt) (s : State) : Res :=
  .next (s.r3 c 0x0F f false fun s => .next (s.setC c f.r1 (shl32 (s.cr c f.r2) (s.cr c f.r3))))
def execShr (c : Nat) (f : R3Fmt) (s : State) : Res :=
  .next (s.r3 c 0x10 f false fun s => .next (s.setC c f.r1 (shr32 (s.cr c f.r2) (s.cr c f.r3))))
def execSha (c : Nat) (f : R3Fmt) (s : State) : Res :=
  .next (s.r3 c 0x11 f false fun s => .next (s.setC c f.r1 (sha32 (s.cr c f.r2) (s.cr c f.r3))))

/-- The Classic PC (R194). -/
def State.cpc (s : State) (c : Nat) : Nat := (s.ctx c).pc.toNat % 2 ^ 32

/-- PC := Classic address `t`: a misaligned one raises ALIGN, as JR and CALLR do (R117, R200); `link` is the state with the
link register written. -/
def State.cjump (s : State) (c t : Nat) (link : State) : Done :=
  if t % 4 ≠ 0 then .exc s (excAlign 0x01 (s.inWindow c t)) else .jump link (s.inWindow c t)

def execLnkr (c : Nat) (f : R3Fmt) (s : State) : Res :=
  .next (s.r3 c 0x12 f (f.r3 != 0) fun s => s.cjump c (s.cr c f.r2) (s.setC c f.r1 (s.cpc c + 4)))
def execJmpr (c : Nat) (f : R3Fmt) (s : State) : Res :=
  .next (s.r3 c 0x13 f (f.r1 != 0 || f.r3 != 0) fun s => s.cjump c (s.cr c f.r2) s)

/-! ### Decimal pairs (R161, R194, R200) -/

/-- A decimal pair row: wide state, then the body. -/
def State.dp (s : State) (c op : Nat) (f : R3Fmt) (bad : Bool) (body : State → Done) : State :=
  s.r3 c op f bad fun s => (s.wide c).fin fun s _ => body s

/-- The decimals of pairs r2 and r3, or the invalid case. -/
def State.dp2 (s : State) (c : Nat) (f : R3Fmt) (body : State → Dec → Dec → Done) : Done :=
  let (s, a) := s.pairC c f.r2
  let (s, b) := s.pairC c f.r3
  match regDec a.toNat, regDec b.toNat with
  | some a, some b => body s a b
  | _, _ => s.decBad c

def execDpsum (c : Nat) (f : R3Fmt) (s : State) : Res :=
  .next (s.dp c 0x18 f (odd f.r1 || odd f.r2) fun s => s.dp2 c f fun s a b =>
    s.putDec c (pairReg f.r1) (fitDec 15 (a.val + b.val)) true)
def execDpdif (c : Nat) (f : R3Fmt) (s : State) : Res :=
  .next (s.dp c 0x19 f (odd f.r1 || odd f.r2) fun s => s.dp2 c f fun s a b =>
    s.putDec c (pairReg f.r1) (fitDec 15 (a.val - b.val)) true)
def execDpcmp (c : Nat) (f : R3Fmt) (s : State) : Res :=
  .next (s.dp c 0x1A f (f.r1 != 0 || odd f.r2) fun s => s.dp2 c f fun s a b =>
    .next (s.flags c { z := some (a.val == b.val), n := some (decide (a.val < b.val)), d := some false }))
def execDpmul (c : Nat) (f : R3Fmt) (s : State) : Res :=
  .next (s.dp c 0x1B f (notBy4 f.r1) fun s => s.dp2 c f fun s a b =>
    let p := a.val * b.val
    let s := s.flags c { z := some (p == 0), n := some (decide (p < 0)), d := some false }
    .next ((s.setG c (pairReg f.r1) (BitVec.ofNat 64 (decHigh p.natAbs))).setG c (pairReg f.r1 + 1)
      (BitVec.ofNat 64 (decReg (decide (p < 0)) p.natAbs))))
/-- DPQUO: Z and N describe the quotient, as in DDIV (DESIGN CHOICE, log entry 124). -/
def execDpquo (c : Nat) (f : R3Fmt) (s : State) : Res :=
  .next (s.dp c 0x1C f (notBy4 f.r1) fun s => s.dp2 c f fun s a b =>
    if b.mag = 0 then .exc s { code := Xc.idiv }
    else
      let q := truncDiv a.val b.val
      let r := a.val - q * b.val
      let s := s.flags c { z := some (q == 0), n := some (decide (q < 0)), v := some false, d := some false }
      .next ((s.setG c (pairReg f.r1) (BitVec.ofNat 64 (decReg (decide (q < 0)) q.natAbs))).setG c (pairReg f.r1 + 1)
        (BitVec.ofNat 64 (decReg (decide (r < 0)) r.natAbs))))

/-- The decimal of pair r2, or the invalid case. -/
def State.dp1 (s : State) (c : Nat) (f : R3Fmt) (body : State → Dec → Done) : Done :=
  let (s, a) := s.pairC c f.r2
  match regDec a.toNat with
  | some a => body s a
  | none => s.decBad c

def execDpbin (c : Nat) (f : R3Fmt) (s : State) : Res :=
  .next (s.dp c 0x1D f (odd f.r1 || odd f.r2 || f.r3 != 0) fun s => s.dp1 c f fun s a =>
    let s := s.flags c { z := some (a.mag == 0), n := some (decide (a.val < 0)), d := some false }
    .next (s.setG c (pairReg f.r1) (wordOfInt a.val)))
def execDpdec (c : Nat) (f : R3Fmt) (s : State) : Res :=
  .next (s.dp c 0x1E f (odd f.r1 || odd f.r2 || f.r3 != 0) fun s =>
    s.putDec c (pairReg f.r1) (fitDec 15 (s.g c (pairReg f.r2)).toInt) true)
def execDpshf (c : Nat) (f : R3Fmt) (s : State) : Res :=
  .next (s.dp c 0x1F f (odd f.r1 || odd f.r2) fun s => s.dp1 c f fun s a =>
    let k := s.cr c f.r3
    if bitOf k 6 then s.putDec c (pairReg f.r1) (decShr a (k % 32) (bitOf k 5)) false
    else s.putDec c (pairReg f.r1) (decShl a (k % 32)) true)

/-! ### Register and constant (R200) -/

/-- An RK row. -/
def State.rk (s : State) (c op : Nat) (f : RKFmt) (bad : Bool) (body : State → Done) : State :=
  s.classic c 4 (wordRK op f) bad body

/-- Both register fields name registers. -/
def rkBad (f : RKFmt) : Bool := noC f.r1 || noC f.r2

/-- k14, sign-extended to 32 bits. -/
def sextK (k : BitVec 14) : Nat := (k.signExtend 32).toNat

def execSumk (c : Nat) (f : RKFmt) (s : State) : Res :=
  .next (s.rk c 0x20 f (rkBad f) fun s => .next (s.carith c (s.cr c f.r2) (sextK f.k) f.r1 false true false))
def execCmk (c : Nat) (f : RKFmt) (s : State) : Res :=
  .next (s.rk c 0x21 f (rkBad f || f.r1 != 0) fun s =>
    .next (s.carith c (s.cr c f.r2) (sextK f.k) f.r1 true false true))
def execAnk (c : Nat) (f : RKFmt) (s : State) : Res :=
  .next (s.rk c 0x22 f (rkBad f) fun s => .next (s.clogic c f.r1 (s.cr c f.r2 &&& f.k.toNat)))
def execOrk (c : Nat) (f : RKFmt) (s : State) : Res :=
  .next (s.rk c 0x23 f (rkBad f) fun s => .next (s.clogic c f.r1 (s.cr c f.r2 ||| f.k.toNat)))
def execEok (c : Nat) (f : RKFmt) (s : State) : Res :=
  .next (s.rk c 0x24 f (rkBad f) fun s => .next (s.clogic c f.r1 (s.cr c f.r2 ^^^ f.k.toNat)))
def execSetk (c : Nat) (f : RKFmt) (s : State) : Res :=
  .next (s.rk c 0x25 f (rkBad f || f.r2 != 0) fun s => .next (s.setC c f.r1 (sextK f.k)))

/-- SETHK takes the r2 field as a number. -/
def execSethk (c : Nat) (f : RKFmt) (s : State) : Res :=
  .next (s.rk c 0x26 f (noC f.r1) fun s => .next (s.setC c f.r1 ((f.r2.toNat * 2 ^ 14 + f.k.toNat) * 2 ^ 13)))
def execShlk (c : Nat) (f : RKFmt) (s : State) : Res :=
  .next (s.rk c 0x27 f (rkBad f || decide (31 < f.k.toNat)) fun s => .next (s.setC c f.r1 (shl32 (s.cr c f.r2) f.k.toNat)))
def execShrk (c : Nat) (f : RKFmt) (s : State) : Res :=
  .next (s.rk c 0x28 f (rkBad f || decide (31 < f.k.toNat)) fun s => .next (s.setC c f.r1 (shr32 (s.cr c f.r2) f.k.toNat)))
def execShak (c : Nat) (f : RKFmt) (s : State) : Res :=
  .next (s.rk c 0x29 f (rkBad f || decide (31 < f.k.toNat)) fun s => .next (s.setC c f.r1 (sha32 (s.cr c f.r2) f.k.toNat)))

/-! ### Addresses and accesses (R195, R198) -/

/-- A Classic address: a base register or none, and a displacement, modulo 2^32. -/
def State.cea (s : State) (c : Nat) (b : RegNo) (d : Half) : Nat :=
  ((if b = 31 then 0 else s.cr c b) + d.toNat) % 2 ^ 32

/-- An RM row; `pair` that r1 must be even. -/
def State.rm (s : State) (c op : Nat) (f : RMFmt) (pair : Bool) (body : State → Nat → Done) : State :=
  s.classic c 4 (wordRM op f) (noC f.r1 || noB f.b || (pair && odd f.r1)) fun s =>
    body s (s.cea c f.b (f.d.signExtend 32))

/-- A load of `sz` bytes. -/
def State.cload (s : State) (c op : Nat) (f : RMFmt) (sz : Nat) (pair : Bool) (put : State → List Byte → State) : State :=
  s.rm c op f pair fun s a =>
    (s.reachData c accLoad (s.cpieces c a sz) (a % sz != 0) false .plain).fin fun s l =>
    (s.loadData c (s.inWindow c a) l sz).fin fun s bs => .next (put s bs)

/-- A store of the bytes `data` reads. -/
def State.cstore (s : State) (c op : Nat) (f : RMFmt) (sz : Nat) (pair : Bool) (data : State → List Byte) : State :=
  s.rm c op f pair fun s a =>
    (s.reachData c accStore (s.cpieces c a sz) (a % sz != 0) false .plain).fin fun s l =>
    let bs := data s
    .post s fun s => s.storeData c l bs false false

def execLw (c : Nat) (f : RMFmt) (s : State) : Res :=
  .next (s.cload c 0x30 f 4 false fun s bs => s.setC c f.r1 (leNat bs))
def execLhs (c : Nat) (f : RMFmt) (s : State) : Res :=
  .next (s.cload c 0x31 f 2 false fun s bs => s.setC c f.r1 (wrapTo 32 (signedOf 16 (leNat bs))))
def execLhz (c : Nat) (f : RMFmt) (s : State) : Res :=
  .next (s.cload c 0x32 f 2 false fun s bs => s.setC c f.r1 (leNat bs))
def execLbs (c : Nat) (f : RMFmt) (s : State) : Res :=
  .next (s.cload c 0x33 f 1 false fun s bs => s.setC c f.r1 (wrapTo 32 (signedOf 8 (leNat bs))))
def execLbz (c : Nat) (f : RMFmt) (s : State) : Res :=
  .next (s.cload c 0x34 f 1 false fun s bs => s.setC c f.r1 (leNat bs))
def execSw (c : Nat) (f : RMFmt) (s : State) : Res :=
  .next (s.cstore c 0x35 f 4 false fun s => leBytes 4 (s.cr c f.r1))
def execShw (c : Nat) (f : RMFmt) (s : State) : Res :=
  .next (s.cstore c 0x36 f 2 false fun s => leBytes 2 (s.cr c f.r1))
def execSby (c : Nat) (f : RMFmt) (s : State) : Res :=
  .next (s.cstore c 0x37 f 1 false fun s => leBytes 1 (s.cr c f.r1))
def execAdr (c : Nat) (f : RMFmt) (s : State) : Res := .next (s.rm c 0x38 f false fun s a => .next (s.setC c f.r1 a))
def execLnk (c : Nat) (f : RMFmt) (s : State) : Res :=
  .next (s.rm c 0x39 f false fun s a => s.cjump c a (s.setC c f.r1 (s.cpc c + 4)))

/-- The pair of r1 as a doubleword: r1 is its high word. -/
def execLpw (c : Nat) (f : RMFmt) (s : State) : Res :=
  .next (s.cload c 0x3A f 8 true fun s bs => s.setG c (pairReg f.r1) (leWord bs))
def execSpw (c : Nat) (f : RMFmt) (s : State) : Res :=
  .next (s.cstore c 0x3B f 8 true fun s => leBytes 8 (s.g c (pairReg f.r1)).toNat)

/-- SWPC: compare with r1 + 1 and swap in r1, as CAS.W does; Z says whether it stored. -/
def execSwpc (c : Nat) (f : RMFmt) (s : State) : Res :=
  .next (s.rm c 0x3C f true fun s a =>
    (s.reachData c accAtomic (s.cpieces c a 4) (a % 4 != 0) true .block).fin fun s l =>
    ((s.sbOwn c).loadData c (s.inWindow c a) l 4).fin fun s bs =>
    let t := leNat bs
    let same := t == s.cr c (f.r1 + 1)
    let v := s.cr c f.r1
    .post ((s.flags c { z := some same }).setC c (f.r1 + 1) t) fun s =>
      if same then s.storeNow c l (leBytes 4 v) else s)

/-! ### Branch, call, switch (R200, R220) -/

def execBrc (c : Nat) (f : BJFmt) (s : State) : Res :=
  .next (s.classic c 4 (wordBJ 0x40 f) false fun s =>
    if condHolds (s.ctx c).st f.cond.toNat then
      .jump s (s.inWindow c (s.cpc c + (f.disp.signExtend 32).toNat * 4))
    else .next s)
def execScall (c : Nat) (f : RKFmt) (s : State) : Res :=
  .next (s.rk c 0x50 f (f.r1 != 0 || f.r2 != 0) fun s => .after s { code := Xc.svc, detail := f.k.toNat % 256 })

/-- CSW back to CA-64 (R220). -/
def execClassicCsw (c : Nat) (f : RKFmt) (s : State) : Res :=
  .next (s.rk c 0x51 f (f.r1 != 0 || f.r2 != 0 || f.k != 0) fun s =>
    let t := (s.g c 29).toNat
    let s := s.setG c 29 ((s.ctx c).pc + 4)
    .jump (s.setCtx c { s.ctx c with st := stSet (s.ctx c).st ST.cls false }) (BitVec.ofNat 64 (t / 4 * 4)))
def execClassicNop (c : Nat) (f : RKFmt) (s : State) : Res :=
  .next (s.rk c 0x52 f (f.r1 != 0 || f.r2 != 0 || f.k != 0) fun s => .next s)
def execClassicBrk (c : Nat) (f : RKFmt) (s : State) : Res :=
  .next (s.rk c 0x53 f (f.r1 != 0 || f.r2 != 0 || f.k != 0) fun s => .exc s { code := Xc.brk })

/-! ### Strings and blocks (R157–R163, R200) -/

/-- A DS row: two words; its addresses. -/
def State.ds (s : State) (c op : Nat) (f : DSFmt) (bad : Bool) (body : State → Nat → Nat → Done) : State :=
  s.classic c 8 (wordDS op f) (noB f.p1 || noB f.p2 || f.z != 0 || bad)
    (fun s => body s (s.cea c f.p1 (f.d1.signExtend 32)) (s.cea c f.p2 (f.d2.signExtend 32))) (wordDS2 f)

/-- A decimal string row: its lengths are L1 and L2. -/
def State.dsDec (s : State) (c op : Nat) (f : DSFmt) (k : StrOp) : State :=
  s.ds c op f false fun s a1 a2 =>
    (s.lazy c).fin fun s _ =>
    s.strings c k f.l1.toNat f.l2.toNat (s.cpieces c a1 (k.len1 f.l1.toNat)) (s.cpieces c a2 (k.len2 f.l2.toNat))
      (s.inWindow c a1) (s.inWindow c a2)

def execDsum (c : Nat) (f : DSFmt) (s : State) : Res := .next (s.dsDec c 0x60 f .add)
def execDdif (c : Nat) (f : DSFmt) (s : State) : Res := .next (s.dsDec c 0x61 f .sub)
def execDmpy (c : Nat) (f : DSFmt) (s : State) : Res := .next (s.dsDec c 0x62 f .mul)
def execDquo (c : Nat) (f : DSFmt) (s : State) : Res := .next (s.dsDec c 0x63 f .div)
def execDcom (c : Nat) (f : DSFmt) (s : State) : Res := .next (s.dsDec c 0x64 f .cmp)
def execZpk (c : Nat) (f : DSFmt) (s : State) : Res := .next (s.dsDec c 0x65 f .pack)
def execPkz (c : Nat) (f : DSFmt) (s : State) : Res := .next (s.dsDec c 0x66 f .unpack)

/-- BMOV: L1 bytes in ascending address order, in one commit. -/
def execBmov (c : Nat) (f : DSFmt) (s : State) : Res :=
  .next (s.ds c 0x67 f (f.l2 != 0 || f.l1 == 0) fun s a1 a2 =>
    let n := f.l1.toNat
    (s.reachData c accLoad (s.cpieces c a2 n) false false .block).fin fun s src =>
    (s.reachData c accStore (s.cpieces c a1 n) false false .block).fin fun s dst =>
    (s.loadData c (s.inWindow c a2) src n).fin fun s _ => .post s fun s => s.copyBytes c src dst)

/-- Is the first byte that differs less in the first list? -/
def bytesLess : List Byte → List Byte → Bool
  | a :: as, b :: bs => if a = b then bytesLess as bs else decide (a.toNat < b.toNat)
  | _, _ => false

/-- BCMP: the bytes compared unsigned from the lowest address. -/
def execBcmp (c : Nat) (f : DSFmt) (s : State) : Res :=
  .next (s.ds c 0x68 f (f.l2 != 0 || f.l1 == 0) fun s a1 a2 =>
    let n := f.l1.toNat
    (s.reachData c accLoad (s.cpieces c a1 n) false false .string).fin fun s r1 =>
    (s.reachData c accLoad (s.cpieces c a2 n) false false .string).fin fun s r2 =>
    (s.loadData c (s.inWindow c a1) r1 n).fin fun s b1 =>
    (s.loadData c (s.inWindow c a2) r2 n).fin fun s b2 =>
    let lt := bytesLess b1 b2
    .next (s.flags c { z := some (b1 == b2), n := some lt, c := some (!lt) }))

/-! ### Reserved opcodes (R102, R126–R135, R197, R200) -/

/-- Is a native word's major opcode, func or sub-op reserved? -/
def nativeReserved (w : Nat) : Bool :=
  let fn := w % 64
  match w / 2 ^ 26 % 64 with
  | 0x00 => decide (0x19 < fn) && fn != 0x30 && fn != 0x31
  | 0x01 => decide (0x0A < fn)
  | 0x02 => decide (0x08 < fn)
  | 0x03 => !(decide (fn ≤ 0x0A) || (decide (0x10 ≤ fn) && decide (fn ≤ 0x16)))
  | 0x04 => decide (0x17 < fn % 32)
  | 0x06 => !(decide (fn ≤ 0x0B) || (decide (0x10 ≤ fn) && decide (fn ≤ 0x13)))
  | 0x07 => decide (0x13 < fn)
  | m => m == 0x05 || m == 0x16 || m == 0x17 || (decide (0x2B ≤ m) && decide (m ≤ 0x2F)) || decide (0x39 ≤ m)

/-- The Classic opcodes of R200. -/
def classicReserved (w : Nat) : Bool :=
  let op := w / 2 ^ 24 % 256
  let r (a b : Nat) : Bool := decide (a ≤ op) && decide (op ≤ b)
  !(r 0x01 0x13 || r 0x18 0x1F || r 0x20 0x29 || r 0x30 0x3C || op == 0x40 || r 0x50 0x53 || r 0x60 0x68)

/-- RESERVED_OPCODE: a word with a reserved opcode of the context's architecture raises UNDEF; another word is no such
event. -/
def execReservedOpcode (c : Nat) (w : Half) (s : State) : Res :=
  let cls := stBit (s.ctx c).st ST.cls
  .next (if (if cls then classicReserved w.toNat else nativeReserved w.toNat) then
    s.instr c 4 w.toNat cls fun s => .exc s excUndef
  else s)

end Sys2Proof.Machine
end

