-- ==== Sys2Proof/Machine/Debug.lean ====
section
/-! DEFINITION. The test port and debug (03_module_lands_and_board.md, R91, R92; 12_lockstep_retry_sparing.md, R337–R341;
15_channel_triad_and_buffers.md, R426; 24_control_window_map.md, R624). `Pins` holds what the module itself drives; a
boundary instruction overrides it at the lands (`State.landLevel`). -/

namespace Sys2Proof.Machine

/-! ### The test port (R91, R92) -/

def State.onTap (s : State) (f : TapState → TapState) : State := { s with tap := f s.tap }

/-- Cells of the boundary register (R92). -/
def boundaryCells : Nat := 6611

/-- The lands that boundary cells stand for, by their places (R72, R73, R77). The spec gives no land of a DDR block its own
place within its rows, so the DDR lands are known by channel rows only. -/
inductive Land where
  | ddr | prsnt (c : Nat) | dimmPwren (s : Nat)
  | resetN | failN | ready | wakeN | ppsIn | ppsOut | qspi (k : Nat) | i3c (k : Nat) | strap (k : Nat)
deriving DecidableEq, Repr

/-- The sideband and strap lands of row 46 that have cells, west to east, and whether each has an enable cell (R77, R92). -/
def sidebandLands : List (Land × Bool) :=
  [(.resetN, false), (.failN, true), (.ready, true), (.wakeN, false), (.ppsIn, false), (.ppsOut, true)]
    ++ (List.range 6).map (fun k => (.qspi k, true)) ++ (List.range 8).map (fun k => (.i3c k, true))
    ++ (List.range 6).map (fun k => (.strap k, false))

/-- The cells of the sideband row: the land, and whether the cell is its enable, which stands before its data cell (R92). -/
def sidebandCells : List (Land × Bool) :=
  sidebandLands.flatMap fun e => if e.2 then [(e.1, true), (e.1, false)] else [(e.1, false)]

/-- Cell `i` of the boundary register: its land, and whether it is the land's enable cell. The order is row-major (R92):
channels 0 to 11 in rows 1 to 36, PRSNT_N in rows 41 to 44, DIMM_PWREN in row 45, the sideband in row 46, channels 12 to 23
from row 69; 259 cells a channel. -/
def cellLand (i : Nat) : Land × Bool :=
  if i < 3108 then (.ddr, false)
  else if i < 3364 then (.prsnt (i - 3108), false)
  else if i < 3460 then (.dimmPwren ((i - 3364) / 2), (i - 3364) % 2 == 0)
  else sidebandCells.getD (i - 3460) (.ddr, false)

/-- The data cell of a land outside the DDR blocks; its enable cell, where it has one, stands just before. -/
def dataCell (l : Land) : Nat := match l with
  | .prsnt c => 3108 + c
  | .dimmPwren s => 3365 + 2 * s
  | _ => 3460 + sidebandCells.findIdx (· == (l, false))

/-- The level the module itself drives at an output land; none where it drives nothing (R76, R83, R84, R86). FAIL_N is an
open-drain output: it is driven low or left alone. -/
def Pins.drives (p : Pins) (l : Land) : Option Bool :=
  if p.hiZ then none
  else match l with
    | .dimmPwren s => some (AMap.get false p.dimmPwr s)
    | .failN => if p.failN then none else some false
    | .ready => some p.ready
    | .ppsOut => some p.ppsOut
    | _ => none

/-- What is driven at a land: a boundary instruction stands before the module's own output (R91, R92). -/
def State.landDriven (s : State) (l : Land) : Option Bool :=
  if s.tap.allHighZ then none
  else if s.tap.drive then
    (if AMap.get false s.tap.boundary (dataCell l - 1) then some (AMap.get false s.tap.boundary (dataCell l)) else none)
  else s.pins.drives l

/-- The level of a land as far as the model holds it: what is driven there, else what the board sets (R77, R88). -/
def State.landLevel (s : State) (l : Land) : Option Bool := match l with
  | .prsnt c => some (!AMap.get false s.pins.present c)
  | .resetN => some s.pins.resetN
  | .wakeN => some s.pins.wakeN
  | .ppsIn => some s.pins.ppsIn
  | .failN => some ((s.landDriven l).getD true)
  | .ready | .ppsOut => some ((s.landDriven l).getD false)
  | .dimmPwren _ => s.landDriven l
  | _ => none

/-- What SAMPLE and EXTEST capture (R92): a data cell the level of its land, an enable cell whether the land is driven; a
level the model does not hold is free. -/
def State.cellCapture (s : State) (free : List Bool) (i : Nat) : Bool :=
  let (l, en) := cellLand i
  let unknown := free.getD i false
  match l with
  | .ddr | .qspi _ | .i3c _ | .strap _ => unknown
  | _ => if en then (s.landDriven l).isSome else (s.landLevel l).getD unknown

/-- The boundary register's capture. -/
def State.boundaryCapture (s : State) (free : List Bool) : List Bool := (List.range boundaryCells).map (s.cellCapture free)

/-- A number's low bits, least significant first, as a data register shifts them out. -/
def shiftOut (n v : Nat) : List Bool := (List.range n).map fun i => bitOf v i

/-- An instruction is selected, and what its data register captures. -/
def State.tapSelect (s : State) (i : TapInstr) (drive off : Bool) (capture : List Bool) : State :=
  s.onTap fun t => { t with ir := i, drive := drive, allHighZ := off, capture := capture }

/-- The boundary register takes the cells shifted in, cell 0 next to TDI. -/
def State.tapUpdate (s : State) (cells : List Bool) : State :=
  s.onTap fun t => { t with boundary :=
    (List.range boundaryCells).foldl (fun m i => AMap.set false m i (cells.getD i false)) t.boundary }

/-- Lanes that a boundary instruction forces off go to link-down (R92). -/
def State.forceOff (s : State) (lanes : List Nat) : State :=
  if s.up then lanes.foldl (fun (s : State) m => if m < 512 then s.laneDown m 1 else s) s else s

/-- IDCODE (R91). -/
def idcodeWord : Nat := 0x14B56F2B
def execIdcode (s : State) : Res := .next (if s.hubOn then s.tapSelect .idcode false false (shiftOut 32 idcodeWord) else s)

/-- SAMPLE/PRELOAD: the levels of the lands are captured, and the cells are loaded. -/
def execSamplePreload (cells : List Bool) (s : State) : Res :=
  .next (if s.hubOn then
    let n := s.fresh
    let bits := s.boundaryCapture (shiftOut boundaryCells (leNat (Config.freeBytes n)))
    ({ s with fresh := n + 1 }.tapSelect .samplePreload false false bits).tapUpdate cells
  else s)

def execExtest (cells : List Bool) (lanes : List Nat) (s : State) : Res :=
  .next (if s.hubOn then
    let n := s.fresh
    let bits := s.boundaryCapture (shiftOut boundaryCells (leNat (Config.freeBytes n)))
    (({ s with fresh := n + 1 }.tapSelect .extest true false bits).tapUpdate cells).forceOff lanes
  else s)

def execClamp (lanes : List Nat) (s : State) : Res :=
  .next (if s.hubOn then (s.tapSelect .clamp true false [false]).forceOff lanes else s)

def execHighz (lanes : List Nat) (s : State) : Res :=
  .next (if s.hubOn then (s.tapSelect .highz false true [false]).forceOff lanes else s)

/-- BYPASS, selected by 0xFF and by every code that selects nothing else (R91, R340). -/
def bypassCode (code : Nat) : Bool := !(decide (1 ≤ code % 256 ∧ code % 256 ≤ 5) || decide (0x80 ≤ code % 256 ∧ code % 256 ≤ 0x85))
def execBypass (code : Nat) (s : State) : Res :=
  .next (if s.hubOn && bypassCode code then s.tapSelect .bypass false false [false] else s)

/-- TEST_LOGIC_RESET: by TRST_N or the TAP's state machine. -/
def execTestLogicReset (s : State) : Res :=
  .next (if s.hubOn then s.tapSelect .idcode false false (shiftOut 32 idcodeWord) else s)

/-! ### Debug: what is permitted (R337, R341) -/

def State.onDbg (s : State) (f : DebugState → DebugState) : State := { s with dbg := f s.dbg }
def State.dbgRes (s : State) (r : Nat) : State := s.onDbg fun d => { d with result := r }

/-- Is the selected target permitted (R337, R342)? -/
def State.dbgPermitted (s : State) : Bool :=
  s.fbit TAILOR_DBGCTL.SERVICE || (s.fbit TAILOR_DBGCTL.EN &&
    (if s.dbg.selT0 then s.fbit TAILOR_DBGCTL.FWCTX
    else if isFw s.dbg.sel then s.fbit TAILOR_DBGCTL.FWCTX
    else match s.partOf s.dbg.sel with
      | some n => s.fbit TAILOR_DBGCTL.ANYPART || s.fget TAILOR_DBGCTL.PART == n
      | none => false))

/-- A debug instruction is selected in the test port. -/
def State.dbgIr (s : State) (code : Nat) : State := s.onTap fun t => { t with ir := .debug code, drive := false, allHighZ := false }

/-- A permitted action on a partition context writes a corrected-class record that names the context and the
instruction code (R337). -/
def State.dbgRecord (s : State) (c code : Nat) : State :=
  match s.partOf c with
  | some n => s.raiseC { loc := locCode 0x0 4 0xFF 0x19, ctx := some c, part := some n, d0 := code }
  | none => s

/-- An action with instruction `code` on the selected context: refused, or to be applied at its next commit point
(R338). `halted` says that it needs a debug halt, `free` that a FREE Pocket will do. -/
def State.dbgAction (s : State) (code : Nat) (a : DbgAction) (halted free : Bool) : State :=
  let s := s.dbgIr code
  let c := s.dbg.sel
  if !s.regsUp then s
  else if !s.dbgPermitted then s.dbgRes 3
  else if s.dbg.selT0 then s.dbgRes 7
  else if 768 ≤ c then s.dbgRes 6
  else
    let s := s.dbgRecord c code
    if s.dbg.pend.isSome then s.dbgRes 2
    else if s.pk c = pkFree ∧ !free then s.dbgRes 6
    else if halted && !s.dbgHalted c then s.dbgRes 4
    else (s.onDbg fun d => { d with pend := some (c, a) }).dbgRes 2

/-- DSEL (R340). It selects; it acts on no target (DEDUCED, log entry 109). -/
def execDsel (v : Nat) (s : State) : Res :=
  .next (if s.hubOn then (s.dbgIr 0x80).onDbg fun d => { d with selT0 := bitOf v 15, sel := v % 1024 } else s)

def execDcmdHalt (s : State) : Res := .next (s.dbgAction 0x81 .halt false false)
def execDcmdResume (s : State) : Res := .next (s.dbgAction 0x81 .resume true false)
def execDcmdStep (s : State) : Res := .next (s.dbgAction 0x81 .step true false)
def execDbrk (idx : Nat) (pc : Word) (en : Bool) (s : State) : Res :=
  .next (s.dbgAction 0x85 (.dbrk (idx % 4) pc en) false false)

/-- The word DSTAT returns (R340). -/
def State.dstat (s : State) : Nat :=
  let c := s.dbg.sel
  let h := AMap.get 0 s.dbg.halted c
  let there := !s.dbg.selT0 && decide (c < 768)
  let moving := there && (List.range 48).any fun p => s.ph p == phMovingOut && s.fget (TAILOR_SLOT.PHYS (slotOf c)) == p
  (if there then s.pk c + bnat (h != 0) * 2 ^ 3 + h % 4 * 2 ^ 4 + h / 4 % 4 * 2 ^ 6 else 0)
    + s.dbg.result * 2 ^ 8 + c * 2 ^ 12 + bnat moving * 2 ^ 22
def execDstat (s : State) : Res :=
  .next (if s.hubOn then (s.dbgIr 0x82).onTap fun t => { t with capture := shiftOut 32 s.dstat } else s)

/-! ### Registers (R338, R340, R426) -/

/-- DREG of T0 (R426): a register of the TRIAD block, the agreed-cycle count, the next TSN, the firmware PC, the
version. The count and the PC are free (log entry 1). -/
def State.t0Read (s : State) (reg : Nat) : State :=
  let done (s : State) (v : Nat) : State := (s.onDbg fun d => { d with value := BitVec.ofNat 64 v }).dbgRes 1
  if reg < 0x800 then done s (if (regFields (0x80000 + 8 * reg)).isEmpty then 0 else s.regWord (0x80000 + 8 * reg))
  else if reg = 0x800 then
    let n := s.fresh
    let s := { s with fresh := n + 1 }.onTriad fun t => { t with cycles := t.cycles + Config.freeElapsed n }
    done s s.triad.cycles
  else if reg = 0x801 then done s (s.fget HEM_TSNNEXT.TSNNEXT)
  else if reg = 0x802 then (let (w, s) := s.draw; done s w.toNat)
  else if reg = 0x803 then done s s.triad.active.version
  else s.dbgRes 5

def execDregRead (reg : Nat) (s : State) : Res :=
  .next (if s.dbg.selT0 then
    let s := s.dbgIr 0x83
    if !s.regsUp then s else if !s.dbgPermitted then s.dbgRes 3 else s.t0Read (reg % 4096)
  else s.dbgAction 0x83 (.dreg (reg % 4096) false 0) true false)
def execDregWrite (reg : Nat) (v : Word) (s : State) : Res := .next (s.dbgAction 0x83 (.dreg (reg % 4096) true v) true false)

/-- Is a DREG number one of the wide part: f0–f31, FCSR, DCR? -/
def dregWide (reg : Nat) : Bool := decide (0x20 ≤ reg ∧ reg < 0x40) || (decide (0x400 ≤ reg) && sysWide (reg - 0x400))

/-- Is a DREG number that of a register of a context? -/
def dregKnown (reg : Nat) : Bool := decide (reg ≤ 0x40) || (decide (0x400 ≤ reg) && (sysLevel (reg - 0x400)).isSome)

/-- Read a register of a halted context. -/
def State.dregGet (s : State) (c reg : Nat) : State × Word :=
  let x := s.ctx c
  if reg < 0x20 then (s, x.readG reg)
  else if reg < 0x40 then (s, x.readF reg)
  else if reg = 0x40 then (s, x.pc)
  else s.sysRead c (reg - 0x400)

/-- Write a register of a halted context; of ST what MTSR writes at S. -/
def State.dregPut (s : State) (c reg : Nat) (v : Word) : State :=
  let x := s.ctx c
  if reg < 0x20 then s.setCtx c (x.writeG reg v)
  else if reg < 0x40 then s.setCtx c (x.writeF reg v)
  else if reg = 0x40 then s.setCtx c { x with pc := v &&& ~~~3#64 }
  else if reg = 0x400 then s.setCtx c { x with st := stWrite x.st v false }
  else s.sysWrite c (reg - 0x400) v

/-- A DREG action as it is applied; a number of no register gives RESULT 5, as R426 says for T0 (DEDUCED, log entry 109). -/
def State.dregApply (s : State) (c reg : Nat) (write : Bool) (v : Word) : State :=
  if !dregKnown reg then s.dbgRes 5
  else match (if dregWide reg then s.needWide c else .ok s ()) with
    | .exc s _ | .gone s => s.dbgRes 5
    | .ok s _ =>
      if write then (s.dregPut c reg v).dbgRes 1
      else
        let (s, w) := s.dregGet c reg
        (s.onDbg fun d => { d with value := w }).dbgRes 1

/-! ### Memory (R340, R341, R624) -/

def execDmemRead (addr size : Nat) (mp : Bool) (s : State) : Res :=
  .next (s.dbgAction 0x84 (.dmem (addr % 2 ^ 52) (2 ^ (size % 4)) mp false 0) (!mp) mp)
def execDmemWrite (addr size : Nat) (mp : Bool) (v : Word) (s : State) : Res :=
  .next (s.dbgAction 0x84 (.dmem (addr % 2 ^ 52) (2 ^ (size % 4)) mp true v) (!mp) mp)

/-- The virtual address of a DMEM: bit 51 extends it, but for an untranslated firmware context (DEDUCED, log entry 109). -/
def State.dmemVa (s : State) (c addr : Nat) : Word :=
  if isFw c && !(s.ctx c).fr.root.getLsbD 0 then BitVec.ofNat 64 addr else (BitVec.ofNat 52 addr).signExtend 64

/-- The rights of a module-physical DMEM (R624): the firmware's, or the selected context's partition's. -/
def State.dmemRights (s : State) (c : Nat) : Option (Option Nat) :=
  if s.fbit TAILOR_DBGCTL.SERVICE || s.fbit TAILOR_DBGCTL.FWCTX then none else some (s.partOf c)

/-- The DMEM at a module-physical address `a`: done, or RESULT 5 (R341). In a service boot a write of RESETCTL is
Mozel's Module reset, CAUSE 9 (R586). -/
def State.dmemDo (s : State) (c a n : Nat) (mp : Bool) (unc write : Bool) (v : Word) : State :=
  let s := s.sbOwn c
  let rights := if mp then s.dmemRights c else s.rights c
  let got (s : State) (bs : List Byte) : State := (s.onDbg fun d => { d with value := leWord bs }).dbgRes 1
  match spaceOf a with
  | .control =>
    let o := a - controlBase
    let ok := s.winReach rights o n write ≠ .fault
    if write then
      if s.power.phase = .service ∧ o = 0x13000 ∧ ok then
        (if v.toNat % 4 = 1 ∧ bitsOf v.toNat 15 8 = 0xA5 then s.moduleReset 9 else s).dbgRes 1
      else (s.winWrite rights c o n v).dbgRes (if ok then 1 else 5)
    else
      let (s, w) := s.winRead rights c o n
      (got s (leBytes 8 w.toNat)).dbgRes (if ok then 1 else 5)
  | .doorbell =>
    let o := a - doorbellBase
    let k := o % 4096
    if write then
      (s.bellWrite c o (leBytes n v.toNat) false).dbgRes (if n = 8 ∧ (k = 0x40 ∨ k = 0x48) then 1 else 5)
    else
      let (s, w) := s.bellRead c o n
      (got s (leBytes 8 w.toNat)).dbgRes (if n = 8 ∧ (k = 0x50 ∨ k = 0x58 ∨ k = 0x60) then 1 else 5)
  | _ =>
    let c := if rights.isNone then fwOf (slotOf c) else c
    if !s.mayReach (s.partOf c) a || !s.served a then
      (if write then s.ctxWrite c a (leBytes n v.toNat) unc else (s.ctxRead c a n unc).1).dbgRes 5
    else if write then (s.ctxWrite c a (leBytes n v.toNat) unc).dbgRes 1
    else
      let (s, bs, po) := s.ctxRead c a n unc
      if po then s.dbgRes 5 else got s bs

/-- A DMEM at a module-physical address: misaligned, it gives RESULT 5, in the control window after R18. -/
def State.dmemAt (s : State) (c a n : Nat) (mp unc write : Bool) (v : Word) : State :=
  if a % n ≠ 0 ∧ spaceOf a ≠ .control then s.dbgRes 5 else s.dmemDo c a n mp unc write v

/-- A DMEM action as it is applied: the translation of the context, then the access. -/
def State.dmemApply (s : State) (c addr n : Nat) (mp write : Bool) (v : Word) : State :=
  if mp then s.dmemAt c addr n true false write v
  else match s.xlate c (if write then accStore else accLoad) (s.dmemVa c addr) with
    | .exc s _ | .gone s => s.dbgRes 5
    | .ok s t => s.dmemAt c t.mp n false (t.attr != 0) write v

/-! ### Applying an action (R338, R339) -/

/-- A debug halt ends: RESUME, or STEP for one instruction. A Pocket that was STOPPED before its HALT stays so at a
RESUME (DESIGN CHOICE, log entry 112). -/
def State.dbgGo (s : State) (c : Nat) (step : Bool) : State :=
  let h := AMap.get 0 s.dbg.halted c
  let s := s.onDbg fun d => { d with halted := AMap.erase c d.halted }
  if !step && 16 ≤ h then s
  else
    let s := s.onDbg fun d => { d with passBp := AMap.set false d.passBp c true
                                       stepping := AMap.set false d.stepping c step }
    (s.fset (POCKET_STAT.FWHOLD c) 0).makeReady c

/-- DEBUG_ACTION_APPLY: the action that waits is applied at the Pocket's commit point. -/
def State.dbgApply (s : State) : State :=
  match s.dbg.pend with
  | none => s
  | some (c, a) =>
    let s := s.onDbg fun d => { d with pend := none }
    match a with
    | .halt =>
      if s.dbgHalted c then s.dbgRes 1
      else
        let was := s.pk c
        let s := s.debugHalt c 1 0
        (if was = pkStopped then s.onDbg fun d => { d with halted := AMap.set 0 d.halted c 17 } else s).dbgRes 1
    | .resume => if s.dbgHalted c then (s.dbgGo c false).dbgRes 1 else s.dbgRes 4
    | .step => if s.dbgHalted c then (s.dbgGo c true).dbgRes 1 else s.dbgRes 4
    | .dreg reg w v => s.dregApply c reg w v
    | .dmem addr n mp w v => s.dmemApply c addr n mp w v
    | .dbrk i pc en =>
      (s.onDbg fun d => { d with bps := AMap.set none d.bps (c * 4 + i) (if en then some pc else none) }).dbgRes 1
def execDebugActionApply (s : State) : Res := .next (if s.regsUp then s.dbgApply else s)

/-- BREAKPOINT_HIT: context `c` stands before an instruction that an enabled breakpoint matches (R339). -/
def execBreakpointHit (c : Nat) (s : State) : Res :=
  .next (if s.canRun c then
    match s.bpAt c with
    | some i => s.debugHalt c 2 i
    | none => s
  else s)

end Sys2Proof.Machine
end

