-- ==== Sys2Proof/Machine/Dispatch.lean ====
section
/-! DEFINITION. Dispatch: one arm for each command, each a direct call of its meaning. -/

namespace Sys2Proof.Machine

/-- The effect of a command on everything but the queue (the queue is `step`'s). -/
def exec (i : Instr) (s : State) : Host.Outcome State Fault Refusal :=
  match i with
  | .undervoltageRelease a b => Sys2Proof.Machine.execUndervoltageRelease a b s
  | .softStartEnd => Sys2Proof.Machine.execSoftStartEnd s
  | .coldReset => Sys2Proof.Machine.execColdReset s
  | .moduleReset cause => Sys2Proof.Machine.execModuleReset cause s
  | .bootSequence e => Sys2Proof.Machine.execBootSequence e s
  | .undervoltageTrip a b => Sys2Proof.Machine.execUndervoltageTrip a b s
  | .overvoltageShutdown a b => Sys2Proof.Machine.execOvervoltageShutdown a b s
  | .overvoltageRecovery a b => Sys2Proof.Machine.execOvervoltageRecovery a b s
  | .brownout a b => Sys2Proof.Machine.execBrownout a b s
  | .overvoltageFlag a b => Sys2Proof.Machine.execOvervoltageFlag a b s
  | .pairLost p a b => Sys2Proof.Machine.execPairLost p a b s
  | .powerCapStep c drawn => Sys2Proof.Machine.execPowerCapStep c drawn s
  | .clusterClockStepDown c t => Sys2Proof.Machine.execClusterClockStepDown c t s
  | .clusterClockStepUp c t => Sys2Proof.Machine.execClusterClockStepUp c t s
  | .thermalStop t => Sys2Proof.Machine.execThermalStop t s
  | .thermalRestart t => Sys2Proof.Machine.execThermalRestart t s
  | .coldSensorResample t => Sys2Proof.Machine.execColdSensorResample t s
  | .powerStateEntry => Sys2Proof.Machine.execPowerStateEntry s
  | .wakeEvent kind => Sys2Proof.Machine.execWakeEvent kind s
  | .powerStateExitEnd => Sys2Proof.Machine.execPowerStateExitEnd s
  | .shutterRequest => Sys2Proof.Machine.execShutterRequest s
  | .shutterEntryEnd => Sys2Proof.Machine.execShutterEntryEnd s
  | .vaultRequest => Sys2Proof.Machine.execVaultRequest s
  | .powerWakeWrite => Sys2Proof.Machine.execPowerWakeWrite s
  | .vaultExit kind => Sys2Proof.Machine.execVaultExit kind s
  | .ltrWrite fw n w => Sys2Proof.Machine.execLtrWrite fw n w s
  | .resetNAssert => Sys2Proof.Machine.execResetNAssert s
  | .resetNRelease => Sys2Proof.Machine.execResetNRelease s
  | .wakeNAssert rested => Sys2Proof.Machine.execWakeNAssert rested s
  | .prsntChange n fitted => Sys2Proof.Machine.execPrsntChange n fitted s
  | .refclkLockRetry there => Sys2Proof.Machine.execRefclkLockRetry there s
  | .refclkLoss => Sys2Proof.Machine.execRefclkLoss s
  | .sloeFail => Sys2Proof.Machine.execSloeFail s
  | .sloeReturn => Sys2Proof.Machine.execSloeReturn s
  | .ppsInEdge => Sys2Proof.Machine.execPpsInEdge s
  | .ppsOutSecond => Sys2Proof.Machine.execPpsOutSecond s
  | .idcode => Sys2Proof.Machine.execIdcode s
  | .samplePreload cells => Sys2Proof.Machine.execSamplePreload cells s
  | .extest cells lanes => Sys2Proof.Machine.execExtest cells lanes s
  | .clamp lanes => Sys2Proof.Machine.execClamp lanes s
  | .highz lanes => Sys2Proof.Machine.execHighz lanes s
  | .bypass code => Sys2Proof.Machine.execBypass code s
  | .dsel v => Sys2Proof.Machine.execDsel v s
  | .dcmdHalt => Sys2Proof.Machine.execDcmdHalt s
  | .dcmdResume => Sys2Proof.Machine.execDcmdResume s
  | .dcmdStep => Sys2Proof.Machine.execDcmdStep s
  | .dstat => Sys2Proof.Machine.execDstat s
  | .dregRead reg => Sys2Proof.Machine.execDregRead reg s
  | .dregWrite reg v => Sys2Proof.Machine.execDregWrite reg v s
  | .dmemRead addr size mp => Sys2Proof.Machine.execDmemRead addr size mp s
  | .dmemWrite addr size mp v => Sys2Proof.Machine.execDmemWrite addr size mp v s
  | .dbrk idx pc en => Sys2Proof.Machine.execDbrk idx pc en s
  | .debugActionApply => Sys2Proof.Machine.execDebugActionApply s
  | .breakpointHit c => Sys2Proof.Machine.execBreakpointHit c s
  | .add c f => Sys2Proof.Machine.execAdd c f s
  | .adds c f => Sys2Proof.Machine.execAdds c f s
  | .adc c f => Sys2Proof.Machine.execAdc c f s
  | .sub c f => Sys2Proof.Machine.execSub c f s
  | .subs c f => Sys2Proof.Machine.execSubs c f s
  | .sbc c f => Sys2Proof.Machine.execSbc c f s
  | .neg c f => Sys2Proof.Machine.execNeg c f s
  | .cmp c f => Sys2Proof.Machine.execCmp c f s
  | .and c f => Sys2Proof.Machine.execAnd c f s
  | .or c f => Sys2Proof.Machine.execOr c f s
  | .xor c f => Sys2Proof.Machine.execXor c f s
  | .andn c f => Sys2Proof.Machine.execAndn c f s
  | .orn c f => Sys2Proof.Machine.execOrn c f s
  | .tst c f => Sys2Proof.Machine.execTst c f s
  | .sel c f => Sys2Proof.Machine.execSel c f s
  | .slt c f => Sys2Proof.Machine.execSlt c f s
  | .sltu c f => Sys2Proof.Machine.execSltu c f s
  | .min c f => Sys2Proof.Machine.execMin c f s
  | .max c f => Sys2Proof.Machine.execMax c f s
  | .minu c f => Sys2Proof.Machine.execMinu c f s
  | .maxu c f => Sys2Proof.Machine.execMaxu c f s
  | .abs c f => Sys2Proof.Machine.execAbs c f s
  | .sextb c f => Sys2Proof.Machine.execSextb c f s
  | .sexth c f => Sys2Proof.Machine.execSexth c f s
  | .sextw c f => Sys2Proof.Machine.execSextw c f s
  | .zextw c f => Sys2Proof.Machine.execZextw c f s
  | .jr c f => Sys2Proof.Machine.execJr c f s
  | .callr c f => Sys2Proof.Machine.execCallr c f s
  | .mul c f => Sys2Proof.Machine.execMul c f s
  | .mulhs c f => Sys2Proof.Machine.execMulhs c f s
  | .mulhu c f => Sys2Proof.Machine.execMulhu c f s
  | .mulw c f => Sys2Proof.Machine.execMulw c f s
  | .mulwu c f => Sys2Proof.Machine.execMulwu c f s
  | .madd c f => Sys2Proof.Machine.execMadd c f s
  | .msub c f => Sys2Proof.Machine.execMsub c f s
  | .divs c f => Sys2Proof.Machine.execDivs c f s
  | .divu c f => Sys2Proof.Machine.execDivu c f s
  | .rems c f => Sys2Proof.Machine.execRems c f s
  | .remu c f => Sys2Proof.Machine.execRemu c f s
  | .sll c f => Sys2Proof.Machine.execSll c f s
  | .srl c f => Sys2Proof.Machine.execSrl c f s
  | .sra c f => Sys2Proof.Machine.execSra c f s
  | .ror c f => Sys2Proof.Machine.execRor c f s
  | .clz c f => Sys2Proof.Machine.execClz c f s
  | .ctz c f => Sys2Proof.Machine.execCtz c f s
  | .popc c f => Sys2Proof.Machine.execPopc c f s
  | .brev c f => Sys2Proof.Machine.execBrev c f s
  | .bswap c f => Sys2Proof.Machine.execBswap c f s
  | .dadd c f => Sys2Proof.Machine.execDadd c f s
  | .dsub c f => Sys2Proof.Machine.execDsub c f s
  | .dcmp c f => Sys2Proof.Machine.execDcmp c f s
  | .dmul c f => Sys2Proof.Machine.execDmul c f s
  | .ddiv c f => Sys2Proof.Machine.execDdiv c f s
  | .dshl c f => Sys2Proof.Machine.execDshl c f s
  | .dshr c f => Sys2Proof.Machine.execDshr c f s
  | .dneg c f => Sys2Proof.Machine.execDneg c f s
  | .dchk c f => Sys2Proof.Machine.execDchk c f s
  | .cvbd c f => Sys2Proof.Machine.execCvbd c f s
  | .cvdb c f => Sys2Proof.Machine.execCvdb c f s
  | .dsadd c f => Sys2Proof.Machine.execDsadd c f s
  | .dssub c f => Sys2Proof.Machine.execDssub c f s
  | .dsmul c f => Sys2Proof.Machine.execDsmul c f s
  | .dsdiv c f => Sys2Proof.Machine.execDsdiv c f s
  | .dscmp c f => Sys2Proof.Machine.execDscmp c f s
  | .dpack c f => Sys2Proof.Machine.execDpack c f s
  | .dunpk c f => Sys2Proof.Machine.execDunpk c f s
  | .fadd c single f => Sys2Proof.Machine.execFadd c single f s
  | .fsub c single f => Sys2Proof.Machine.execFsub c single f s
  | .fmul c single f => Sys2Proof.Machine.execFmul c single f s
  | .fdiv c single f => Sys2Proof.Machine.execFdiv c single f s
  | .fsqrt c single f => Sys2Proof.Machine.execFsqrt c single f s
  | .fmadd c single f => Sys2Proof.Machine.execFmadd c single f s
  | .fmsub c single f => Sys2Proof.Machine.execFmsub c single f s
  | .fmin c single f => Sys2Proof.Machine.execFmin c single f s
  | .fmax c single f => Sys2Proof.Machine.execFmax c single f s
  | .fabs c single f => Sys2Proof.Machine.execFabs c single f s
  | .fneg c single f => Sys2Proof.Machine.execFneg c single f s
  | .fcmp c single f => Sys2Proof.Machine.execFcmp c single f s
  | .feq c single f => Sys2Proof.Machine.execFeq c single f s
  | .flt c single f => Sys2Proof.Machine.execFlt c single f s
  | .fle c single f => Sys2Proof.Machine.execFle c single f s
  | .fcvti c single f => Sys2Proof.Machine.execFcvti c single f s
  | .fcvtu c single f => Sys2Proof.Machine.execFcvtu c single f s
  | .icvtf c single f => Sys2Proof.Machine.execIcvtf c single f s
  | .ucvtf c single f => Sys2Proof.Machine.execUcvtf c single f s
  | .fcvt c single f => Sys2Proof.Machine.execFcvt c single f s
  | .fmvg c single f => Sys2Proof.Machine.execFmvg c single f s
  | .gmvf c single f => Sys2Proof.Machine.execGmvf c single f s
  | .fclass c single f => Sys2Proof.Machine.execFclass c single f s
  | .frnd c single f => Sys2Proof.Machine.execFrnd c single f s
  | .cas c dword f => Sys2Proof.Machine.execCas c dword f s
  | .swp c dword f => Sys2Proof.Machine.execSwp c dword f s
  | .ldadd c dword f => Sys2Proof.Machine.execLdadd c dword f s
  | .ldand c dword f => Sys2Proof.Machine.execLdand c dword f s
  | .ldor c dword f => Sys2Proof.Machine.execLdor c dword f s
  | .ldxor c dword f => Sys2Proof.Machine.execLdxor c dword f s
  | .movblk c f => Sys2Proof.Machine.execMovblk c f s
  | .fillblk c f => Sys2Proof.Machine.execFillblk c f s
  | .nop c f => Sys2Proof.Machine.execNop c f s
  | .mfsr c f => Sys2Proof.Machine.execMfsr c f s
  | .mtsr c f => Sys2Proof.Machine.execMtsr c f s
  | .svc c f => Sys2Proof.Machine.execSvc c f s
  | .fwc c f => Sys2Proof.Machine.execFwc c f s
  | .rfe c f => Sys2Proof.Machine.execRfe c f s
  | .brk c f => Sys2Proof.Machine.execBrk c f s
  | .bar c f => Sys2Proof.Machine.execBar c f s
  | .persist c f => Sys2Proof.Machine.execPersist c f s
  | .isync c f => Sys2Proof.Machine.execIsync c f s
  | .wfe c f => Sys2Proof.Machine.execWfe c f s
  | .tlbi c f => Sys2Proof.Machine.execTlbi c f s
  | .tlb2i c f => Sys2Proof.Machine.execTlb2i c f s
  | .cclean c f => Sys2Proof.Machine.execCclean c f s
  | .cflush c f => Sys2Proof.Machine.execCflush c f s
  | .cinv c f => Sys2Proof.Machine.execCinv c f s
  | .pref c f => Sys2Proof.Machine.execPref c f s
  | .csw c f => Sys2Proof.Machine.execCsw c f s
  | .savem c f => Sys2Proof.Machine.execSavem c f s
  | .loadm c f => Sys2Proof.Machine.execLoadm c f s
  | .addi c f => Sys2Proof.Machine.execAddi c f s
  | .andi c f => Sys2Proof.Machine.execAndi c f s
  | .ori c f => Sys2Proof.Machine.execOri c f s
  | .xori c f => Sys2Proof.Machine.execXori c f s
  | .cmpi c f => Sys2Proof.Machine.execCmpi c f s
  | .movi c f => Sys2Proof.Machine.execMovi c f s
  | .insh c f => Sys2Proof.Machine.execInsh c f s
  | .slli c f => Sys2Proof.Machine.execSlli c f s
  | .srli c f => Sys2Proof.Machine.execSrli c f s
  | .srai c f => Sys2Proof.Machine.execSrai c f s
  | .muli c f => Sys2Proof.Machine.execMuli c f s
  | .extu c f => Sys2Proof.Machine.execExtu c f s
  | .exts c f => Sys2Proof.Machine.execExts c f s
  | .insf c f => Sys2Proof.Machine.execInsf c f s
  | .ldb c f => Sys2Proof.Machine.execLdb c f s
  | .ldbu c f => Sys2Proof.Machine.execLdbu c f s
  | .ldh c f => Sys2Proof.Machine.execLdh c f s
  | .ldhu c f => Sys2Proof.Machine.execLdhu c f s
  | .ldw c f => Sys2Proof.Machine.execLdw c f s
  | .ldwu c f => Sys2Proof.Machine.execLdwu c f s
  | .ldd c f => Sys2Proof.Machine.execLdd c f s
  | .ldp c f => Sys2Proof.Machine.execLdp c f s
  | .stb c f => Sys2Proof.Machine.execStb c f s
  | .sth c f => Sys2Proof.Machine.execSth c f s
  | .stw c f => Sys2Proof.Machine.execStw c f s
  | .std c f => Sys2Proof.Machine.execStd c f s
  | .stp c f => Sys2Proof.Machine.execStp c f s
  | .flds c f => Sys2Proof.Machine.execFlds c f s
  | .fldd c f => Sys2Proof.Machine.execFldd c f s
  | .fsts c f => Sys2Proof.Machine.execFsts c f s
  | .fstd c f => Sys2Proof.Machine.execFstd c f s
  | .lea c f => Sys2Proof.Machine.execLea c f s
  | .st64 c f => Sys2Proof.Machine.execSt64 c f s
  | .bc c f => Sys2Proof.Machine.execBc c f s
  | .jmp c f => Sys2Proof.Machine.execJmp c f s
  | .call c f => Sys2Proof.Machine.execCall c f s
  | .cbeq c f => Sys2Proof.Machine.execCbeq c f s
  | .cbne c f => Sys2Proof.Machine.execCbne c f s
  | .cblt c f => Sys2Proof.Machine.execCblt c f s
  | .cbge c f => Sys2Proof.Machine.execCbge c f s
  | .cbltu c f => Sys2Proof.Machine.execCbltu c f s
  | .cbgeu c f => Sys2Proof.Machine.execCbgeu c f s
  | .sum c f => Sys2Proof.Machine.execSum c f s
  | .sumc c f => Sys2Proof.Machine.execSumc c f s
  | .dif c f => Sys2Proof.Machine.execDif c f s
  | .difb c f => Sys2Proof.Machine.execDifb c f s
  | .cmr c f => Sys2Proof.Machine.execCmr c f s
  | .anr c f => Sys2Proof.Machine.execAnr c f s
  | .orr c f => Sys2Proof.Machine.execOrr c f s
  | .eor c f => Sys2Proof.Machine.execEor c f s
  | .cpy c f => Sys2Proof.Machine.execCpy c f s
  | .negr c f => Sys2Proof.Machine.execNegr c f s
  | .muls c f => Sys2Proof.Machine.execMuls c f s
  | .mulu c f => Sys2Proof.Machine.execMulu c f s
  | .quo c f => Sys2Proof.Machine.execQuo c f s
  | .rmd c f => Sys2Proof.Machine.execRmd c f s
  | .shl c f => Sys2Proof.Machine.execShl c f s
  | .shr c f => Sys2Proof.Machine.execShr c f s
  | .sha c f => Sys2Proof.Machine.execSha c f s
  | .lnkr c f => Sys2Proof.Machine.execLnkr c f s
  | .jmpr c f => Sys2Proof.Machine.execJmpr c f s
  | .dpsum c f => Sys2Proof.Machine.execDpsum c f s
  | .dpdif c f => Sys2Proof.Machine.execDpdif c f s
  | .dpcmp c f => Sys2Proof.Machine.execDpcmp c f s
  | .dpmul c f => Sys2Proof.Machine.execDpmul c f s
  | .dpquo c f => Sys2Proof.Machine.execDpquo c f s
  | .dpbin c f => Sys2Proof.Machine.execDpbin c f s
  | .dpdec c f => Sys2Proof.Machine.execDpdec c f s
  | .dpshf c f => Sys2Proof.Machine.execDpshf c f s
  | .sumk c f => Sys2Proof.Machine.execSumk c f s
  | .cmk c f => Sys2Proof.Machine.execCmk c f s
  | .ank c f => Sys2Proof.Machine.execAnk c f s
  | .ork c f => Sys2Proof.Machine.execOrk c f s
  | .eok c f => Sys2Proof.Machine.execEok c f s
  | .setk c f => Sys2Proof.Machine.execSetk c f s
  | .sethk c f => Sys2Proof.Machine.execSethk c f s
  | .shlk c f => Sys2Proof.Machine.execShlk c f s
  | .shrk c f => Sys2Proof.Machine.execShrk c f s
  | .shak c f => Sys2Proof.Machine.execShak c f s
  | .lw c f => Sys2Proof.Machine.execLw c f s
  | .lhs c f => Sys2Proof.Machine.execLhs c f s
  | .lhz c f => Sys2Proof.Machine.execLhz c f s
  | .lbs c f => Sys2Proof.Machine.execLbs c f s
  | .lbz c f => Sys2Proof.Machine.execLbz c f s
  | .sw c f => Sys2Proof.Machine.execSw c f s
  | .shw c f => Sys2Proof.Machine.execShw c f s
  | .sby c f => Sys2Proof.Machine.execSby c f s
  | .adr c f => Sys2Proof.Machine.execAdr c f s
  | .lnk c f => Sys2Proof.Machine.execLnk c f s
  | .lpw c f => Sys2Proof.Machine.execLpw c f s
  | .spw c f => Sys2Proof.Machine.execSpw c f s
  | .swpc c f => Sys2Proof.Machine.execSwpc c f s
  | .brc c f => Sys2Proof.Machine.execBrc c f s
  | .scall c f => Sys2Proof.Machine.execScall c f s
  | .classicCsw c f => Sys2Proof.Machine.execClassicCsw c f s
  | .classicNop c f => Sys2Proof.Machine.execClassicNop c f s
  | .classicBrk c f => Sys2Proof.Machine.execClassicBrk c f s
  | .dsum c f => Sys2Proof.Machine.execDsum c f s
  | .ddif c f => Sys2Proof.Machine.execDdif c f s
  | .dmpy c f => Sys2Proof.Machine.execDmpy c f s
  | .dquo c f => Sys2Proof.Machine.execDquo c f s
  | .dcom c f => Sys2Proof.Machine.execDcom c f s
  | .zpk c f => Sys2Proof.Machine.execZpk c f s
  | .pkz c f => Sys2Proof.Machine.execPkz c f s
  | .bmov c f => Sys2Proof.Machine.execBmov c f s
  | .bcmp c f => Sys2Proof.Machine.execBcmp c f s
  | .interruptEntry c => Sys2Proof.Machine.execInterruptEntry c s
  | .partxEntry c => Sys2Proof.Machine.execPartxEntry c s
  | .persistRequest p => Sys2Proof.Machine.execPersistRequest p s
  | .persistAck p => Sys2Proof.Machine.execPersistAck p s
  | .controlStoreParityError p e => Sys2Proof.Machine.execControlStoreParityError p e s
  | .stageSeal crc version => Sys2Proof.Machine.execStageSeal crc version s
  | .stageUnseal => Sys2Proof.Machine.execStageUnseal s
  | .patchApply p how => Sys2Proof.Machine.execPatchApply p how s
  | .pocketResume c => Sys2Proof.Machine.execPocketResume c s
  | .pocketStop c => Sys2Proof.Machine.execPocketStop c s
  | .pocketSave c => Sys2Proof.Machine.execPocketSave c s
  | .pocketRestore c => Sys2Proof.Machine.execPocketRestore c s
  | .pocketOwnerWrite c owned owner => Sys2Proof.Machine.execPocketOwnerWrite c owned owner s
  | .ctxStart n c => Sys2Proof.Machine.execCtxStart n c s
  | .ctxStop n c => Sys2Proof.Machine.execCtxStop n c s
  | .ctxCont n c => Sys2Proof.Machine.execCtxCont n c s
  | .ctxWake n c => Sys2Proof.Machine.execCtxWake n c s
  | .ctxSetpri n c => Sys2Proof.Machine.execCtxSetpri n c s
  | .pocketSwitch k => Sys2Proof.Machine.execPocketSwitch k s
  | .sliceEnd k => Sys2Proof.Machine.execSliceEnd k s
  | .swwaitExceeded k => Sys2Proof.Machine.execSwwaitExceeded k s
  | .pairGate k => Sys2Proof.Machine.execPairGate k s
  | .partitionCreate n => Sys2Proof.Machine.execPartitionCreate n s
  | .partitionDestroy n => Sys2Proof.Machine.execPartitionDestroy n s
  | .partitionReset n => Sys2Proof.Machine.execPartitionReset n s
  | .unitReset kind num pass => Sys2Proof.Machine.execUnitReset kind num pass s
  | .sourceEvent src => Sys2Proof.Machine.execSourceEvent src s
  | .collarSend c src => Sys2Proof.Machine.execCollarSend c src s
  | .partColsend c n src => Sys2Proof.Machine.execPartColsend c n src s
  | .partClaim c n => Sys2Proof.Machine.execPartClaim c n s
  | .collarFwclaim c => Sys2Proof.Machine.execCollarFwclaim c s
  | .partEos c n src => Sys2Proof.Machine.execPartEos c n src s
  | .collarFweos c src => Sys2Proof.Machine.execCollarFweos c src s
  | .srcForce src => Sys2Proof.Machine.execSrcForce src s
  | .swgrpForce g fsrc => Sys2Proof.Machine.execSwgrpForce g fsrc s
  | .gdisWrite gdis => Sys2Proof.Machine.execGdisWrite gdis s
  | .partTimerWrite c n deadline => Sys2Proof.Machine.execPartTimerWrite c n deadline s
  | .collarFwtimerWrite c deadline => Sys2Proof.Machine.execCollarFwtimerWrite c deadline s
  | .contextTimerExpiry c => Sys2Proof.Machine.execContextTimerExpiry c s
  | .reads p sec => Sys2Proof.Machine.execReads p sec s
  | .readm p sec => Sys2Proof.Machine.execReadm p sec s
  | .upgrade p sec => Sys2Proof.Machine.execUpgrade p sec s
  | .writeback p sec => Sys2Proof.Machine.execWriteback p sec s
  | .clean p sec => Sys2Proof.Machine.execClean p sec s
  | .evictnotice p sec => Sys2Proof.Machine.execEvictnotice p sec s
  | .readcur r sec => Sys2Proof.Machine.execReadcur r sec s
  | .writefull r sec bs => Sys2Proof.Machine.execWritefull r sec bs s
  | .writepart r a bs => Sys2Proof.Machine.execWritepart r a bs s
  | .forwardedRequest sec => Sys2Proof.Machine.execForwardedRequest sec s
  | .invalidation q sec => Sys2Proof.Machine.execInvalidation q sec s
  | .transactionComplete sec => Sys2Proof.Machine.execTransactionComplete sec s
  | .nackRetry r sec => Sys2Proof.Machine.execNackRetry r sec s
  | .writebackAck p sec => Sys2Proof.Machine.execWritebackAck p sec s
  | .homeTimeout sec agent readable pass => Sys2Proof.Machine.execHomeTimeout sec agent readable pass s
  | .requesterTimeout r sec => Sys2Proof.Machine.execRequesterTimeout r sec s
  | .l2ctlEnWrite p en => Sys2Proof.Machine.execL2ctlEnWrite p en s
  | .l3ctlWgenWrite d w => Sys2Proof.Machine.execL3ctlWgenWrite d w s
  | .cacheDrainDone l3 u => Sys2Proof.Machine.execCacheDrainDone l3 u s
  | .l3PowerupDone d g => Sys2Proof.Machine.execL3PowerupDone d g s
  | .mapWrite k b w => Sys2Proof.Machine.execMapWrite k b w s
  | .dramAccess mc req more dev outcome otherGood => Sys2Proof.Machine.execDramAccess mc req more dev outcome otherGood s
  | .refreshDue ch rank r => Sys2Proof.Machine.execRefreshDue ch rank r s
  | .dramThermalThrottle ch t => Sys2Proof.Machine.execDramThermalThrottle ch t s
  | .dramThrottleEnd ch t => Sys2Proof.Machine.execDramThrottleEnd ch t s
  | .rankPowerDown ch rank => Sys2Proof.Machine.execRankPowerDown ch rank s
  | .patrolScrubStep ch dev bad uncorr otherGood => Sys2Proof.Machine.execPatrolScrubStep ch dev bad uncorr otherGood s
  | .l3SetScrub d sl sec outcome => Sys2Proof.Machine.execL3SetScrub d sl sec outcome s
  | .chRemove ch t => Sys2Proof.Machine.execChRemove ch t s
  | .chInsert ch dimms => Sys2Proof.Machine.execChInsert ch dimms s
  | .rebuildDone ch => Sys2Proof.Machine.execRebuildDone ch s
  | .comparatorMismatch p e => Sys2Proof.Machine.execComparatorMismatch p e s
  | .spareMove e => Sys2Proof.Machine.execSpareMove e s
  | .spareReinstate p pass => Sys2Proof.Machine.execSpareReinstate p pass s
  | .doorbellSend c r ws => Sys2Proof.Machine.execDoorbellSend c r ws s
  | .doorbellPost c r ws => Sys2Proof.Machine.execDoorbellPost c r ws s
  | .doorbellAnswer c r ws => Sys2Proof.Machine.execDoorbellAnswer c r ws s
  | .doorbellFree c r ws => Sys2Proof.Machine.execDoorbellFree c r ws s
  | .doorbellBadStore c r hub => Sys2Proof.Machine.execDoorbellBadStore c r hub s
  | .hemWriteDurable tsn h0 h1 => Sys2Proof.Machine.execHemWriteDurable tsn h0 h1 s
  | .descriptorFetchDone tsn => Sys2Proof.Machine.execDescriptorFetchDone tsn s
  | .markDurable tsn kind => Sys2Proof.Machine.execMarkDurable tsn kind s
  | .crack c r w => Sys2Proof.Machine.execCrack c r w s
  | .irack c r w => Sys2Proof.Machine.execIrack c r w s
  | .ringBind r => Sys2Proof.Machine.execRingBind r s
  | .ringUnbind r => Sys2Proof.Machine.execRingUnbind r s
  | .ringResume r => Sys2Proof.Machine.execRingResume r s
  | .moderationTimerExpiry r => Sys2Proof.Machine.execModerationTimerExpiry r s
  | .answerTimeout tsn => Sys2Proof.Machine.execAnswerTimeout tsn s
  | .reattachExpiry n => Sys2Proof.Machine.execReattachExpiry n s
  | .journalCarry => Sys2Proof.Machine.execJournalCarry s
  | .gownWrite j w => Sys2Proof.Machine.execGownWrite j w s
  | .granuleZeroDone g => Sys2Proof.Machine.execGranuleZeroDone g s
  | .hwinaWrite n k w => Sys2Proof.Machine.execHwinaWrite n k w s
  | .hwinbWrite n k w => Sys2Proof.Machine.execHwinbWrite n k w s
  | .hemDieFail u => Sys2Proof.Machine.execHemDieFail u s
  | .hemRetire u => Sys2Proof.Machine.execHemRetire u s
  | .hemRejoin u pass => Sys2Proof.Machine.execHemRejoin u pass s
  | .hemRejoinDone => Sys2Proof.Machine.execHemRejoinDone s
  | .wearLevelMove u fr stall => Sys2Proof.Machine.execWearLevelMove u fr stall s
  | .hemPatrolRewrite e0 e1 w => Sys2Proof.Machine.execHemPatrolRewrite e0 e1 w s
  | .triadInputBatch digests outs halves tests => Sys2Proof.Machine.execTriadInputBatch digests outs halves tests s
  | .memberSelfError m tests => Sys2Proof.Machine.execMemberSelfError m tests s
  | .triadEject m => Sys2Proof.Machine.execTriadEject m s
  | .triadRejoin m e => Sys2Proof.Machine.execTriadRejoin m e s
  | .autoRejoin m e => Sys2Proof.Machine.execAutoRejoin m e s
  | .probationEnd m => Sys2Proof.Machine.execProbationEnd m s
  | .triadFwLoad a => Sys2Proof.Machine.execTriadFwLoad a s
  | .triadFwSwitch => Sys2Proof.Machine.execTriadFwSwitch s
  | .triadFwDiscard => Sys2Proof.Machine.execTriadFwDiscard s
  | .triadPoolWrite p reg w => Sys2Proof.Machine.execTriadPoolWrite p reg w s
  | .poolInitDone p => Sys2Proof.Machine.execPoolInitDone p s
  | .laneTraining m g => Sys2Proof.Machine.execLaneTraining m g s
  | .laneLockLoss m => Sys2Proof.Machine.execLaneLockLoss m s
  | .losstoExpiry m => Sys2Proof.Machine.execLosstoExpiry m s
  | .laneRetryExpiry m => Sys2Proof.Machine.execLaneRetryExpiry m s
  | .laneTxFrame m => Sys2Proof.Machine.execLaneTxFrame m s
  | .alignmentMarkerTx m => Sys2Proof.Machine.execAlignmentMarkerTx m s
  | .cuffMarker m count ts e => Sys2Proof.Machine.execCuffMarker m count ts e s
  | .cuffReq m f => Sys2Proof.Machine.execCuffReq m f s
  | .cuffAnswer m f => Sys2Proof.Machine.execCuffAnswer m f s
  | .cuffAnsack m f => Sys2Proof.Machine.execCuffAnsack m f s
  | .cuffLack m f => Sys2Proof.Machine.execCuffLack m f s
  | .cuffNak m f => Sys2Proof.Machine.execCuffNak m f s
  | .cuffLinkinfo m f => Sys2Proof.Machine.execCuffLinkinfo m f s
  | .cuffRecal m f => Sys2Proof.Machine.execCuffRecal m f s
  | .cuffLpreq m f => Sys2Proof.Machine.execCuffLpreq m f s
  | .ackTimeout m => Sys2Proof.Machine.execAckTimeout m s
  | .laneRetrain m => Sys2Proof.Machine.execLaneRetrain m s
  | .laneRecal m => Sys2Proof.Machine.execLaneRecal m s
  | .laneDownCmd m => Sys2Proof.Machine.execLaneDownCmd m s
  | .snap m => Sys2Proof.Machine.execSnap m s
  | .recalDue m => Sys2Proof.Machine.execRecalDue m s
  | .recalDone m => Sys2Proof.Machine.execRecalDone m s
  | .lowpowerEntry m => Sys2Proof.Machine.execLowpowerEntry m s
  | .lowpowerRefresh m => Sys2Proof.Machine.execLowpowerRefresh m s
  | .lowpowerWake m lock => Sys2Proof.Machine.execLowpowerWake m lock s
  | .chanDual n => Sys2Proof.Machine.execChanDual n s
  | .chanSplit n => Sys2Proof.Machine.execChanSplit n s
  | .modeChangeDone n => Sys2Proof.Machine.execModeChangeDone n s
  | .chanTake n => Sys2Proof.Machine.execChanTake n s
  | .rollcallPass found gone voids => Sys2Proof.Machine.execRollcallPass found gone voids s
  | .rollGo => Sys2Proof.Machine.execRollGo s
  | .hotJoin => Sys2Proof.Machine.execHotJoin s
  | .pleatsub c n addr => Sys2Proof.Machine.execPleatsub c n addr s
  | .pleatFwsub c addr => Sys2Proof.Machine.execPleatFwsub c addr s
  | .pleatCompress x e bad blk => Sys2Proof.Machine.execPleatCompress x e bad blk s
  | .pleatDecompress x e => Sys2Proof.Machine.execPleatDecompress x e s
  | .inlineCompress tsn e bad => Sys2Proof.Machine.execInlineCompress tsn e bad s
  | .inlineDecompress tsn e => Sys2Proof.Machine.execInlineDecompress tsn e s
  | .pleatEngReset e pass => Sys2Proof.Machine.execPleatEngReset e pass s
  | .pleatEngOut e => Sys2Proof.Machine.execPleatEngOut e s
  | .cloaksub c n addr => Sys2Proof.Machine.execCloaksub c n addr s
  | .cloakFwsub c addr => Sys2Proof.Machine.execCloakFwsub c addr s
  | .xtsEnc x l bad unit => Sys2Proof.Machine.execXtsEnc x l bad unit s
  | .xtsDec x l bad unit => Sys2Proof.Machine.execXtsDec x l bad unit s
  | .gcmSeal x l bad unit => Sys2Proof.Machine.execGcmSeal x l bad unit s
  | .gcmOpen x l bad unit => Sys2Proof.Machine.execGcmOpen x l bad unit s
  | .cmacGen x l bad unit => Sys2Proof.Machine.execCmacGen x l bad unit s
  | .cmacVerify x l bad unit => Sys2Proof.Machine.execCmacVerify x l bad unit s
  | .inlineEncrypt tsn l bad => Sys2Proof.Machine.execInlineEncrypt tsn l bad s
  | .inlineDecrypt tsn l bad => Sys2Proof.Machine.execInlineDecrypt tsn l bad s
  | .slotLoad k => Sys2Proof.Machine.execSlotLoad k s
  | .oldKeyDrop k => Sys2Proof.Machine.execOldKeyDrop k s
  | .rootAdd => Sys2Proof.Machine.execRootAdd s
  | .rootLock kcvexp good => Sys2Proof.Machine.execRootLock kcvexp good s
  | .rootClear => Sys2Proof.Machine.execRootClear s
  | .cloakLaneReset l pass => Sys2Proof.Machine.execCloakLaneReset l pass s
  | .cloakLaneOut l => Sys2Proof.Machine.execCloakLaneOut l s
  | .seamPortBringup p res => Sys2Proof.Machine.execSeamPortBringup p res s
  | .seamPortRetry p res => Sys2Proof.Machine.execSeamPortRetry p res s
  | .seamFrameSeal p e => Sys2Proof.Machine.execSeamFrameSeal p e s
  | .hello p f => Sys2Proof.Machine.execHello p f s
  | .helloack p f => Sys2Proof.Machine.execHelloack p f s
  | .beat p f => Sys2Proof.Machine.execBeat p f s
  | .beatTimer p => Sys2Proof.Machine.execBeatTimer p s
  | .seamLack p f => Sys2Proof.Machine.execSeamLack p f s
  | .seamNak p f => Sys2Proof.Machine.execSeamNak p f s
  | .seamAckTimeout p => Sys2Proof.Machine.execSeamAckTimeout p s
  | .mirrec p f => Sys2Proof.Machine.execMirrec p f s
  | .mirmark p f => Sys2Proof.Machine.execMirmark p f s
  | .mirack p f => Sys2Proof.Machine.execMirack p f s
  | .tsync p f role => Sys2Proof.Machine.execTsync p f role s
  | .tfollow p f => Sys2Proof.Machine.execTfollow p f s
  | .tdreq p f => Sys2Proof.Machine.execTdreq p f s
  | .tdresp p f => Sys2Proof.Machine.execTdresp p f s
  | .syncPeriod => Sys2Proof.Machine.execSyncPeriod s
  | .syncLoss => Sys2Proof.Machine.execSyncLoss s
  | .seamTake p f => Sys2Proof.Machine.execSeamTake p f s
  | .claimsync p f => Sys2Proof.Machine.execClaimsync p f s
  | .rwrite p f => Sys2Proof.Machine.execRwrite p f s
  | .holdtimeSilence m => Sys2Proof.Machine.execHoldtimeSilence m s
  | .takewaitSilence n => Sys2Proof.Machine.execTakewaitSilence n s
  | .txmsg a => Sys2Proof.Machine.execTxmsg a s
  | .todset w => Sys2Proof.Machine.execTodset w s
  | .faultEvent f => Sys2Proof.Machine.execFaultEvent f s
  | .logWrite => Sys2Proof.Machine.execLogWrite s
  | .faultResume => Sys2Proof.Machine.execFaultResume s
  | .logack v => Sys2Proof.Machine.execLogack v s
  | .replay a => Sys2Proof.Machine.execReplay a s
  | .quietExpiry => Sys2Proof.Machine.execQuietExpiry s
  | .watchdogExpiry pass => Sys2Proof.Machine.execWatchdogExpiry pass s
  | .pet => Sys2Proof.Machine.execPet s
  | .collectorSelfcheckFail => Sys2Proof.Machine.execCollectorSelfcheckFail s
  | .faultsigWrite c n w => Sys2Proof.Machine.execFaultsigWrite c n w s
  | .apronPowerUp => Sys2Proof.Machine.execApronPowerUp s
  | .calfloorSave => Sys2Proof.Machine.execCalfloorSave s
  | .todSecondCapture => Sys2Proof.Machine.execTodSecondCapture s
  | .trimWindowEnd err => Sys2Proof.Machine.execTrimWindowEnd err s
  | .alarmFire => Sys2Proof.Machine.execAlarmFire s
  | .keepWrite k v => Sys2Proof.Machine.execKeepWrite k v s
  | .lifeSample temps hour => Sys2Proof.Machine.execLifeSample temps hour s
  | .lifeFlush => Sys2Proof.Machine.execLifeFlush s
  | .lifectlFlush => Sys2Proof.Machine.execLifectlFlush s
  | .resetctl w => Sys2Proof.Machine.execResetctl w s
  | .imgchk a type => Sys2Proof.Machine.execImgchk a type s
  | .tfwRestart a => Sys2Proof.Machine.execTfwRestart a s
  | .tfwReady fails => Sys2Proof.Machine.execTfwReady fails s
  | .quiesceTimeout fails => Sys2Proof.Machine.execQuiesceTimeout fails s
  | .unitrstPair p => Sys2Proof.Machine.execUnitrstPair p s
  | .unitrstLane m => Sys2Proof.Machine.execUnitrstLane m s
  | .flashErase a => Sys2Proof.Machine.execFlashErase a s
  | .flashProgram a => Sys2Proof.Machine.execFlashProgram a s
  | .flashRead a => Sys2Proof.Machine.execFlashRead a s
  | .flashDone err => Sys2Proof.Machine.execFlashDone err s
  | .registerWrite c o w => Sys2Proof.Machine.execRegisterWrite c o w s
  | .vaultEntryEnd => Sys2Proof.Machine.execVaultEntryEnd s
  | .apronPowerLoss => Sys2Proof.Machine.execApronPowerLoss s
  | .pairReturn p a b => Sys2Proof.Machine.execPairReturn p a b s
  | .testLogicReset => Sys2Proof.Machine.execTestLogicReset s
  | .reservedOpcode c w => Sys2Proof.Machine.execReservedOpcode c w s
  | .seamLockLoss p => Sys2Proof.Machine.execSeamLockLoss p s
  | .codeAlignmentLock m => Sys2Proof.Machine.execCodeAlignmentLock m s
  | .recalWaitEnd m => Sys2Proof.Machine.execRecalWaitEnd m s
  | .pathmiss n => Sys2Proof.Machine.execPathmiss n s
  | .rsRead c o => Sys2Proof.Machine.execRsRead c o s
  | .collarEnWrite src en => Sys2Proof.Machine.execCollarEnWrite src en s

end Sys2Proof.Machine
end

