-- ==== Sys2Proof/Safety.lean ====
section
/-! DEFINITION. What counts as a safe step and a safe run, and the terms the statements use: how an instruction of a
context starts, how it commits, and what it leaves alone. -/

namespace Sys2Proof.Safety

open Sys2Proof.Machine

/-- A step is safe when it answers a next state. -/
def SafeStep (s : State) : Prop := ∃ t, step s = .next t

/-- `n` steps from `s` are safe. -/
def SafeRun : Nat → State → Prop
  | 0, _ => True
  | n + 1, s => ∃ t, step s = .next t ∧ SafeRun n t

/-- Context `c` executes the instruction of `len` bytes that a command brings in state `s`, and `t` is the state its
fetch leaves: the Pocket runs in the right mode, nothing is taken in the instruction's place (R120, R217, R339), it is
not single-stepped (R97), its words are fetched without an exception, and no Damson match register of its pair is enabled (R174), so
that it means what the micro-ROM's routine makes it mean. -/
structure Starts (s : State) (c len : Nat) (cls : Bool) (t : State) : Prop where
  canRun : s.canRun c = true
  mode : stBit (s.ctx c).st ST.cls = cls
  noPartx : s.partxDue c = false
  noIntr : s.intrDue c = false
  noBreak : s.bpAt c = none
  noStep : stBit (s.ctx c).st ST.ss = false
  fetched : s.fetchAll c len cls = .ok t ()
  unpatched : t.patched c = false

/-- The debug unit does not step context `c` (R339). -/
def NotStepped (t : State) (c : Nat) : Prop := AMap.get false t.dbg.stepping c = false

/-- All of the module but context `c`, and but what the commit of an instruction of `c` touches, is in `u` as in `t`:
every byte of memory, every other context, every register field but SWGUARD and the retry count. -/
structure OnlyCtx (t u : State) (c : Nat) : Prop where
  pending : u.pending = t.pending
  power : u.power = t.power
  pins : u.pins = t.pins
  tap : u.tap = t.tap
  core : u.core = t.core
  collar : u.collar = t.collar
  faults : u.faults = t.faults
  apron : u.apron = t.apron
  mem : u.mem = t.mem
  triad : u.triad = t.triad
  link : u.link = t.link
  eng : u.eng = t.eng
  seam : u.seam = t.seam
  tailor : u.tailor = t.tailor
  tod : u.tod = t.tod
  ctxs : ∀ d, d ≠ c → u.ctx d = t.ctx d
  fields : ∀ f : Field, f.key ≠ (POCKET_STAT.SWGUARD c).key → f.key ≠ (WEFT_LOCK.COUNT (t.agentOf c)).key →
    u.fget f = t.fget f
  dbg : u.dbg = { t.dbg with passBp := AMap.erase c t.dbg.passBp }

/-- `u` is `t` after an instruction of context `c` has committed that leaves the context as `x`, with PC at `pc`: CYC
has counted (R98), the abandonment entry of the level is cleared (R183), SWGUARD and the retry count are 0 (R213,
R324), and nothing else has changed. -/
structure Commits (t u : State) (c : Nat) (x : Ctx) (pc : Word) : Prop where
  ctx : u.ctx c = { x with pc := pc, cyc := (u.ctx c).cyc, abandonLow := (u.ctx c).abandonLow,
                           abandonS := (u.ctx c).abandonS }
  cyc : ∃ n, 1 ≤ n ∧ (u.ctx c).cyc = x.cyc + BitVec.ofNat 64 n
  guard : u.fget (POCKET_STAT.SWGUARD c) = 0
  retries : u.fget (WEFT_LOCK.COUNT (t.agentOf c)) = 0
  rest : OnlyCtx t u c

/-- From `s`, whose fetch leaves `t`, the native instruction `i` of context `c` commits with its context as `x` and PC
past it. -/
def Completes (i : Instr) (s t : State) (c : Nat) (x : Ctx) : Prop :=
  ∃ u, exec i s = .next u ∧ Commits t u c x ((s.ctx c).pc + 4)

/-- It writes `v` to general register `r` and nothing else of the context but PC. -/
def WritesG (i : Instr) (s t : State) (c : Nat) (r : RegNo) (v : Word) : Prop :=
  Completes i s t c ((t.ctx c).writeG r.toNat v)

/-- It writes `v` to general register `r`, and the flags of `fl`. -/
def WritesGF (i : Instr) (s t : State) (c : Nat) (r : RegNo) (v : Word) (fl : FlagSet) : Prop :=
  Completes i s t c ({ t.ctx c with st := stFlags (t.ctx c).st fl }.writeG r.toNat v)

/-- It commits and PC goes to `pc`. -/
def JumpsTo (i : Instr) (s t : State) (c : Nat) (x : Ctx) (pc : Word) : Prop :=
  ∃ u, exec i s = .next u ∧ Commits t u c x pc

/-- The context takes exception `e` from the state `v` that the body left, with the instruction's own PC in RPC and
`insn` as its word (R117). -/
def Raises (i : Instr) (s v : State) (c : Nat) (insn : Nat) (e : Exc) : Prop :=
  exec i s = .next ((v.takeExc c e insn (s.ctx c).pc (s.ctx c).pc).debugEnd c)

/-- The instruction commits with PC at `pc`, and the context then takes exception `e` with `pc` in RPC (R117: SVC and
FWC). -/
def RaisesAfter (i : Instr) (s t : State) (c insn : Nat) (x : Ctx) (pc : Word) (e : Exc) : Prop :=
  ∃ w : State, Commits t { w with dbg := { w.dbg with passBp := AMap.erase c w.dbg.passBp } } c x pc ∧
    exec i s = .next ((w.takeExc c e insn pc (s.ctx c).pc).debugEnd c)

/-! ### Commands of the block -/

/-- `t` is `s` with the register fields of `l` at the values listed, every other register field unchanged, and every
other part of the state as `upd` makes it. -/
structure Alters (s t : State) (upd : State → State) (l : List (Field × Nat)) : Prop where
  rest : t = { upd s with fields := t.fields }
  set : ∀ p ∈ l, t.fget p.1 = p.2
  kept : ∀ f : Field, (∀ p ∈ l, p.1.key ≠ f.key) → t.fget f = s.fget f

/-- A value as a register field of its width holds it. -/
def fits (f : Field) (v : Nat) : Field × Nat := (f, v % 2 ^ f.width)

/-- A saturating count of `n` more events. -/
def counts (s : State) (f : Field) (n : Nat) : Field × Nat := (f, min (2 ^ f.width - 1) (s.fget f + n))

/-- The command alters the register fields of `l`, and the rest of the state by `upd`; then `after` happens: the fault
record, the Collar event or the other event it raises. -/
def Does (i : Instr) (s : State) (upd : State → State) (l : List (Field × Nat)) (after : State → State := id) : Prop :=
  ∃ t, Alters s t upd l ∧ exec i s = .next (after t)

/-- The command changes nothing. -/
def Idles (i : Instr) (s : State) : Prop := exec i s = .next s

end Sys2Proof.Safety
end

