-- ==== Sys2Proof/Certificates/Slice0/Obligations.lean ====
section
/-! DEFINITION. The statements about the model for the provers. Each names the rules of spec/ it rests on. -/

open Sys2Proof Sys2Proof.Machine Sys2Proof.Safety

/-! ### CA-64 integer instructions -/

/-- R126, R140: ADD to ZEXTW without flags, one register written; every other register, every flag and all of memory is
unchanged (`Commits`). ADD of the all-zero word is no ADD (R102). -/
def Sys2Proof.Safety.IntegerRegisterResults : Prop :=
  ∀ (s t : State) (c : Nat) (f : RFmt), Starts s c 4 false t → NotStepped t c → f.rc = 0 →
    let a := t.g c f.ra
    let b := t.g c f.rb
    (¬ (f.rd = 0 ∧ f.ra = 0 ∧ f.rb = 0) → WritesG (.add c f) s t c f.rd (a + b)) ∧
    WritesG (.sub c f) s t c f.rd (a - b) ∧
    WritesG (.and c f) s t c f.rd (a &&& b) ∧
    WritesG (.or c f) s t c f.rd (a ||| b) ∧
    WritesG (.xor c f) s t c f.rd (a ^^^ b) ∧
    WritesG (.andn c f) s t c f.rd (a &&& ~~~b) ∧
    WritesG (.orn c f) s t c f.rd (a ||| ~~~b) ∧
    WritesG (.slt c f) s t c f.rd (if a.toInt < b.toInt then 1 else 0) ∧
    WritesG (.sltu c f) s t c f.rd (if a.toNat < b.toNat then 1 else 0) ∧
    WritesG (.min c f) s t c f.rd (if a.toInt < b.toInt then a else b) ∧
    WritesG (.max c f) s t c f.rd (if a.toInt < b.toInt then b else a) ∧
    WritesG (.minu c f) s t c f.rd (if a.toNat < b.toNat then a else b) ∧
    WritesG (.maxu c f) s t c f.rd (if a.toNat < b.toNat then b else a) ∧
    (f.rb = 0 →
      WritesG (.neg c f) s t c f.rd (0 - a) ∧
      WritesG (.abs c f) s t c f.rd (if a.toInt < 0 then 0 - a else a) ∧
      WritesG (.sextb c f) s t c f.rd ((a.setWidth 8).signExtend 64) ∧
      WritesG (.sexth c f) s t c f.rd ((a.setWidth 16).signExtend 64) ∧
      WritesG (.sextw c f) s t c f.rd ((a.setWidth 32).signExtend 64) ∧
      WritesG (.zextw c f) s t c f.rd ((a.setWidth 32).setWidth 64))

/-- R127, R143: quotients and remainders; a zero divisor raises IDIV and writes nothing. That a remainder is
a − (a ÷ b) × b is the model's reading (log entry 115). -/
def Sys2Proof.Safety.DivideResults : Prop :=
  ∀ (s t : State) (c : Nat) (f : RFmt), Starts s c 4 false t → NotStepped t c → f.rc = 0 →
    let a := t.g c f.ra
    let b := t.g c f.rb
    (b ≠ 0 →
      WritesG (.divs c f) s t c f.rd (BitVec.ofInt 64 (a.toInt.tdiv b.toInt)) ∧
      WritesG (.rems c f) s t c f.rd (BitVec.ofInt 64 (a.toInt - a.toInt.tdiv b.toInt * b.toInt)) ∧
      WritesG (.divu c f) s t c f.rd (BitVec.ofNat 64 (a.toNat / b.toNat)) ∧
      WritesG (.remu c f) s t c f.rd (BitVec.ofNat 64 (a.toNat % b.toNat))) ∧
    (b = 0 →
      Raises (.divs c f) s t c (wordR 0x01 0x07 f) { code := 0x0A } ∧
      Raises (.divu c f) s t c (wordR 0x01 0x08 f) { code := 0x0A } ∧
      Raises (.rems c f) s t c (wordR 0x01 0x09 f) { code := 0x0A } ∧
      Raises (.remu c f) s t c (wordR 0x01 0x0A f) { code := 0x0A })

/-- R126 to R128, R133, R140 to R142: the integer, multiply, shift, bit and immediate instructions complete on every operand,
with nothing but their context changed, in every form whose reserved fields are zero. -/
def Sys2Proof.Safety.IntegerCompletion : Prop :=
  ∀ (s t : State) (c : Nat), Starts s c 4 false t → NotStepped t c →
    let runs (i : Instr) : Prop := ∃ u x, exec i s = .next u ∧ Commits t u c x ((s.ctx c).pc + 4)
    (∀ f : RFmt, f.rc = 0 →
      runs (.adds c f) ∧ runs (.adc c f) ∧ runs (.subs c f) ∧ runs (.sbc c f) ∧
      (f.rd = 0 → runs (.cmp c f) ∧ runs (.tst c f)) ∧
      runs (.mul c f) ∧ runs (.mulhs c f) ∧ runs (.mulhu c f) ∧
      runs (.sll c f) ∧ runs (.srl c f) ∧ runs (.sra c f) ∧ runs (.ror c f) ∧
      (f.rb = 0 → runs (.clz c f) ∧ runs (.ctz c f) ∧ runs (.popc c f) ∧ runs (.brev c f) ∧ runs (.bswap c f))) ∧
    (∀ f : RFmt, runs (.madd c f) ∧ runs (.msub c f) ∧ (f.rd ≠ f.rc → runs (.mulw c f) ∧ runs (.mulwu c f))) ∧
    (∀ f : IFmt,
      runs (.addi c f) ∧ runs (.andi c f) ∧ runs (.ori c f) ∧ runs (.xori c f) ∧ runs (.muli c f) ∧
      (f.rd = 0 → runs (.cmpi c f)) ∧ (f.ra = 0 → runs (.movi c f)) ∧ (f.ra.toNat < 4 → runs (.insh c f)) ∧
      (f.imm.toNat < 64 → runs (.slli c f) ∧ runs (.srli c f) ∧ runs (.srai c f)) ∧
      (f.imm.toNat < 4096 → f.imm.toNat / 64 + f.imm.toNat % 64 < 64 →
        runs (.extu c f) ∧ runs (.exts c f) ∧ runs (.insf c f)))

/-- Together: the integer register instructions without flags, the divides, and the completion of the integer instructions. -/
def Obligations.IntegerRegisterAndDivideResults : Prop :=
  IntegerRegisterResults ∧ DivideResults ∧ IntegerCompletion

/-- The 65-bit sum of R140. -/
def Sys2Proof.Safety.sum65Of (a b : Word) (cin : Bool) : BitVec 65 :=
  a.setWidth 65 + b.setWidth 65 + (if cin then 1 else 0)

/-- The flags of R140 for a sum, with V's rule for an addition or a subtraction of `b`. -/
def Sys2Proof.Safety.flagsOf (a b : Word) (sum : BitVec 65) (sub : Bool) : FlagSet :=
  let r : Word := sum.setWidth 64
  { z := some (decide (r = 0)), n := some r.msb, c := some sum.msb,
    v := some (if sub then decide (a.msb ≠ b.msb ∧ r.msb ≠ a.msb) else decide (a.msb = b.msb ∧ r.msb ≠ a.msb)) }

/-- R140: the flag-writing forms, their results and their flags; the forms of the rule that write no flag. -/
def Obligations.IntegerFlagsAndSums : Prop :=
  ∀ (s t : State) (c : Nat), Starts s c 4 false t → NotStepped t c →
    (∀ f : RFmt, f.rc = 0 →
      let a := t.g c f.ra
      let b := t.g c f.rb
      let ci := t.flag c ST.c
      let ads := sum65Of a b false
      let adc := sum65Of a b ci
      let sbs := sum65Of a (~~~b) true
      let sbc := sum65Of a (~~~b) ci
      WritesGF (.adds c f) s t c f.rd (ads.setWidth 64) (flagsOf a b ads false) ∧
      WritesGF (.adc c f) s t c f.rd (adc.setWidth 64) (flagsOf a b adc false) ∧
      WritesGF (.subs c f) s t c f.rd (sbs.setWidth 64) (flagsOf a b sbs true) ∧
      WritesGF (.sbc c f) s t c f.rd (sbc.setWidth 64) (flagsOf a b sbc true) ∧
      (f.rd = 0 →
        Completes (.cmp c f) s t c { t.ctx c with st := stFlags (t.ctx c).st (flagsOf a b sbs true) } ∧
        Completes (.tst c f) s t c { t.ctx c with
          st := stFlags (t.ctx c).st { z := some (decide (a &&& b = 0)), n := some (a &&& b).msb } }) ∧
      (¬ (f.rd = 0 ∧ f.ra = 0 ∧ f.rb = 0) → WritesG (.add c f) s t c f.rd (a + b)) ∧
      WritesG (.sub c f) s t c f.rd (a - b) ∧
      WritesG (.mul c f) s t c f.rd (a * b) ∧
      (f.rb = 0 → WritesG (.neg c f) s t c f.rd (0 - a))) ∧
    (∀ f : RFmt,
      WritesG (.madd c f) s t c f.rd (t.g c f.rc + t.g c f.ra * t.g c f.rb) ∧
      WritesG (.msub c f) s t c f.rd (t.g c f.rc - t.g c f.ra * t.g c f.rb)) ∧
    (∀ f : IFmt,
      let a := t.g c f.ra
      let b := f.imm.signExtend 64
      let sbs := sum65Of a (~~~b) true
      WritesG (.addi c f) s t c f.rd (a + b) ∧
      WritesG (.muli c f) s t c f.rd (a * b) ∧
      (f.rd = 0 →
        Completes (.cmpi c f) s t c { t.ctx c with st := stFlags (t.ctx c).st (flagsOf a b sbs true) }))

/-- R127, R142: the products: low and high halves, signed and unsigned, and both halves in MULW and MULWU. -/
def Sys2Proof.Safety.MultiplyResults : Prop :=
  ∀ (s t : State) (c : Nat) (f : RFmt), Starts s c 4 false t → NotStepped t c →
    let a := t.g c f.ra
    let b := t.g c f.rb
    let sp : BitVec 128 := a.signExtend 128 * b.signExtend 128
    let up : BitVec 128 := a.setWidth 128 * b.setWidth 128
    (f.rc = 0 →
      WritesG (.mul c f) s t c f.rd (up.setWidth 64) ∧
      WritesG (.mulhs c f) s t c f.rd ((sp >>> 64).setWidth 64) ∧
      WritesG (.mulhu c f) s t c f.rd ((up >>> 64).setWidth 64)) ∧
    (f.rd ≠ f.rc →
      Completes (.mulw c f) s t c (((t.ctx c).writeG f.rd.toNat ((sp >>> 64).setWidth 64)).writeG f.rc.toNat
        (sp.setWidth 64)) ∧
      Completes (.mulwu c f) s t c (((t.ctx c).writeG f.rd.toNat ((up >>> 64).setWidth 64)).writeG f.rc.toNat
        (up.setWidth 64))) ∧
    (f.rd = f.rc →
      Raises (.mulw c f) s t c (wordR 0x01 0x03 f) { code := 0x06 } ∧
      Raises (.mulwu c f) s t c (wordR 0x01 0x04 f) { code := 0x06 })

/-- R128, R141: shifts use the low six bits of the count; the bit instructions, with 64 as the count of zeros of 0; no
flag is written. -/
def Sys2Proof.Safety.ShiftAndBitResults : Prop :=
  ∀ (s t : State) (c : Nat) (f : RFmt), Starts s c 4 false t → NotStepped t c → f.rc = 0 →
    let a := t.g c f.ra
    let n := (t.g c f.rb).toNat % 64
    WritesG (.sll c f) s t c f.rd (a <<< n) ∧
    WritesG (.srl c f) s t c f.rd (a >>> n) ∧
    WritesG (.sra c f) s t c f.rd (a.sshiftRight n) ∧
    WritesG (.ror c f) s t c f.rd (a >>> n ||| a <<< (64 - n)) ∧
    (f.rb = 0 →
      (∃ v, WritesG (.clz c f) s t c f.rd v ∧ (a = 0 → v = 64) ∧
        (a ≠ 0 → v.toNat < 64 ∧ 2 ^ (63 - v.toNat) ≤ a.toNat ∧ a.toNat < 2 ^ (64 - v.toNat))) ∧
      (∃ v, WritesG (.ctz c f) s t c f.rd v ∧ (a = 0 → v = 64) ∧
        (a ≠ 0 → v.toNat < 64 ∧ 2 ^ v.toNat ∣ a.toNat ∧ ¬ 2 ^ (v.toNat + 1) ∣ a.toNat)) ∧
      (∃ v, WritesG (.popc c f) s t c f.rd v ∧
        v.toNat = ((List.range 64).filter fun k => a.getLsbD k).length) ∧
      (∃ v, WritesG (.brev c f) s t c f.rd v ∧ ∀ k, k < 64 → v.getLsbD k = a.getLsbD (63 - k)) ∧
      (∃ v, WritesG (.bswap c f) s t c f.rd v ∧ ∀ k, k < 64 → v.getLsbD k = a.getLsbD (8 * (7 - k / 8) + k % 8)))

/-- R133, R141: the immediate group. -/
def Sys2Proof.Safety.ImmediateResults : Prop :=
  ∀ (s t : State) (c : Nat) (f : IFmt), Starts s c 4 false t → NotStepped t c →
    let a := t.g c f.ra
    let n := f.imm.toNat % 64
    let pos := f.imm.toNat / 64 % 64
    let width := f.imm.toNat % 64 + 1
    let mask : Word := ((1#64 <<< width) - 1) <<< pos
    WritesG (.addi c f) s t c f.rd (a + f.imm.signExtend 64) ∧
    WritesG (.andi c f) s t c f.rd (a &&& f.imm.setWidth 64) ∧
    WritesG (.ori c f) s t c f.rd (a ||| f.imm.setWidth 64) ∧
    WritesG (.xori c f) s t c f.rd (a ^^^ f.imm.setWidth 64) ∧
    WritesG (.muli c f) s t c f.rd (a * f.imm.signExtend 64) ∧
    (f.ra = 0 → WritesG (.movi c f) s t c f.rd (f.imm.signExtend 64)) ∧
    (∀ k, k < 4 → f.ra.toNat = k →
      WritesG (.insh c f) s t c f.rd ((t.g c f.rd &&& ~~~(0xFFFF#64 <<< (16 * k))) ||| (f.imm.setWidth 64 <<< (16 * k)))) ∧
    (f.imm.toNat < 64 →
      WritesG (.slli c f) s t c f.rd (a <<< n) ∧
      WritesG (.srli c f) s t c f.rd (a >>> n) ∧
      WritesG (.srai c f) s t c f.rd (a.sshiftRight n)) ∧
    (f.imm.toNat < 4096 → pos + width ≤ 64 →
      WritesG (.extu c f) s t c f.rd (BitVec.ofNat 64 (a.toNat / 2 ^ pos % 2 ^ width)) ∧
      WritesG (.exts c f) s t c f.rd ((a <<< (64 - (pos + width))).sshiftRight (64 - width)) ∧
      WritesG (.insf c f) s t c f.rd ((t.g c f.rd &&& ~~~mask) ||| ((a <<< pos) &&& mask))) ∧
    (f.imm.toNat < 4096 → 64 < pos + width →
      Raises (.extu c f) s t c (wordI 0x13 f) { code := 0x06 } ∧
      Raises (.exts c f) s t c (wordI 0x14 f) { code := 0x06 } ∧
      Raises (.insf c f) s t c (wordI 0x15 f) { code := 0x06 })

/-- R102, R126 to R128, R133: an instruction with a field that the spec reserves, or leaves no value for, raises UNDEF:
Rc where the operation has none, Rb and Rc of the one-operand forms, Rd of CMP, TST, CMPI and JR, bit 4 of SEL's
condition, Ra of MOVI, a halfword beyond 3 in INSH, a count of 64 or more, and bits 15:12 of the field instructions. -/
def Sys2Proof.Safety.ReservedOperandFields : Prop :=
  ∀ (s t : State) (c : Nat), Starts s c 4 false t →
    (∀ f : RFmt, f.rc ≠ 0 →
      ∀ p ∈ [(Instr.add c f, wordR 0x00 0x00 f), (.adds c f, wordR 0x00 0x01 f), (.adc c f, wordR 0x00 0x02 f),
        (.sub c f, wordR 0x00 0x03 f), (.subs c f, wordR 0x00 0x04 f), (.sbc c f, wordR 0x00 0x05 f),
        (.cmp c f, wordR 0x00 0x07 f), (.and c f, wordR 0x00 0x08 f), (.or c f, wordR 0x00 0x09 f),
        (.xor c f, wordR 0x00 0x0A f), (.andn c f, wordR 0x00 0x0B f), (.orn c f, wordR 0x00 0x0C f),
        (.tst c f, wordR 0x00 0x0D f), (.slt c f, wordR 0x00 0x0F f), (.sltu c f, wordR 0x00 0x10 f),
        (.min c f, wordR 0x00 0x11 f), (.max c f, wordR 0x00 0x12 f), (.minu c f, wordR 0x00 0x13 f),
        (.maxu c f, wordR 0x00 0x14 f), (.mul c f, wordR 0x01 0x00 f), (.mulhs c f, wordR 0x01 0x01 f),
        (.mulhu c f, wordR 0x01 0x02 f), (.divs c f, wordR 0x01 0x07 f), (.divu c f, wordR 0x01 0x08 f),
        (.rems c f, wordR 0x01 0x09 f), (.remu c f, wordR 0x01 0x0A f), (.sll c f, wordR 0x02 0x00 f),
        (.srl c f, wordR 0x02 0x01 f), (.sra c f, wordR 0x02 0x02 f), (.ror c f, wordR 0x02 0x03 f)],
        Raises p.1 s t c p.2 { code := 0x06 }) ∧
    (∀ f : RFmt, f.rb ≠ 0 ∨ f.rc ≠ 0 →
      ∀ p ∈ [(Instr.neg c f, wordR 0x00 0x06 f), (.abs c f, wordR 0x00 0x15 f), (.sextb c f, wordR 0x00 0x16 f),
        (.sexth c f, wordR 0x00 0x17 f), (.sextw c f, wordR 0x00 0x18 f), (.zextw c f, wordR 0x00 0x19 f),
        (.jr c f, wordR 0x00 0x30 f), (.callr c f, wordR 0x00 0x31 f), (.clz c f, wordR 0x02 0x04 f),
        (.ctz c f, wordR 0x02 0x05 f), (.popc c f, wordR 0x02 0x06 f), (.brev c f, wordR 0x02 0x07 f),
        (.bswap c f, wordR 0x02 0x08 f)],
        Raises p.1 s t c p.2 { code := 0x06 }) ∧
    (∀ f : RFmt, f.rd ≠ 0 →
      Raises (.cmp c f) s t c (wordR 0x00 0x07 f) { code := 0x06 } ∧
      Raises (.tst c f) s t c (wordR 0x00 0x0D f) { code := 0x06 } ∧
      Raises (.jr c f) s t c (wordR 0x00 0x30 f) { code := 0x06 }) ∧
    (∀ f : RFmt, f.rd = 0 → f.ra = 0 → f.rb = 0 → f.rc = 0 →
      Raises (.add c f) s t c 0 { code := 0x06 }) ∧
    (∀ f : RFmt, 16 ≤ f.rc.toNat → Raises (.sel c f) s t c (wordR 0x00 0x0E f) { code := 0x06 }) ∧
    (∀ f : IFmt,
      (f.rd ≠ 0 → Raises (.cmpi c f) s t c (wordI 0x0C f) { code := 0x06 }) ∧
      (f.ra ≠ 0 → Raises (.movi c f) s t c (wordI 0x0D f) { code := 0x06 }) ∧
      (4 ≤ f.ra.toNat → Raises (.insh c f) s t c (wordI 0x0E f) { code := 0x06 }) ∧
      (64 ≤ f.imm.toNat →
        Raises (.slli c f) s t c (wordI 0x0F f) { code := 0x06 } ∧
        Raises (.srli c f) s t c (wordI 0x10 f) { code := 0x06 } ∧
        Raises (.srai c f) s t c (wordI 0x11 f) { code := 0x06 }) ∧
      (4096 ≤ f.imm.toNat →
        Raises (.extu c f) s t c (wordI 0x13 f) { code := 0x06 } ∧
        Raises (.exts c f) s t c (wordI 0x14 f) { code := 0x06 } ∧
        Raises (.insf c f) s t c (wordI 0x15 f) { code := 0x06 }))

/-- Together: the multiply, shift, bit and immediate instructions, and reserved fields of all integer instructions. -/
def Obligations.MultiplyShiftAndImmediateResults : Prop :=
  MultiplyResults ∧ ShiftAndBitResults ∧ ImmediateResults ∧ ReservedOperandFields

/-- R107: the conditions that BC and SEL name. -/
def Sys2Proof.Safety.condTrue (st : Word) : Nat → Prop
  | 0x0 => stBit st ST.z = true
  | 0x1 => stBit st ST.z = false
  | 0x2 => stBit st ST.c = true
  | 0x3 => stBit st ST.c = false
  | 0x4 => stBit st ST.n = true
  | 0x5 => stBit st ST.n = false
  | 0x6 => stBit st ST.v = true
  | 0x7 => stBit st ST.v = false
  | 0x8 => stBit st ST.c = true ∧ stBit st ST.z = false
  | 0x9 => stBit st ST.c = false ∨ stBit st ST.z = true
  | 0xA => stBit st ST.n = stBit st ST.v
  | 0xB => stBit st ST.n ≠ stBit st ST.v
  | 0xC => stBit st ST.z = false ∧ stBit st ST.n = stBit st ST.v
  | 0xD => stBit st ST.z = true ∨ stBit st ST.n ≠ stBit st ST.v
  | 0xE => stBit st ST.d = true
  | 0xF => True
  | _ => False

/-- R107, R126, R135: SEL, the branches, the calls, and the jumps to a register with their alignment rule (R117). -/
def Obligations.ConditionsAndBranches : Prop :=
  ∀ (s t : State) (c : Nat), Starts s c 4 false t → NotStepped t c →
    let pc := (t.ctx c).pc
    let st := (t.ctx c).st
    (∀ f : RFmt, f.rc.toNat < 16 →
      (condTrue st f.rc.toNat → WritesG (.sel c f) s t c f.rd (t.g c f.ra)) ∧
      (¬ condTrue st f.rc.toNat → WritesG (.sel c f) s t c f.rd (t.g c f.rb))) ∧
    (∀ f : RFmt, f.rb = 0 → f.rc = 0 → (t.g c f.ra).toNat % 4 = 0 →
      (f.rd = 0 → JumpsTo (.jr c f) s t c (t.ctx c) (t.g c f.ra)) ∧
      JumpsTo (.callr c f) s t c ((t.ctx c).writeG f.rd.toNat (pc + 4)) (t.g c f.ra)) ∧
    (∀ f : RFmt, f.rd = 0 → f.rb = 0 → f.rc = 0 → (t.g c f.ra).toNat % 4 ≠ 0 →
      Raises (.jr c f) s t c (wordR 0x00 0x30 f) { code := 0x05, detail := 0x01, faddr := some (t.g c f.ra) }) ∧
    (∀ f : RFmt, f.rb = 0 → f.rc = 0 → (t.g c f.ra).toNat % 4 ≠ 0 →
      Raises (.callr c f) s t c (wordR 0x00 0x31 f) { code := 0x05, detail := 0x01, faddr := some (t.g c f.ra) }) ∧
    (∀ f : BFmt,
      (condTrue st f.cond.toNat → JumpsTo (.bc c f) s t c (t.ctx c) (pc + f.disp.signExtend 64 * 4)) ∧
      (¬ condTrue st f.cond.toNat → Completes (.bc c f) s t c (t.ctx c))) ∧
    (∀ f : JFmt,
      JumpsTo (.jmp c f) s t c (t.ctx c) (pc + f.disp.signExtend 64 * 4) ∧
      JumpsTo (.call c f) s t c ((t.ctx c).writeG 31 (pc + 4)) (pc + f.disp.signExtend 64 * 4)) ∧
    (∀ f : IFmt,
      let a := t.g c f.rd
      let b := t.g c f.ra
      let tgt := pc + f.imm.signExtend 64 * 4
      (a = b → JumpsTo (.cbeq c f) s t c (t.ctx c) tgt ∧ Completes (.cbne c f) s t c (t.ctx c)) ∧
      (a ≠ b → JumpsTo (.cbne c f) s t c (t.ctx c) tgt ∧ Completes (.cbeq c f) s t c (t.ctx c)) ∧
      (a.toInt < b.toInt → JumpsTo (.cblt c f) s t c (t.ctx c) tgt ∧ Completes (.cbge c f) s t c (t.ctx c)) ∧
      (b.toInt ≤ a.toInt → JumpsTo (.cbge c f) s t c (t.ctx c) tgt ∧ Completes (.cblt c f) s t c (t.ctx c)) ∧
      (a.toNat < b.toNat → JumpsTo (.cbltu c f) s t c (t.ctx c) tgt ∧ Completes (.cbgeu c f) s t c (t.ctx c)) ∧
      (b.toNat ≤ a.toNat → JumpsTo (.cbgeu c f) s t c (t.ctx c) tgt ∧ Completes (.cbltu c f) s t c (t.ctx c)))

/-! ### CA-64 memory instructions -/

/-- The effective address of R103 for an access of `n` bytes. -/
def Sys2Proof.Safety.eaOf (t : State) (c : Nat) (f : MFmt) (n : Nat) : Word :=
  let disp : Word := f.opnd.signExtend 64 * BitVec.ofNat 64 n
  if f.mode = 0 then (if f.ra = 0 then (t.ctx c).pc + disp else t.g c f.ra + disp)
  else if f.mode = 1 then
    t.g c f.ra + (t.g c (BitVec.ofNat 5 (f.opnd.toNat / 2 ^ 9)) <<< (f.opnd.toNat / 2 ^ 6 % 8))
  else if f.mode = 2 then t.g c f.ra + disp
  else t.g c f.ra

/-- The context after the write-back of R103. -/
def Sys2Proof.Safety.writtenBack (v : State) (c : Nat) (f : MFmt) (n : Nat) (a : Word) : Ctx :=
  if f.mode = 2 then (v.ctx c).writeG f.ra.toNat a
  else if f.mode = 3 then (v.ctx c).writeG f.ra.toNat (a + f.opnd.signExtend 64 * BitVec.ofNat 64 n)
  else v.ctx c

/-- A form that R104 allows; `load`: a load of a general register. -/
def Sys2Proof.Safety.FormOk (f : MFmt) (load : Bool) : Prop :=
  (2 ≤ f.mode.toNat → f.ra ≠ 0 ∧ (load = true → f.rt ≠ f.ra)) ∧
  (f.mode = 1 → f.opnd.toNat / 2 ^ 6 % 8 ≤ 4 ∧ f.opnd.toNat % 2 ^ 6 = 0)

/-- A load of `n` bytes at `a` reaches its bytes: the wide part is live where it is needed (R219), every page is translated
and checked (R105), the wide part is in a bank, the bytes `bs` are read, and `v` is the state the access leaves. -/
def Sys2Proof.Safety.Loads (t : State) (c : Nat) (a : Word) (n : Nat) (fp : Bool) (v : State) (bs : List Byte) : Prop :=
  (fp = true → t.fbit (POCKET_STAT.WLIVE c) = true) ∧
  ∃ t1 l t2,
    t.reachData c accLoad (pagePieces a.toNat n) (decide (a.toNat % n ≠ 0)) (decide (n = 16)) .plain = .ok t1 l ∧
    t1.bankIf c fp = .ok t2 () ∧ t2.loadData c a l n = .ok v bs

/-- A store of `n` bytes at `a` reaches the pieces `l`, and `v` is the state before it commits. -/
def Sys2Proof.Safety.Reaches (t : State) (c : Nat) (a : Word) (n : Nat) (fp : Bool) (v : State) (l : List (Tr × Nat)) : Prop :=
  (fp = true → t.fbit (POCKET_STAT.WLIVE c) = true) ∧
  ∃ t1, t.reachData c accStore (pagePieces a.toNat n) (decide (a.toNat % n ≠ 0)) (decide (16 ≤ n)) .plain = .ok t1 l ∧
    t1.bankIf c fp = .ok v ()

/-- From `s`, whose fetch leaves `t`, the instruction commits with its context as `x`, and `eff` happens at the commit and is
all that it does beside. -/
def Sys2Proof.Safety.Effects (i : Instr) (s v : State) (c : Nat) (x : Ctx) (eff : State → State) : Prop :=
  ∃ w, Commits v w c x ((s.ctx c).pc + 4) ∧ exec i s = .next (eff w)

/-- What happens at the commit is that the store of `bs` to the pieces `l` enters the pair's store buffer or the device
queue. -/
def Sys2Proof.Safety.StoresTo (i : Instr) (s v : State) (c : Nat) (x : Ctx) (l : List (Tr × Nat)) (bs : List Byte)
    (st64 : Bool) : Prop :=
  Effects i s v c x fun w => w.storeData c l bs st64 st64

/-- R103, R104, R134: every load writes its register from the bytes at the effective address, and its base register in
the modifying modes; LEA writes the address without an access. -/
def Obligations.LoadResults : Prop :=
  ∀ (s t v : State) (c : Nat) (f : MFmt) (bs : List Byte), Starts s c 4 false t → NotStepped v c → NotStepped t c →
    let ea := eaOf t c f
    let wb (n : Nat) : Ctx := writtenBack v c f n (ea n)
    let num := leNat bs
    (FormOk f true →
      (Loads t c (ea 1) 1 false v bs →
        Completes (.ldb c f) s v c ((wb 1).writeG f.rt.toNat ((BitVec.ofNat 8 num).signExtend 64)) ∧
        Completes (.ldbu c f) s v c ((wb 1).writeG f.rt.toNat (BitVec.ofNat 64 num))) ∧
      (Loads t c (ea 2) 2 false v bs →
        Completes (.ldh c f) s v c ((wb 2).writeG f.rt.toNat ((BitVec.ofNat 16 num).signExtend 64)) ∧
        Completes (.ldhu c f) s v c ((wb 2).writeG f.rt.toNat (BitVec.ofNat 64 num))) ∧
      (Loads t c (ea 4) 4 false v bs →
        Completes (.ldw c f) s v c ((wb 4).writeG f.rt.toNat ((BitVec.ofNat 32 num).signExtend 64)) ∧
        Completes (.ldwu c f) s v c ((wb 4).writeG f.rt.toNat (BitVec.ofNat 64 num))) ∧
      (Loads t c (ea 8) 8 false v bs →
        Completes (.ldd c f) s v c ((wb 8).writeG f.rt.toNat (BitVec.ofNat 64 num))) ∧
      (Loads t c (ea 16) 16 false v bs → f.rt.toNat % 2 = 0 → (2 ≤ f.mode.toNat → f.rt + 1 ≠ f.ra) →
        Completes (.ldp c f) s v c (((wb 16).writeG f.rt.toNat (BitVec.ofNat 64 (leNat (bs.take 8)))).writeG
          (f.rt + 1).toNat (BitVec.ofNat 64 (leNat (bs.drop 8))))) ∧
      (Loads t c (ea 16) 16 false v bs → f.rt.toNat % 2 = 0 → 2 ≤ f.mode.toNat → f.rt + 1 = f.ra →
        ∃ free, Completes (.ldp c f) s v c (((wb 16).writeG f.rt.toNat (BitVec.ofNat 64 (leNat (bs.take 8)))).writeG
          f.ra.toNat free))) ∧
    (FormOk f false →
      (Loads t c (ea 4) 4 true v bs →
        Completes (.flds c f) s v c ((wb 4).writeF f.rt.toNat (BitVec.ofNat 64 num))) ∧
      (Loads t c (ea 8) 8 true v bs →
        Completes (.fldd c f) s v c ((wb 8).writeF f.rt.toNat (BitVec.ofNat 64 num)))) ∧
    (FormOk f false → f.mode.toNat < 2 → WritesG (.lea c f) s t c f.rt (ea 1))

/-- R103, R104, R134, R282: every store commits, with its base register written in the modifying modes, and the store of the
low bytes of its registers, little-endian, at the effective address is posted; nothing else changes. -/
def Sys2Proof.Safety.StoreResults : Prop :=
  ∀ (s t v : State) (c : Nat) (f : MFmt) (l : List (Tr × Nat)), Starts s c 4 false t → NotStepped v c → FormOk f false →
    let ea := eaOf t c f
    let wb (n : Nat) : Ctx := writtenBack v c f n (ea n)
    let low (n : Nat) : List Byte := leBytes n (v.g c f.rt).toNat
    (Reaches t c (ea 1) 1 false v l → StoresTo (.stb c f) s v c (wb 1) l (low 1) false) ∧
    (Reaches t c (ea 2) 2 false v l → StoresTo (.sth c f) s v c (wb 2) l (low 2) false) ∧
    (Reaches t c (ea 4) 4 false v l → StoresTo (.stw c f) s v c (wb 4) l (low 4) false) ∧
    (Reaches t c (ea 8) 8 false v l → StoresTo (.std c f) s v c (wb 8) l (low 8) false) ∧
    (Reaches t c (ea 16) 16 false v l → f.rt.toNat % 2 = 0 →
      StoresTo (.stp c f) s v c (wb 16) l (low 8 ++ leBytes 8 (v.g c (f.rt + 1)).toNat) false) ∧
    (Reaches t c (ea 4) 4 true v l → StoresTo (.fsts c f) s v c (wb 4) l (leBytes 4 (v.fr c f.rt).toNat) false) ∧
    (Reaches t c (ea 8) 8 true v l → StoresTo (.fstd c f) s v c (wb 8) l (leBytes 8 (v.fr c f.rt).toNat) false) ∧
    (Reaches t c (ea 64) 64 false v l → f.mode = 0 → f.rt.toNat = 8 ∨ f.rt.toNat = 16 ∨ f.rt.toNat = 24 →
      StoresTo (.st64 c f) s v c (v.ctx c) l
        ((List.range 8).flatMap fun k => leBytes 8 ((v.ctx c).readG (f.rt.toNat + k)).toNat) true)

/-- The store of piece `x` as the pair's store buffer holds it. -/
def Sys2Proof.Safety.heldStore (c : Nat) (x : Tr) (bs : List Byte) (whole : Bool) : MemStore :=
  { ctx := c, mp := x.mp, bytes := bs, uncached := x.attr != 0, whole := whole }

/-- R282, R283: a store to memory that has committed waits in its pair's store buffer, behind those before it; a store to
device memory waits in the device queue; nothing else changes. A load of the same context that finds its bytes in the buffer
returns them. The oldest store of a buffer is performed by a write of its bytes. -/
def Sys2Proof.Safety.StoresWait : Prop :=
  ∀ (s : State) (c : Nat) (x : Tr) (bs : List Byte) (whole st64 : Bool),
    let p := s.agentOf c
    ((spaceOf x.mp).device = false →
      let u := s.storeData c [(x, bs.length)] bs whole st64
      u.sbufOf p = s.sbufOf p ++ [heldStore c x bs whole] ∧ (∀ q, q ≠ p → u.sbufOf q = s.sbufOf q) ∧
      u = { s with mem := { s.mem with sbuf := u.mem.sbuf } } ∧
      (bs ≠ [] → u.memRead c x.mp bs.length (x.attr != 0) = (u, bs, false))) ∧
    ((spaceOf x.mp).device = true →
      s.storeData c [(x, bs.length)] bs whole st64 =
        { s with core := { s.core with devq := s.core.devq ++ [{ ctx := c, mp := x.mp, bytes := bs, st64 := st64 }] } }) ∧
    (∀ m rest, s.sbufOf p = m :: rest →
      s.sbPerform p 1 = (s.setSbuf p rest).ctxWrite m.ctx m.mp m.bytes m.uncached m.whole)

/-- The pair of context `c` holds sector `sec` in M and may write it at once: the home lists it, no home transaction of it is
open, it is not on its way out, its L2 set has room for the line and is not being drained, and the pair's dirty sectors stay
within the limits of R253 and R293. -/
structure Sys2Proof.Safety.HoldsModified (s : State) (c sec : Nat) : Prop where
  pair : s.agentOf c < 48
  entry : s.dirOf sec = { owner := some (s.agentOf c), st := .m, sharers := [] }
  listed : (AMap.get [] s.mem.dirOrder (s.homeKey sec)).contains sec = true
  idle : s.txnOf sec = none
  staying : ∀ e ∈ s.evictOf (s.agentOf c), e.1 ≠ sec
  served : ∀ a, a / 64 = sec → s.served a = true
  reach : ∀ a, a / 64 = sec → s.mayReach (s.partOf c) a = true
  room : (sec / 2 :: (AMap.get [] s.mem.l2sets (l2Key (s.agentOf c) sec)).filter (· ≠ sec / 2)).length ≤ 16
  dirty : ((AMap.get [] s.mem.dirty (s.agentOf c)).filter (· ≠ sec)).length < s.dlim (s.agentOf c)
  windows : ((AMap.get [] s.mem.dirty (s.agentOf c)).filter fun x => x ≠ sec ∧ spaceOf (x * 64) = .window).length < 256
  on : s.l2st (s.agentOf c) = 1

/-- R256, R281: a store is performed, and a load, by a pair that holds the sector in M. The store writes its bytes and no other
byte of memory, and no poison; the load, with nothing waiting to be performed, reads the current bytes and changes no byte. -/
def Sys2Proof.Safety.StoreAndLoadInModifiedSector : Prop :=
  ∀ (s : State) (c mp : Nat) (x : Tr) (bs : List Byte), x.mp = mp → x.attr = 0 → bs ≠ [] →
    mp % 64 + bs.length ≤ 64 → spaceOf mp = .dram ∨ spaceOf mp = .window → HoldsModified s c (mp / 64) →
    (let u := s.ctxWrite c mp bs false false
     (∀ k, k < bs.length → u.cur8 (mp + k) = bs.getD k 0) ∧
     (∀ a, a < mp ∨ mp + bs.length ≤ a → u.cur8 a = s.cur8 a) ∧
     (∀ sec, u.curPois sec = s.curPois sec) ∧
     u.ctxs = s.ctxs) ∧
    (∀ va n, 0 < n → mp % 64 + n ≤ 64 → s.curPois (mp / 64) = false → s.mem.sbuf = [] → s.core.devq = [] →
      s.canRun c = true →
      ∃ u, s.loadData c va [(x, n)] n = .ok u (s.curBytes mp n) ∧ (∀ a, u.cur8 a = s.cur8 a) ∧ u.ctxs = s.ctxs)

/-- Together: stores, the store buffer and the device queue, and a store and a load in a held sector. -/
def Obligations.StoreAndLoadResults : Prop :=
  StoreResults ∧ StoresWait ∧ StoreAndLoadInModifiedSector

/-- R131, R180: the atomics, once their own context's waiting stores are performed, read the old value, write it zero-extended
to rd, and store the new value at their commit; CAS with another value stores nothing. -/
def Sys2Proof.Safety.AtomicOperations : Prop :=
  ∀ (s t t1 v : State) (c : Nat) (dword : Bool) (f : RFmt) (l : List (Tr × Nat)) (bs : List Byte),
    Starts s c 4 false t → NotStepped v c → f.rc = 0 → f.rd ≠ f.ra →
    let n := if dword then 8 else 4
    let a := t.g c f.ra
    let cut (w : Word) : Nat := w.toNat % 2 ^ (8 * n)
    let old := leNat bs
    let b := cut (v.g c f.rb)
    let x := (v.ctx c).writeG f.rd.toNat (BitVec.ofNat 64 old)
    let stores (i : Instr) (new : Nat) : Prop := Effects i s v c x fun w => w.storeNow c l (leBytes n new)
    t.reachData c accAtomic (pagePieces a.toNat n) (decide (a.toNat % n ≠ 0)) true .block = .ok t1 l →
    (t1.sbOwn c).loadData c a l n = .ok v bs →
    (old = cut (v.g c f.rd) → stores (.cas c dword f) b) ∧
    (old ≠ cut (v.g c f.rd) → Completes (.cas c dword f) s v c x) ∧
    stores (.swp c dword f) b ∧
    stores (.ldadd c dword f) (old + b) ∧
    stores (.ldand c dword f) (old &&& b) ∧
    stores (.ldor c dword f) (old ||| b) ∧
    stores (.ldxor c dword f) (old ^^^ b)

/-- R105, R121, R219: a load or a store whose access is not allowed takes the exception of the access and writes nothing; a
floating one raises LAZY first while the wide part is not live. -/
def Sys2Proof.Safety.AccessExceptions : Prop :=
  ∀ (s t v : State) (c : Nat) (f : MFmt) (e : Exc), Starts s c 4 false t →
    let faults (acc : Acc) (n : Nat) (strict : Bool) : Prop :=
      t.reachData c acc (pagePieces (eaOf t c f n).toNat n) (decide ((eaOf t c f n).toNat % n ≠ 0)) strict .plain = .exc v e
    (FormOk f true → ∀ p ∈ [(Instr.ldb c f, 0x18, 1), (.ldbu c f, 0x19, 1), (.ldh c f, 0x1A, 2), (.ldhu c f, 0x1B, 2),
        (.ldw c f, 0x1C, 4), (.ldwu c f, 0x1D, 4), (.ldd c f, 0x1E, 8)],
      faults accLoad p.2.2 false → Raises p.1 s v c (wordM p.2.1 f) e) ∧
    (FormOk f false → ∀ p ∈ [(Instr.stb c f, 0x20, 1), (.sth c f, 0x21, 2), (.stw c f, 0x22, 4), (.std c f, 0x23, 8)],
      faults accStore p.2.2 false → Raises p.1 s v c (wordM p.2.1 f) e) ∧
    (FormOk f true → f.rt.toNat % 2 = 0 → faults accLoad 16 true → Raises (.ldp c f) s v c (wordM 0x1F f) e) ∧
    (FormOk f false → f.rt.toNat % 2 = 0 → faults accStore 16 true → Raises (.stp c f) s v c (wordM 0x24 f) e) ∧
    (f.mode = 0 → f.rt.toNat = 8 ∨ f.rt.toNat = 16 ∨ f.rt.toNat = 24 → faults accStore 64 true →
      Raises (.st64 c f) s v c (wordM 0x2A f) e) ∧
    (FormOk f false → ∀ p ∈ [(Instr.flds c f, 0x25, 4, accLoad), (.fldd c f, 0x26, 8, accLoad), (.fsts c f, 0x27, 4, accStore),
        (.fstd c f, 0x28, 8, accStore)],
      (t.fbit (POCKET_STAT.WLIVE c) = true → faults p.2.2.2 p.2.2.1 false → Raises p.1 s v c (wordM p.2.1 f) e) ∧
      (t.fbit (POCKET_STAT.WLIVE c) = false → Raises p.1 s t c (wordM p.2.1 f) { code := 0x12 }))

/-- R102, R104, R131: a memory instruction, an atomic or a block instruction in a form that the specification does not allow
raises UNDEF. -/
def Sys2Proof.Safety.ReservedMemoryForms : Prop :=
  ∀ (s t : State) (c : Nat), Starts s c 4 false t →
    let undef (i : Instr) (insn : Nat) : Prop := Raises i s t c insn { code := 0x06 }
    (∀ f : MFmt,
      (¬ FormOk f true → ∀ p ∈ [(Instr.ldb c f, 0x18), (.ldbu c f, 0x19), (.ldh c f, 0x1A), (.ldhu c f, 0x1B), (.ldw c f, 0x1C),
          (.ldwu c f, 0x1D), (.ldd c f, 0x1E), (.ldp c f, 0x1F)], undef p.1 (wordM p.2 f)) ∧
      (¬ FormOk f false → ∀ p ∈ [(Instr.stb c f, 0x20), (.sth c f, 0x21), (.stw c f, 0x22), (.std c f, 0x23), (.stp c f, 0x24),
          (.flds c f, 0x25), (.fldd c f, 0x26), (.fsts c f, 0x27), (.fstd c f, 0x28), (.lea c f, 0x29)],
          undef p.1 (wordM p.2 f)) ∧
      (f.rt.toNat % 2 = 1 → undef (.ldp c f) (wordM 0x1F f) ∧ undef (.stp c f) (wordM 0x24 f)) ∧
      (2 ≤ f.mode.toNat → undef (.lea c f) (wordM 0x29 f)) ∧
      (f.mode ≠ 0 ∨ ¬ (f.rt.toNat = 8 ∨ f.rt.toNat = 16 ∨ f.rt.toNat = 24) → undef (.st64 c f) (wordM 0x2A f))) ∧
    (∀ (dword : Bool) (f : RFmt),
      let func (k : Nat) : Nat := if dword then k + 1 else k
      (f.rd = f.ra ∨ f.rc ≠ 0 → ∀ p ∈ [(Instr.cas c dword f, 0x00), (.swp c dword f, 0x02), (.ldadd c dword f, 0x04),
          (.ldand c dword f, 0x06), (.ldor c dword f, 0x08), (.ldxor c dword f, 0x0A)], undef p.1 (wordR 0x06 (func p.2) f)) ∧
      (f.rd ≠ 0 ∨ f.ra = 0 ∨ f.rb = 0 ∨ f.rc = 0 ∨ f.ra = f.rb ∨ f.ra = f.rc ∨ f.rb = f.rc →
        undef (.movblk c ⟨dword, f⟩) (wordR 0x06 (func 0x10) f) ∧ undef (.fillblk c ⟨dword, f⟩) (wordR 0x06 (func 0x12) f)))

/-- Together: atomics; accesses that are not allowed, and reserved forms. -/
def Obligations.AtomicResults : Prop :=
  AtomicOperations ∧ AccessExceptions ∧ ReservedMemoryForms

/-- Context `c` is `x` but for PC, which is `pc`, CYC and the abandonment entries that a commit clears. -/
def Sys2Proof.Safety.CtxIs (u : State) (c : Nat) (x : Ctx) (pc : Word) : Prop :=
  u.ctx c = { x with pc := pc, cyc := (u.ctx c).cyc, abandonLow := (u.ctx c).abandonLow, abandonS := (u.ctx c).abandonS }

/-- R120, R131: MOVBLK and FILLBLK move a unit of `k` bytes, 1 to the rest (its size is the free value of log entry 30):
addresses up, count down, PC on the instruction until the last unit; with nothing left they complete. Bit 0 of their function
code selects nothing in them (the model's reading, log entry 40). -/
def Obligations.BlockUnits : Prop :=
  ∀ (s t : State) (c : Nat) (dword : Bool) (f : RFmt), Starts s c 4 false t → NotStepped t c →
    f.rd = 0 → f.ra ≠ 0 → f.rb ≠ 0 → f.rc ≠ 0 → f.ra ≠ f.rb → f.ra ≠ f.rc → f.rb ≠ f.rc →
    let n := (t.g c f.rc).toNat
    let a := t.g c f.ra
    let b := t.g c f.rb
    (n = 0 → Completes (.movblk c ⟨dword, f⟩) s t c (t.ctx c) ∧ Completes (.fillblk c ⟨dword, f⟩) s t c (t.ctx c)) ∧
    (0 < n → ∃ k, 1 ≤ k ∧ k ≤ n ∧
      (∀ (t1 t2 t3 : State) (src dst : List (Tr × Nat)) (bs : List Byte),
        ({ t with fresh := t.fresh + 1 } : State).reachData c accLoad (pagePieces b.toNat k) false false .block = .ok t1 src →
        t1.reachData c accStore (pagePieces a.toNat k) false false .block = .ok t2 dst →
        t2.loadData c b src k = .ok t3 bs →
        ∃ u, exec (.movblk c ⟨dword, f⟩) s = .next u ∧
          let w := t3.copyBytes c src dst
          u.mem = w.mem ∧ (∀ d, d ≠ c → u.ctx d = w.ctx d) ∧
          CtxIs u c ((((w.ctx c).writeG f.ra.toNat (a + BitVec.ofNat 64 k)).writeG f.rb.toNat (b + BitVec.ofNat 64 k)).writeG
            f.rc.toNat (BitVec.ofNat 64 (n - k))) (if k = n then (s.ctx c).pc + 4 else (s.ctx c).pc)) ∧
      (∀ (t1 : State) (dst : List (Tr × Nat)),
        ({ t with fresh := t.fresh + 1 } : State).reachData c accStore (pagePieces a.toNat k) false false .block = .ok t1 dst →
        (t1.ctx c).readG f.rb.toNat = b →
        ∃ u, exec (.fillblk c ⟨dword, f⟩) s = .next u ∧
          let w := t1.storeData c dst (List.replicate k (b.setWidth 8)) true false
          u.mem = w.mem ∧ (∀ d, d ≠ c → u.ctx d = w.ctx d) ∧
          CtxIs u c (((w.ctx c).writeG f.ra.toNat (a + BitVec.ofNat 64 k)).writeG f.rc.toNat (BitVec.ofNat 64 (n - k)))
            (if k = n then (s.ctx c).pc + 4 else (s.ctx c).pc)))

/-! ### Exceptions, system instructions -/

/-- The status of R118 step 3: PL is `l`, EX is 1, IE, SS and CLS are 0, every other bit is kept. -/
def Sys2Proof.Safety.EntryStatus (old new : Word) (l : Nat) : Prop :=
  ∀ k, k < 64 → stBit new k =
    (if k = 14 then true else if k = 12 ∨ k = 13 ∨ k = 15 then false
     else if k = 8 then decide (l = 1) else if k = 9 then decide (l = 2) else stBit old k)

/-- CAUSE of R123 for exception `e` of the instruction word `insn`. -/
def Sys2Proof.Safety.CauseOf (e : Exc) (insn : Nat) (w : Word) : Prop :=
  w.toNat % 2 ^ 8 = e.code % 2 ^ 8 ∧ w.toNat / 2 ^ 8 % 2 ^ 8 = e.detail % 2 ^ 8 ∧ w.getLsbD 16 = e.fetch ∧
  w.getLsbD 17 = e.write ∧ w.getLsbD 18 = e.stage2 ∧ w.getLsbD 19 = e.s1walk ∧
  w.toNat / 2 ^ 20 % 2 ^ 4 = e.lvl % 2 ^ 4 ∧ w.toNat / 2 ^ 24 % 2 ^ 8 = 0 ∧ w.toNat / 2 ^ 32 = insn % 2 ^ 32

/-- R117, R118, R123: entering an exception. At S in a partition context, at F in a firmware context: RPC, RST, CAUSE and
FADDR are saved, ST changes, PC goes to VBAR + code × 64, and nothing else changes; FADDR is the exception's address where
it has one, and free where it has none. -/
def Obligations.ExceptionEntry : Prop :=
  ∀ (s : State) (c : Nat) (e : Exc) (insn : Nat) (rpc pc : Word),
    let x := s.ctx c
    let u := s.takeExc c e insn rpc pc
    (isFw c = false → (stBit x.st ST.ex = false ∨ stPL x.st = 0) →
      e.code ≠ 0x04 → e.code ≠ 0x09 → e.code ≠ 0x11 → e.code ≠ 0x13 →
      ∃ cause fa st, CauseOf e insn cause ∧ (∀ a, e.faddr = some a → fa = a) ∧ EntryStatus x.st st 1 ∧
        u = { s.setCtx c { x with sr := { x.sr with rpc := rpc, rst := x.st, cause := cause, faddr := fa },
                                  st := st, pc := x.sr.vbar + BitVec.ofNat 64 (e.code * 64) } with fresh := u.fresh }) ∧
    (isFw c = true → (stBit x.st ST.ex = false ∨ e.code = 0x0F) →
      ∃ cause fa st, CauseOf e insn cause ∧ (∀ a, e.faddr = some a → fa = a) ∧ EntryStatus x.st st 2 ∧
        u = { s.setCtx c { x with fr := { x.fr with rpc := rpc, rst := x.st, cause := cause, faddr := fa },
                                  st := st, pc := x.fr.vbar + BitVec.ofNat 64 (e.code * 64) } with fresh := u.fresh })

/-- R117, R119, R124, R217: the exceptions that stop a partition context for its firmware: STAGE2, FWC, SPILL and DOUBLE
themselves, and at S with EX = 1 MCHK as itself and any other as DOUBLE. The Pocket is STOPPED with FWHOLD, PC and ST are
kept, the stop waits last in the slot's queue with the context's own code, and a BLOCKED firmware Pocket becomes READY. A
double fault of a firmware context stops its Pocket and starts the fault state. -/
def Sys2Proof.Safety.StopsForFirmware : Prop :=
  ∀ (s : State) (c : Nat) (e : Exc) (insn : Nat) (rpc pc : Word),
    let x := s.ctx c
    let u := s.takeExc c e insn rpc pc
    let stopped (code : Nat) (at_ : Word) : Prop :=
      u.pk c = 1 ∧ u.fget (POCKET_STAT.FWHOLD c) = 1 ∧ u.ctx c = { x with pc := at_ } ∧ u.mem = s.mem ∧
      (∃ p : PartxEntry, u.partxOf (slotOf c) = s.partxOf (slotOf c) ++ [p] ∧ p.ctx = c ∧ p.cause.toNat % 2 ^ 8 = code ∧
        (∀ a, e.faddr = some a → p.faddr = a) ∧ (∀ a, e.fpr = some a → p.fpr = a)) ∧
      (s.pk (fwOf (slotOf c)) = 2 → u.pk (fwOf (slotOf c)) = 3)
    (isFw c = false → e.code = 0x04 ∨ e.code = 0x09 ∨ e.code = 0x11 ∨ e.code = 0x13 → stopped e.code rpc) ∧
    (isFw c = false → stBit x.st ST.ex = true → stPL x.st ≠ 0 → e.code = 0x01 → stopped 0x01 rpc) ∧
    (isFw c = false → stBit x.st ST.ex = true → stPL x.st ≠ 0 →
      e.code ∉ [0x01, 0x04, 0x09, 0x11, 0x13] → stopped 0x13 pc) ∧
    (isFw c = true → stBit x.st ST.ex = true → e.code ≠ 0x0F →
      u.pk c = 1 ∧ u.fget (POCKET_STAT.FWHOLD c) = 1 ∧ u.fget FAULT_STAT.FSTATE = 1)

/-- R120, R183, R217: an allowed interrupt, and a waiting PARTX of the firmware context, taken at a commit point. -/
def Sys2Proof.Safety.InterruptAndPartxEntry : Prop :=
  ∀ (s : State) (c : Nat), s.canRun c = true →
    (s.intrDue c = true → isFw c = false →
      ∃ u cause fa st, exec (.interruptEntry c) s = .next u ∧ cause = BitVec.ofNat 64 0x0F ∧
        EntryStatus (s.ctx c).st st 1 ∧ u.mem = s.mem ∧ u.fields = s.fields ∧ (∀ d, d ≠ c → u.ctx d = s.ctx d) ∧
        CtxIs u c { s.ctx c with sr := { (s.ctx c).sr with rpc := (s.ctx c).pc, rst := (s.ctx c).st, cause := cause, faddr := fa }, st := st }
          ((s.ctx c).sr.vbar + 0x3C0)) ∧
    (s.intrDue c = true → isFw c = true →
      ∃ u cause fa st, exec (.interruptEntry c) s = .next u ∧ cause = BitVec.ofNat 64 0x0F ∧
        EntryStatus (s.ctx c).st st 2 ∧ u.mem = s.mem ∧ u.fields = s.fields ∧ (∀ d, d ≠ c → u.ctx d = s.ctx d) ∧
        CtxIs u c { s.ctx c with fr := { (s.ctx c).fr with rpc := (s.ctx c).pc, rst := (s.ctx c).st, cause := cause, faddr := fa }, st := st }
          ((s.ctx c).fr.vbar + 0x3C0)) ∧
    (∀ p rest, s.partxDue c = true → s.partxOf (slotOf c) = p :: rest →
      ∃ u st, exec (.partxEntry c) s = .next u ∧ EntryStatus (s.ctx c).st st 2 ∧ u.partxOf (slotOf c) = rest ∧
        u.mem = s.mem ∧ u.fields = s.fields ∧ (∀ d, d ≠ c → u.ctx d = s.ctx d) ∧
        u.ctx c = { s.ctx c with
          fr := { (s.ctx c).fr with rpc := (s.ctx c).pc, rst := (s.ctx c).st, cause := p.cause, faddr := p.faddr,
                                    fpr := p.fpr, ctx := BitVec.ofNat 64 p.ctx }
          st := st, pc := (s.ctx c).fr.vbar + 0x400 })

/-- Together: stops for the firmware, double faults, interrupts and PARTX. -/
def Obligations.StopsAndInterrupts : Prop :=
  StopsForFirmware ∧ InterruptAndPartxEntry

/-- The value of system register `n` of context `c` (R97, R98, R100), TOD apart; none where the number is not listed. -/
def Sys2Proof.Safety.sysValue (t : State) (c : Nat) (n : Nat) : Option Word :=
  let x := t.ctx c
  match n with
  | 0x000 => some x.st
  | 0x001 => some x.fcsr
  | 0x002 => some x.dcr
  | 0x003 => some x.cyc
  | 0x005 => some (BitVec.ofNat 64 (c % 1024 + (t.partOf c).getD 0 % 256 * 2 ^ 16 + (if c % 16 = 15 then 2 ^ 24 else 0)))
  | 0x010 => some x.sr.vbar | 0x011 => some x.sr.rpc | 0x012 => some x.sr.rst | 0x013 => some x.sr.cause
  | 0x014 => some x.sr.faddr | 0x015 => some x.sr.scr0 | 0x016 => some x.sr.scr1 | 0x018 => some x.sr.root
  | 0x020 => some x.fr.vbar | 0x021 => some x.fr.rpc | 0x022 => some x.fr.rst | 0x023 => some x.fr.cause
  | 0x024 => some x.fr.faddr | 0x025 => some x.fr.scr0 | 0x026 => some x.fr.scr1 | 0x027 => some x.fr.fpr
  | 0x028 => some x.fr.ctx | 0x029 => some x.fr.root
  | _ => none

/-- The context after a write of `w` to system register `n` at level `l` (R97, R98, R100, R108, R123): reserved bits stay 0,
read-only registers and fields keep their value. -/
def Sys2Proof.Safety.sysWritten (x : Ctx) (n l : Nat) (w : Word) : Ctx :=
  let keep (old : Word) (m : Word) : Word := (old &&& ~~~m) ||| (w &&& m)
  match n with
  | 0x000 => { x with st := keep x.st (if l = 0 then 0x1F else 0x701F) }
  | 0x001 => { x with fcsr := w &&& 0x1F1F07 }
  | 0x002 => { x with dcr := w &&& 1 }
  | 0x010 => { x with sr := { x.sr with vbar := w &&& 0xFFFFFFFFFFFFF000 } }
  | 0x011 => { x with sr := { x.sr with rpc := w } }
  | 0x012 => { x with sr := { x.sr with rst := w &&& 0xF31F } }
  | 0x013 => { x with sr := { x.sr with cause := w &&& 0xFFFFFFFF00FFFFFF } }
  | 0x014 => { x with sr := { x.sr with faddr := w } }
  | 0x015 => { x with sr := { x.sr with scr0 := w } }
  | 0x016 => { x with sr := { x.sr with scr1 := w } }
  | 0x018 => { x with sr := { x.sr with root := w &&& 0xFFFF3FFFFFFFF001 } }
  | 0x020 => { x with fr := { x.fr with vbar := w &&& 0xFFFFFFFFFFFFF000 } }
  | 0x021 => { x with fr := { x.fr with rpc := w } }
  | 0x022 => { x with fr := { x.fr with rst := w &&& 0xF31F } }
  | 0x023 => { x with fr := { x.fr with cause := w &&& 0xFFFFFFFF00FFFFFF } }
  | 0x024 => { x with fr := { x.fr with faddr := w } }
  | 0x025 => { x with fr := { x.fr with scr0 := w } }
  | 0x026 => { x with fr := { x.fr with scr1 := w } }
  | 0x027 => { x with fr := { x.fr with fpr := w } }
  | 0x029 => { x with fr := { x.fr with root := w &&& 0x000FFFFFFFFFF001 } }
  | _ => x

/-- The level a system register needs (R100). -/
def Sys2Proof.Safety.sysNeeds (n : Nat) : Nat := if n < 0x010 then 0 else if n < 0x020 then 1 else 2

/-- R97, R98, R99, R100: MFSR and MTSR of every listed register; a number not listed raises UNDEF, one above the level
raises PRIV with detail 0x02. -/
def Sys2Proof.Safety.SystemRegisterAccess : Prop :=
  ∀ (s t v : State) (c : Nat) (f : SFmt), Starts s c 4 false t → NotStepped v c →
    let n := f.imm.toNat
    t.wideIf c (n == 1 || n == 2) = .ok v () →
    (∀ w, sysValue v c n = some w → sysNeeds n ≤ t.level c →
      (f.ra = 0 → WritesG (.mfsr c f) s v c f.rd w) ∧
      (f.rd = 0 → Completes (.mtsr c f) s v c (sysWritten (v.ctx c) n (t.level c) (v.g c f.ra)))) ∧
    (n = 4 → f.ra = 0 → ∃ u, exec (.mfsr c f) s = .next u ∧ u.mem = t.mem ∧
      CtxIs u c ((t.ctx c).writeG f.rd.toNat (BitVec.ofNat 64 u.tod)) ((s.ctx c).pc + 4)) ∧
    (n = 4 → f.rd = 0 → Completes (.mtsr c f) s t c (t.ctx c)) ∧
    (n ≠ 4 → sysValue t c n = none →
      (f.ra = 0 → Raises (.mfsr c f) s t c (wordS 0x01 f) { code := 0x06 }) ∧
      (f.rd = 0 → Raises (.mtsr c f) s t c (wordS 0x02 f) { code := 0x06 })) ∧
    (∀ w, sysValue t c n = some w → t.level c < sysNeeds n →
      (f.ra = 0 → Raises (.mfsr c f) s t c (wordS 0x01 f) { code := 0x07, detail := 0x02 }) ∧
      (f.rd = 0 → Raises (.mtsr c f) s t c (wordS 0x02 f) { code := 0x07, detail := 0x02 }))

/-- R117, R122, R132: NOP and ISYNC complete and change nothing; SVC and FWC take their exception with the next
instruction in RPC, BRK with its own; RFE returns by the saved PC and status, and refuses a saved level above S. -/
def Sys2Proof.Safety.SystemInstructionResults : Prop :=
  ∀ (s t : State) (c : Nat) (f : SFmt), Starts s c 4 false t → NotStepped t c →
    let none3 : Prop := f.rd = 0 ∧ f.ra = 0 ∧ f.imm = 0
    let x := t.ctx c
    (none3 → Completes (.nop c f) s t c x ∧ Completes (.isync c f) s t c x ∧
      Raises (.brk c f) s t c (wordS 0x06 f) { code := 0x0D }) ∧
    (f.rd = 0 → f.ra = 0 →
      RaisesAfter (.svc c f) s t c (wordS 0x03 f) x ((s.ctx c).pc + 4) { code := 0x08, detail := f.imm.toNat % 256 }) ∧
    (none3 → 1 ≤ t.level c →
      RaisesAfter (.fwc c f) s t c (wordS 0x04 f) x ((s.ctx c).pc + 4) { code := 0x09 }) ∧
    (none3 → t.level c = 0 →
      Raises (.fwc c f) s t c (wordS 0x04 f) { code := 0x07, detail := 0x01 } ∧
      Raises (.rfe c f) s t c (wordS 0x05 f) { code := 0x07, detail := 0x01 }) ∧
    (none3 → t.level c = 1 → stPL x.sr.rst < 2 → x.sr.rpc.toNat % 4 = 0 → stBit x.sr.rst ST.cls = false →
      JumpsTo (.rfe c f) s t c { x with st := x.sr.rst } x.sr.rpc) ∧
    (none3 → t.level c = 1 → 2 ≤ stPL x.sr.rst → Raises (.rfe c f) s t c (wordS 0x05 f) { code := 0x07, detail := 0x03 }) ∧
    (none3 → isFw c = true → x.fr.rpc.toNat % 4 = 0 → stBit x.fr.rst ST.cls = false →
      JumpsTo (.rfe c f) s t c { x with st := (x.fr.rst &&& ~~~0x300) ||| 0x200 } x.fr.rpc)

/-- R132, R269, R287: BAR completes when the stores it waits for are performed: the context's own in the pair's store buffer, of
every scope; its posted stores to the die's WEFT block or all of them, of cluster and system scope. With none of them waiting it
changes nothing. -/
def Sys2Proof.Safety.BarrierResults : Prop :=
  ∀ (s t : State) (c : Nat) (f : SFmt), Starts s c 4 false t → f.rd = 0 → f.ra = 0 → f.imm.toNat ≤ 2 →
    let v := t.barrier c f.imm.toNat
    let own := t.sbOwn c
    (v.canRun c = true → NotStepped v c → ∃ u, exec (.bar c f) s = .next u ∧ Commits v u c (v.ctx c) ((s.ctx c).pc + 4)) ∧
    (v.canRun c = false → exec (.bar c f) s = .next v) ∧
    (f.imm = 0 → v = own) ∧
    (f.imm = 1 → v = own.devOwn c fun b => b == 0x300000 + own.agentOf c / 12 * 0x40000) ∧
    (f.imm = 2 → v = own.devOwn c fun _ => true) ∧
    ((∀ m ∈ t.sbufOf (t.agentOf c), m.ctx ≠ c) → (∀ d ∈ t.core.devq, d.ctx ≠ c) → v = t)

/-- R102, R132: the system instructions with a field that they do not use, or a number that they do not define, raise UNDEF. -/
def Sys2Proof.Safety.ReservedSystemForms : Prop :=
  ∀ (s t : State) (c : Nat) (f : SFmt), Starts s c 4 false t →
    let undef (i : Instr) (sub : Nat) : Prop := Raises i s t c (wordS sub f) { code := 0x06 }
    (f.rd ≠ 0 ∨ f.ra ≠ 0 ∨ f.imm ≠ 0 → undef (.nop c f) 0x00 ∧ undef (.fwc c f) 0x04 ∧ undef (.rfe c f) 0x05 ∧
      undef (.brk c f) 0x06 ∧ undef (.persist c f) 0x08 ∧ undef (.isync c f) 0x09 ∧
      undef (.wfe c f) 0x0A) ∧
    (f.ra ≠ 0 → undef (.mfsr c f) 0x01) ∧
    (f.rd ≠ 0 → undef (.mtsr c f) 0x02 ∧ undef (.tlbi c f) 0x0B ∧ undef (.cclean c f) 0x0D ∧ undef (.cflush c f) 0x0E ∧
      undef (.cinv c f) 0x0F ∧ undef (.pref c f) 0x10) ∧
    (f.rd ≠ 0 ∨ f.ra ≠ 0 → undef (.svc c f) 0x03 ∧ undef (.bar c f) 0x07) ∧
    (f.imm ≠ 0 → undef (.cclean c f) 0x0D ∧ undef (.cflush c f) 0x0E ∧ undef (.cinv c f) 0x0F ∧ undef (.csw c f) 0x11) ∧
    (2 ≤ f.imm.toNat → undef (.pref c f) 0x10 ∧ undef (.tlb2i c f) 0x0C) ∧
    (3 ≤ f.imm.toNat → undef (.tlbi c f) 0x0B ∧ undef (.bar c f) 0x07) ∧
    (f.imm = 2 → f.ra ≠ 0 → undef (.tlbi c f) 0x0B) ∧
    (f.imm = 1 → f.ra ≠ 0 → undef (.tlb2i c f) 0x0C)

/-- R115, R134, R216, R220, R269, R290, R293: TLBI and TLB2I, once every waiting store is performed, drop the translations they
name and no other; PERSIST makes the pair's window stores durable; WFE commits with the EVENT latch set, and BLOCKS the Pocket at itself without it; CSW enters
Classic mode; cache instructions leave device memory alone. -/
def Sys2Proof.Safety.InvalidateWaitAndSwitch : Prop :=
  ∀ (s t : State) (c : Nat) (f : SFmt), Starts s c 4 false t → NotStepped t c →
    let x := t.ctx c
    let a := (t.g c f.ra).toNat
    let pc4 := (s.ctx c).pc + 4
    (f.rd = 0 → f.imm.toNat ≤ 2 → (f.imm = 2 → f.ra = 0) → 1 ≤ t.level c →
      t.quiet.canRun c = true → NotStepped t.quiet c →
      ∃ v u, exec (.tlbi c f) s = .next u ∧ Commits v u c (t.quiet.ctx c) pc4 ∧
        v = { t.quiet with core := { t.quiet.core with tlb1 := v.core.tlb1 } } ∧
        (∀ e, e ∈ v.core.tlb1 ↔ e ∈ t.quiet.core.tlb1 ∧ ¬ (t.partOf c = some e.part ∧
          (f.imm = 0 → a / 2 ^ e.bits = e.va / 2 ^ e.bits) ∧ (f.imm = 1 → e.asid = a % 2 ^ 16)))) ∧
    (f.imm.toNat ≤ 1 → (f.imm = 1 → f.ra = 0) → isFw c = true →
      t.quiet.canRun c = true → NotStepped t.quiet c →
      ∃ v u, exec (.tlb2i c f) s = .next u ∧ Commits v u c (t.quiet.ctx c) pc4 ∧
        v = { t.quiet with core := { t.quiet.core with tlb2 := v.core.tlb2 } } ∧
        (∀ e, e ∈ v.core.tlb2 ↔ e ∈ t.quiet.core.tlb2 ∧ ¬ (e.part = (t.g c f.rd).toNat ∧
          (f.imm = 0 → a / 2 ^ e.bits = e.pr / 2 ^ e.bits)))) ∧
    (f.rd = 0 → f.ra = 0 → f.imm = 0 →
      (t.fget (POCKET_STAT.EVENT c) = 1 →
        ∃ u, exec (.wfe c f) s = .next u ∧ Commits (t.fset (POCKET_STAT.EVENT c) 0) u c x pc4) ∧
      (s.fget (POCKET_STAT.EVENT c) = 0 → t.fget (POCKET_STAT.EVENT c) = 0 →
        ∃ u, exec (.wfe c f) s = .next u ∧ u.ctxs = t.ctxs ∧ u.mem = t.mem ∧
          u.pk c = (if isFw c = true ∧ t.partxOf (slotOf c) ≠ [] then 3 else 2)) ∧
      (t.fget HEM_STAT.H0OK = 1 ∨ t.fget HEM_STAT.H1OK = 1 →
        (t.barrier c 2).canRun c = true →
        let p := t.agentOf c
        let v := ((t.barrier c 2).persistClean p).winDurable fun _ g => g == p + 1
        NotStepped v c →
        (∀ e ∈ v.mem.winPend, p + 1 ∉ e.2) ∧
        ∃ u, exec (.persist c f) s = .next u ∧ Commits v u c (v.ctx c) pc4)) ∧
    (f.imm = 0 →
      JumpsTo (.csw c f) s t c { x.writeG f.rd.toNat (x.pc + 4) with st := x.st ||| 0x8000 }
        (BitVec.ofNat 64 ((if f.rd = 28 then x.pc + 4 else t.g c 28).toNat / 2 ^ 32 * 2 ^ 32 + a % 2 ^ 32 / 4 * 4))) ∧
    (∀ (v : State) (tr : Tr), NotStepped v c → f.rd = 0 →
      (f.imm = 0 → t.xlate c accLoad (t.g c f.ra) = .ok v tr →
        (tr.attr = 2 → Completes (.cclean c f) s v c (v.ctx c) ∧ Completes (.cflush c f) s v c (v.ctx c)) ∧
        (tr.attr ≠ 2 → (spaceOf tr.mp).device = false → v.served tr.mp = true → v.mayReach (v.partOf c) tr.mp = true →
          let v := v.sbOwn c
          (NotStepped (v.cleanSector (tr.mp / 64)) c →
            ∃ u, exec (.cclean c f) s = .next u ∧ Commits (v.cleanSector (tr.mp / 64)) u c ((v.cleanSector (tr.mp / 64)).ctx c) pc4) ∧
          (NotStepped (v.flushSector (tr.mp / 64)) c →
            ∃ u, exec (.cflush c f) s = .next u ∧ Commits (v.flushSector (tr.mp / 64)) u c ((v.flushSector (tr.mp / 64)).ctx c) pc4))) ∧
      (f.imm = 0 → isFw c = true → t.xlate c accStore (t.g c f.ra) = .ok v tr → tr.attr ≠ 2 → (spaceOf tr.mp).device = false →
        v.served tr.mp = true →
        let v := v.sbOwn c
        NotStepped (v.invSector (tr.mp / 64)) c → ∃ u, exec (.cinv c f) s = .next u ∧ Commits (v.invSector (tr.mp / 64)) u c ((v.invSector (tr.mp / 64)).ctx c) pc4) ∧
      (f.imm = 0 → t.xlate c accLoad (t.g c f.ra) = .ok v tr → tr.attr = 2 → Completes (.pref c f) s v c (v.ctx c)) ∧
      (f.imm = 0 → t.xlate c accLoad (t.g c f.ra) = .ok v tr → tr.attr ≠ 2 → (spaceOf tr.mp).device = false →
        v.served tr.mp = true → v.curPois (tr.mp / 64) = false → v.mayReach (v.partOf c) tr.mp = true →
        NotStepped (v.loadSector (v.agentOf c) (tr.mp / 64) false) c →
        ∃ u, exec (.pref c f) s = .next u ∧
          Commits (v.loadSector (v.agentOf c) (tr.mp / 64) false) u c ((v.loadSector (v.agentOf c) (tr.mp / 64) false).ctx c) pc4) ∧
      (∀ e, f.imm = 0 → t.xlate c accLoad (t.g c f.ra) = .exc v e → Completes (.pref c f) s t c x) ∧
      (∀ e, f.imm = 1 → t.xlate c accStore (t.g c f.ra) = .exc v e → Completes (.pref c f) s t c x) ∧
      (f.imm = 1 → t.xlate c accStore (t.g c f.ra) = .ok v tr → tr.attr ≠ 2 → (spaceOf tr.mp).device = false →
        v.served tr.mp = true → v.curPois (tr.mp / 64) = false → v.mayReach (v.partOf c) tr.mp = true →
        v.l2st (v.agentOf c) = 1 → NotStepped ((v.meet (v.agentOf c) (tr.mp / 64)).readOwn (v.agentOf c) (tr.mp / 64)) c →
        ∃ u, exec (.pref c f) s = .next u ∧
          Commits ((v.meet (v.agentOf c) (tr.mp / 64)).readOwn (v.agentOf c) (tr.mp / 64)) u c
            (((v.meet (v.agentOf c) (tr.mp / 64)).readOwn (v.agentOf c) (tr.mp / 64)).ctx c) pc4))

/-- Together: special registers, system instructions, invalidation, WAIT and the switch to Classic mode. -/
def Obligations.SystemInstructions : Prop :=
  SystemRegisterAccess ∧ SystemInstructionResults ∧ BarrierResults ∧ ReservedSystemForms ∧ InvalidateWaitAndSwitch

/-! ### Decimal and floating point -/

/-- The 15 decimal digits of `m` in bits [63:4] and the preferred sign code in [3:0] (R155, R156). -/
def Sys2Proof.Safety.decimalWord (neg : Bool) (m : Nat) : Word :=
  BitVec.ofNat 64 (((List.range 15).map fun k => m / 10 ^ k % 10 * 16 ^ (k + 1)).sum + (if neg then 0xB else 0xA))

/-- The word is a valid register decimal of value `i`: 15 digit codes of 0 to 9 and a sign code of 0xA to 0xF, odd for
minus (R155, R156). -/
def Sys2Proof.Safety.HoldsDecimal (w : Word) (neg : Bool) (m : Nat) : Prop :=
  m < 10 ^ 15 ∧ (∀ k, k < 15 → w.toNat / 16 ^ (k + 1) % 16 = m / 10 ^ k % 10) ∧ 10 ≤ w.toNat % 16 ∧
  neg = decide (w.toNat % 2 = 1)

/-- The integer of a sign and a magnitude. -/
def Sys2Proof.Safety.signedDec (neg : Bool) (m : Nat) : Int := if neg then -(m : Int) else m

/-- An operand is no valid register decimal (R155, R159). -/
def Sys2Proof.Safety.NoDecimal (w : Word) : Prop := ∀ neg m, ¬ HoldsDecimal w neg m

/-- R129, R155, R156, R159 to R161: the register decimals with valid operands, their results and flags; a divisor of zero
raises IDIV. -/
def Sys2Proof.Safety.DecimalRegisterResults : Prop :=
  ∀ (s t v : State) (c : Nat) (f : RFmt) (na nb : Bool) (ma mb : Nat), Starts s c 4 false t → NotStepped v c →
    t.wide c = .ok v () →
    let a := signedDec na ma
    let b := signedDec nb mb
    let x := v.ctx c
    let put (i : Int) : Word := decimalWord (decide (i < 0)) (i.natAbs % 10 ^ 15)
    let zn (i : Int) (vf : Option Bool) : FlagSet :=
      { z := some (decide (i = 0)), n := some (decide (i < 0)), v := vf, d := some false }
    let big (i : Int) : Option Bool := some (decide (10 ^ 15 ≤ i.natAbs))
    let writes (i : Instr) (w : Word) (fl : FlagSet) : Prop := WritesGF i s v c f.rd w fl
    (HoldsDecimal (v.g c f.ra) na ma → HoldsDecimal (v.g c f.rb) nb mb →
      (f.rc = 0 →
        writes (.dadd c f) (put (a + b)) (zn (a + b) (big (a + b))) ∧
        writes (.dsub c f) (put (a - b)) (zn (a - b) (big (a - b))) ∧
        (f.rd = 0 → Completes (.dcmp c f) s v c { x with
          st := stFlags x.st { z := some (decide (a = b)), n := some (decide (a < b)), d := some false } })) ∧
      (f.rd ≠ f.rc →
        Completes (.dmul c f) s v c
          ((({ x with st := stFlags x.st (zn (a * b) none) }.writeG f.rd.toNat (BitVec.ofNat 64
            ((List.range 16).map fun k => (a * b).natAbs / 10 ^ (15 + k) % 10 * 16 ^ k).sum)).writeG f.rc.toNat
            (decimalWord (decide (a * b < 0)) ((a * b).natAbs % 10 ^ 15)))) ∧
        (mb ≠ 0 → Completes (.ddiv c f) s v c
          (({ x with st := stFlags x.st (zn (a.tdiv b) (some false)) }.writeG f.rd.toNat (put (a.tdiv b))).writeG f.rc.toNat
            (put (a - a.tdiv b * b))))) ∧
      (mb ≠ 0 → f.rd = f.rc → ∃ free, writes (.ddiv c f) free (zn (a.tdiv b) (some false))) ∧
      (mb = 0 → Raises (.ddiv c f) s v c (wordR 0x03 0x04 f) { code := 0x0A })) ∧
    (HoldsDecimal (v.g c f.ra) na ma → f.rc = 0 →
      let k := (v.g c f.rb).toNat % 32
      let up : Nat := if (v.g c f.rb).getLsbD 5 = true ∧ 0 < k ∧ 5 ≤ ma / 10 ^ (k - 1) % 10 then 1 else 0
      let r := signedDec na (ma / 10 ^ k + up)
      writes (.dshl c f) (put (a * 10 ^ k)) (zn (a * 10 ^ k) (big (a * 10 ^ k))) ∧
      writes (.dshr c f) (put r) (zn r none)) ∧
    (HoldsDecimal (v.g c f.ra) na ma → f.rb = 0 → f.rc = 0 →
      writes (.dneg c f) (decimalWord (!na) ma) { z := some (decide (ma = 0)), n := some (decide (0 < a)), d := some false } ∧
      writes (.dchk c f) (put a) (zn a none) ∧
      writes (.cvbd c f) (BitVec.ofInt 64 a) (zn a none)) ∧
    (f.rb = 0 → f.rc = 0 →
      let i := (v.g c f.ra).toInt
      writes (.cvdb c f) (put i) (zn i (big i)))

/-- D is set and nothing else is written; with DCR.DTRAP, DECX is raised as well (R159). -/
def Sys2Proof.Safety.SetsD (i : Instr) (s v : State) (c insn : Nat) : Prop :=
  let x : Ctx := { v.ctx c with st := stFlags (v.ctx c).st { d := some true } }
  ((v.ctx c).dcr.getLsbD 0 = false → Completes i s v c x) ∧
  ((v.ctx c).dcr.getLsbD 0 = true → Raises i s (v.setCtx c x) c insn { code := 0x0C })

/-- R129, R159, R163: an operand that is no decimal, and a string length that the rules do not allow, set D and write nothing
else; with DCR.DTRAP they raise DECX as well. The first use of wide state that is not live raises LAZY (R219). -/
def Sys2Proof.Safety.InvalidDecimalOperand : Prop :=
  ∀ (s t v : State) (c : Nat) (f : RFmt), Starts s c 4 false t → NotStepped v c →
    (t.wide c = .ok v () →
      let bad (i : Instr) (func : Nat) : Prop := SetsD i s v c (wordR 0x03 func f)
      (NoDecimal (v.g c f.ra) ∨ NoDecimal (v.g c f.rb) →
        (f.rc = 0 → bad (.dadd c f) 0x00 ∧ bad (.dsub c f) 0x01 ∧ (f.rd = 0 → bad (.dcmp c f) 0x02)) ∧
        (f.rd ≠ f.rc → bad (.dmul c f) 0x03) ∧ bad (.ddiv c f) 0x04) ∧
      (NoDecimal (v.g c f.ra) →
        (f.rc = 0 → bad (.dshl c f) 0x05 ∧ bad (.dshr c f) 0x06) ∧
        (f.rb = 0 → f.rc = 0 → bad (.dneg c f) 0x07 ∧ bad (.dchk c f) 0x08 ∧ bad (.cvbd c f) 0x09)) ∧
      let l1 := (t.g c f.rc).toNat % 32
      let l2 := (t.g c f.rc).toNat / 2 ^ 8 % 32
      (f.rd = 0 → (l1 = 0 ∨ l2 = 0 →
          bad (.dsadd c f) 0x10 ∧ bad (.dssub c f) 0x11 ∧ bad (.dsmul c f) 0x12 ∧ bad (.dsdiv c f) 0x13 ∧
          bad (.dscmp c f) 0x14 ∧ bad (.dpack c f) 0x15 ∧ bad (.dunpk c f) 0x16) ∧
        (l1 / 2 ≤ l2 / 2 → bad (.dsdiv c f) 0x13) ∧
        (l1 < l2 → bad (.dpack c f) 0x15 ∧ bad (.dunpk c f) 0x16))) ∧
    (t.fget (POCKET_STAT.WLIVE c) = 0 → f.rc = 0 →
      Raises (.dadd c f) s t c (wordR 0x03 0x00 f) { code := 0x12 } ∧
      Raises (.fadd c false f) s t c (wordR 0x04 0x00 f) { code := 0x12 })

/-- R102: the decimal and floating instructions with a field that they do not use, or with one register for both halves of a
product, raise UNDEF. -/
def Sys2Proof.Safety.ReservedWideForms : Prop :=
  ∀ (s t : State) (c : Nat) (single : Bool) (f : RFmt), Starts s c 4 false t →
    let undef (i : Instr) (insn : Nat) : Prop := Raises i s t c insn { code := 0x06 }
    let d (k : Nat) : Nat := wordR 0x03 k f
    let w (k : Nat) : Nat := wordR 0x04 (k + (if single then 32 else 0)) f
    (f.rc ≠ 0 → ∀ p ∈ [(Instr.dadd c f, d 0x00), (.dsub c f, d 0x01), (.dcmp c f, d 0x02), (.dshl c f, d 0x05), (.dshr c f, d 0x06),
        (.fadd c single f, w 0x00), (.fsub c single f, w 0x01), (.fmul c single f, w 0x02), (.fdiv c single f, w 0x03),
        (.fmin c single f, w 0x07), (.fmax c single f, w 0x08), (.fcmp c single f, w 0x0B), (.feq c single f, w 0x0C),
        (.flt c single f, w 0x0D), (.fle c single f, w 0x0E)], undef p.1 p.2) ∧
    (f.rb ≠ 0 ∨ f.rc ≠ 0 → ∀ p ∈ [(Instr.dneg c f, d 0x07), (.dchk c f, d 0x08), (.cvbd c f, d 0x09), (.cvdb c f, d 0x0A),
        (.fsqrt c single f, w 0x04), (.fabs c single f, w 0x09), (.fneg c single f, w 0x0A), (.fcvti c single f, w 0x0F),
        (.fcvtu c single f, w 0x10), (.icvtf c single f, w 0x11), (.ucvtf c single f, w 0x12), (.fcvt c single f, w 0x13),
        (.fmvg c single f, w 0x14), (.gmvf c single f, w 0x15), (.fclass c single f, w 0x16), (.frnd c single f, w 0x17)],
        undef p.1 p.2) ∧
    (f.rd ≠ 0 → ∀ p ∈ [(Instr.dcmp c f, d 0x02), (.fcmp c single f, w 0x0B), (.dsadd c f, d 0x10), (.dssub c f, d 0x11),
        (.dsmul c f, d 0x12), (.dsdiv c f, d 0x13), (.dscmp c f, d 0x14), (.dpack c f, d 0x15), (.dunpk c f, d 0x16)],
        undef p.1 p.2) ∧
    (f.rd = f.rc → undef (.dmul c f) (d 0x03))

/-- What a decimal string instruction does to its operands' bytes (R159, R160, R163): the bytes written at ra, if any, and
the flags; none for an operand that is not valid and for a divisor of zero. -/
def Sys2Proof.Safety.stringResult (op : StrOp) (l1 l2 : Nat) (b1 b2 : List Byte) : Option (Option (List Byte) × FlagSet) :=
  match op.run l1 l2 b1 b2 with
  | .ok out fl => some (out, fl)
  | _ => none

/-- R129, R157 to R163: a string instruction whose lengths are valid and whose operands are reached and read as `b1` and
`b2`. With valid decimals it writes its flags, and posts its result at its commit; DSCMP writes no byte. A divisor of zero
raises IDIV; an invalid operand sets D and writes nothing else, with DCR.DTRAP it raises DECX as well. The wide part is brought
in after the strings are read (R121). -/
def Sys2Proof.Safety.DecimalStringResults : Prop :=
  ∀ (s t t2 t3 t4 t5 v : State) (c : Nat) (f : RFmt) (r1 r2 : List (Tr × Nat)) (b1 b2 : List Byte),
    Starts s c 4 false t → NotStepped v c → f.rd = 0 → t.fget (POCKET_STAT.WLIVE c) = 1 →
    let l1 := (t.g c f.rc).toNat % 32
    let l2 := (t.g c f.rc).toNat / 2 ^ 8 % 32
    let a1 := t.g c f.ra
    let a2 := t.g c f.rb
    let run (i : Instr) (func : Nat) (op : StrOp) (acc : Acc) (n1 n2 : Nat) : Prop :=
      t.reachData c acc (pagePieces a1.toNat n1) false false .string = .ok t2 r1 →
      t2.reachData c accLoad (pagePieces a2.toNat n2) false false .string = .ok t3 r2 →
      (if acc.r then t3.loadData c a1 r1 n1 = .ok t4 b1 else t4 = t3 ∧ b1 = []) →
      t4.loadData c a2 r2 n2 = .ok t5 b2 → t5.needWide c = .ok v () →
      (∀ out fl, op.run l1 l2 b1 b2 = .ok out fl →
        Effects i s v c { v.ctx c with st := stFlags (v.ctx c).st fl } fun w =>
          match out with
          | some bs => w.storeData c r1 bs false false
          | none => w) ∧
      (op.run l1 l2 b1 b2 = .idiv → Raises i s v c (wordR 0x03 func f) { code := 0x0A }) ∧
      (op.run l1 l2 b1 b2 = .bad → SetsD i s v c (wordR 0x03 func f))
    0 < l1 → 0 < l2 →
    let n1 := l1 / 2 + 1
    let n2 := l2 / 2 + 1
    run (.dsadd c f) 0x10 .add accAtomic n1 n2 ∧
    run (.dssub c f) 0x11 .sub accAtomic n1 n2 ∧
    run (.dsmul c f) 0x12 .mul accAtomic n1 n2 ∧
    (n2 < n1 → run (.dsdiv c f) 0x13 .div accAtomic n1 n2) ∧
    run (.dscmp c f) 0x14 .cmp accLoad n1 n2 ∧
    (l2 ≤ l1 → run (.dpack c f) 0x15 .pack accStore n1 (l2 + 1) ∧ run (.dunpk c f) 0x16 .unpack accStore (l1 + 1) n2)

/-- R157, R160, R163: sums, differences and products of two ledger strings: what is written reads back as the true result's
low digits with its sign, and the flags are those of the true result. A quotient and its remainder share the bytes at
ra; a quotient that does not fit sets V and nothing is written. -/
def Sys2Proof.Safety.LedgerArithmetic : Prop :=
  ∀ (l1 l2 : Nat) (x y : Dec) (b1 b2 : List Byte), 0 < l1 → l1 ≤ 31 → 0 < l2 → l2 ≤ 31 →
    ledgerDec l1 b1 = some x → ledgerDec l2 b2 = some y →
    let holds (op : StrOp) (i : Int) : Prop :=
      ∃ bs, stringResult op l1 l2 b1 b2 = some (some bs, {
          z := some (decide (i = 0)), n := some (decide (i < 0)),
          v := some (decide (10 ^ l1 ≤ i.natAbs)), d := some false }) ∧
        bs.length = l1 / 2 + 1 ∧ ledgerDec l1 bs = some ⟨decide (i < 0), i.natAbs % 10 ^ l1⟩
    let q := x.val.tdiv y.val
    let qb := l1 / 2 - l2 / 2
    let fl (ov : Bool) : FlagSet := { z := some (decide (q = 0)), n := some (decide (q < 0)), v := some ov, d := some false }
    holds .add (x.val + y.val) ∧ holds .sub (x.val - y.val) ∧ holds .mul (x.val * y.val) ∧
    stringResult .cmp l1 l2 b1 b2 = some (none, {
      z := some (decide (x.val = y.val)), n := some (decide (x.val < y.val)), d := some false }) ∧
    (y.mag = 0 → stringResult .div l1 l2 b1 b2 = none) ∧
    (y.mag ≠ 0 → l2 / 2 < l1 / 2 →
      (10 ^ (2 * qb - 1) ≤ q.natAbs → stringResult .div l1 l2 b1 b2 = some (none, fl true)) ∧
      (q.natAbs < 10 ^ (2 * qb - 1) →
        ∃ bq br, stringResult .div l1 l2 b1 b2 = some (some (bq ++ br), fl false) ∧ bq.length = qb ∧
          br.length = l2 / 2 + 1 ∧ ledgerDec (2 * qb - 1) bq = some ⟨decide (q < 0), q.natAbs⟩ ∧
          ledgerDec l2 br = some ⟨decide (x.val - q * y.val < 0), (x.val - q * y.val).natAbs⟩))

/-- Together: decimal strings, and arithmetic in the wide registers. -/
def Obligations.DecimalStringsAndLedger : Prop :=
  DecimalStringResults ∧ LedgerArithmetic

/-- The effect of a floating instruction whose result is `r` (R148, R153): where no raised exception is trapped, the raised
ones are ORed into FCSR.FLAGS and the result is delivered; where one is trapped, FPX with the raised ones in DETAIL. -/
def Sys2Proof.Safety.FloatDelivers (i : Instr) (insn : Nat) (s v : State) (c : Nat) (r : FRes) (put : Ctx → Ctx) : Prop :=
  (r.raised &&& teOf (v.ctx c).fcsr = 0 →
    Completes i s v c (put { v.ctx c with fcsr := (v.ctx c).fcsr ||| BitVec.ofNat 64 (r.raised * 256) })) ∧
  (r.raised &&& teOf (v.ctx c).fcsr ≠ 0 → Raises i s v c insn { code := 0x0B, detail := r.raised })

/-- The operand of a floating instruction of the given precision (R94). -/
def Sys2Proof.Safety.floatIn (v : State) (c : Nat) (single : Bool) (r : RegNo) : Nat :=
  if single then (v.fr c r).toNat % 2 ^ 32 else (v.fr c r).toNat

/-- R94, R130, R145 to R150, R153: each floating instruction delivers, or traps with, the result of the model's operation of its
name on the decoded operands, in the rounding mode of FCSR.RM; the bit copies raise nothing. -/
def Sys2Proof.Safety.FloatArithmetic : Prop :=
  ∀ (s t v : State) (c : Nat) (single : Bool) (f : RFmt), Starts s c 4 false t → NotStepped v c → t.wide c = .ok v () →
    let F := fmtOf single
    let rm := rmOf (v.ctx c).fcsr
    let ut := (v.ctx c).fcsr.getLsbD 17
    let a := floatIn v c single f.ra
    let b := floatIn v c single f.rb
    let d := floatIn v c single f.rc
    let w (func : Nat) : Nat := wordR 0x04 (func + (if single then 32 else 0)) f
    let putf (r : FRes) (x : Ctx) : Ctx := x.writeF f.rd.toNat (BitVec.ofNat 64 r.bits)
    let gives (i : Instr) (func : Nat) (r : FRes) : Prop := FloatDelivers i (w func) s v c r (putf r)
    (f.rc = 0 →
      gives (.fadd c single f) 0x00 (F.add rm ut (F.decode a) (F.decode b)) ∧
      gives (.fsub c single f) 0x01 (F.sub rm ut (F.decode a) (F.decode b)) ∧
      gives (.fmul c single f) 0x02 (F.mul rm ut (F.decode a) (F.decode b)) ∧
      gives (.fdiv c single f) 0x03 (F.div rm ut (F.decode a) (F.decode b)) ∧
      gives (.fmin c single f) 0x07 (F.minMax false a b) ∧
      gives (.fmax c single f) 0x08 (F.minMax true a b)) ∧
    gives (.fmadd c single f) 0x05 (F.fma rm ut false (F.decode a) (F.decode b) (F.decode d)) ∧
    gives (.fmsub c single f) 0x06 (F.fma rm ut true (F.decode a) (F.decode b) (F.decode d)) ∧
    (f.rb = 0 → f.rc = 0 →
      gives (.fsqrt c single f) 0x04 (F.sqrt rm ut (F.decode a)) ∧
      gives (.frnd c single f) 0x17 (F.toIntegral rm (F.decode a)) ∧
      gives (.fcvt c single f) 0x13 (fcvtFmt F (fmtOf (!single)) rm ut (F.decode a)) ∧
      gives (.icvtf c single f) 0x11 (F.ofInt rm ut (v.g c f.ra).toInt) ∧
      gives (.ucvtf c single f) 0x12 (F.ofInt rm ut (v.g c f.ra).toNat) ∧
      -- FABS, FNEG and GMVF copy bits and raise nothing
      Completes (.fabs c single f) s v c ((v.ctx c).writeF f.rd.toNat
        (BitVec.ofNat 64 (a % 2 ^ (if single then 31 else 63)))) ∧
      Completes (.fneg c single f) s v c ((v.ctx c).writeF f.rd.toNat
        (BitVec.ofNat 64 (a ^^^ 2 ^ (if single then 31 else 63)))) ∧
      Completes (.gmvf c single f) s v c ((v.ctx c).writeF f.rd.toNat
        (BitVec.ofNat 64 (if single then (v.g c f.ra).toNat % 2 ^ 32 else (v.g c f.ra).toNat))))

/-- R130, R148: with no trap enabled (FCSR.TE = 0) every floating instruction completes, with its context changed and nothing
else. -/
def Sys2Proof.Safety.FloatCompletion : Prop :=
  ∀ (s t v : State) (c : Nat) (single : Bool) (f : RFmt), Starts s c 4 false t → NotStepped v c → t.wide c = .ok v () →
    teOf (v.ctx c).fcsr = 0 →
    let runs (i : Instr) : Prop := ∃ x, Completes i s v c x
    (f.rc = 0 →
      runs (.fadd c single f) ∧ runs (.fsub c single f) ∧ runs (.fmul c single f) ∧ runs (.fdiv c single f) ∧
      runs (.fmin c single f) ∧ runs (.fmax c single f) ∧ runs (.feq c single f) ∧ runs (.flt c single f) ∧
      runs (.fle c single f) ∧ (f.rd = 0 → runs (.fcmp c single f))) ∧
    runs (.fmadd c single f) ∧ runs (.fmsub c single f) ∧
    (f.rb = 0 → f.rc = 0 →
      runs (.fsqrt c single f) ∧ runs (.fabs c single f) ∧ runs (.fneg c single f) ∧ runs (.fcvti c single f) ∧
      runs (.fcvtu c single f) ∧ runs (.icvtf c single f) ∧ runs (.ucvtf c single f) ∧ runs (.fcvt c single f) ∧
      runs (.gmvf c single f) ∧ runs (.fmvg c single f) ∧ runs (.fclass c single f) ∧ runs (.frnd c single f))

/-- Together: decimal arithmetic in registers, invalid decimal operands, the completion of floating instructions, and reserved forms. -/
def Obligations.DecimalRegisters : Prop :=
  DecimalRegisterResults ∧ InvalidDecimalOperand ∧ FloatCompletion ∧ ReservedWideForms

/-- The bit that R152 gives to the class of an operand: its sign, exponent and fraction are read from its encoding. -/
def Sys2Proof.Safety.classBit (single : Bool) (a : Nat) : Nat :=
  let p := if single then 23 else 52
  let top := if single then 255 else 2047
  let neg := a / 2 ^ (if single then 31 else 63) % 2 = 1
  let e := a / 2 ^ p % (top + 1)
  let m := a % 2 ^ p
  if e = top ∧ m = 0 then (if neg then 0 else 7)
  else if e = top then (if m / 2 ^ (p - 1) = 0 then 8 else 9)
  else if e = 0 ∧ m = 0 then (if neg then 3 else 4)
  else if e = 0 then (if neg then 2 else 5)
  else if neg then 1 else 6

/-- R107, R130, R149 to R153: the comparisons with their flags, the conversions to integers, and FCLASS, whose one bit is R152's
for the class of the operand. -/
def Sys2Proof.Safety.FloatComparisonsAndMoves : Prop :=
  ∀ (s t v : State) (c : Nat) (single : Bool) (f : RFmt), Starts s c 4 false t → NotStepped v c → t.wide c = .ok v () →
    let F := fmtOf single
    let rm := rmOf (v.ctx c).fcsr
    let a := floatIn v c single f.ra
    let b := floatIn v c single f.rb
    let x := F.decode a
    let y := F.decode b
    let un := x.isNan || y.isNan
    let sig := x.isSig || y.isSig
    let inv (p : Bool) : Nat := if p then 0b10000 else 0
    let w (func : Nat) : Nat := wordR 0x04 (func + (if single then 32 else 0)) f
    let putg (r : Nat) (z : Ctx) : Ctx := z.writeG f.rd.toNat (BitVec.ofNat 64 r)
    let gives (i : Instr) (func r raised : Nat) : Prop := FloatDelivers i (w func) s v c ⟨r, raised⟩ (putg r)
    (f.rc = 0 →
      gives (.feq c single f) 0x0C (if un = false ∧ x.cmp y = 0 then 1 else 0) (inv sig) ∧
      gives (.flt c single f) 0x0D (if un = false ∧ x.cmp y < 0 then 1 else 0) (inv un) ∧
      gives (.fle c single f) 0x0E (if un = false ∧ x.cmp y ≤ 0 then 1 else 0) (inv un) ∧
      (f.rd = 0 → FloatDelivers (.fcmp c single f) (w 0x0B) s v c
        ⟨if un then 8 else if x.cmp y = 0 then 1 else if x.cmp y < 0 then 2 else 4, inv sig⟩
        fun q => { q with st := stFlags q.st {
          z := some (decide (un = false ∧ x.cmp y = 0)), n := some (decide (un = false ∧ x.cmp y < 0)),
          c := some (decide (un = false ∧ 0 < x.cmp y)), v := some un } })) ∧
    (f.rb = 0 → f.rc = 0 →
      FloatDelivers (.fcvti c single f) (w 0x0F) s v c (fcvtInt rm true x) (putg (fcvtInt rm true x).bits) ∧
      FloatDelivers (.fcvtu c single f) (w 0x10) s v c (fcvtInt rm false x) (putg (fcvtInt rm false x).bits) ∧
      Completes (.fmvg c single f) s v c (putg a (v.ctx c)) ∧
      Completes (.fclass c single f) s v c (putg (2 ^ classBit single a) (v.ctx c)))

/-- Together: binary and decimal floating point. -/
def Obligations.FloatResults : Prop :=
  FloatArithmetic ∧ FloatComparisonsAndMoves

/-! ### CA-32 Classic, SAVEM and LOADM -/

/-- The instruction after one of `len` bytes in Classic: PC wraps in its window of 2^32 (R195). -/
def Sys2Proof.Safety.classicNext (pc : Word) (len : Nat) : Word :=
  BitVec.ofNat 64 (pc.toNat / 2 ^ 32 * 2 ^ 32 + (pc.toNat + len) % 2 ^ 32)

/-- The Classic instruction of `len` bytes commits with its context as `x`. -/
def Sys2Proof.Safety.CCompletes (i : Instr) (s t : State) (c len : Nat) (x : Ctx) : Prop :=
  ∃ u, exec i s = .next u ∧ Commits t u c x (classicNext (s.ctx c).pc len)

/-- It writes `v` to c(r), and the flags of `fl`. -/
def Sys2Proof.Safety.CWrites (i : Instr) (s t : State) (c : Nat) (r : RegNo) (v : Nat) (fl : FlagSet) : Prop :=
  CCompletes i s t c 4 ({ t.ctx c with st := stFlags (t.ctx c).st fl }.writeC r.toNat v)

/-- It writes `v` to the pair that starts at c(r), and the flags of `fl`. -/
def Sys2Proof.Safety.PWrites (i : Instr) (s t : State) (c : Nat) (r : RegNo) (v : Word) (fl : FlagSet) : Prop :=
  CCompletes i s t c 4 ({ t.ctx c with st := stFlags (t.ctx c).st fl }.writeG (16 + r.toNat / 2) v)

/-- The value of pair r in state `v`: the native register of an even field; a free value for an odd one, of which the
spec says nothing (log entry 33). -/
def Sys2Proof.Safety.pairValue (v : State) (c : Nat) (r : RegNo) : Word := (v.pairC c r).2

/-- R194: 24 registers of 32 bits on g16 to g27, the even one in the high half; writing one leaves every other, every
other g register and everything else of the context unchanged; an even pair is its native register. -/
def Obligations.ClassicRegisters : Prop :=
  (∀ (x : Ctx) (r r' v : Nat), r < 24 → r' < 24 →
    (x.writeC r v).readC r = v % 2 ^ 32 ∧ (r' ≠ r → (x.writeC r v).readC r' = x.readC r') ∧
    (∀ k, k < 32 → k ≠ 16 + r / 2 → (x.writeC r v).readG k = x.readG k) ∧
    { x.writeC r v with g := x.g } = x) ∧
  (∀ (x : Ctx) (k : Nat), k < 12 →
    (x.readG (16 + k)).toNat = x.readC (2 * k) * 2 ^ 32 + x.readC (2 * k + 1)) ∧
  (∀ (s : State) (c : Nat) (r : RegNo), r.toNat < 24 → r.toNat % 2 = 0 →
    pairValue s c r = (s.ctx c).readG (16 + r.toNat / 2))

/-- R140, R194, R197, R199, R200: the three-register and constant rows of Classic on 32 bits, with their flags: Z, N, C
and V for sums and differences, Z and N for logic, none for the others; a zero divisor raises IDIV. -/
def Sys2Proof.Safety.ClassicArithmetic : Prop :=
  ∀ (s t : State) (c : Nat), Starts s c 4 true t → NotStepped t c →
    let cv (r : RegNo) : BitVec 32 := BitVec.ofNat 32 ((t.ctx c).readC r.toNat)
    let sum (a b : BitVec 32) (ci : Bool) : BitVec 33 := a.setWidth 33 + b.setWidth 33 + (if ci then 1 else 0)
    let fl (a b : BitVec 32) (s : BitVec 33) (sub : Bool) : FlagSet :=
      let r : BitVec 32 := s.setWidth 32
      { z := some (decide (r = 0)), n := some r.msb, c := some s.msb,
        v := some (if sub then decide (a.msb ≠ b.msb ∧ r.msb ≠ a.msb) else decide (a.msb = b.msb ∧ r.msb ≠ a.msb)) }
    let zn (r : BitVec 32) : FlagSet := { z := some (decide (r = 0)), n := some r.msb }
    let cy := stBit (t.ctx c).st 2
    let puts (i : Instr) (r : RegNo) (v : BitVec 32) (fs : FlagSet) : Prop := CWrites i s t c r v.toNat fs
    let sums (i : Instr) (r : RegNo) (a b : BitVec 32) (ci : Bool) : Prop :=
      puts i r ((sum a b ci).setWidth 32) (fl a b (sum a b ci) false)
    let difs (i : Instr) (r : RegNo) (a b : BitVec 32) (ci : Bool) : Prop :=
      puts i r ((sum a (~~~b) ci).setWidth 32) (fl a b (sum a (~~~b) ci) true)
    let only (i : Instr) (fs : FlagSet) : Prop :=
      CCompletes i s t c 4 { t.ctx c with st := stFlags (t.ctx c).st fs }
    let cmps (i : Instr) (a b : BitVec 32) : Prop := only i (fl a b (sum a (~~~b) true) true)
    (∀ f : R3Fmt, f.r1.toNat < 24 → f.r2.toNat < 24 → f.r3.toNat < 24 → f.z = 0 →
      let a := cv f.r2
      let b := cv f.r3
      sums (.sum c f) f.r1 a b false ∧ sums (.sumc c f) f.r1 a b cy ∧
      difs (.dif c f) f.r1 a b true ∧ difs (.difb c f) f.r1 a b cy ∧
      (f.r1 = 0 → cmps (.cmr c f) a b) ∧
      puts (.anr c f) f.r1 (a &&& b) (zn (a &&& b)) ∧
      puts (.orr c f) f.r1 (a ||| b) (zn (a ||| b)) ∧
      puts (.eor c f) f.r1 (a ^^^ b) (zn (a ^^^ b)) ∧
      (f.r3 = 0 → puts (.cpy c f) f.r1 a {} ∧ difs (.negr c f) f.r1 0 a true) ∧
      (f.r1.toNat % 2 = 0 →
        PWrites (.muls c f) s t c f.r1 (BitVec.ofInt 64 (a.toInt * b.toInt)) {} ∧
        PWrites (.mulu c f) s t c f.r1 (BitVec.ofNat 64 (a.toNat * b.toNat)) {}) ∧
      (b ≠ 0 →
        puts (.quo c f) f.r1 (BitVec.ofInt 32 (a.toInt.tdiv b.toInt)) {} ∧
        puts (.rmd c f) f.r1 (BitVec.ofInt 32 (a.toInt - a.toInt.tdiv b.toInt * b.toInt)) {}) ∧
      (b = 0 →
        Raises (.quo c f) s t c (wordR3 0x0D f) { code := 0x0A } ∧
        Raises (.rmd c f) s t c (wordR3 0x0E f) { code := 0x0A }) ∧
      puts (.shl c f) f.r1 (a <<< (b.toNat % 32)) {} ∧
      puts (.shr c f) f.r1 (a >>> (b.toNat % 32)) {} ∧
      puts (.sha c f) f.r1 (a.sshiftRight (b.toNat % 32)) {}) ∧
    (∀ f : RKFmt, f.r1.toNat < 24 →
      let a := cv f.r2
      let sk : BitVec 32 := f.k.signExtend 32
      let zk : BitVec 32 := f.k.setWidth 32
      puts (.sethk c f) f.r1 ((f.r2.setWidth 32 <<< 27) ||| (zk <<< 13)) {} ∧
      (f.r2.toNat < 24 →
        sums (.sumk c f) f.r1 a sk false ∧ (f.r1 = 0 → cmps (.cmk c f) a sk) ∧
        puts (.ank c f) f.r1 (a &&& zk) (zn (a &&& zk)) ∧
        puts (.ork c f) f.r1 (a ||| zk) (zn (a ||| zk)) ∧
        puts (.eok c f) f.r1 (a ^^^ zk) (zn (a ^^^ zk)) ∧
        (f.r2 = 0 → puts (.setk c f) f.r1 sk {}) ∧
        (f.k.toNat ≤ 31 →
          puts (.shlk c f) f.r1 (a <<< f.k.toNat) {} ∧ puts (.shrk c f) f.r1 (a >>> f.k.toNat) {} ∧
          puts (.shak c f) f.r1 (a.sshiftRight f.k.toNat) {})))

/-- R156, R159 to R161, R194, R200: the decimal pairs of Classic, with the flags of the register decimals. -/
def Sys2Proof.Safety.ClassicDecimalPairs : Prop :=
  ∀ (s t v : State) (c : Nat) (f : R3Fmt) (na nb : Bool) (ma mb : Nat), Starts s c 4 true t → NotStepped v c →
    t.wide c = .ok v () → f.r1.toNat < 24 → f.r2.toNat < 24 → f.r3.toNat < 24 → f.z = 0 →
    let a := signedDec na ma
    let b := signedDec nb mb
    let put (i : Int) : Word := decimalWord (decide (i < 0)) (i.natAbs % 10 ^ 15)
    let zn (i : Int) (vf : Option Bool) : FlagSet :=
      { z := some (decide (i = 0)), n := some (decide (i < 0)), v := vf, d := some false }
    let big (i : Int) : Option Bool := some (decide (10 ^ 15 ≤ i.natAbs))
    let flags (fs : FlagSet) : Ctx := { v.ctx c with st := stFlags (v.ctx c).st fs }
    let hi (n : Nat) : Word := BitVec.ofNat 64 ((List.range 16).map fun k => n / 10 ^ (15 + k) % 10 * 16 ^ k).sum
    let two (i : Instr) (fs : FlagSet) (w1 w2 : Word) : Prop :=
      CCompletes i s v c 4 (((flags fs).writeG (16 + f.r1.toNat / 2) w1).writeG (17 + f.r1.toNat / 2) w2)
    let even (r : RegNo) : Prop := r.toNat % 2 = 0
    let v2 := (v.pairC c f.r2).1
    (HoldsDecimal (pairValue v c f.r2) na ma → HoldsDecimal (pairValue v2 c f.r3) nb mb →
      (even f.r2 →
        (even f.r1 →
          PWrites (.dpsum c f) s v c f.r1 (put (a + b)) (zn (a + b) (big (a + b))) ∧
          PWrites (.dpdif c f) s v c f.r1 (put (a - b)) (zn (a - b) (big (a - b)))) ∧
        (f.r1 = 0 → CCompletes (.dpcmp c f) s v c 4
          (flags { z := some (decide (a = b)), n := some (decide (a < b)), d := some false }))) ∧
      (f.r1.toNat % 4 = 0 →
        two (.dpmul c f) (zn (a * b) none) (hi (a * b).natAbs)
          (decimalWord (decide (a * b < 0)) ((a * b).natAbs % 10 ^ 15)) ∧
        (mb ≠ 0 → two (.dpquo c f) (zn (a.tdiv b) (some false)) (put (a.tdiv b)) (put (a - a.tdiv b * b))) ∧
        (mb = 0 → ∃ w : State, w.ctx c = v.ctx c ∧ w.mem = v.mem ∧
          Raises (.dpquo c f) s w c (wordR3 0x1C f) { code := 0x0A }))) ∧
    (even f.r1 → even f.r2 →
      (f.r3 = 0 →
        (HoldsDecimal (pairValue v c f.r2) na ma → PWrites (.dpbin c f) s v c f.r1 (BitVec.ofInt 64 a) (zn a none)) ∧
        (let i := ((v.ctx c).readG (16 + f.r2.toNat / 2)).toInt
         PWrites (.dpdec c f) s v c f.r1 (put i) (zn i (big i)))) ∧
      (HoldsDecimal (pairValue v c f.r2) na ma →
        let k := (v.ctx c).readC f.r3.toNat
        let n := k % 32
        let up : Nat := if k / 32 % 2 = 1 ∧ 0 < n ∧ 5 ≤ ma / 10 ^ (n - 1) % 10 then 1 else 0
        let r := signedDec na (ma / 10 ^ n + up)
        (k / 64 % 2 = 0 → PWrites (.dpshf c f) s v c f.r1 (put (a * 10 ^ n)) (zn (a * 10 ^ n) (big (a * 10 ^ n)))) ∧
        (k / 64 % 2 = 1 → PWrites (.dpshf c f) s v c f.r1 (put r) (zn r none))))

/-- Together: Classic arithmetic, in registers and in decimal pairs. -/
def Obligations.ClassicArithmeticResults : Prop :=
  ClassicArithmetic ∧ ClassicDecimalPairs

/-- A Classic address (R195, R198): a base or none, and a displacement, modulo 2^32. -/
def Sys2Proof.Safety.classicEa (t : State) (c : Nat) (b : RegNo) (d : Half) : Nat :=
  ((if b = 31 then 0 else (t.ctx c).readC b.toNat) + d.toNat) % 2 ^ 32

/-- A Classic load of `n` bytes at address `a` of the window reads `bs` and leaves `v`. -/
def Sys2Proof.Safety.CLoads (t : State) (c a n : Nat) (v : State) (bs : List Byte) : Prop :=
  ∃ t1 l, t.reachData c accLoad (t.cpieces c a n) (decide (a % n ≠ 0)) false .plain = .ok t1 l ∧
    t1.loadData c (t1.inWindow c a) l n = .ok v bs

/-- A Classic instruction of `len` bytes commits with its context as `x`, and `eff` happens at the commit and is all that it
does beside. -/
def Sys2Proof.Safety.CEffects (i : Instr) (s v : State) (c len : Nat) (x : Ctx) (eff : State → State) : Prop :=
  ∃ w, Commits v w c x (classicNext (s.ctx c).pc len) ∧ exec i s = .next (eff w)

/-- What happens at the commit is that the store of `bs` to the pieces `l` is posted. -/
def Sys2Proof.Safety.CStores (i : Instr) (s v : State) (c len : Nat) (x : Ctx) (l : List (Tr × Nat)) (bs : List Byte) :
    Prop :=
  CEffects i s v c len x fun w => w.storeData c l bs false false

/-- R134, R195, R198, R200: the Classic loads, stores and address rows; SWPC stores where memory holds the comparison
value, as Z says. -/
def Sys2Proof.Safety.ClassicMemory : Prop :=
  ∀ (s t v : State) (c : Nat) (f : RMFmt) (bs : List Byte) (l : List (Tr × Nat)), Starts s c 4 true t → NotStepped v c →
    NotStepped t c → f.r1.toNat < 24 → (f.b.toNat < 24 ∨ f.b = 31) →
    let a := classicEa t c f.b (f.d.signExtend 32)
    let loads (i : Instr) (n v' : Nat) : Prop := CLoads t c a n v bs → CCompletes i s v c 4 ((v.ctx c).writeC f.r1.toNat v')
    let stores (i : Instr) (n : Nat) (out : List Byte) : Prop :=
      t.reachData c accStore (t.cpieces c a n) (decide (a % n ≠ 0)) false .plain = .ok v l → CStores i s v c 4 (v.ctx c) l out
    let sx (w : Nat) : Nat := ((BitVec.ofNat w (leNat bs)).signExtend 32).toNat
    let r := (v.ctx c).readC f.r1.toNat
    loads (.lw c f) 4 (leNat bs) ∧ loads (.lhs c f) 2 (sx 16) ∧ loads (.lhz c f) 2 (leNat bs) ∧
    loads (.lbs c f) 1 (sx 8) ∧ loads (.lbz c f) 1 (leNat bs) ∧
    stores (.sw c f) 4 (leBytes 4 r) ∧ stores (.shw c f) 2 (leBytes 2 r) ∧ stores (.sby c f) 1 (leBytes 1 r) ∧
    CCompletes (.adr c f) s t c 4 ((t.ctx c).writeC f.r1.toNat a) ∧
    (f.r1.toNat % 2 = 0 →
      (CLoads t c a 8 v bs →
        CCompletes (.lpw c f) s v c 4 ((v.ctx c).writeG (16 + f.r1.toNat / 2) (BitVec.ofNat 64 (leNat bs)))) ∧
      stores (.spw c f) 8 (leBytes 8 ((v.ctx c).readG (16 + f.r1.toNat / 2)).toNat) ∧
      (∀ t1, t.reachData c accAtomic (t.cpieces c a 4) (decide (a % 4 ≠ 0)) true .block = .ok t1 l →
        (t1.sbOwn c).loadData c (t1.inWindow c a) l 4 = .ok v bs →
        let old := leNat bs
        let want := (v.ctx c).readC (f.r1.toNat + 1)
        let x := ({ v.ctx c with st := stFlags (v.ctx c).st { z := some (decide (old = want)) } }).writeC (f.r1.toNat + 1) old
        (old = want → CEffects (.swpc c f) s v c 4 x fun w => w.storeNow c l (leBytes 4 r)) ∧
        (old ≠ want → CCompletes (.swpc c f) s v c 4 x)))

/-- The native address of Classic address `a`: g28 names the window (R195). -/
def Sys2Proof.Safety.windowed (x : Ctx) (a : Nat) : Word :=
  BitVec.ofNat 64 ((x.readG 28).toNat / 2 ^ 32 * 2 ^ 32 + a % 2 ^ 32)

/-- R107, R117, R194, R195, R200, R220: the Classic branches, calls, the return to CA-64, SCALL, NOP and BRK. -/
def Sys2Proof.Safety.ClassicControl : Prop :=
  ∀ (s t : State) (c : Nat), Starts s c 4 true t → NotStepped t c →
    let x := t.ctx c
    let pc := x.pc.toNat % 2 ^ 32
    let link (r : RegNo) : Ctx := x.writeC r.toNat (pc + 4)
    let goes (i : Instr) (y : Ctx) (a insn : Nat) : Prop :=
      (a % 4 = 0 → JumpsTo i s t c y (windowed x a)) ∧
      (a % 4 ≠ 0 → Raises i s t c insn { code := 0x05, detail := 0x01, faddr := some (windowed x a) })
    (∀ f : R3Fmt, f.r1.toNat < 24 → f.r2.toNat < 24 → f.r3 = 0 → f.z = 0 →
      goes (.lnkr c f) (link f.r1) (x.readC f.r2.toNat) (wordR3 0x12 f) ∧
      (f.r1 = 0 → goes (.jmpr c f) x (x.readC f.r2.toNat) (wordR3 0x13 f))) ∧
    (∀ f : RMFmt, f.r1.toNat < 24 → (f.b.toNat < 24 ∨ f.b = 31) →
      goes (.lnk c f) (link f.r1) (classicEa t c f.b (f.d.signExtend 32)) (wordRM 0x39 f)) ∧
    (∀ f : BJFmt,
      (condTrue x.st f.cond.toNat →
        JumpsTo (.brc c f) s t c x (windowed x (pc + ((f.disp.signExtend 32).toNat * 4)))) ∧
      (¬ condTrue x.st f.cond.toNat → CCompletes (.brc c f) s t c 4 x)) ∧
    (∀ f : RKFmt, f.r1 = 0 → f.r2 = 0 →
      RaisesAfter (.scall c f) s t c (wordRK 0x50 f) x (classicNext (s.ctx c).pc 4)
        { code := 0x08, detail := f.k.toNat % 256 } ∧
      (f.k = 0 →
        JumpsTo (.classicCsw c f) s t c { (x.writeG 29 (x.pc + 4)) with st := x.st &&& ~~~0x8000 }
          ((x.readG 29) &&& ~~~3) ∧
        CCompletes (.classicNop c f) s t c 4 x ∧
        Raises (.classicBrk c f) s t c (wordRK 0x53 f) { code := 0x0D }))

/-- R121, R157 to R163, R200: the Classic decimal strings on ledger and zoned strings of the window: flags, and the result at
the commit; a divisor of zero raises IDIV, and an invalid operand or a length that the rules do not allow sets D and writes
nothing else, with DCR.DTRAP it raises DECX as well. -/
def Sys2Proof.Safety.ClassicDecimalStrings : Prop :=
  ∀ (s t t2 t3 t4 t5 v : State) (c : Nat) (f : DSFmt) (r1 r2 : List (Tr × Nat)) (b1 b2 : List Byte),
    Starts s c 8 true t → NotStepped v c → f.z = 0 → (f.p1.toNat < 24 ∨ f.p1 = 31) → (f.p2.toNat < 24 ∨ f.p2 = 31) →
    t.fget (POCKET_STAT.WLIVE c) = 1 →
    let l1 := f.l1.toNat
    let l2 := f.l2.toNat
    let a1 := classicEa t c f.p1 (f.d1.signExtend 32)
    let a2 := classicEa t c f.p2 (f.d2.signExtend 32)
    let setsD (i : Instr) (op : Nat) : Prop :=
      let x : Ctx := { v.ctx c with st := stFlags (v.ctx c).st { d := some true } }
      ((v.ctx c).dcr.getLsbD 0 = false → CCompletes i s v c 8 x) ∧
      ((v.ctx c).dcr.getLsbD 0 = true → Raises i s (v.setCtx c x) c (wordDS op f) { code := 0x0C })
    let run (i : Instr) (o : Nat) (op : StrOp) (acc : Acc) (n1 n2 : Nat) : Prop :=
      t.reachData c acc (t.cpieces c a1 n1) false false .string = .ok t2 r1 →
      t2.reachData c accLoad (t.cpieces c a2 n2) false false .string = .ok t3 r2 →
      (if acc.r then t3.loadData c (t.inWindow c a1) r1 n1 = .ok t4 b1 else t4 = t3 ∧ b1 = []) →
      t4.loadData c (t.inWindow c a2) r2 n2 = .ok t5 b2 → t5.needWide c = .ok v () →
      (∀ out fl, op.run l1 l2 b1 b2 = .ok out fl →
        CEffects i s v c 8 { v.ctx c with st := stFlags (v.ctx c).st fl } fun w =>
          match out with
          | some bs => w.storeData c r1 bs false false
          | none => w) ∧
      (op.run l1 l2 b1 b2 = .idiv → Raises i s v c (wordDS o f) { code := 0x0A }) ∧
      (op.run l1 l2 b1 b2 = .bad → setsD i o)
    (t.needWide c = .ok v () →
      (l1 = 0 ∨ l2 = 0 → setsD (.dsum c f) 0x60 ∧ setsD (.ddif c f) 0x61 ∧ setsD (.dmpy c f) 0x62 ∧ setsD (.dquo c f) 0x63 ∧
        setsD (.dcom c f) 0x64 ∧ setsD (.zpk c f) 0x65 ∧ setsD (.pkz c f) 0x66) ∧
      (l1 / 2 ≤ l2 / 2 → setsD (.dquo c f) 0x63) ∧
      (l1 < l2 → setsD (.zpk c f) 0x65 ∧ setsD (.pkz c f) 0x66)) ∧
    (0 < l1 → 0 < l2 →
    let n1 := l1 / 2 + 1
    let n2 := l2 / 2 + 1
    run (.dsum c f) 0x60 .add accAtomic n1 n2 ∧
    run (.ddif c f) 0x61 .sub accAtomic n1 n2 ∧
    run (.dmpy c f) 0x62 .mul accAtomic n1 n2 ∧
    (n2 < n1 → run (.dquo c f) 0x63 .div accAtomic n1 n2) ∧
    run (.dcom c f) 0x64 .cmp accLoad n1 n2 ∧
    (l2 ≤ l1 → run (.zpk c f) 0x65 .pack accStore n1 (l2 + 1) ∧ run (.pkz c f) 0x66 .unpack accStore (l1 + 1) n2))

/-- R200: BMOV moves L1 bytes in one commit, in ascending order; BCMP compares L1 bytes, the lowest address first: Z
equal, N less, C not less. -/
def Sys2Proof.Safety.ClassicBlocks : Prop :=
  ∀ (s t t1 t2 t3 v : State) (c : Nat) (f : DSFmt) (p q : List (Tr × Nat)) (b1 b2 : List Byte),
    Starts s c 8 true t → NotStepped v c → f.z = 0 → (f.p1.toNat < 24 ∨ f.p1 = 31) → (f.p2.toNat < 24 ∨ f.p2 = 31) →
    f.l2 = 0 → f.l1 ≠ 0 →
    let n := f.l1.toNat
    let a1 := classicEa t c f.p1 (f.d1.signExtend 32)
    let a2 := classicEa t c f.p2 (f.d2.signExtend 32)
    (t.reachData c accLoad (t.cpieces c a2 n) false false .block = .ok t1 p →
      t1.reachData c accStore (t1.cpieces c a1 n) false false .block = .ok t2 q →
      t2.loadData c (t2.inWindow c a2) p n = .ok v b2 →
      CEffects (.bmov c f) s v c 8 (v.ctx c) fun w => w.copyBytes c p q) ∧
    (t.reachData c accLoad (t.cpieces c a1 n) false false .string = .ok t1 p →
      t1.reachData c accLoad (t1.cpieces c a2 n) false false .string = .ok t2 q →
      t2.loadData c (t2.inWindow c a1) p n = .ok t3 b1 → t3.loadData c (t3.inWindow c a2) q n = .ok v b2 →
      b1.length = n → b2.length = n →
      CCompletes (.bcmp c f) s v c 8 { v.ctx c with st := stFlags (v.ctx c).st {
        z := some (decide (b1 = b2)), n := some (decide (beNat b1 < beNat b2)),
        c := some (decide (beNat b2 ≤ beNat b1)) } })

/-- Together: the decimal string and block instructions in Classic mode. -/
def Obligations.ClassicStringsAndBlocks : Prop :=
  ClassicDecimalStrings ∧ ClassicBlocks

/-- R197: a register field above 23, a field that the format marks zero, and a broken constraint of a row (an odd r1 or pair, an
r1 that is no multiple of 4, a field the row does not use, a shift by more than 31) raise UNDEF. -/
def Sys2Proof.Safety.ClassicReservedFields : Prop :=
  ∀ (s t : State) (c : Nat),
    (Starts s c 4 true t →
      (∀ f : R3Fmt,
        let undef (p : Instr × Nat) : Prop := Raises p.1 s t c (wordR3 p.2 f) { code := 0x06 }
        (24 ≤ f.r1.toNat ∨ 24 ≤ f.r2.toNat ∨ 24 ≤ f.r3.toNat ∨ f.z ≠ 0 → ∀ p ∈ [(Instr.sum c f, 0x01), (.sumc c f, 0x02), (.dif c f, 0x03), (.difb c f, 0x04), (.cmr c f, 0x05),
        (.anr c f, 0x06), (.orr c f, 0x07), (.eor c f, 0x08), (.cpy c f, 0x09), (.negr c f, 0x0A), (.muls c f, 0x0B),
        (.mulu c f, 0x0C), (.quo c f, 0x0D), (.rmd c f, 0x0E), (.shl c f, 0x0F), (.shr c f, 0x10), (.sha c f, 0x11),
        (.lnkr c f, 0x12), (.jmpr c f, 0x13), (.dpsum c f, 0x18), (.dpdif c f, 0x19), (.dpcmp c f, 0x1A),
        (.dpmul c f, 0x1B), (.dpquo c f, 0x1C), (.dpbin c f, 0x1D), (.dpdec c f, 0x1E), (.dpshf c f, 0x1F)], undef p) ∧
        (f.r1 ≠ 0 → ∀ p ∈ [(Instr.cmr c f, 0x05), (.jmpr c f, 0x13), (.dpcmp c f, 0x1A)], undef p) ∧
        (f.r3 ≠ 0 → ∀ p ∈ [(Instr.cpy c f, 0x09), (.negr c f, 0x0A), (.lnkr c f, 0x12), (.jmpr c f, 0x13), (.dpbin c f, 0x1D),
          (.dpdec c f, 0x1E)], undef p) ∧
        (f.r1.toNat % 2 = 1 → ∀ p ∈ [(Instr.muls c f, 0x0B), (.mulu c f, 0x0C), (.dpsum c f, 0x18), (.dpdif c f, 0x19),
          (.dpbin c f, 0x1D), (.dpdec c f, 0x1E), (.dpshf c f, 0x1F)], undef p) ∧
        (f.r2.toNat % 2 = 1 → ∀ p ∈ [(Instr.dpsum c f, 0x18), (.dpdif c f, 0x19), (.dpcmp c f, 0x1A), (.dpbin c f, 0x1D),
          (.dpdec c f, 0x1E), (.dpshf c f, 0x1F)], undef p) ∧
        (f.r1.toNat % 4 ≠ 0 → ∀ p ∈ [(Instr.dpmul c f, 0x1B), (.dpquo c f, 0x1C)], undef p)) ∧
      (∀ f : RKFmt,
        let undef (p : Instr × Nat) : Prop := Raises p.1 s t c (wordRK p.2 f) { code := 0x06 }
        (24 ≤ f.r1.toNat ∨ 24 ≤ f.r2.toNat → ∀ p ∈ [(Instr.sumk c f, 0x20), (.cmk c f, 0x21), (.ank c f, 0x22), (.ork c f, 0x23), (.eok c f, 0x24),
        (.setk c f, 0x25), (.shlk c f, 0x27), (.shrk c f, 0x28), (.shak c f, 0x29)], undef p) ∧
        (24 ≤ f.r1.toNat → undef (.sethk c f, 0x26)) ∧
        (f.r1 ≠ 0 → undef (.cmk c f, 0x21)) ∧ (f.r2 ≠ 0 → undef (.setk c f, 0x25)) ∧
        (32 ≤ f.k.toNat → ∀ p ∈ [(Instr.shlk c f, 0x27), (.shrk c f, 0x28), (.shak c f, 0x29)], undef p) ∧
        (f.r1 ≠ 0 ∨ f.r2 ≠ 0 → ∀ p ∈ [(Instr.scall c f, 0x50), (.classicCsw c f, 0x51), (.classicNop c f, 0x52),
          (.classicBrk c f, 0x53)], undef p) ∧
        (f.k ≠ 0 → ∀ p ∈ [(Instr.classicCsw c f, 0x51), (.classicNop c f, 0x52), (.classicBrk c f, 0x53)], undef p)) ∧
      (∀ f : RMFmt,
        let undef (p : Instr × Nat) : Prop := Raises p.1 s t c (wordRM p.2 f) { code := 0x06 }
        (24 ≤ f.r1.toNat ∨ (24 ≤ f.b.toNat ∧ f.b ≠ 31) → ∀ p ∈ [(Instr.lw c f, 0x30), (.lhs c f, 0x31), (.lhz c f, 0x32), (.lbs c f, 0x33), (.lbz c f, 0x34), (.sw c f, 0x35),
        (.shw c f, 0x36), (.sby c f, 0x37), (.adr c f, 0x38), (.lnk c f, 0x39), (.lpw c f, 0x3A), (.spw c f, 0x3B),
        (.swpc c f, 0x3C)], undef p) ∧
        (f.r1.toNat % 2 = 1 → ∀ p ∈ [(Instr.lpw c f, 0x3A), (.spw c f, 0x3B), (.swpc c f, 0x3C)], undef p))) ∧
    (Starts s c 8 true t →
      ∀ f : DSFmt,
        let undef (p : Instr × Nat) : Prop := Raises p.1 s t c (wordDS p.2 f) { code := 0x06 }
        ((24 ≤ f.p1.toNat ∧ f.p1 ≠ 31) ∨ (24 ≤ f.p2.toNat ∧ f.p2 ≠ 31) ∨ f.z ≠ 0 → ∀ p ∈ [(Instr.dsum c f, 0x60), (.ddif c f, 0x61), (.dmpy c f, 0x62), (.dquo c f, 0x63), (.dcom c f, 0x64),
        (.zpk c f, 0x65), (.pkz c f, 0x66), (.bmov c f, 0x67), (.bcmp c f, 0x68)], undef p) ∧
        (f.l2 ≠ 0 ∨ f.l1 = 0 → ∀ p ∈ [(Instr.bmov c f, 0x67), (.bcmp c f, 0x68)], undef p))

/-- R102, R197: a word with a reserved major opcode, func or sub-op raises UNDEF, with the word in CAUSE; so does a
Classic word with an opcode that R200 does not list. -/
def Sys2Proof.Safety.ReservedOpcodes : Prop :=
  ∀ (s t : State) (c : Nat) (w : Half), NotStepped t c →
    (Starts s c 4 false t → (0x39 ≤ w.toNat / 2 ^ 26 ∨ w.toNat / 2 ^ 26 = 5 ∨ (w.toNat / 2 ^ 26 = 7 ∧ 0x13 < w.toNat % 64)) →
      Raises (.reservedOpcode c w) s t c w.toNat { code := 0x06 }) ∧
    (Starts s c 4 true t → (0x69 ≤ w.toNat / 2 ^ 24 ∨ w.toNat / 2 ^ 24 = 0 ∨ (0x14 ≤ w.toNat / 2 ^ 24 ∧ w.toNat / 2 ^ 24 < 0x18)) →
      Raises (.reservedOpcode c w) s t c w.toNat { code := 0x06 })

/-- Together: Classic branches and system instructions, reserved fields, and opcodes no instruction has. -/
def Obligations.ClassicControlResults : Prop :=
  ClassicControl ∧ ClassicReservedFields ∧ ReservedOpcodes

/-- R120, R221 to R224: a unit of SAVEM or LOADM in one block, its header `h` read from the block at ra: the items from
`p` on to the end of the sector or the selection; rd counts the items done, and the instruction is left with the last. What the
instruction keeps between its units is noted under its PC, and is gone after the last. A form that R224 does not allow raises
UNDEF, and one below S raises PRIV. -/
def Sys2Proof.Safety.SaveAndLoadUnits : Prop :=
  (∀ (s t t1 t2 v : State) (c : Nat) (f : SFmt) (hp bp pp : List (Tr × Nat)) (hb : List Byte),
    Starts s c 4 false t → f.imm.toNat ≤ 1 → f.rd ≠ f.ra → f.rd ≠ 0 → f.ra ≠ 0 → 1 ≤ t.level c →
    let a := t.g c f.ra
    let p := (t.g c f.rd).toNat
    let h := SaveHead.of hb
    let l := saveItems h.gmask h.xmask
    let at_ (o : Nat) : Word := a + BitVec.ofNat 64 o
    let here := (s.ctx c).pc
    t.reachData c accLoad (pagePieces (at_ 0).toNat 64) false false .block = .ok t1 hp → t1.loadData c a hp 64 = .ok t2 hb →
    a.toNat % 64 = 0 → 0 < h.size → h.size ≤ 63 → h.xmask < 2 ^ 10 → h.rest = 0 → h.prog < 2 ^ 15 → bitOf h.prog 7 = false →
    h.first = 0 → l.length ≤ 8 * h.size → p < l.length → t2.g c f.ra = a → (t2.ctx c).pc = here →
    (0 < p → (AMap.get {} (t2.ctx c).blocks here.toNat).entered = none) →
    let k := min (8 - p % 8) (l.length - p)
    let items := (l.drop p).take k
    let done : Bool := decide (p + k = l.length)
    let next := if done then here + 4 else here
    -- the context `x` with rd moved, and nothing noted elsewhere changed
    let moved (u : State) (x : Ctx) : Prop :=
      CtxIs u c { x.writeG f.rd.toNat (BitVec.ofNat 64 (p + k)) with blocks := (u.ctx c).blocks } next ∧
      (∀ q, q ≠ here.toNat → AMap.get {} (u.ctx c).blocks q = AMap.get {} x.blocks q) ∧
      (AMap.get {} (u.ctx c).blocks here.toNat).entered = none ∧
      (done = true → AMap.get {} (u.ctx c).blocks here.toNat = {})
    -- SAVEM: the items go to the block, and with the last its progress word
    (bitOf h.gmask 0 = false → bitOf h.gmask f.ra.toNat = false → bitOf h.gmask f.rd.toNat = false →
      ∀ w1 w2 : State,
        t2.reachData c accStore (pagePieces (at_ (0x40 + 8 * p)).toNat (8 * k)) false false .block = .ok w1 bp →
        w1.reachData c accStore (pagePieces (at_ 0x20).toNat 8) false false .block = .ok w2 pp →
        w2.bankIf c (l.any SaveItem.wide) = .ok v () →
        ∃ u, exec (.savem c f) s = .next u ∧
          (let m0 := v.storeData c bp (items.flatMap fun i => leBytes 8 ((v.ctx c).item i).toNat) true false
           let m1 := if p = 0 then m0.storeData c pp (progWord 0 0) false false else m0
           let m := if done then m1.storeData c pp (progWord 0 l.length) false false else m1
           u.mem = m.mem ∧ (∀ d, d ≠ c → u.ctx d = m.ctx d) ∧ moved u (m.ctx c))) ∧
    -- LOADM: an item of a register other than ra and rd is written with its unit, the others with the last unit
    ((done = true → h.count = l.length) →
      ∀ (w1 w2 : State) (bs : List Byte),
        t2.reachData c accLoad (pagePieces (at_ (0x40 + 8 * p)).toNat (8 * k)) false false .block = .ok w1 bp →
        w1.loadData c (at_ (0x40 + 8 * p)) bp (8 * k) = .ok w2 bs →
        w2.bankIf c (l.any SaveItem.wide) = .ok v () →
        let put (kept : Bool) (x : Ctx) : Ctx :=
          (((items.zip (List.range k)).filter fun e => e.1.held f == kept).foldl
            (fun (x : Ctx) e => x.putItem e.1 (leWord ((bs.drop (8 * e.2)).take 8))) x)
        ∃ u, exec (.loadm c f) s = .next u ∧ u.mem = v.mem ∧ (∀ d, d ≠ c → u.ctx d = v.ctx d) ∧
          (done = false → moved u (put false (v.ctx c))) ∧
          (p = 0 → done = true →
            CtxIs u c { put true ((put false (v.ctx c)).writeG f.rd.toNat (BitVec.ofNat 64 (p + k))) with
              blocks := (u.ctx c).blocks } next))) ∧
  (∀ (s t : State) (c : Nat) (f : SFmt), Starts s c 4 false t →
    (2 ≤ f.imm.toNat ∨ f.rd = f.ra ∨ f.rd = 0 ∨ f.ra = 0 →
      Raises (.savem c f) s t c (wordS 0x12 f) { code := 0x06, detail := 0x02 } ∧
      Raises (.loadm c f) s t c (wordS 0x13 f) { code := 0x06, detail := 0x02 }) ∧
    (f.imm.toNat ≤ 1 → f.rd ≠ f.ra → f.rd ≠ 0 → f.ra ≠ 0 → t.level c = 0 →
      Raises (.savem c f) s t c (wordS 0x12 f) { code := 0x07, detail := 0x01 } ∧
      Raises (.loadm c f) s t c (wordS 0x13 f) { code := 0x07, detail := 0x01 }))

/-- Together: Classic loads and stores, and the units of SAVEM and LOADM. -/
def Obligations.ClassicMemoryAndUnits : Prop :=
  ClassicMemory ∧ SaveAndLoadUnits

/-! ### Power input, power states, lands -/

/-- R10 to R12, R76, R585: what a Cold or a Module reset of `s` leaves in `t`: a register field that its entry keeps is
unchanged, every other field of the map but the count of the reset is at its entry; contexts, cores, Collar, DRAM, caches,
lanes, engines and Seam are cleared, the Hem dies, the journal and the flash are kept, and every output is undriven. -/
structure Sys2Proof.Safety.ResetLeaves (cold : Bool) (cause : Nat) (s t : State) : Prop where
  phase : t.power.phase = if cold then .coldReset else .moduleReset
  cause : t.power.cause = cause ∧ t.power.vinA = s.power.vinA ∧ t.power.vinB = s.power.vinB ∧ t.power.cap = s.power.cap
  count : t.fget (if cold then LIFE_POWERON.COLDRESETS else LIFE_RESETS.MODULE) =
    (let f := if cold then LIFE_POWERON.COLDRESETS else LIFE_RESETS.MODULE
     min (2 ^ f.width - 1) (s.fget f + 1))
  fields : ∀ f : Field, fieldAt f.key = some f →
    f.key ≠ (if cold then LIFE_POWERON.COLDRESETS else LIFE_RESETS.MODULE).key →
    (∀ g ∈ [CLOAK_ROOTSTAT.STATE, CLOAK_ROOTSTAT.SHARES, CLOAK_ROOTSTAT.KCV, APRON_ID.ROOTKEY], f.key ≠ g.key) →
    t.fget f = if (if cold then f.rC else f.rM).kept cold then s.fget f else f.dflt
  contexts : t.ctxs = [] ∧ t.core = {} ∧ t.collar = {} ∧ t.dbg = {} ∧ t.seam = {} ∧ t.tod = 0
  dram : t.mem = { h0 := t.mem.h0, h1 := t.mem.h1, winPoison := s.mem.winPoison }
  journal : s.openTxns = [] → t.triad.j0 = s.triad.j0 ∧ t.triad.j1 = s.triad.j1 ∧ t.triad.txns = []
  windows : s.mem.winFlight = [] → t.mem.h0 = s.mem.h0 ∧ t.mem.h1 = s.mem.h1
  wear : t.triad.wear = s.triad.wear ∧ t.triad.wearG = s.triad.wearG ∧ t.triad.retiredDie = s.triad.retiredDie
  port : t.tap = if cold then {} else s.tap
  flash : t.tailor = { flash := s.tailor.flash, flashSize := s.tailor.flashSize } ∧ t.apron = s.apron
  lands : t.pins.hiZ = true ∧ t.pins.failN = true ∧ t.pins.ready = false ∧ t.pins.ppsOut = false ∧
    t.pins.dimmPwr = [] ∧ t.pins.ddrResetN = [] ∧ t.pins.present = s.pins.present
  queue : t.pending = s.pending

/-- R10, R11, R585, R586: the commands that start a reset. -/
def Obligations.ResetsLeave : Prop :=
  ∀ (s : State) (cause : Nat),
    (∃ t, exec .coldReset s = .next t ∧ ResetLeaves true s.coldCause s t) ∧
    (s.power.phase ∈ [Phase.moduleReset, .lockWait, .bootFailed, .service, .run] →
      ∃ t, exec (.moduleReset cause) s = .next t ∧ ResetLeaves false (cause % 16) s t) ∧
    (∀ cold, s.power.phase = .softStart cold →
      ∃ t, exec .softStartEnd s = .next t ∧ ResetLeaves cold s.power.cause s t) ∧
    (∀ t0, s.power.phase = .thermal → t0 ≤ 140 + 64 →
      ∃ t, exec (.thermalRestart t0) s = .next t ∧
        ResetLeaves false 8 { s with power := { s.power with hottest := t0 } } t) ∧
    (s.power.phase ∈ [Phase.moduleReset, .lockWait, .bootFailed, .service, .run] →
      ∃ t, exec .resetNAssert s = .next t ∧ t.pins.resetN = false ∧
        ResetLeaves false 3 { s with pins := { s.pins with resetN := false } } t) ∧
    (s.power.phase = .vault → exec .resetNAssert s = .next { s with pins := { s.pins with resetN := false } }) ∧
    exec .resetNRelease s = .next { s with pins := { s.pins with resetN := true } }

/-- R41, R43: the sensed voltages in mV with the power cap in mW that they leave: the smaller of 1,350 W and 25.0 A times the
voltage of each pair that is present. -/
def Sys2Proof.Safety.volts (a b : Nat) (s : State) : State :=
  let stage (v : Nat) : Nat := if v < 33000 then 0 else 25 * v
  { s with power := { s.power with vinA := a, vinB := b, cap := min 1350000 (stage a + stage b) } }

/-- The state with the voltages of the pairs sensed (R41): POWER.INPUT follows them while the Hub reads its registers, with
the currents free (log entry 1). -/
def Sys2Proof.Safety.Senses (a b : Nat) (s t : State) : Prop :=
  let volts (s : State) : State := volts a b s
  (s.power.phase = .run ∨ s.power.phase = .service → ∃ ia ib, Alters s t (fun s => { volts s with fresh := s.fresh + 1 })
    [fits POWER_INPUT.VIN_A (a / 10), fits POWER_INPUT.VIN_B (b / 10), fits POWER_INPUT.IIN_A ia, fits POWER_INPUT.IIN_B ib]) ∧
  (s.power.phase ≠ .run → s.power.phase ≠ .service → t = volts s)

/-- The lands that no reset, no stop and no Vault leaves driven (R45, R76). -/
def Sys2Proof.Safety.undriven (s : State) : State :=
  { s with pins := { s.pins with hiZ := true, failN := true, ready := false, ppsOut := false, dimmPwr := [], ddrResetN := [] } }

/-- R45: from `s1` the module stops: outputs undriven, the stop counted, LASTSTOP written to its Keep entry, the lifetime
words flushed, and the phase is `ph`. -/
def Sys2Proof.Safety.StopsInput (i : Instr) (s s1 : State) (ph : Phase) (last : Nat) (count : Field) : Prop :=
  ∃ t, Alters s1 t undriven [counts s1 count 1] ∧
    exec i s = .next (let k := (t.keepWrite POWER_STATUS.LASTSTOP last).1
      { k with apron := { k.apron with lifeFlushed := AMap.keep isLifeKey k.fields }, power := { k.power with phase := ph } })

/-- A flag of POWER.STATUS sets, once, with a corrected-class event of action 0x3 (R67). -/
def Sys2Proof.Safety.Flags (i : Instr) (s s1 : State) (f : Field) (die unit : Nat) : Prop :=
  (s1.fget f = 1 → exec i s = .next s1) ∧
  (s1.fget f ≠ 1 → ∃ t, Alters s1 t id [(f, 1)] ∧
    exec i s = .next (t.raiseC { loc := 3 * 2 ^ 60 + die * 2 ^ 56 + 0xFF * 2 ^ 48 + unit * 2 ^ 40 }))

/-- R41 to R45: the input's thresholds, in mV of the higher pair. -/
def Sys2Proof.Safety.PowerInputResults : Prop :=
  ∀ (s : State) (a b : Nat),
    let vin (s : State) : State := volts a b s
    let sens := s.sense a b
    let at_ (i : Instr) (ph : Phase) : Prop :=
      exec i s = .next { vin s with power := { (vin s).power with phase := ph } }
    let stops (i : Instr) := StopsInput i s sens
    Senses a b s sens ∧
    (s.power.phase = .off → 34700 ≤ max a b →
      exec (.undervoltageRelease a b) s = .next { vin s with
        power := { (vin s).power with phase := .softStart true, cause := s.coldCause } }) ∧
    (max a b < 33300 →
      (s.power.phase = .off → exec (.undervoltageTrip a b) s = .next (vin s)) ∧
      ((s.power.phase ∈ [Phase.vault, .overvoltage, .thermal] ∨ ∃ x, s.power.phase = .softStart x) →
        at_ (.undervoltageTrip a b) .off) ∧
      (s.power.phase ∈ [Phase.coldReset, .moduleReset, .lockWait, .bootFailed, .service, .run] →
        stops (.undervoltageTrip a b) .off 1 LIFE_STOPS.UNDER)) ∧
    (79700 ≤ max a b →
      (s.power.phase ∈ [Phase.off, .overvoltage] → exec (.overvoltageShutdown a b) s = .next (vin s)) ∧
      -- the dies are off already (log entry 117)
      ((s.power.phase ∈ [Phase.vault, .thermal] ∨ ∃ x, s.power.phase = .softStart x) → at_ (.overvoltageShutdown a b) .overvoltage) ∧
      (s.power.phase ∈ [Phase.coldReset, .moduleReset, .lockWait, .bootFailed, .service, .run] →
        stops (.overvoltageShutdown a b) .overvoltage 2 LIFE_STOPS.OVER)) ∧
    (s.power.phase = .overvoltage → max a b ≤ 77300 →
      (s.power.hottest ≤ 140 + 64 → exec (.overvoltageRecovery a b) s = .next { vin s with
        power := { (vin s).power with phase := .softStart false, cause := 7 } }) ∧
      (140 + 64 < s.power.hottest → at_ (.overvoltageRecovery a b) .thermal)) ∧
    (s.power.phase = .run →
      (max a b < 36300 → 32700 ≤ max a b → Flags (.brownout a b) s sens POWER_STATUS.BROWN 9 3) ∧
      (74700 < max a b → max a b < 80300 → Flags (.overvoltageFlag a b) s sens POWER_STATUS.OVER 9 3) ∧
      (a < 33300 → 32700 ≤ b → Flags (.pairLost 0 a b) s sens POWER_STATUS.A_LOST 9 1) ∧
      (∀ p, p ≠ 0 → b < 33300 → 32700 ≤ a → Flags (.pairLost p a b) s sens POWER_STATUS.B_LOST 9 2))

/-- The fields of a cluster whose limits are `t` and `k` MHz (R65): it runs at the lower, LIMIT names the one that holds,
the temperature's where both do. -/
def Sys2Proof.Safety.clusterShows (c t k : Nat) : List (Field × Nat) :=
  [fits (POWER_CLUSTER.FREQ c) (min t k),
   (POWER_CLUSTER.LIMIT c, if 4600 ≤ t ∧ 4600 ≤ k ∧ min t k = 4600 then 0 else if t ≤ k then 1 else 2)]

/-- R64 to R67: the clusters' clocks, the thermal stop, the cold sensor. -/
def Sys2Proof.Safety.ClockAndThermalResults : Prop :=
  ∀ (s : State) (c t0 drawn : Nat),
    let cap := AMap.get 4600 s.power.capLimit c
    let lim := AMap.get 4600 s.power.tempLimit c
    let setCap (m : Nat) (s : State) : State := { s with power := { s.power with capLimit := AMap.set 4600 s.power.capLimit c m } }
    let setLim (m : Nat) (s : State) : State := { s with power := { s.power with tempLimit := AMap.set 4600 s.power.tempLimit c m } }
    let tj (d : Nat) : Nat := s.fget (POWER_CLUSTER.TJ d)
    let clock (t : Nat) : Nat := if t ≤ 110 + 64 then 4600 else if t ≤ 130 + 64 then 4000 else 3200
    (s.power.phase = .run → c < 12 →
      -- below the power cap the clocks rise again, above it they fall (R43)
      (cap < 4600 → drawn ≤ s.power.cap → Does (.powerCapStep c drawn) s (setCap (cap + 100)) (clusterShows c lim (cap + 100))) ∧
      (4600 ≤ cap → drawn ≤ s.power.cap → Idles (.powerCapStep c drawn) s) ∧
      -- the hottest cluster above the floor goes first
      (1600 < cap → s.power.cap < drawn → (∀ d, d < 12 → 1600 < AMap.get 4600 s.power.capLimit d → tj d ≤ tj c) →
        ∃ s1, Alters s s1 (setCap (cap - 100)) (clusterShows c lim (cap - 100)) ∧
          Flags (.powerCapStep c drawn) s s1 POWER_STATUS.CAPPED 9 3) ∧
      (clock t0 < lim →
        ∃ s1, Alters s s1 (setLim (clock t0)) (fits (POWER_CLUSTER.TJ c) t0 :: clusterShows c (clock t0) cap) ∧
          Flags (.clusterClockStepDown c t0) s s1 POWER_STATUS.HOT 0xF 0) ∧
      (lim < clock (t0 + 5) →
        Does (.clusterClockStepUp c t0) s (setLim (clock (t0 + 5)))
          (fits (POWER_CLUSTER.TJ c) t0 :: clusterShows c (clock (t0 + 5)) cap))) ∧
    (s.hubOn = true → 155 + 64 ≤ t0 →
      StopsInput (.thermalStop t0) s { s with power := { s.power with hottest := t0 } } .thermal 3 LIFE_STOPS.THERMAL) ∧
    (s.power.phase = .overvoltage → t0 ≤ 140 + 64 →
      exec (.thermalRestart t0) s = .next { s with power := { s.power with hottest := t0 } }) ∧
    (s.power.phase = .coldReset →
      exec (.coldSensorResample t0) s = .next { s with power := { s.power with coldest := t0 } })

/-- R57 to R59: what a look and a new tolerance leave in `t`: the least finite term is shown, or all ones when every term is
unbounded; a fall below the exit latency of the present state begins the exit. -/
def Sys2Proof.Safety.ShowsTolerance (s t : State) : Prop :=
  ∃ s1, s1 = s.look ∧
    (∀ m, (∀ x ∈ s1.tolTerms, ∀ v, x.2 = some v → m ≤ v) → (∃ x ∈ s1.tolTerms, x.2 = some m) →
      t.fget POWER_TEFF.TOL = m % 2 ^ 40) ∧
    ((∀ x ∈ s1.tolTerms, x.2 = none) → t.fget POWER_TEFF.TOL = 2 ^ 40 - 1) ∧
    (let lat := [0, 200, 15000, 300000, 80000000].getD (s.fget POWER_STATE.CUR) 0
     ((∃ x ∈ s1.tolTerms, ∃ v, x.2 = some v ∧ v < lat) → s.power.phase = .run → s.fget POWER_STATE.CUR ≤ 3 →
       t.fget POWER_STATE.MOVING = 1 ∧ t.fget POWER_STATE.GOAL = 0) ∧
     ((∀ x ∈ s1.tolTerms, ∀ v, x.2 = some v → lat ≤ v) →
       t.fget POWER_STATE.MOVING = s.fget POWER_STATE.MOVING ∧ t.fget POWER_STATE.GOAL = s.fget POWER_STATE.GOAL)) ∧
    (∀ f : Field, f.key ∉ [POWER_TEFF.TOL.key, POWER_TEFF.SRC_FW.key, POWER_TEFF.SRC_MOD.key, POWER_TEFF.SRC_PART.key,
        POWER_STATE.GOAL.key, POWER_STATE.MOVING.key] → t.fget f = s.fget f) ∧
    t = { s1 with fields := t.fields }

/-- R57 to R59: a write of a tolerance register. -/
def Sys2Proof.Safety.ToleranceWrites : Prop :=
  ∀ (s : State) (n : Nat) (w : Word), s.power.phase = .run →
    let v := w.toNat
    (∃ s1 t, Alters s s1 id [(POWER_LTRFW.VALUE, v % 2 ^ 10), (POWER_LTRFW.SCALE, v / 2 ^ 10 % 8),
        (POWER_LTRFW.UNBOUNDED, v / 2 ^ 15 % 2)] ∧ exec (.ltrWrite true n w) s = .next t ∧ ShowsTolerance s1 t) ∧
    (n < 256 → ∃ s1 t, Alters s s1 id [(PART_LTR.VALUE n, v % 2 ^ 10), (PART_LTR.SCALE n, v / 2 ^ 10 % 8),
        (PART_LTR.UNBOUNDED n, v / 2 ^ 15 % 2)] ∧ exec (.ltrWrite false n w) s = .next t ∧ ShowsTolerance s1 t)

/-- R50 to R56: entry to Park, Nap, Drowse and Shutter, and the return to Run. -/
def Sys2Proof.Safety.PowerStateResults : Prop :=
  ∀ (s : State), s.power.phase = .run →
    let s1 := s.look.updTeff
    let tol := (leastTol s1.tolTerms).2
    let holds (ns : Nat) : Prop := ∀ a, tol = some a → ns ≤ a
    let cur := s.fget POWER_STATE.CUR
    let moving := s.fget POWER_STATE.MOVING = 1
    let goal := s.fget POWER_STATE.GOAL
    let enters (st : State) (k : Nat) : Prop := ∃ t, Alters st t id [(POWER_STATE.CUR, k), (POWER_STATE.GOAL, k)] ∧
      exec .powerStateEntry s = .next t
    let en (kind : Nat) : Field := if kind = 1 then POWER_WAKE.WAKE_EN else if kind = 2 then POWER_WAKE.ALARM_EN
      else if kind = 3 then POWER_WAKE.SEAM_EN else POWER_WAKE.ADAPTER_EN
    let toRun := [(POWER_STATE.GOAL, 0), (POWER_STATE.MOVING, 1)]
    -- entry chooses the deepest state that the tolerance admits (R51)
    (cur = 0 → ¬ moving → s.fget POWER_CTL.AUTO = 1 → (∀ c, c < 768 → s.pk c ≠ 3 ∧ s.pk c ≠ 4) →
      (holds 300000 → enters (s1.allL2Off.l3GroupsOff (· == 0)).refreshAll 3) ∧
      (¬ holds 300000 → holds 15000 → enters s1.allL2Off 2) ∧
      (¬ holds 15000 → holds 200 → enters s1 1)) ∧
    -- a wake event in Park, Nap and Drowse, and in Shutter with its enable (R52, R56)
    (∀ kind, 1 ≤ kind → kind ≤ 4 →
      (1 ≤ cur → cur ≤ 3 → ¬ moving → goal ≠ 4 → kind ≠ 2 → Does (.wakeEvent kind) s id toRun) ∧
      (cur = 4 → ¬ moving → s.fget (en kind) = 1 → Does (.wakeEvent kind) s id ((POWER_WAKE.CAUSE, kind) :: toRun)) ∧
      (cur = 4 → ¬ moving → s.fget (en kind) ≠ 1 → Idles (.wakeEvent kind) s) ∧
      -- an entry to Shutter is abandoned
      (moving → goal = 4 → s.fget (en kind) = 1 → Does (.wakeEvent kind) s id ((POWER_WAKE.CAUSE, kind) :: toRun))) ∧
    (1 ≤ cur → cur ≤ 3 → ¬ moving → goal = cur → Idles (.wakeEvent 2) s) ∧
    -- a Vault entry is abandoned by a Module reset (R61)
    (moving → goal = 5 → ∀ kind, (kind = 1 ∨ kind = 2) → s.fget (en kind) = 1 →
      ∃ s2 t, Alters s s2 id [(POWER_WAKE.CAUSE, kind)] ∧ exec (.wakeEvent kind) s = .next t ∧ ResetLeaves false 6 s2 t) ∧
    -- the exit ends
    (moving → goal = 0 →
      (cur = 0 → Does .powerStateExitEnd s id [(POWER_STATE.MOVING, 0)]) ∧
      (1 ≤ cur → cur ≤ 3 → ∃ t, Alters s t id [(POWER_STATE.MOVING, 0)] ∧
        exec .powerStateExitEnd s =
          .next (((if cur = 3 then t.refreshAll else t).cachesOn (cur == 3)).fset POWER_STATE.CUR 0)) ∧
      (cur = 4 → Does .powerStateExitEnd s id [(POWER_STATE.MOVING, 0)] State.shutterEnd)) ∧
    -- POWER.CTL.WAKE (R56, R61)
    (cur = 4 → ¬ moving → Does .powerWakeWrite s id ((POWER_WAKE.CAUSE, 5) :: toRun)) ∧
    (moving → goal = 4 → Does .powerWakeWrite s id ((POWER_WAKE.CAUSE, 5) :: toRun)) ∧
    (moving → goal = 5 →
      ∃ s2 t, Alters s s2 id [(POWER_WAKE.CAUSE, 5)] ∧ exec .powerWakeWrite s = .next t ∧ ResetLeaves false 6 s2 t)

/-- R54, R61 to R63: the requests for Shutter and Vault, in the order of their conditions, their entries and the end of
Vault. -/
def Sys2Proof.Safety.ShutterAndVaultResults : Prop :=
  ∀ (s : State),
    let s1 := s.look.updTeff
    let tol := (leastTol s1.tolTerms).2
    let moving := s1.fget POWER_STATE.MOVING = 1
    let vaulting := moving ∧ s1.fget POWER_STATE.GOAL = 5
    let inShutter := (s1.fget POWER_STATE.CUR = 4 ∧ ¬ moving) ∨ (moving ∧ s1.fget POWER_STATE.GOAL = 4)
    let runs := ∃ c, c < 768 ∧ (s1.pk c = 3 ∨ s1.pk c = 4)
    let refuses (i : Instr) (k : Nat) : Prop := ∃ t, Alters s1 t id [(POWER_STATE.REFUSE, k)] ∧ exec i s = .next t
    let active := ∃ n, n < 256 ∧ s1.fget (PART_STATE.STATE n) ≠ 0
    let ordinary := (∃ e ∈ s1.openTxns, e.2.vital = false) ∨ ∃ f ∈ s1.triad.flights, hdrVital f.jr.hdr = false
    let faulty := s1.fget FAULT_STAT.FSTATE = 1
    let noWake := s1.fget POWER_WAKE.WAKE_EN ≠ 1 ∧ s1.fget POWER_WAKE.ALARM_EN ≠ 1
    (s.power.phase = .run →
      -- a request for what holds already changes nothing; while another move is in progress the conditions decide (log
      -- entry 118)
      (vaulting → exec .shutterRequest s = .next s1 ∧ exec .vaultRequest s = .next s1) ∧
      (inShutter → exec .shutterRequest s = .next s1) ∧
      (¬ vaulting → ¬ inShutter →
        (runs → refuses .shutterRequest 2) ∧
        (¬ runs → (∃ a, tol = some a ∧ a < 80000000) → refuses .shutterRequest 4) ∧
        (¬ runs → (∀ a, tol = some a → 80000000 ≤ a) → faulty → refuses .shutterRequest 5) ∧
        (¬ runs → (∀ a, tol = some a → 80000000 ≤ a) → ¬ faulty →
          ∃ t, Alters s1 t id [(POWER_STATE.GOAL, 4), (POWER_STATE.MOVING, 1)] ∧ exec .shutterRequest s = .next t)) ∧
      (¬ vaulting →
        (s1.pins.vaultAllow = false → refuses .vaultRequest 1) ∧
        (s1.pins.vaultAllow = true →
          (active → refuses .vaultRequest 2) ∧
          (¬ active → ordinary → refuses .vaultRequest 3) ∧
          (¬ active → ¬ ordinary → tol ≠ none → refuses .vaultRequest 4) ∧
          (¬ active → ¬ ordinary → tol = none → faulty → refuses .vaultRequest 5) ∧
          (¬ active → ¬ ordinary → tol = none → ¬ faulty → noWake → refuses .vaultRequest 6) ∧
          (¬ active → ¬ ordinary → tol = none → ¬ faulty → ¬ noWake →
            ∃ t2, Alters s1 t2 id [(POWER_STATE.GOAL, 5), (POWER_STATE.MOVING, 1)] ∧
              ∃ t, exec .vaultRequest s = .next t ∧
                (let k := ((t2.vaultLinks.vaultHem.keepWrite POWER_STATUS.LASTSTOP 4).1.fcount LIFE_VAULT.ENTRIES 1)
                 t = { k with apron := { k.apron with lifeFlushed := AMap.keep isLifeKey k.fields,
                                                      calfloor := k.apron.count / 4096000000, calfloorBad := false } })))) ∧
      (s.fget POWER_STATE.MOVING = 1 → s.fget POWER_STATE.GOAL = 4 →
        ∃ t, Alters (((s.shutterCtxs.foldl State.fullSave s).allL2Off.drainAgent 48).l3GroupsOff fun _ => false).refreshAll t id
          [(POWER_STATE.CUR, 4), (POWER_STATE.MOVING, 0)] ∧ exec .shutterEntryEnd s = .next t) ∧
      (s.fget POWER_STATE.MOVING = 1 → s.fget POWER_STATE.GOAL = 5 →
        exec .vaultEntryEnd s = .next { undriven s with power := { s.power with phase := .vault } })) ∧
    (s.power.phase = .vault →
      let en (kind : Nat) : Field := if kind = 1 then POWER_WAKE.WAKE_EN else POWER_WAKE.ALARM_EN
      ∀ kind, (kind = 1 ∨ kind = 2) →
        (s.fget (en kind) = 1 → Does (.vaultExit kind) s
          (fun s => { s with power := { s.power with phase := .softStart false, cause := 6 } }) [(POWER_WAKE.CAUSE, kind)]) ∧
        (s.fget (en kind) ≠ 1 → Idles (.vaultExit kind) s))

/-- Together: latency tolerance and the power states. -/
def Obligations.PowerStates : Prop :=
  ToleranceWrites ∧ PowerStateResults ∧ ShutterAndVaultResults

/-- R79, R81 to R84, R88, R540: the board's lands: WAKE_N, PRSNT_N, REFCLK, the Sloe clock and the pulses. -/
def Sys2Proof.Safety.BoardLandResults : Prop :=
  ∀ (s : State) (n : Nat) (b : Bool),
    let low := { s with pins := { s.pins with wakeN := false } }
    let fit := { s with pins := { s.pins with present := AMap.set false s.pins.present n b } }
    -- WAKE_N counts as a new event only after it has rested high
    exec (.wakeNAssert false) s = .next low ∧
    (s.power.phase = .vault → exec (.wakeNAssert true) s = exec (.vaultExit 1) low) ∧
    (s.power.phase = .run → exec (.wakeNAssert true) s = exec (.wakeEvent 1) low) ∧
    (s.power.phase ≠ .run → s.power.phase ≠ .vault → exec (.wakeNAssert true) s = .next low) ∧
    -- PRSNT_N
    (n < 256 → (b = true ∨ s.power.phase ≠ .run) → exec (.prsntChange n b) s = .next fit) ∧
    (n < 256 → b = false → s.power.phase = .run → exec (.prsntChange n b) s = .next (fit.unfit n)) ∧
    -- REFCLK
    (s.power.phase = .lockWait →
      exec (.refclkLockRetry false) s = .next s ∧
      exec (.refclkLockRetry true) s = .next { s with
        pins := { (undriven s).pins with refclk := true }, faults := { s.faults with bootFail := false },
        power := { s.power with phase := .moduleReset } }) ∧
    ((s.power.phase = .run ∨ s.power.phase = .service) →
      let s1 := ({ s with pins := { s.pins with refclk := false } }).raise { loc := 0xAFFF010000000000 }
      ∃ t, exec .refclkLoss s = .next t ∧ ResetLeaves false 5 s1 t) ∧
    -- the Sloe clock
    (s.apron.powered = true →
      Does .sloeFail s id [(APRON_STAT.INTOSC, 1), (APRON_STAT.SLOEOK, 0), (APRON_STAT.CALVALID, 0)]
        (·.raiseC { loc := 0x24FF1A0000000000 }) ∧
      Does .sloeReturn s id [(APRON_STAT.INTOSC, 0), (APRON_STAT.SLOEOK, 1)]) ∧
    -- the pulses
    (s.power.phase ≠ .run → exec .ppsInEdge s = .next { s with pins := { s.pins with ppsIn := true } }) ∧
    (s.power.phase = .run → exec .ppsInEdge s = .next ({ s with pins := { s.pins with ppsIn := true } }).ppsEdge) ∧
    (s.power.phase = .run → s.pins.hiZ = false →
      ∃ t, exec .ppsOutSecond s = .next t ∧ t.pins = { s.pins with ppsOut := decide (s.fget SEAM_TODSTAT.VALID = 1) } ∧
        t.tod % 4096000000 = 0 ∧ s.look.tod ≤ t.tod ∧ t.tod < s.look.tod + 4096000000 ∧
        t = { s.look with pins := t.pins, tod := t.tod })

/-- Together: the power input, clocks, thermal events and lands. -/
def Obligations.PowerInputClocksAndLands : Prop :=
  PowerInputResults ∧ ClockAndThermalResults ∧ BoardLandResults

/-! ### Test port, debug, Pockets, patches and core sparing -/

/-- R91, R92, R340: the instructions of the test port: what is selected, driven and captured; the boundary cells are loaded,
and a boundary instruction forces the lanes it names down. -/
def Obligations.TestPortResults : Prop :=
  ∀ (s : State) (cells : List Bool) (lanes : List Nat) (code : Nat), s.hubOn = true →
    let sel (s : State) (i : TapInstr) (drive off : Bool) (cap : List Bool) : State :=
      { s with tap := { s.tap with ir := i, drive := drive, allHighZ := off, capture := cap } }
    let down (t : State) : State := if s.power.phase = .run then
      (lanes.filter (· < 512)).foldl (fun u m => u.laneDown m 1) t else t
    -- IDCODE, bit 0 first
    let id := [true, true, false, true, false, true, false, false, true, true, true, true, false, true, true, false,
               true, false, true, false, true, true, false, true, false, false, true, false, true, false, false, false]
    let loads (i : Instr) (k : TapInstr) (drive : Bool) (after : State → State) : Prop :=
      ∃ (bits : List Bool) (b : AMap Bool), bits.length = 6611 ∧
        (∀ n, n < 6611 → AMap.get false b n = cells.getD n false) ∧
        (∀ n, 6611 ≤ n → AMap.get false b n = AMap.get false s.tap.boundary n) ∧
        exec i s = .next (after { s with
          tap := { s.tap with ir := k, drive := drive, allHighZ := false, capture := bits, boundary := b }
          fresh := s.fresh + 1 })
    exec .idcode s = .next (sel s .idcode false false id) ∧
    exec .testLogicReset s = .next (sel s .idcode false false id) ∧
    loads (.samplePreload cells) .samplePreload false (fun t => t) ∧
    loads (.extest cells lanes) .extest true down ∧
    exec (.clamp lanes) s = .next (down (sel s .clamp true false [false])) ∧
    exec (.highz lanes) s = .next (down (sel s .highz false true [false])) ∧
    (code % 256 = 0 ∨ (5 < code % 256 ∧ code % 256 < 0x80) ∨ 0x85 < code % 256 →
      exec (.bypass code) s = .next (sel s .bypass false false [false]))

/-- A debug instruction is selected in the test port. -/
def Sys2Proof.Safety.debugSel (s : State) (code : Nat) : State :=
  { s with tap := { s.tap with ir := .debug code, drive := false, allHighZ := false } }

/-- RESULT of the last debug action. -/
def Sys2Proof.Safety.debugRes (s : State) (k : Nat) : State := { s with dbg := { s.dbg with result := k } }

/-- R337: the selected target is permitted: in a service boot, or by TAILOR.DBGCTL. -/
def Sys2Proof.Safety.Permitted (s : State) : Prop :=
  s.fget TAILOR_DBGCTL.SERVICE = 1 ∨ (s.fget TAILOR_DBGCTL.EN = 1 ∧
    ((s.dbg.selT0 = true ∨ isFw s.dbg.sel = true) → s.fget TAILOR_DBGCTL.FWCTX = 1) ∧
    (s.dbg.selT0 = false → isFw s.dbg.sel = false → ∃ n, s.partOf s.dbg.sel = some n ∧
      (s.fget TAILOR_DBGCTL.ANYPART = 1 ∨ s.fget TAILOR_DBGCTL.PART = n)))

/-- R337, R338: an action with instruction `code` is refused, or waits for the context's commit point; a permitted one on a
partition context leaves a corrected-class record. -/
def Sys2Proof.Safety.DebugActs (s : State) (i : Instr) (code : Nat) (a : DbgAction) (halted free : Bool) : Prop :=
  let t := debugSel s code
  let c := s.dbg.sel
  let r := match t.partOf c with
    | some n => t.raiseC { loc := 0x04FF190000000000, ctx := some c, part := some n, d0 := code }
    | none => t
  let able := r.pk c ≠ 0 ∨ free = true
  (¬ Permitted s → exec i s = .next (debugRes t 3)) ∧
  (Permitted s →
    (s.dbg.selT0 = true → exec i s = .next (debugRes t 7)) ∧
    (s.dbg.selT0 = false → 768 ≤ c → exec i s = .next (debugRes t 6)) ∧
    (s.dbg.selT0 = false → c < 768 →
      (r.dbg.pend ≠ none → exec i s = .next (debugRes r 2)) ∧
      (r.dbg.pend = none → ¬ able → exec i s = .next (debugRes r 6)) ∧
      (r.dbg.pend = none → able → halted = true → AMap.get 0 r.dbg.halted c = 0 → exec i s = .next (debugRes r 4)) ∧
      (r.dbg.pend = none → able → (halted = true → AMap.get 0 r.dbg.halted c ≠ 0) →
        exec i s = .next (debugRes { r with dbg := { r.dbg with pend := some (c, a) } } 2))))

/-- R337 to R341, R426: the debug instructions: selection, status, the actions, and T0's registers. -/
def Sys2Proof.Safety.DebugInstructions : Prop :=
  ∀ (s : State) (v reg addr size idx : Nat) (w : Word) (b : Bool),
    (s.hubOn = true →
      exec (.dsel v) s = .next { debugSel s 0x80 with
        dbg := { s.dbg with selT0 := decide (v / 2 ^ 15 % 2 = 1), sel := v % 1024 } } ∧
      (let c := s.dbg.sel
       let h := AMap.get 0 s.dbg.halted c
       let word := s.pk c + (if h ≠ 0 then 8 else 0) + h % 4 * 16 + h / 4 % 4 * 64 + s.dbg.result * 256 + c * 4096
       s.dbg.selT0 = false → c < 768 → s.fget (TAILOR_PHYS.STATE (s.physOf (slotOf c))) ≠ 2 →
         exec .dstat s = .next { debugSel s 0x82 with
           tap := { (debugSel s 0x82).tap with capture := (List.range 32).map fun k => decide (word / 2 ^ k % 2 = 1) } })) ∧
    ((s.power.phase = .run ∨ s.power.phase = .service) →
      let acts := DebugActs s
      let at_ := addr % 2 ^ 52
      let n := 2 ^ (size % 4)
      acts .dcmdHalt 0x81 .halt false false ∧
      acts .dcmdResume 0x81 .resume true false ∧
      acts .dcmdStep 0x81 .step true false ∧
      acts (.dbrk idx w b) 0x85 (.dbrk (idx % 4) w b) false false ∧
      acts (.dregWrite reg w) 0x83 (.dreg (reg % 4096) true w) true false ∧
      (s.dbg.selT0 = false → acts (.dregRead reg) 0x83 (.dreg (reg % 4096) false 0) true false) ∧
      acts (.dmemRead addr size b) 0x84 (.dmem at_ n b false 0) (!b) b ∧
      acts (.dmemWrite addr size b w) 0x84 (.dmem at_ n b true w) (!b) b ∧
      (s.dbg.selT0 = true →
        let t := debugSel s 0x83
        let got (k : Nat) : State := debugRes { t with dbg := { t.dbg with value := BitVec.ofNat 64 k } } 1
        (¬ Permitted s → exec (.dregRead reg) s = .next (debugRes t 3)) ∧
        (Permitted s →
          (reg % 4096 = 0x801 → exec (.dregRead reg) s = .next (got (s.fget HEM_TSNNEXT.TSNNEXT))) ∧
          (reg % 4096 = 0x803 → exec (.dregRead reg) s = .next (got s.triad.active.version)) ∧
          (0x803 < reg % 4096 → exec (.dregRead reg) s = .next (debugRes t 5)))))

/-- Context `c` leaves the READY list of its slot. -/
def Sys2Proof.Safety.unready (s : State) (c : Nat) : State :=
  { s with core := { s.core with
      ready := AMap.set [] s.core.ready (c / 16) ((AMap.get [] s.core.ready (c / 16)).filter (· ≠ c)) } }

/-- Context `c`, which is not READY, becomes the youngest of its slot's READY list, and the pair leaves its gating. -/
def Sys2Proof.Safety.readied (s : State) (c : Nat) : State :=
  { s with core := { s.core with
      ready := AMap.set [] s.core.ready (c / 16) ((AMap.get [] s.core.ready (c / 16)).filter (· ≠ c) ++ [c])
      gate := AMap.set 0 s.core.gate (c / 16) 0 } }

/-- R338 to R341: the action that waits is applied: HALT, RESUME, STEP, a register, memory, a breakpoint. -/
def Sys2Proof.Safety.DebugActionApplied : Prop :=
  ∀ (s : State) (c : Nat) (a : DbgAction), (s.power.phase = .run ∨ s.power.phase = .service) →
    s.dbg.pend = some (c, a) →
    let i := Instr.debugActionApply
    let d := { s.dbg with pend := none }
    let h := AMap.get 0 s.dbg.halted c
    let res (k : Nat) : Prop := exec i s = .next { s with dbg := { d with result := k } }
    let go (step : Bool) : Prop := Does i s
      (fun s => { readied s c with dbg := { d with
        halted := AMap.erase c d.halted, passBp := AMap.set false d.passBp c true,
        stepping := AMap.set false d.stepping c step, result := 1 } })
      [(POCKET_STAT.STATE c, 3), (POCKET_STAT.FWHOLD c, 0)]
    (a = .halt → h ≠ 0 → res 1) ∧
    (a = .halt → h = 0 → Does i s
      (fun t => { unready t c with dbg := { d with
        halted := AMap.set 0 d.halted c (if s.pk c = 1 then 17 else 1), stepping := AMap.erase c d.stepping, result := 1 } })
      [(POCKET_STAT.STATE c, 1), (POCKET_STAT.FWHOLD c, 1)]) ∧
    (a = .resume ∨ a = .step → h = 0 → res 4) ∧
    (a = .resume → h ≠ 0 → 16 ≤ h → exec i s = .next { s with dbg := { d with halted := AMap.erase c d.halted, result := 1 } }) ∧
    (a = .resume → 0 < h → h < 16 → s.pk c ≠ 3 → go false) ∧
    (a = .step → h ≠ 0 → s.pk c ≠ 3 → go true) ∧
    (∀ k pc en, a = .dbrk k pc en → exec i s = .next { s with dbg := { d with
      bps := AMap.set none d.bps (c * 4 + k) (if en then some pc else none), result := 1 } }) ∧
    (∀ r w v, a = .dreg r w v →
      (0x40 < r → r < 0x400 → res 5) ∧
      (r < 0x20 → w = false → exec i s = .next { s with dbg := { d with value := (s.ctx c).readG r, result := 1 } }) ∧
      (r < 0x20 → w = true →
        exec i s = .next { s.setCtx c ((s.ctx c).writeG r v) with dbg := { d with result := 1 } }) ∧
      (r = 0x40 → w = false → exec i s = .next { s with dbg := { d with value := (s.ctx c).pc, result := 1 } }) ∧
      (r = 0x40 → w = true →
        exec i s = .next { s.setCtx c { s.ctx c with pc := v &&& ~~~3#64 } with dbg := { d with result := 1 } })) ∧
    -- module-physical memory: a misaligned access outside the control window ends with RESULT 5; firmware's rights
    (∀ at_ n w v, a = .dmem at_ n true w v → spaceOf at_ ≠ .control →
      (at_ % n ≠ 0 → res 5) ∧
      (at_ % n = 0 → spaceOf at_ ≠ .doorbell → (s.fget TAILOR_DBGCTL.SERVICE = 1 ∨ s.fget TAILOR_DBGCTL.FWCTX = 1) →
        let u := { s with dbg := d }.sbOwn c
        let f := c / 16 * 16 + 15
        u.mayReach (u.partOf f) at_ = true → u.served at_ = true →
          (w = true → ∃ t, t = u.ctxWrite f at_ (leBytes n v.toNat) false ∧
            exec i s = .next { t with dbg := { t.dbg with result := 1 } }) ∧
          (w = false → ∀ t bs, u.ctxRead f at_ n false = (t, bs, false) →
            exec i s = .next { t with dbg := { t.dbg with value := leWord bs, result := 1 } }) ∧
          (w = false → ∀ t bs, u.ctxRead f at_ n false = (t, bs, true) →
            exec i s = .next { t with dbg := { t.dbg with result := 5 } })))

/-- R183, R190, R216, R339: the entries of a commit point: a breakpoint halts before its instruction. -/
def Sys2Proof.Safety.BreakpointHalts : Prop :=
  ∀ (s : State) (c k : Nat), s.canRun c = true → s.bpAt c = some k →
    Does (.breakpointHit c) s
      (fun s => { unready s c with dbg := { s.dbg with
        halted := AMap.set 0 s.dbg.halted c (2 + 4 * k), stepping := AMap.erase c s.dbg.stepping } })
      [(POCKET_STAT.STATE c, 1), (POCKET_STAT.FWHOLD c, 1)]

/-- Together: the debug instructions, the actions they start, and breakpoints. -/
def Obligations.DebugResults : Prop :=
  DebugInstructions ∧ DebugActionApplied ∧ BreakpointHalts

/-- R205, R208 to R210, R231, R331: firmware's Pocket commands and their CMDRES; while the slot moves they are held. -/
def Sys2Proof.Safety.PocketCommands : Prop :=
  ∀ (s : State) (c : Nat),
    let held (op : Nat) : State := { s with core := { s.core with heldCmds := s.core.heldCmds ++ [.fw c op] } }
    (s.power.phase = .run → s.takesCmds c = false →
      exec (.pocketResume c) s = .next (held 1) ∧ exec (.pocketStop c) s = .next (held 2) ∧
      exec (.pocketSave c) s = .next (held 3) ∧ exec (.pocketRestore c) s = .next (held 4)) ∧
    (s.takesCmds c = true →
    let st := s.pk c
    let res (i : Instr) (k : Nat) : Prop := Does i s id [(POCKET_STAT.CMDRES c, k)]
    let valid := s.fget (POCKET_SAVE.VALID c) = 1
    (st = 1 → AMap.get 0 s.dbg.halted c = 0 →
      Does (.pocketResume c) s (fun s => readied s c)
        [(POCKET_STAT.STATE c, 3), (POCKET_STAT.FWHOLD c, 0), (POCKET_STAT.CMDRES c, 1)]) ∧
    ((st ≠ 1 ∨ AMap.get 0 s.dbg.halted c ≠ 0) → res (.pocketResume c) 2) ∧
    ((st = 2 ∨ st = 3 ∨ st = 4) →
      Does (.pocketStop c) s (fun s => unready s c)
        [(POCKET_STAT.STATE c, 1), (POCKET_STAT.FWHOLD c, 1), (POCKET_STAT.CMDRES c, 1)]) ∧
    ((st = 0 ∨ st = 1 ∨ 4 < st) → res (.pocketStop c) 2) ∧
    (st ≠ 1 → res (.pocketSave c) 2 ∧ res (.pocketRestore c) 2) ∧
    (st = 1 → ¬ valid → res (.pocketSave c) 3 ∧ res (.pocketRestore c) 3) ∧
    (st = 1 → valid →
      (∃ t, Alters (s.fullSave c) t id [(POCKET_STAT.CMDRES c, 1)] ∧ exec (.pocketSave c) s = .next t) ∧
      -- a restore: the base part from the save area, the wide part left there; 5 for poison, 4 for a bad image
      (let r := s.pairRead (slotOf c) (s.saveAddr c) 1024
       (∀ a, s.savePoison c 0 1024 = some a →
         ∃ t, Alters s t (fun s => unready s c) [(POCKET_STAT.STATE c, 1), (POCKET_STAT.FWHOLD c, 1)] ∧
           exec (.pocketRestore c) s = .next ((t.raise {
             loc := s.ctxLoc 0x4 c 5, ctx := some c, part := s.partOf c, d0 := s.saveAddr c }).fset
               (POCKET_STAT.CMDRES c) 5)) ∧
       (s.savePoison c 0 1024 = none → imageGood r.2 = true →
         ∃ t, exec (.pocketRestore c) s = .next t ∧ t.ctx c = ctxOfImage (isFw c) r.2 ∧
           t.fget (POCKET_STAT.CMDRES c) = 1 ∧ t.pk c = 1 ∧
           t.fget (POCKET_STAT.FWHOLD c) = (imgWord r.2 0x288).toNat / 8 % 2 ∧
           t.fget (POCKET_STAT.WLIVE c) = (imgWord r.2 0x288).toNat / 16 % 2 ∧
           t.fget (POCKET_STAT.EVENT c) = (imgWord r.2 0x288).toNat / 64 % 2 ∧
           t.fget (POCKET_STAT.WBANK c) = 0 ∧ t.mem = r.1.mem ∧ ∀ d, d ≠ c → t.ctx d = r.1.ctx d))))

/-- R205, R209: a write of OWNED and OWNER: only of a FREE or STOPPED Pocket; a change zeroes it. -/
def Sys2Proof.Safety.PocketOwnerWrites : Prop :=
  ∀ (s : State) (c owner : Nat) (owned : Bool), s.power.phase = .run → s.fget (POCKET_CTL.OWNER c) < 256 →
    let same := (s.fget (POCKET_CTL.OWNED c) = 1 ↔ owned = true) ∧ s.fget (POCKET_CTL.OWNER c) = owner % 256
    (c % 16 = 15 → Idles (.pocketOwnerWrite c owned owner) s) ∧
    (c % 16 ≠ 15 → same → s.pk c ≤ 1 → Idles (.pocketOwnerWrite c owned owner) s) ∧
    (c % 16 ≠ 15 → 1 < s.pk c → Does (.pocketOwnerWrite c owned owner) s id [(POCKET_STAT.CMDRES c, 2)]) ∧
    (c % 16 ≠ 15 → c < 768 → ¬ same → s.pk c ≤ 1 →
      ∃ t, exec (.pocketOwnerWrite c owned owner) s = .next t ∧ t.ctx c = {} ∧
        t.pk c = (if owned then 1 else 0) ∧
        t.fget (POCKET_CTL.OWNED c) = (if owned then 1 else 0) ∧ t.fget (POCKET_CTL.OWNER c) = owner % 256 ∧
        (∀ f ∈ [POCKET_CTL.SLICE c, POCKET_CTL.PRI c, POCKET_STAT.SWGUARD c, POCKET_STAT.EVENT c, POCKET_STAT.WLIVE c,
          POCKET_STAT.FWHOLD c, POCKET_STAT.WBANK c], t.fget f = 0) ∧
        (∀ d, d ≠ c → t.ctx d = s.ctx d ∧ t.pk d = s.pk d) ∧ t.mem = s.mem)

/-- R209, R216, R232: a partition's context commands, with none of its commands waiting: START, STOP, CONT, WAKE and SETPRI,
and the codes of CTXRES for those that are refused. -/
def Sys2Proof.Safety.ContextCommands : Prop :=
  ∀ (s : State) (n c : Nat), s.takesCmds c = true → (∀ k ∈ s.core.ctxCmds, k.part ≠ n) → c < 768 → n < 256 →
    let st := s.pk c
    let hold := s.fget (POCKET_STAT.FWHOLD c) = 1
    let res (r : Nat) : List (Field × Nat) := [(PART_CTXRES.CTX n, c), (PART_CTXRES.RESULT n, r)]
    let arg := s.fget (PART_CTXARG.CTXARG n)
    let pc := s.fget (PART_CTXPC.CTXPC n)
    let refused (i : Instr) (r : Nat) : Prop := Does i s id (res r)
    let all (p : Instr → Prop) : Prop := p (.ctxStart n c) ∧ p (.ctxStop n c) ∧ p (.ctxCont n c) ∧
      p (.ctxWake n c) ∧ p (.ctxSetpri n c)
    (s.fget (PART_STATE.STATE n) ≠ 1 → all fun i => refused i 5) ∧
    (s.fget (PART_STATE.STATE n) = 1 → s.partOf c ≠ some n → all fun i => refused i 4) ∧
    (s.fget (PART_STATE.STATE n) = 1 → s.partOf c = some n →
      (st ≠ 1 → refused (.ctxStart n c) 2 ∧ refused (.ctxCont n c) 2) ∧
      (st = 1 → hold → refused (.ctxStart n c) 3 ∧ refused (.ctxCont n c) 3) ∧
      (st = 1 → ¬ hold →
        Does (.ctxCont n c) s (fun s => readied s c) ((POCKET_STAT.STATE c, 3) :: res 1) ∧
        Does (.ctxStart n c) s
          (fun s => { (readied s c).setCtx c (({ pc := BitVec.ofNat 64 (pc / 4 * 4), st := 0x100 } : Ctx).writeG 1
              (BitVec.ofNat 64 arg)) with
            core := { (readied s c).core with
              banks := AMap.set [] s.core.banks (c / 16) ((AMap.get [] s.core.banks (c / 16)).filter (· ≠ c)) } })
          ((POCKET_STAT.STATE c, 3) :: (POCKET_STAT.WLIVE c, 1) :: (POCKET_STAT.WBANK c, 0) :: (POCKET_CTL.SLICE c, 0) ::
            (POCKET_CTL.PRI c, 0) :: (POCKET_STAT.SWGUARD c, 0) :: (POCKET_STAT.EVENT c, 0) :: (POCKET_STAT.FWHOLD c, 0) ::
            res 1)) ∧
      ((st = 2 ∨ st = 3 ∨ st = 4) → Does (.ctxStop n c) s (fun s => unready s c) ((POCKET_STAT.STATE c, 1) :: res 1)) ∧
      ((st = 0 ∨ st = 1) → refused (.ctxStop n c) 2) ∧
      (s.fget (PART_PRIMAX.PRIMAX n) < arg % 16 → refused (.ctxSetpri n c) 6) ∧
      (arg % 16 ≤ s.fget (PART_PRIMAX.PRIMAX n) → Does (.ctxSetpri n c) s id (fits (POCKET_CTL.PRI c) (arg % 16) :: res 1)) ∧
      -- WAKE: the EVENT latch; a BLOCKED context becomes READY
      (st = 2 → Does (.ctxWake n c) s (fun s => readied s c) ((POCKET_STAT.EVENT c, 1) :: (POCKET_STAT.STATE c, 3) :: res 1)) ∧
      (st ≠ 2 → Does (.ctxWake n c) s id ((POCKET_STAT.EVENT c, 1) :: res 1)))

/-- Together: commands on Pockets and contexts. -/
def Obligations.PocketAndContextCommands : Prop :=
  PocketCommands ∧ PocketOwnerWrites ∧ ContextCommands

/-- R211 to R213: the scheduler: the choice is of the highest rank and, of those, the longest READY; a switch, the end of a
slice, and a routine abandoned for SWWAIT. -/
def Sys2Proof.Safety.SchedulerResults : Prop :=
  ∀ (s : State) (k d : Nat),
    (s.choose k = some d →
      d ∈ s.readyList k ∧ (∀ e ∈ s.readyList k, s.rank e ≤ s.rank d) ∧
      ∃ l r, s.readyList k = l ++ d :: r ∧ ∀ e ∈ l, s.rank e < s.rank d) ∧
    (s.coresUp = true → s.dispatches k = true → s.choose k = some d → d / 16 = k → s.pk d = 3 →
      (∀ c, s.runningOf k = some c → c / 16 = k → c ≠ d →
        let gives (i : Instr) (l : List (Field × Nat)) : Prop := Does i s
          (fun s => { s with core := { s.core with
            ready := AMap.set [] s.core.ready k (((AMap.get [] s.core.ready k).filter (· ≠ c) ++ [c]).filter (· ≠ d))
            sliceOver := AMap.erase k s.core.sliceOver, gate := AMap.erase k s.core.gate } })
          ((POCKET_STAT.STATE c, 3) :: (POCKET_STAT.STATE d, 4) :: l)
        (s.rank c < s.rank d ∨ (s.rank c = s.rank d ∧ AMap.get false s.core.sliceOver k = true) → gives (.pocketSwitch k) []) ∧
        (s.fget (WEFT_SCHED.SWWAIT k) ≠ 0 → s.fget (POCKET_STAT.SWGUARD c) ≠ 1 → s.rank c ≤ s.rank d →
          gives (.swwaitExceeded k) [(POCKET_STAT.SWGUARD c, 1)])) ∧
      (s.runningOf k = none → Does (.pocketSwitch k) s
        (fun s => { s with core := { s.core with
          ready := AMap.set [] s.core.ready k ((AMap.get [] s.core.ready k).filter (· ≠ d))
          sliceOver := AMap.erase k s.core.sliceOver, gate := AMap.erase k s.core.gate } })
        [(POCKET_STAT.STATE d, 4)])) ∧
    (s.coresUp = true → ∀ c, s.runningOf k = some c → s.fget (POCKET_CTL.SLICE c) ≠ 0 →
      exec (.sliceEnd k) s = .next { s with core := { s.core with sliceOver := AMap.set false s.core.sliceOver k true } })

/-- R188 to R190: sealing, unsealing and applying a Damson patch, with the codes of CSTORE.STAT.RESULT. -/
def Sys2Proof.Safety.PatchResults : Prop :=
  ∀ (s : State) (p how crc version : Nat), s.power.phase = .run →
    let sealed := s.fget CSTORE_STAGECTL.SEALED = 1
    let busy := s.fget CSTORE_STAT.BUSY = 1
    let st := s.fget (TAILOR_PHYS.STATE p)
    let ends (i : Instr) (l : List (Field × Nat)) : Prop := Does i s id l
    let staged := [fits CSTORE_STAGECTL.CRC crc, fits CSTORE_STAGECTL.VERSION version]
    let bad := crc32c s.stageBytes ≠ crc % 2 ^ 32
    let twice := ∃ j k, j < k ∧ k < 64 ∧ s.fget (CSTORE_SMATCH.EN j) = 1 ∧ s.fget (CSTORE_SMATCH.EN k) = 1 ∧
      s.fget (CSTORE_SMATCH.ROMADDR j) = s.fget (CSTORE_SMATCH.ROMADDR k)
    -- a stage that is sealed already is not checked again (log entry 134)
    (sealed → ends (.stageSeal crc version) staged) ∧
    (¬ sealed → bad → ends (.stageSeal crc version) ((CSTORE_STAT.RESULT, 2) :: staged)) ∧
    (¬ sealed → ¬ bad → twice → ends (.stageSeal crc version) ((CSTORE_STAT.RESULT, 3) :: staged)) ∧
    (¬ sealed → ¬ bad → ¬ twice →
      ends (.stageSeal crc version) ((CSTORE_STAT.RESULT, 1) :: (CSTORE_STAGECTL.SEALED, 1) :: staged)) ∧
    (busy → Idles .stageUnseal s) ∧ (¬ busy → ends .stageUnseal [(CSTORE_STAGECTL.SEALED, 0)]) ∧
    ((¬ sealed → ends (.patchApply p how) [(CSTORE_STAT.RESULT, 5)]) ∧
      (sealed → busy → ends (.patchApply p how) [(CSTORE_STAT.RESULT, 6)]) ∧
      (sealed → ¬ busy → (47 < p ∨ (st ≠ 0 ∧ st ≠ 1)) → ends (.patchApply p how) [(CSTORE_STAT.RESULT, 7)])) ∧
    (sealed → ¬ busy → p ≤ 47 → (st = 0 ∨ st = 1) →
      -- the copy compared equal, or a Unit reset of the pair reloaded it; the pair's routine is abandoned
      (how = 0 ∨ how = 4 → ∃ t, Alters s t (fun s => { s with
            core := { s.core with damson := t.core.damson, routines := AMap.erase p s.core.routines } })
          ([(CSTORE_STAT.PAIR, p), fits (CSTORE_VER.PATCH p) (s.fget CSTORE_STAGECTL.VERSION), (CSTORE_STAT.RESULT, 4)] ++
            if how = 4 then [(WEFT_LOCK.LASTGRP p, 0), (WEFT_LOCK.COUNT p, 0), (WEFT_LOCK.LASTCTX p, 0)] else []) ∧
        (∀ q, q ≠ p → t.damsonOf q = s.damsonOf q) ∧
        -- every word with its even parity bit (R170)
        (∀ k, k < 1024 → parityOk 24 (AMap.get 0 (t.damsonOf p).micro k) = true ∧
          AMap.get 0 (t.damsonOf p).micro k % 2 ^ 24 = s.fget (CSTORE_SMICRO.WORD k) % 2 ^ 24) ∧
        (∀ k, k < 256 → parityOk 176 (AMap.get 0 (t.damsonOf p).nano k) = true ∧
          AMap.get 0 (t.damsonOf p).nano k % 2 ^ 176 = (s.fget (CSTORE_SNANO.WORD k 0) +
            s.fget (CSTORE_SNANO.WORD k 1) * 2 ^ 64 + s.fget (CSTORE_SNANO.WORD k 2) * 2 ^ 128) % 2 ^ 176) ∧
        (∀ k, k < 64 → parityOk 64 (AMap.get 0 (t.damsonOf p).mtch k) = true ∧
          AMap.get 0 (t.damsonOf p).mtch k % 2 ^ 64 = s.smatchWord k % 2 ^ 64) ∧
        exec (.patchApply p how) s = .next t) ∧
      -- a second readback failure, a mismatch or a parity error
      (how ≠ 0 → how ≠ 4 → ∃ t, Alters s t (fun s => { s with
            core := { s.core with routines := AMap.erase p s.core.routines } }) [(CSTORE_STAT.PAIR, p)] ∧
        exec (.patchApply p how) s = .next ((t.spareOut p false).fset CSTORE_STAT.RESULT 8)))

/-- R185, R323 to R325, R328, R329, R331, R334, R336, R601: retries, the hand-over to a spare, and reinstatement. -/
def Sys2Proof.Safety.LockstepAndSparing : Prop :=
  ∀ (s : State) (p k grp array : Nat) (pass : Bool) (env : MoveIn),
    let st := s.fget (TAILOR_PHYS.STATE p)
    let c := (s.runningOf k).getD 0
    let cnt := s.fget (WEFT_LOCK.COUNT p)
    let rate := s.fget TAILOR_SPARECTL.RATETHR
    let fault (unit rest : Nat) (bare : Bool) : FaultRec :=
      { loc := 2 ^ 60 + p / 12 * 2 ^ 56 + p % 12 * 2 ^ 48 + unit * 2 ^ 40 + rest, ctx := some c, bare := bare }
    -- the routine is abandoned, and a retry invalidates both cores' L1 caches
    let quits (s : State) : State := { s with core := { s.core with routines := AMap.erase p s.core.routines } }
    let again (fresh : Nat) (s : State) : State := { quits s with
      fresh := s.fresh + fresh, mem := { s.mem with l1 := AMap.keep (fun x => x / 2 ^ 9 ≠ p) s.mem.l1 } }
    -- a retry is counted, recorded and noted for the rate (R324, R325); the fourth in a row is persistent (R328)
    let retries (i : Instr) (g unit fresh : Nat) (at_ : Nat → Prop) (more : List (Field × Nat)) : Prop :=
      s.coresUp = true → s.slotServed p = some k → st = 0 → rate = 0 →
        (cnt < 3 → ∃ rest t, at_ rest ∧ Alters s t (again fresh) ((WEFT_LOCK.LASTGRP p, g) ::
            fits (WEFT_LOCK.LASTCTX p) c :: (WEFT_LOCK.COUNT p, cnt + 1) :: counts s (WEFT_LOCK.RETRIES p) 1 :: more) ∧
          exec i s = .next ((t.raiseC (fault unit rest (fresh == 1))).noteRetry p).1) ∧
        (cnt = 3 → ∃ t, Alters s t quits ((WEFT_LOCK.LASTGRP p, g) :: fits (WEFT_LOCK.LASTCTX p) c :: more) ∧
          exec i s = .next (if s.fget TAILOR_SPARECTL.AUTO = 1 ∨ s.chooseSpare p = none then t.spareOut p false env
            else t.moveOut p false))
    let moves (l : List (Field × Nat)) : Prop := ∃ t, Alters s t id l ∧ exec (.spareMove ⟨p, env⟩) s = .next t.movesEnded
    (p < 48 → 1 ≤ grp → grp ≤ 6 → retries (.comparatorMismatch p ⟨grp, env⟩) grp 3 0 (· = 0) []) ∧
    -- the store that failed is the array of the location (R26, R563)
    (p < 48 → retries (.controlStoreParityError p ⟨array, env⟩) 7 7 1
      (fun x => ∃ mac cell, mac < 2 ^ 10 ∧ cell < 2 ^ 20 ∧ x = mac * 2 ^ 30 + array * 2 ^ 20 + cell) [counts s (CSTORE_VER.PERR p) 1]) ∧
    -- firmware's MOVE
    (s.power.phase = .run →
      -- (what waited for a move goes on once none is under way)
      (∀ u : State, u.core.heldCmds = [] → u.core.partWaits = [] → u.movesEnded = u) ∧
      -- refused while a move waits for the Tailor
      (s.fget TAILOR_SPARESTAT.BUSY = 1 → moves [(TAILOR_SPARESTAT.RESULT, 2)] ∧
        Does (.spareReinstate p pass) s id [(TAILOR_SPARESTAT.RESULT, 2)]) ∧
      (s.fget TAILOR_SPARESTAT.BUSY ≠ 1 →
      (s.slotServed p = none → moves [(TAILOR_SPARESTAT.RESULT, 4)]) ∧
      (s.slotServed p = some k → st ≠ 0 → st ≠ 2 → moves [(TAILOR_SPARESTAT.RESULT, 4)]) ∧
      (s.slotServed p = some k → st = 0 → s.chooseSpare p = none → moves [(TAILOR_SPARESTAT.RESULT, 3)]) ∧
      (∀ q, s.slotServed p = some k → st = 0 → s.chooseSpare p = some q →
        (s.fget TAILOR_TFWSTAT.BUSY ≠ 1 → q ∉ env.spares →
          exec (.spareMove ⟨p, env⟩) s = .next ((s.setPh p 2).moveTo p q k true env.images).movesEnded) ∧
        -- step 2 and on wait for the end of a Tailor restart
        (s.fget TAILOR_TFWSTAT.BUSY = 1 → (∀ m ∈ s.core.heldMoves, m.1 ≠ p) → ∃ t, t = s.setPh p 2 ∧
          exec (.spareMove ⟨p, env⟩) s = .next ((({ t with
            core := { t.core with heldMoves := t.core.heldMoves ++ [(p, true, env)] } } : State).fset TAILOR_SPARESTAT.BUSY 1).movesEnded))) ∧
      -- reinstatement
      (st ≠ 4 → Does (.spareReinstate p pass) s id [(TAILOR_SPARESTAT.RESULT, 4)]) ∧
      (st = 4 → Does (.spareReinstate p false) s id [(TAILOR_SPARESTAT.RESULT, 6)]) ∧
      (st = 4 → p < 48 → ∃ t, exec (.spareReinstate p true) s = .next t ∧ t.fget (TAILOR_PHYS.STATE p) = 1 ∧
        t.fget TAILOR_SPARESTAT.RESULT = 5))) ∧
    -- the spare chosen is SPARE, and of the same die where one is
    (∀ q, s.chooseSpare p = some q → s.fget (TAILOR_PHYS.STATE q) = 1 ∧
      (q / 12 ≠ p / 12 → ∀ r, r / 12 = p / 12 → r < 48 → s.fget (TAILOR_PHYS.STATE r) ≠ 1)) ∧
    -- after a move the spare serves the slot and the source is FAILED, or SPARE where the move was planned
    (∀ q planned, p < 48 → q < 48 → p ≠ q → k < 48 → ∃ t, t = s.moveTo p q k planned ∧
      t.fget (TAILOR_PHYS.STATE q) = 0 ∧ t.fget (TAILOR_PHYS.STATE p) = (if planned then 1 else 4) ∧
      t.fget (TAILOR_SLOT.PHYS k) = q ∧ t.fget TAILOR_SPARESTAT.RESULT = 1 ∧ ∀ d, t.ctx d = s.ctx d) ∧
    (∀ q planned images, s.moveTo p q k planned images =
      (images.filter fun c => c / 16 == k).foldl (fun t c => t.imageLost q c) (s.moveTo p q k planned)) ∧
    (∀ q c, c < 768 → c % 16 ≠ 15 → s.pk c ≠ 0 → (s.imageLost q c).pk c = 1 ∧ (s.imageLost q c).fget (POCKET_STAT.FWHOLD c) = 1)

/-! ### Collar and partitions -/

/-- An event for context `c` (R216): its EVENT latch is set, and a BLOCKED context becomes READY. -/
def Sys2Proof.Safety.EventFor (s t : State) (c : Nat) : Prop :=
  (s.pk c = 2 → Alters s t (fun s => readied s c) [(POCKET_STAT.EVENT c, 1), (POCKET_STAT.STATE c, 3)]) ∧
  (s.pk c ≠ 2 → Alters s t id [(POCKET_STAT.EVENT c, 1)])

/-- Every source but `x` is as it was: PEND, SERV and its holder. -/
def Sys2Proof.Safety.OtherSources (s t : State) (x : Nat) : Prop :=
  ∀ y, sourceKnown y = true → y ≠ x →
    t.srcPend y = s.srcPend y ∧ t.srcServ y = s.srcServ y ∧ t.srcHolder y = s.srcHolder y

/-- R238: each source is IDLE, PENDING or IN_SERVICE, and an event, a claim, an end of service or a write of EN moves it as
the rule's table says. `reach` of a context is its own partition's block, or any block for the firmware context. -/
def Obligations.CollarSourceStates : Prop :=
  ∀ (s : State) (x c n : Nat), s.power.phase = .run → sourceKnown x = true → c < 768 →
    (∀ m, s.srcOwner x = some m → s.destroying m = false) →
    let i := Instr.sourceEvent x
    -- an event
    (s.srcServ x = true → s.srcEn x = true → Does i s id [counts s (lostField x) 1]) ∧
    (s.srcServ x = true → s.srcEn x = false → Idles i s) ∧
    (s.srcServ x = false → s.srcPend x = true → Idles i s) ∧
    (s.srcServ x = false → s.srcPend x = false → s.srcEn x = false → Idles i s) ∧
    (s.srcServ x = false → s.srcPend x = false → s.srcEn x = true →
      ∃ t, exec i s = .next t ∧ t.srcPend x = true ∧ t.srcServ x = false ∧
        t.collar = { s.collar with ages := s.collar.ages.filter (· ≠ x) ++ [x] } ∧ OtherSources s t x ∧
        (∀ d, d < 768 → s.targets x d = true → t.fget (POCKET_STAT.EVENT d) = 1 ∧ t.pk d ≠ 2) ∧
        (∀ d, d < 768 → s.targets x d = false → t.fget (POCKET_STAT.EVENT d) = s.fget (POCKET_STAT.EVENT d) ∧ t.pk d = s.pk d) ∧
        t = { s with fields := t.fields, collar := t.collar, core := t.core }) ∧
    -- a claim by a target: the pending source of highest PRI that targets it, the longest pending of those
    (s.partReach c n = true →
      (s.claimable c = some x →
        ∃ t, exec (.partClaim c n) s = .next t ∧ (s.claim c) = (t, s.srcPri x * 2 ^ 16 + x) ∧
          t.srcPend x = false ∧ t.srcServ x = true ∧ t.srcHolder x = c ∧ OtherSources s t x) ∧
      (s.claimable c = none →
        Does (.partClaim c n) s id [counts s COLLAR_STAT.SPUR 1] ∧ (s.claim c).2 = 0xFFFF) ∧
      -- an end of service by the holder, by another context, for a source not in service
      (s.srcServ x = true → s.srcHolder x = c →
        ∃ t, exec (.partEos c n x) s = .next t ∧ t.srcServ x = false ∧ t.srcPend x = s.srcPend x ∧ OtherSources s t x) ∧
      (s.srcServ x = true → s.srcHolder x ≠ c → exec (.partEos c n x) s = .next (s.ctxFault c x)) ∧
      (s.srcServ x = false → Idles (.partEos c n x) s)) ∧
    -- a write of EN, of the source or of its group
    (∀ en, ∃ t, exec (.collarEnWrite x en) s = .next t ∧
      t.fget (if isSw x then COLLAR_SWGRP.EN (swGroup x) else COLLAR_SRC.EN x) = (if en then 1 else 0) ∧
      ∀ y, sourceKnown y = true → t.srcServ y = s.srcServ y ∧
        ((if isSw x then isSw y = true ∧ swGroup y = swGroup x else y = x) →
          (en = false → t.srcPend y = true → y ∉ s.collar.ages) ∧ (en = true → t.srcPend y = s.srcPend y)))

/-- R237: a context's claim takes the pending source of highest PRI among those that target it and, of those, the one that
has been pending longest. -/
def Obligations.ClaimTakesHighestPriority : Prop :=
  ∀ (s : State) (c x : Nat), s.claimable c = some x →
    x ∈ s.collar.ages ∧ s.targets x c = true ∧
    (∀ y ∈ s.collar.ages, s.targets y c = true → s.srcPri y ≤ s.srcPri x) ∧
    ∃ l r, s.collar.ages = l ++ x :: r ∧ ∀ y ∈ l, s.targets y c = true → s.srcPri y < s.srcPri x

/-- R230, R235, R241, R242, R244, R249: sends, the firmware's claims and ends of service, FORCE, the global disable, whose end
makes every BLOCKED target of a pending source READY; an
access a context may not make is a contained-class fault against it. -/
def Sys2Proof.Safety.CollarCommands : Prop :=
  ∀ (s : State) (c n x g k : Nat) (b : Bool), s.power.phase = .run → c < 768 → n < 256 →
    let y := x % 2 ^ 16
    let fw := c % 16 = 15
    let reach := fw ∨ s.partOf c = some n
    let ends (i : Instr) (z : Nat) : Prop :=
      (sourceKnown z = true → s.srcServ z = true →
        ∃ t, exec i s = .next t ∧ t.srcServ z = false ∧ t.srcPend z = s.srcPend z ∧ OtherSources s t z) ∧
      (s.srcServ z = false → Idles i s)
    (fw →
      (sourceKnown y = true → exec (.collarSend c x) s = exec (.sourceEvent y) s) ∧
      (sourceKnown y = false → exec (.collarSend c x) s = .next (s.ctxFault c y)) ∧
      exec (.collarFwclaim c) s = exec (.partClaim c n) s ∧
      exec (.collarFweos c x) s = exec (.partEos c n x) s) ∧
    (¬ fw →
      exec (.collarSend c x) s = .next (s.ctxFault c (controlBase + COLLAR_SEND.SOURCE.off)) ∧
      exec (.collarFwclaim c) s = .next (s.ctxFault c (controlBase + COLLAR_FWCLAIM.SOURCE.off)) ∧
      exec (.collarFweos c x) s = .next (s.ctxFault c (controlBase + COLLAR_FWEOS.SOURCE.off))) ∧
    (reach → isSw y = true → s.srcOwner y = some n → exec (.partColsend c n x) s = exec (.sourceEvent y) s) ∧
    (reach → (isSw y = false ∨ s.srcOwner y ≠ some n) → exec (.partColsend c n x) s = .next (s.ctxFault c y)) ∧
    (¬ reach →
      exec (.partColsend c n x) s = .next (s.ctxFault c (controlBase + 0x200058 + 1024 * n)) ∧
      exec (.partClaim c n) s = .next (s.ctxFault c (controlBase + 0x200048 + 1024 * n)) ∧
      exec (.partEos c n x) s = .next (s.ctxFault c (controlBase + 0x200050 + 1024 * n))) ∧
    (isSw x = false → ends (.srcForce x) x) ∧ (isSw x = true → Idles (.srcForce x) s) ∧
    ends (.swgrpForce g k) (0x4000 + 64 * (g % 256) + k % 64) ∧
    (s.fget COLLAR_CTL.GDIS = 0 ∨ b = true → Does (.gdisWrite b) s id [(COLLAR_CTL.GDIS, if b then 1 else 0)]) ∧
    (s.fget COLLAR_CTL.GDIS = 1 → b = false →
      ∃ t, exec (.gdisWrite b) s = .next t ∧ t.fget COLLAR_CTL.GDIS = 0 ∧ t.mem = s.mem ∧ t.ctxs = s.ctxs ∧
        t.collar = s.collar ∧
        ∀ d, d < 768 → t.pk d = (if s.pk d = 2 ∧ ∃ y ∈ s.collar.ages, s.targets y d = true then 3 else s.pk d))

/-- R246: a context's timer: armed by a write of a deadline, disarmed by 0, expired at once by a deadline already passed; at
its expiry it disarms, the context has an event, and its source is signalled. -/
def Sys2Proof.Safety.ContextTimers : Prop :=
  ∀ (s : State) (c n : Nat) (d : Word), s.power.phase = .run → c < 768 → n < 256 →
    let l := s.look
    let timer (s : State) (v : Nat) : State := { s with collar := { s.collar with timers := AMap.set 0 s.collar.timers c v } }
    let off (s : State) : State := { s with collar := { s.collar with timers := AMap.erase c s.collar.timers } }
    let arms (i : Instr) : Prop :=
      ((d = 0 ∨ l.tod < d.toNat) → exec i s = .next (timer l d.toNat)) ∧
      (d ≠ 0 → d.toNat ≤ l.tod → ∃ t, EventFor (off (timer l d.toNat)) t c ∧ exec i s = .next (t.collarEvent (0x3000 + c)))
    let armed := AMap.get 0 s.collar.timers c
    ((c % 16 = 15 ∨ s.partOf c = some n) → arms (.partTimerWrite c n d)) ∧
    (c % 16 = 15 → arms (.collarFwtimerWrite c d)) ∧
    (armed ≠ 0 → (s.fget SEAM_TODCTL.EN = 1 ∨ armed ≤ s.tod) →
      ∃ t, EventFor (off { s with tod := max s.tod armed }) t c ∧
        exec (.contextTimerExpiry c) s = .next (t.collarEvent (0x3000 + c))) ∧
    (armed = 0 → Idles (.contextTimerExpiry c) s)

/-- Together: the commands of the Collar and the timers of contexts. -/
def Obligations.CollarCommandsAndTimers : Prop :=
  CollarCommands ∧ ContextTimers

/-- R227 to R229, R247, R347: creation, reset and destruction of a partition. A reset leaves every Pocket of it STOPPED and
zeroed, a destruction leaves the partition FREE; both wait while a slot that holds a context of it is moving (R331). -/
def Obligations.PartitionCommands : Prop :=
  ∀ (s : State) (n : Nat), s.power.phase = .run → n < 256 →
    let st := s.fget (PART_STATE.STATE n)
    let refuses (i : Instr) (k : Nat) : Prop := Does i s id [(PART_STATE.REFUSE n, k)]
    let saved := ∃ c, c < 768 ∧ s.partOf c = some n ∧ s.fget (POCKET_SAVE.VALID c) = 1
    let holds := ∃ r, r < 4096 ∧ s.rst r ≠ 0 ∧ s.rpart r = n ∧ s.fget (RING_STAT.OPEN r) ≠ 0
    let i := Instr.partitionCreate n
    (st ≠ 0 → refuses i 1) ∧
    (st = 0 → s.fget (PART_ROOT2.VALID n) ≠ 1 → refuses i 3) ∧
    (st = 0 → s.fget (PART_ROOT2.VALID n) = 1 → ¬ saved → refuses i 4) ∧
    (st = 0 → s.fget (PART_ROOT2.VALID n) = 1 → saved →
      Does i s id [(PART_STATE.STATE n, 1)] State.updTeff) ∧
    (st ≠ 1 → refuses (.partitionReset n) 1 ∧ refuses (.partitionDestroy n) 1) ∧
    (st = 1 → holds → refuses (.partitionDestroy n) 2) ∧
    (st = 1 → ¬ holds → s.partMoves n = false →
      ∃ t, exec (.partitionDestroy n) s = .next t ∧ t.fget (PART_STATE.STATE n) = 0) ∧
    (st = 1 → ¬ holds → s.partMoves n = true →
      ∃ t, exec (.partitionDestroy n) s = .next t ∧ t.fget (PART_STATE.STATE n) = 2 ∧ AMap.get 0 t.core.partWaits n = 1) ∧
    (st = 1 → s.partMoves n = true → exec (.partitionReset n) s = .next (s.setPartWait n 2)) ∧
    (st = 1 → s.partMoves n = false →
      let m := (s.ctxsOf n).foldl State.resetPocket (((s.dropPending n).withdrawPartx n).partCollar n)
      (∀ c, c < 768 → s.partOf c = some n → m.ctx c = {} ∧ m.pk c = 1 ∧ m.fget (POCKET_STAT.FWHOLD c) = 0 ∧
        AMap.get 0 m.collar.timers c = 0) ∧
      (∀ c, c < 768 → s.partOf c ≠ some n → m.ctx c = s.ctx c ∧ m.pk c = s.pk c) ∧
      let q : State := (((((m.engAbort .pleat n 0x0A).engAbort .cloak n 0x08).partRegs n).dropTlb2 n).returnPart n).endUnanswered
        fun b => b.owner == n
      exec (.partitionReset n) s = .next ((State.ringsOf q n).foldl State.rebind q).updTeff)

/-- R60, R218: a pair with no READY or RUNNING Pocket gates its clock, or its power, as the tolerance of its slot allows. -/
def Sys2Proof.Safety.PairGating : Prop :=
  ∀ (s : State) (k : Nat), s.coresUp = true → k < 48 → (∀ c, c / 16 = k → s.pk c ≠ 3 ∧ s.pk c ≠ 4) →
    let gates (g : Nat) : Prop := exec (.pairGate k) s = .next { s with
      core := { s.core with gate := AMap.set 0 s.core.gate k g } }
    let admits (ns : Nat) : Prop := ∀ a, s.slotTol k = some a → ns ≤ a
    (s.fget POWER_CTL.PAIRGATE = 1 → admits 15000 → gates 2) ∧
    (s.fget POWER_CTL.PAIRGATE ≠ 1 → admits 200 → gates 1) ∧
    (¬ admits 15000 → admits 200 → gates 1)

/-- Together: the scheduler, gating of pairs, patches, lockstep and sparing. -/
def Obligations.SchedulerPatchAndSparing : Prop :=
  SchedulerResults ∧ PairGating ∧ PatchResults ∧ LockstepAndSparing

/-! ### Coherence and memory controllers -/

/-- No request of `q` for sector `sec` waits to be sent again. -/
def Sys2Proof.Safety.accepted (s : State) (q sec : Nat) : State :=
  { s with mem := { s.mem with nacked := s.mem.nacked.filter fun x => !(x.requester == q && x.sector == sec) } }

/-- Must the home of `sec` turn a request of `q` away (R264, R265)? -/
def Sys2Proof.Safety.homeIsBusy (s : State) (q sec : Nat) : Prop :=
  s.txnOf sec ≠ none ∨ ∃ x, s.persistentFor sec = some x ∧ x.requester ≠ q

/-- R264, R265: the home turns the request away in state `u`: it is remembered with its count, the 64th is persistent where the
requester has no persistent request at that home, the requester's shift register draws its next wait (a free value), and
COHSTAT of the home's die counts. A persistent request is never answered with NACK: it keeps its place. -/
def Sys2Proof.Safety.Nacked (i : Instr) (s u : State) (q sec : Nat) (k : ReqKind) (addr : Nat) (data : List Byte) : Prop :=
  let old := firstThat (fun x => x.requester == q && x.sector == sec) u.mem.nacked
  let was := (old.map (·.persistent)).getD false
  let n := (old.map (·.count)).getD 0 + 1
  let has := ∃ y ∈ u.mem.nacked, y.requester = q ∧ y.persistent = true ∧ u.homeKey y.sector = u.homeKey sec
  let d := (u.homeOf sec).1
  (was = true → exec i s = .next u) ∧
  (was = false → ∀ pers, (pers = true ↔ 64 ≤ n ∧ ¬ has) → ∃ w t, exec i s = .next t ∧
    Alters u t (fun u => { u with fresh := u.fresh + 1, mem := { (accepted u q sec).mem with
        nacked := (accepted u q sec).mem.nacked ++ [⟨q, sec, k, n, pers, addr, data⟩]
        lfsr := AMap.set q u.mem.lfsr q (w % 2 ^ 16) } })
      ((if d < 4 then [counts u (WEFT_COHSTAT.NACK d) 1] else []) ++
       (if d < 4 ∧ pers = true then [counts u (WEFT_COHSTAT.PERSIST d) 1] else [])))

/-- R264, R265: a request reaches its home in state `u`: turned away while the sector is busy; else accepted, after which `P`
relates the state with its NACK record gone to the state it leaves. While the home has other transactions its input queue may
be full, which is free (log entry 42). -/
def Sys2Proof.Safety.Requests (i : Instr) (s u : State) (q sec : Nat) (k : ReqKind) (addr : Nat) (data : List Byte)
    (P : State → State → Prop) : Prop :=
  let quiet := (∀ e ∈ u.mem.txns, u.homeKey e.1 ≠ u.homeKey sec) ∨ u.persistentFor sec ≠ none
  let goes (v : State) : Prop := ∃ t, exec i s = .next t ∧ P (accepted v q sec) t
  (homeIsBusy u q sec → Nacked i s u q sec k addr data) ∧
  (¬ homeIsBusy u q sec → quiet → goes u) ∧
  (¬ homeIsBusy u q sec → ¬ quiet →
    let v : State := { u with fresh := u.fresh + 1 }
    Nacked i s v q sec k addr data ∨ goes v)

/-- R261, R262, R264, R265, R267, R274: ReadS, ReadM and Upgrade at the home, in a sector that something serves, once the
requester's own eviction buffer holds the sector no longer: a transaction opens, forwarded to the holder of M, O or E, with an
invalidation for every other sharer where the requester is to own the sector. No copy has changed yet. A pair sends nothing
during a checkstop. -/
def Sys2Proof.Safety.HomeReads : Prop :=
  ∀ (s : State) (p sec : Nat), s.power.phase = .run → p ≤ 48 →
    (s.mem.checkstop = true → p < 48 →
      Idles (.reads p sec) s ∧ Idles (.readm p sec) s ∧ Idles (.upgrade p sec) s ∧ Idles (.writeback p sec) s ∧
      Idles (.clean p sec) s ∧ Idles (.evictnotice p sec) s) ∧
    ((s.mem.checkstop = true → p = 48) → s.served (sec * 64) = true →
      let u := s.evictFinish p sec
      let opens (k : State → ReqKind) (own : Bool) (v t : State) : Prop :=
        let e := v.dirOf sec
        t = { v with mem := t.mem } ∧
        t.txnOf sec = some { requester := p, kind := k v, fwd := if e.owner = some p then none else e.owner,
                             inv := if own then e.sharers.filter (· ≠ p) else [], po := v.takePois p sec } ∧
        (∀ x, x ≠ sec → t.txnOf x = v.txnOf x) ∧ t.mem.dir = v.mem.dir ∧ t.mem.cdata = v.mem.cdata ∧
        t.mem.nacked = v.mem.nacked
      ((∀ e ∈ AMap.get [] s.mem.evict p, e.1 ≠ sec) → u = s) ∧
      Requests (.reads p sec) s u p sec .readS 0 [] (opens (fun _ => .readS) false) ∧
      Requests (.readm p sec) s u p sec .readM 0 [] (opens (fun _ => .readM) true) ∧
      Requests (.upgrade p sec) s u p sec .upgrade 0 [] (opens (fun v => if v.cst p sec = .i then .readM else .upgrade) true))

/-- R261, R264, R266, R267: WriteBack, Clean and EvictNotice: the writer's next state, its eviction buffer, and the value of
every byte, which a window's write-back does not change. A home that no longer names the writer changes nothing. -/
def Sys2Proof.Safety.HomeReleases : Prop :=
  ∀ (s : State) (p sec : Nat), s.power.phase = .run → p ≤ 48 → (s.mem.checkstop = true → p = 48) →
    let dirty (v : State) : Prop := v.cst p sec = .m ∨ v.cst p sec = .o
    let held := AMap.get [] s.mem.evict p
    let window := spaceOf (sec * 64) = .window
    let others (v t : State) : Prop := ∀ x, x ≠ sec → t.dirOf x = v.dirOf x
    let back (v t : State) : Prop := t = v.evictHome p sec ∧ others v t ∧ t.cst p sec = .i ∧
      t.mem.evict = AMap.set [] v.mem.evict p ((AMap.get [] v.mem.evict p).map fun e => if e.1 = sec then (sec, true) else e) ∧
      (dirty v → (window → ∀ a, t.cur8 a = v.cur8 a) ∧ ∀ a, a / 64 = sec → AMap.get none t.mem.cdata a = none)
    -- the write-back leaves from the buffer of 16, which it enters first
    ((∃ e ∈ held, e.1 = sec) → Requests (.writeback p sec) s s p sec .writeBack 0 [] back) ∧
    ((∀ e ∈ held, e.1 ≠ sec) → dirty s →
      Requests (.writeback p sec) s ((s.undirty p sec).evictPush p sec false) p sec .writeBack 0 [] back) ∧
    (held.length < 16 → s.evictPush p sec false = { s with
      mem := { s.mem with evict := AMap.set [] s.mem.evict p (held ++ [(sec, false)]) } }) ∧
    ((∀ e ∈ held, e.1 ≠ sec) → ¬ dirty s → Idles (.writeback p sec) s) ∧
    Requests (.clean p sec) s s p sec .clean 0 [] (fun v t => others v t ∧ (¬ dirty v → t = v) ∧
      (dirty v → t.cst p sec = (if v.cst p sec = .m then .e else .s) ∧ (window → ∀ a, t.cur8 a = v.cur8 a))) ∧
    Requests (.evictnotice p sec) s s p sec .evictNotice 0 [] (fun v t => others v t ∧
      (v.cst p sec ≠ .e → v.cst p sec ≠ .s → t = v) ∧
      (v.cst p sec = .e ∨ v.cst p sec = .s → t.cst p sec = .i ∧ t.fields = v.fields ∧
        (∀ a, a / 64 ≠ sec → AMap.get none t.mem.cdata a = AMap.get none v.mem.cdata a) ∧
        ((∀ a, a / 64 = sec → AMap.get none v.mem.cdata a = none) → ∀ a, t.cur8 a = v.cur8 a))) ∧
    -- the home's acknowledgement frees the entry
    ((sec, true) ∈ held → exec (.writebackAck p sec) s = .next { s with
      mem := { s.mem with evict := AMap.set [] s.mem.evict p (held.filter fun e => e.1 ≠ sec) } }) ∧
    ((sec, true) ∉ held → Idles (.writebackAck p sec) s)

/-- R263: ReadCur, WriteFull and WritePart of a non-caching requester, after the stores that go on being performed meanwhile
(R282): a read changes no cache; a write puts its bytes at the home and leaves no cached copy. -/
def Sys2Proof.Safety.HomePortAccesses : Prop :=
  ∀ (s : State) (r sec o : Nat) (bs : List Byte), s.power.phase = .run → r < 64 →
    (∀ v : State, v.mem.sbuf = [] → v.sbProgress = v) ∧
    Requests (.readcur r sec) s s r sec .readCur 0 [] (fun v t => ∃ u, u = v.sbProgress ∧ t = { u with mem := t.mem } ∧
      t.mem.dir = u.mem.dir ∧ t.mem.cdata = u.mem.cdata ∧ t.mem.nacked = u.mem.nacked) ∧
    (let writes (i : Instr) (k : ReqKind) : Prop :=
      Requests i s s r sec k (sec * 64 + o) bs (fun v t => ∃ u, u = v.sbProgress ∧
        (u.served (sec * 64 + o) = true →
          (∀ q, t.cst q sec = .i) ∧ (∀ x, x ≠ sec → t.dirOf x = u.dirOf x) ∧
          (spaceOf (sec * 64) = .window ∨
              (((u.recallAll sec).l3Touch sec).2 = true ∧ u.l3Draining (u.homeOf sec).1 = false) →
            (∀ j, j < bs.length → t.homeByte (sec * 64 + o + j) = bs.getD j 0) ∧
            (bs.length = 64 → t.homePois sec = false))))
     (o = 0 → bs.length = 64 → writes (.writefull r sec bs) .writeFull) ∧
     (0 < bs.length → o + bs.length ≤ 64 → writes (.writepart r (sec * 64 + o) bs) .writePart))

/-- R257, R262, R264, R265, R267: the steps of a transaction, and the retry of a request that was turned away. -/
def Sys2Proof.Safety.TransactionSteps : Prop :=
  ∀ (s : State) (sec q : Nat) (x : HomeTxn), s.power.phase = .run →
    let e := s.dirOf sec
    let kinds := x.kind = .readM ∨ x.kind = .upgrade
    (s.txnOf sec = none → Idles (.forwardedRequest sec) s ∧ Idles (.invalidation q sec) s ∧ Idles (.transactionComplete sec) s) ∧
    (s.txnOf sec = some x →
      (x.fwd = none → Idles (.forwardedRequest sec) s) ∧
      -- the holder answers; the poison that comes with the data is its copy's, or the requester's own where it upgrades
      (x.fwd = some q → ∃ t : State, exec (.forwardedRequest sec) s = .next t ∧
        t.txnOf sec = some { x with
          fwd := none
          po := if x.kind = .upgrade ∧ s.cst x.requester sec ≠ .i then x.po else s.copyPois q sec } ∧
        (∀ y, y ≠ sec → t.txnOf y = s.txnOf y ∧ t.dirOf y = s.dirOf y) ∧
        (e.owner = some q → q ∉ e.sharers →
          (x.kind = .readS → t.cst q sec = if e.st = .e then .s else .o) ∧ (kinds → t.cst q sec = .i))) ∧
      (q ∈ x.inv → ∃ t : State, exec (.invalidation q sec) s = .next t ∧ t.cst q sec = .i ∧
        t.txnOf sec = some { x with inv := x.inv.filter (· ≠ q) } ∧
        ∀ y, y ≠ sec → t.txnOf y = s.txnOf y ∧ t.dirOf y = s.dirOf y) ∧
      (q ∉ x.inv → Idles (.invalidation q sec) s) ∧
      ((x.fwd ≠ none ∨ x.inv ≠ []) → Idles (.transactionComplete sec) s) ∧
      (x.fwd = none → x.inv = [] → ∃ t : State, t.txnOf sec = none ∧ t.mem.nacked = s.mem.nacked ∧
        (∀ y, y ≠ sec → t.txnOf y = s.txnOf y) ∧
        -- the requester's copy, where its own eviction buffer does not hold the sector (R267)
        ((∀ e ∈ AMap.get [] s.mem.evict x.requester, e.1 ≠ sec) →
          (kinds → t.cst x.requester sec = .m ∧ ∀ r, r ≠ x.requester → t.cst r sec = .i) ∧
          (x.kind = .readS → e.owner ≠ some x.requester →
            t.cst x.requester sec = if e.owner = none ∧ e.sharers = [] then .e else .s)) ∧
        -- the first persistent request of the sector is served next
        exec (.transactionComplete sec) s = .next (match s.persistentFor sec with
          | none => t
          | some y => t.resend y))) ∧
    (∀ y, firstThat (fun z => z.requester == q && z.sector == sec) s.mem.nacked = some y →
      let again (i : Instr) : Prop := exec (.nackRetry q sec) s = exec i s
      (s.mem.checkstop = false ∨ 48 ≤ q →
        (y.kind = .readS → again (.reads q sec)) ∧ (y.kind = .readM → again (.readm q sec)) ∧
        (y.kind = .upgrade → again (.upgrade q sec)) ∧ (y.kind = .writeBack → again (.writeback q sec)) ∧
        (y.kind = .clean → again (.clean q sec)) ∧ (y.kind = .evictNotice → again (.evictnotice q sec))) ∧
      (y.kind = .readCur → q < 64 → again (.readcur q sec)) ∧
      (y.kind = .writeFull → q < 64 → y.addr = sec * 64 → y.data.length = 64 → again (.writefull q sec y.data)) ∧
      (y.kind = .writePart → q < 64 → 0 < y.data.length → y.addr % 64 + y.data.length ≤ 64 →
        again (.writepart q y.addr y.data))) ∧
    (firstThat (fun z => z.requester == q && z.sector == sec) s.mem.nacked = none → Idles (.nackRetry q sec) s)

/-- R271 to R275, R548, R550: a timeout on a privileged sector is a contained-class fault that names the home and the silent
agent, whose copy and answer are given up, and MCHK for the context that waits; on any other sector it checkstops the compute
domain. -/
def Sys2Proof.Safety.CoherenceTimeouts : Prop :=
  ∀ (s : State) (sec a : Nat) (x : HomeTxn) (rd pass : Bool), s.power.phase = .run →
    let h := s.homeOf sec
    -- the home logic of the slice, or the Hem home
    let fault (act unit d2 : Nat) : FaultRec :=
      { loc := act * 2 ^ 60 + h.1 * 2 ^ 56 + h.2 * 2 ^ 48 + unit * 2 ^ 40, d0 := sec * 64, d2 := d2 }
    let kept (d2 : Nat) : FaultRec := fault 7 (if h.1 = 4 then 8 else 0x14) d2
    let stops (i : Instr) (d2 : Nat) : Prop := ∃ t : State, exec i s = .next (t.raise (fault 8 0x14 d2)) ∧ t.mem.checkstop = true ∧
      t.fget FAULT_STAT.CHECKSTOP = 1 ∧ (∀ p y, p < 48 → t.cst p y = .i) ∧ (∀ y ∈ t.mem.nacked, 48 ≤ y.requester) ∧
      t.fget LIFE_RESETS.CHECKSTOPS = (counts s LIFE_RESETS.CHECKSTOPS 1).2
    (s.outstanding a sec = false → Idles (.requesterTimeout a sec) s) ∧
    (s.outstanding a sec = true → s.privileged sec = false → stops (.requesterTimeout a sec) (s.homeKey sec)) ∧
    (s.outstanding a sec = true → s.privileged sec = true →
      let t : State := { s with mem := { (accepted s a sec).mem with
        txns := s.mem.txns.filter fun e => !(e.1 == sec && e.2.any fun t => t.requester == a) } }
      let u := (t.raise (kept (s.homeKey sec))).waiterMchk a sec
      exec (.requesterTimeout a sec) s = .next (if spaceOf (sec * 64) = .window then u.hemLost else u)) ∧
    (s.txnOf sec = none → Idles (.homeTimeout sec a rd pass) s) ∧
    (s.txnOf sec = some x →
      (x.fwd ≠ some a → a ∉ x.inv → Idles (.homeTimeout sec a rd pass) s) ∧
      ((x.fwd = some a ∨ a ∈ x.inv) → s.privileged sec = false → stops (.homeTimeout sec a rd pass) a) ∧
      ((x.fwd = some a ∨ a ∈ x.inv) → s.privileged sec = true →
        ∃ t : State, exec (.homeTimeout sec a rd pass) s =
            .next (((t.raise (kept a)).waiterMchk x.requester sec).silentAgent a rd pass) ∧
          t = { s with mem := t.mem, fields := t.fields } ∧
          (∀ f : Field, f.key ≠ (WEFT_L2STAT.DIRTY a).key → t.fget f = s.fget f) ∧ t.cst a sec = .i ∧
          t.txnOf sec = some { x with
            fwd := if x.fwd = some a then none else x.fwd, inv := x.inv.filter (· ≠ a), po := true } ∧
          (spaceOf (sec * 64) = .window → t.homePois sec = true) ∧
          ∀ y, y ≠ sec → t.txnOf y = s.txnOf y ∧ t.dirOf y = s.dirOf y))

/-- Together: requests at a home, the steps of a home transaction, and its timeouts. -/
def Obligations.CoherenceResults : Prop :=
  HomeReads ∧ HomeReleases ∧ HomePortAccesses ∧ TransactionSteps ∧ CoherenceTimeouts

/-- R276 to R278: writes of L2CTL.EN and L3CTL.WGEN, the end of a drain or of a power-up, and their DONE and DONESRC. -/
def Sys2Proof.Safety.CacheControl : Prop :=
  ∀ (s : State) (p d g w : Nat), s.power.phase = .run → d < 4 →
    let again (p : Nat) (b : Bool) (s : State) : State := { s with mem := { s.mem with reEnable := AMap.set false s.mem.reEnable p b } }
    let st := s.fget (WEFT_L2STAT.STATE p)
    let k := 64 + d * 4 + g
    -- DONESRC is a firmware send (R276): a reserved number is a fault (R233)
    let sends (s : State) (en src : Field) : State :=
      if s.fget en ≠ 1 then s
      else if sourceKnown (s.fget src) = true then s.collarEvent (s.fget src)
      else s.raise { loc := 0x6FFF000000000000, d0 := s.fget src, bare := true }
    let walks (s : State) : State := { s with mem := { s.mem with walk := AMap.set 0 s.mem.walk p 0 } }
    -- L2
    (st = 0 → Does (.l2ctlEnWrite p true) s id [(WEFT_L2CTL.EN p, 1), (WEFT_L2STAT.STATE p, 1)]) ∧
    ((st = 2 ∨ st = 3) → Does (.l2ctlEnWrite p true) s (again p true) [(WEFT_L2CTL.EN p, 1)]) ∧
    (st = 1 → Does (.l2ctlEnWrite p true) s id [(WEFT_L2CTL.EN p, 1)]) ∧
    (st = 1 → Does (.l2ctlEnWrite p false) s (fun s => walks (again p false s)) [(WEFT_L2CTL.EN p, 0), (WEFT_L2STAT.STATE p, 2)]) ∧
    (st ≠ 1 → Does (.l2ctlEnWrite p false) s (again p false) [(WEFT_L2CTL.EN p, 0)]) ∧
    (st ≠ 2 → st ≠ 3 → Idles (.cacheDrainDone false p) s) ∧
    ((st = 2 ∨ st = 3) → ∃ t : State, t.fget (WEFT_L2STAT.STATE p) = 0 ∧ t.fget (WEFT_L2STAT.DONE p) = 1 ∧
      t.fget (WEFT_L2STAT.DIRTY p) = 0 ∧ t.mem.reEnable = s.mem.reEnable ∧
      (let u := sends t (WEFT_L2CTL.DONEEN p) (WEFT_L2CTL.DONESRC p)
       exec (.cacheDrainDone false p) s = .next (if AMap.get false s.mem.reEnable p = true then
         { u.fset (WEFT_L2STAT.STATE p) 1 with mem := { u.mem with reEnable := AMap.erase p u.mem.reEnable } } else u))) ∧
    -- L3
    (∃ t : State, exec (.l3ctlWgenWrite d w) s = .next t ∧ t.fget (WEFT_L3CTL.WGEN d) = w % 16 ∧
      t = { s with fields := t.fields, fresh := t.fresh,
                   mem := { s.mem with reEnable := t.mem.reEnable, clearLater := t.mem.clearLater, walk := t.mem.walk } } ∧
      ((∀ g, g < 4 → s.gstate d g ≠ 2) → (∃ g, g < 4 ∧ w / 2 ^ g % 2 = 0 ∧ s.gstate d g = 1) → t.fget (WEFT_L3STAT.WALKSET d) = 0) ∧
      ∀ g, g < 4 →
        let on := w / 2 ^ g % 2 = 1
        let st := s.gstate d g
        t.gstate d g = (if on ∧ st = 0 then 3 else if ¬ on ∧ st = 1 then 2 else st) ∧
        (AMap.get false t.mem.reEnable (64 + d * 4 + g) = true ↔ on ∧ st = 2) ∧
        (AMap.get false t.mem.clearLater (64 + d * 4 + g) = true ↔ ¬ on ∧ st = 3)) ∧
    ((∀ g, g < 4 → s.gstate d g ≠ 2) → Idles (.cacheDrainDone true d) s) ∧
    ((∃ g, g < 4 ∧ s.gstate d g = 2) → (s.fget (WEFT_L3CTL.DONEEN d) ≠ 1) →
      ∃ t : State, exec (.cacheDrainDone true d) s = .next t ∧ t.fget (WEFT_L3STAT.DONE d) = 1 ∧
        t.fget (WEFT_L3STAT.WALKSET d) = 0 ∧
        ∀ g, g < 4 → t.gstate d g = if s.gstate d g = 2 then
          (if AMap.get false s.mem.reEnable (64 + d * 4 + g) = true then 3 else 0) else s.gstate d g) ∧
    (g < 4 → s.gstate d g ≠ 3 → Idles (.l3PowerupDone d g) s) ∧
    (g < 4 → s.gstate d g = 3 →
      (AMap.get false s.mem.clearLater k ≠ true →
        ∃ t : State, exec (.l3PowerupDone d g) s = .next t ∧ t.gstate d g = 1 ∧ t = { s with fields := t.fields } ∧
          ∀ h, h < 4 → h ≠ g → t.gstate d h = s.gstate d h) ∧
      (AMap.get false s.mem.clearLater k = true →
        ∃ t : State, t.gstate d g = 0 ∧ t.fget (WEFT_L3STAT.DONE d) = 1 ∧
          t = { s with fields := t.fields, mem := { s.mem with clearLater := AMap.erase k s.mem.clearLater } } ∧
          (∀ h, h < 4 → h ≠ g → t.gstate d h = s.gstate d h) ∧
          exec (.l3PowerupDone d g) s = .next (sends t (WEFT_L3CTL.DONEEN d) (WEFT_L3CTL.DONESRC d))))

/-- R293, R296: a persist request of the context that the pair runs drains its stores and sends its Cleans; the acknowledgement
comes when no Hem write of the pair is in flight, and retires the PERSIST that still waits. -/
def Sys2Proof.Safety.PersistResults : Prop :=
  ∀ (s : State) (p : Nat),
    (∀ k c, s.slotServed p = some k → s.runningOf k = some c → s.coresUp = true →
      ∃ t, t = (s.sbFlush p).persistClean p ∧ exec (.persistRequest p) s = .next { t with
        core := { t.core with persistWait := AMap.set none t.core.persistWait p (some (c, (t.ctx c).pc)) } }) ∧
    ((s.slotServed p).bind s.runningOf = none → Idles (.persistRequest p) s) ∧
    (AMap.get none s.core.persistWait p = none → Idles (.persistAck p) s) ∧
    (∀ c pc, AMap.get none s.core.persistWait p = some (c, pc) →
      ∃ t : State, (∀ e ∈ t.mem.winPend, p + 1 ∉ e.2) ∧ t.core = { s.core with persistWait := AMap.erase p s.core.persistWait } ∧
        t.ctxs = s.ctxs ∧ exec (.persistAck p) s =
          .next (if s.canRun c = true ∧ (s.ctx c).pc = pc then t.commit c (s.level c == 1) (pc + 4) else t))

/-- Together: enabling and draining caches, and persistence. -/
def Obligations.CacheAndPersistResults : Prop :=
  CacheControl ∧ PersistResults

/-- R303, R304, R307 to R317: the memory map, DRAM accesses with symbol ECC, refresh, power-down, scrubbing, and hot
replacement. -/
def Sys2Proof.Safety.MemoryControllerResults : Prop :=
  ∀ (s : State) (ch mc k rank dev t0 : Nat) (w : Word) (req : McReq) (more : List McReq) (l : List DimmIn),
    s.power.phase = .run → ch < 24 →
    let reqs := req :: more
    let o := partner ch
    let st := s.fget (MC_STAT.STATE ch)
    -- a controller works on bursts but in Drowse and Shutter, where every channel is in self-refresh (R310)
    let serves := (st = 1 ∨ st = 2 ∨ st = 5) ∧ s.fget POWER_STATE.CUR ≠ 3 ∧ s.fget POWER_STATE.CUR ≠ 4
    let slot (rank : Nat) : Nat := 2 * ch + rank / 2 % 2
    let onMem (f : MemState → MemState) (s : State) : State := { s with mem := f s.mem }
    let chan (act : Nat) : Nat := act * 2 ^ 60 + ch / 6 * 2 ^ 56 + 0xFF * 2 ^ 48 + (0x28 + ch % 6) * 2 ^ 40
    let loc (rank act : Nat) : Nat := chan act + (rank / 2 * 8 + rank % 2) * 2 ^ 30 + dev * 2 ^ 20
    let lostAt (rank ca : Nat) : List (Field × Nat) := [counts s (MC_ECC.UNCORR ch) 1,
      counts s (LIFE_DIMM3.UNCORR (slot rank)) 1, fits (MC_ERRADDR.ADDR ch) ca, fits (MC_ERRADDR.RANKDEV ch) (rank * 32 + dev)]
    -- the map: BAD holds exactly where a valid region's channel count or size breaks R304
    (k < 16 →
      let put (f : Field) : Field × Nat := fits f (w.toNat / 2 ^ f.lo)
      let bad (t : State) : Prop := t.fget (WEFT_MAPA.VALID 0 k) = 1 ∧
        let mir := t.fget (WEFT_MAPA.MIRROR 0 k) = 1
        let bit (i : Nat) : Bool := bitOf (t.fget (WEFT_MAPB.CHMASK 0 k)) i
        let n := if mir then ((List.range 12).filter fun i => bit (2 * i)).length else ((List.range 24).filter bit).length
        let size := t.fget (WEFT_MAPB.LIMIT 0 k) + 1 - t.fget (WEFT_MAPA.BASE 0 k)
        (mir → n ∉ [1, 2, 3, 4, 6, 12] ∨ ∃ i, i < 12 ∧ bit (2 * i) ≠ bit (2 * i + 1)) ∧
        (¬ mir → n ∉ [1, 2, 3, 4, 6, 8, 12, 24]) ∨ size = 0 ∨ size % n ≠ 0
      let writes (i : Instr) (l : List Field) : Prop :=
        ∃ t : State, ∃ b, Alters s t id ((WEFT_MAPB.BAD 0 k, b) :: l.map put) ∧ exec i s = .next t ∧
          (b = 1 ↔ bad t) ∧ (b = 0 ↔ ¬ bad t)
      writes (.mapWrite k true w) [WEFT_MAPB.CHMASK 0 k, WEFT_MAPB.LIMIT 0 k] ∧
      writes (.mapWrite k false w) [WEFT_MAPA.CHOFF 0 k, WEFT_MAPA.MIRROR 0 k, WEFT_MAPA.VALID 0 k, WEFT_MAPA.BASE 0 k]) ∧
    -- arbitration: ports 5 and 6 last, then urgency, PRI and age (R311)
    (∀ r, s.granted mc reqs = some r → (∀ j, s.fget (MC_PORT.PRI mc j) < 16) →
      let low (r : McReq) : Prop := r.port = 5 ∨ r.port = 6
      let urge (r : McReq) : Nat :=
        let g := s.fget (MC_PORT.TARGET mc r.port)
        if r.port = 5 ∨ r.port = 6 then 0 else if 2 * g < r.age then 3 else if g ≤ r.age then 2 else if g ≤ 2 * r.age then 1 else 0
      let pri (r : McReq) : Nat := s.fget (MC_PORT.PRI mc r.port)
      r ∈ reqs ∧ ∀ b ∈ reqs, (low r → low b) ∧ ((low r ↔ low b) → urge b ≤ urge r ∧ (urge b = urge r → pri b ≤ pri r ∧
        (pri b = pri r → b.age ≤ r.age)))) ∧
    (s.granted mc reqs = none → ∀ outcome good, Idles (.dramAccess mc req more dev outcome good) s) ∧
    (serves →
      -- the burst that is granted: clean, corrected, uncorrectable
      (∀ r good, s.granted mc reqs = some r → 2 * mc + r.l = ch →
        let ca := r.ca
        let rank := s.rankAt ch ca
        let mk := AMap.get 0 s.mem.marked (ch * 8 + rank)
        let awake (s : State) : State := onMem (fun m => { m with rankDown := AMap.erase (ch * 8 + rank) m.rankDown }) s
        let two := s.mirroredAt ch ca = true ∧ s.chanUp o = true
        let does (outcome : Nat) (u : State) : Prop := exec (.dramAccess mc req more dev outcome good) s = .next u
        let lost (outcome : Nat) : Prop :=
          (two → good = true → s.fget (MC_STAT.STATE o) = 1 → ∃ t : State, t = { s with mem := t.mem } ∧
            (∀ a, a / 64 = ca / 64 → AMap.get 0 t.mem.dram (ch * 2 ^ 40 + a) = AMap.get 0 s.mem.dram (o * 2 ^ 40 + a)) ∧
            does outcome (t.raiseC { loc := loc rank 0, d0 := ca })) ∧
          (¬ (two ∧ good = true ∧ s.fget (MC_STAT.STATE o) = 1) → ∃ t : State, Alters s t (fun s => { s with mem := t.mem }) (lostAt rank ca) ∧
            AMap.get false t.mem.dramPoison (ch * 2 ^ 34 + ca / 64) = true ∧
            (two → AMap.get false t.mem.dramPoison (o * 2 ^ 34 + ca / 64) = true) ∧ t.mem.dram = s.mem.dram ∧
            does outcome (t.raise { loc := loc rank 7, d0 := ca }))
        does 0 (awake s) ∧
        (mk = 0 ∨ mk = dev + 1 →
          ∃ t : State, Alters s t awake [counts s (MC_ECC.CORR ch) 1, counts s (LIFE_DIMM2.CORR (slot rank)) 1] ∧
            does 1 ((t.raiseC { loc := loc rank 0, d0 := ca }).countCe ch rank dev)) ∧
        -- a second failing device of a rank with a marked one is uncorrectable (R313)
        (mk ≠ 0 → mk ≠ dev + 1 → lost 1) ∧ lost 2) ∧
      -- a refresh interval: four REFsb fall due; what reaches 4 tREFI is forced, by REFab from eight REFsb on
      (∀ paid,
        let owed := AMap.get 0 s.mem.refDebt (ch * 8 + rank) + 4 - paid
        let k := owed - 15
        let left := if k < 8 then owed - k else owed - (k + 3) / 4 * 4
        let m' : MemState := { s.mem with refDebt := AMap.set 0 s.mem.refDebt (ch * 8 + rank) left }
        let most := ((List.range 8).map fun r => AMap.get 0 m'.refDebt (ch * 8 + r)).foldl max 0
        Does (.refreshDue ch rank ⟨paid, t0⟩) s (onMem fun _ => m') [fits (MC_REF.DEBT ch) ((most + 3) / 4),
          counts s (MC_STAT.FORCED ch) (if k < 8 then k else (k + 3) / 4),
          fits (MC_STAT.DTEMP ch) (t0 + 64), (MC_REF.HALVED ch, if 85 < t0 then 1 else 0)]) ∧
      -- above 95 °C half the transfer slots
      (95 < t0 → ∃ t : State, Alters s t (onMem fun m => { m with halfRate := AMap.set false m.halfRate ch true })
          [fits (MC_STAT.DTEMP ch) (t0 + 64), (MC_REF.HALVED ch, 1)] ∧
        exec (.dramThermalThrottle ch t0) s = .next (t.raiseC { loc := chan 3, d0 := t0 })) ∧
      (s.fget (MC_CTL.PDT ch) ≠ 0 → exec (.rankPowerDown ch rank) s = .next { s with
        mem := { s.mem with rankDown := AMap.set false s.mem.rankDown (ch * 8 + rank) true } }) ∧
      (s.fget (MC_CTL.PDT ch) = 0 → Idles (.rankPowerDown ch rank) s) ∧
      -- a patrol step: the address advances to the end of the channel, whose pass counts
      (s.fget (MC_CTL.SCRUBEN ch) = 1 → ∀ good,
        let ca := s.fget (MC_SCRUB.ADDR ch)
        let rank := s.rankAt ch ca
        let mk := AMap.get 0 s.mem.marked (ch * 8 + rank)
        let ends := AMap.get 0 s.mem.chanGiB ch * 2 ^ 30 ≤ ca + 64
        let next (t : State) : State := if ends then (t.fset (MC_SCRUB.ADDR ch) 0).fcount (MC_SCRUB.PASSES ch) 1
          else t.fset (MC_SCRUB.ADDR ch) (ca + 64)
        (∀ u, ends → Does (.patrolScrubStep ch dev false u good) s id [(MC_SCRUB.ADDR ch, 0), counts s (MC_SCRUB.PASSES ch) 1]) ∧
        (∀ u, ¬ ends → Does (.patrolScrubStep ch dev false u good) s id [fits (MC_SCRUB.ADDR ch) (ca + 64)]) ∧
        (mk = 0 ∨ mk = dev + 1 →
          ∃ t : State, Alters s t id [counts s (MC_ECC.SCRUBFIX ch) 1, counts s (LIFE_DIMM2.CORR (slot rank)) 1] ∧
            exec (.patrolScrubStep ch dev true false good) s =
              .next (next ((t.raiseC { loc := loc rank 0, d0 := ca }).countCe ch rank dev))) ∧
        (¬ (s.mirroredAt ch ca = true ∧ s.fget (MC_STAT.STATE o) = 1 ∧ good = true) →
          ∃ t : State, Alters s t (fun s => { s with mem := t.mem }) (lostAt rank ca) ∧
            exec (.patrolScrubStep ch dev true true good) s = .next (next (t.raise { loc := loc rank 7, d0 := ca }))))) ∧
    (t0 ≤ 90 → Does (.dramThrottleEnd ch t0) s (onMem fun m => { m with halfRate := AMap.erase ch m.halfRate })
      [fits (MC_STAT.DTEMP ch) (t0 + 64), (MC_REF.HALVED ch, if 85 < t0 then 1 else 0)]) ∧
    -- R313: without a threshold no device is marked
    (s.fget (MC_CTL.CETHR ch) = 0 → ∃ l, s.countCe ch rank dev = { s.look with
      mem := { s.mem with ceHour := AMap.set [] s.mem.ceHour ((ch * 8 + rank) * 32 + dev) l } }) ∧
    -- hot replacement
    (∀ t, t < 2 →
      let ok := st = 1 ∧ s.fget (MC_STAT.STATE o) = 1 ∧ s.unmirrored ch = false
      let slots := s.fget (MC_STAT.SLOTS ch)
      (¬ ok → Does (.chRemove ch t) s id [(MC_STAT.RESULT ch, 2)]) ∧
      (ok → Does (.chRemove ch t) s
        (fun s => { s with pins := { s.pins with
          dimmPwr := AMap.set false s.pins.dimmPwr (2 * ch + t) false
          ddrResetN := AMap.set false s.pins.ddrResetN ch false } })
        [(MC_STAT.STATE o, 2), (MC_STAT.STATE ch, 3), (MC_STAT.RESULT ch, 1),
         fits (MC_STAT.SLOTS ch) (if slots / 2 ^ t % 2 = 1 then slots - 2 ^ t else slots)])) ∧
    -- INSERT: training steps 1 to 6 on the DIMMs `l` of the two slots (R86, R301, R306, R316, R317)
    (let theirs := [2 * o, 2 * o + 1].filterMap fun j => if bitOf (s.fget (MC_STAT.SLOTS o)) (j % 2) then s.dimmOf j else none
     let mine := [2 * ch, 2 * ch + 1].filterMap fun j => (dimmAt l j).map fun d => { d with fill := true }
     let check (j : Nat) : Option Nat :=
       (dimmCheck mine (population mine ch ≠ population theirs o) (2 * ch + j)).map fun x => x.2
     let on (j : Nat) : Bool := check j == some 1
     let good := (check 0 = none ∨ check 0 = some 1) ∧ (check 1 = none ∨ check 1 = some 1)
     (st ≠ 3 → Does (.chInsert ch l) s id [(MC_STAT.RESULT ch, 2)]) ∧
     (st = 3 → ∃ t, exec (.chInsert ch l) s = .next t ∧
       t.fget (MC_STAT.SLOTS ch) = (if on 0 then 1 else 0) + (if on 1 then 2 else 0) ∧
       (∀ j, j < 2 → AMap.get false t.pins.dimmPwr (2 * ch + j) = on j) ∧
       (check 0 = none → check 1 = none → t.fget (MC_STAT.RESULT ch) = 3 ∧ t.fget (MC_STAT.STEP ch) = 1) ∧
       (good → ¬ (check 0 = none ∧ check 1 = none) → t.fget (MC_STAT.STATE ch) = 5 ∧ t.fget (MC_STAT.STEP ch) = 6 ∧
         t.fget (MC_STAT.RESULT ch) = 1 ∧ AMap.get false t.pins.ddrResetN ch = true ∧
         AMap.get 0 t.mem.chanGiB ch = (mine.map (·.gib)).sum) ∧
       (¬ good ∨ (check 0 = none ∧ check 1 = none) → t.fget (MC_STAT.STATE ch) = 3 ∧
         AMap.get false t.pins.ddrResetN ch = false) ∧
       (∀ v, check 1 = some v → v ≠ 1 → t.fget (MC_STAT.RESULT ch) = v) ∧
       (∀ v, check 0 = some v → v ≠ 1 → (check 1 = none ∨ check 1 = some 1) → t.fget (MC_STAT.RESULT ch) = v))) ∧
    (st = 5 → AMap.wf 0 s.mem.dram = true → ∃ t,
      Alters s t (fun s => { s with mem := { s.mem with dram := t.mem.dram, dramPoison := t.mem.dramPoison } })
        [(MC_STAT.STATE ch, 1), (MC_STAT.STATE o, 1), (MC_STAT.DONE ch, 1), (MC_STAT.RESULT ch, 1)] ∧
      exec (.rebuildDone ch) s = .next t ∧
      (∀ ca, ca < 2 ^ 40 → s.mirroredAt ch ca = true → s.mirroredAt o ca = true →
        AMap.get 0 t.mem.dram (ch * 2 ^ 40 + ca) = AMap.get 0 s.mem.dram (o * 2 ^ 40 + ca)) ∧
      ∀ j, j / 2 ^ 40 ≠ ch → AMap.get 0 t.mem.dram j = AMap.get 0 s.mem.dram j)

/-- R270, R314: an L3 slice scrubs the set it has reached and goes on to the next: a corrected sector is recorded, an
uncorrectable one that is clean is dropped, one that is dirty is poisoned. -/
def Sys2Proof.Safety.L3SetScrubResults : Prop :=
  ∀ (s : State) (d sl sec : Nat), s.power.phase = .run → d < 4 → sl < 16 →
    let set := AMap.get 0 s.mem.l3scrub (d * 16 + sl)
    let u : State := { s with mem := { s.mem with l3scrub := AMap.set 0 s.mem.l3scrub (d * 16 + sl) ((set + 1) % 1024) } }
    let here := AMap.get 0 s.mem.l3 sec
    let inSet := here ≠ 0 ∧ sliceOf (sec * 64) = sl ∧ sec * 64 / 2 ^ 12 % 2 ^ 10 = set
    let fault (act : Nat) : FaultRec := { loc := act * 2 ^ 60 + d * 2 ^ 56 + (16 + sl) * 2 ^ 48 + 0x10 * 2 ^ 40, d0 := sec * 64 }
    exec (.l3SetScrub d sl sec 0) s = .next u ∧
    (∀ out, ¬ inSet → exec (.l3SetScrub d sl sec out) s = .next u) ∧
    (inSet →
      exec (.l3SetScrub d sl sec 1) s = .next (u.raiseC (fault 0)) ∧
      (here = 1 → exec (.l3SetScrub d sl sec 2) s = .next ((u.l3Drop sec).raiseC (fault 0)) ∧
        AMap.get 0 (u.l3Drop sec).mem.l3 sec = 0) ∧
      (here ≠ 1 → exec (.l3SetScrub d sl sec 2) s = .next ((u.setHomePois sec true).raise (fault 7)) ∧
        (spaceOf (sec * 64) = .dram → (u.setHomePois sec true).homePois sec = true)))

/-- Together: the memory channels, and the scrub of an L3 set. -/
def Obligations.MemoryResults : Prop :=
  MemoryControllerResults ∧ L3SetScrubResults

/-! ### Doorbells, rings and transactions -/

/-- The doorbell that an ST64 of `ws` by context `c` rings, with ORDER `o` in CTL (R350, R353, R354). -/
def Sys2Proof.Safety.rung (c r o : Nat) (ws : List Word) : Doorbell :=
  { ring := r, ctx := some c, words := BitVec.ofNat 64 ((ws.getD 0 0).toNat / 16 * 16 + o) :: (upFrom 1 7).map fun i => ws.getD i 0 }

/-- R350, R352 to R359: the checks of a doorbell, in the order of R358: the first that fails decides. A refusal needs a free
CR slot beyond those owed, an acceptance two; without the slot the doorbell is discarded. -/
def Sys2Proof.Safety.DoorbellChecks : Prop :=
  ∀ (s : State) (d : Doorbell),
    let r := d.ring
    let n := s.fget (RING_CTL.PART r)
    let ch := s.fget (RING_CTL.CHAN r)
    let st := s.fget (RING_STAT.STATE r)
    let free := s.ringFree r false
    let owed := s.fget (RING_STAT.OWED r)
    let w (i : Nat) : Nat := (d.words.getD i 0).toNat
    let order := w 0 % 16
    let bit (i : Nat) : Bool := decide (w 0 / 2 ^ i % 2 = 1)
    let slot (v : Verdict) : Verdict := if owed + 1 ≤ free then v else .discard
    let key := if bit 7 || bit 8 then s.keyCheck n (w 0 / 2 ^ 16 % 2 ^ 12) (bit 7) else none
    let quota := s.fget (PART_JQUOTA.JQUOTA n)
    let checks : List (Bool × Verdict) := [
      (decide (st = 0 ∨ st = 1 ∨ st = 4), .discard),
      (d.bad, slot (.refuse 0x20 0)),
      (d.shutter, slot (.refuse 0x29 0)),
      (decide (st = 2), slot (.refuse 0x25 0)),
      (!descFormOk d, slot (.refuse 0x21 0)),
      (decide (order = 4), slot .free),
      (decide (order = 3) && !s.answerable r (w 7), slot (.refuse 0x28 0)),
      (key.isSome, slot (.refuse 0x27 (key.getD 0))),
      (bit 4 && [w 2, w 3, w 5].any (fun a => a != 0 && !s.inHwin n a), slot (.refuse 0x22 0)),
      (decide (s.fget (CHAN_RINGSTAT.ATTACH ch) = 2), slot (.refuse 0x26 0)),
      (decide (Nat.max 1 (s.fget (RING_CTL.OUTMAX r)) ≤ s.fget (RING_STAT.OPEN r)) || decide (free < owed + 2), slot (.refuse 0x23 0)),
      (decide (quota ≠ 0) && decide (quota ≤ s.fget (PART_JOPEN.JOPEN n)), slot (.refuse 0x24 0))]
    s.verdict d = ((checks.find? (·.1)).map (·.2)).getD .pass

/-- R350, R354, R358, R359: what a doorbell does once it is decided, with no other waiting: it is discarded, refused with an
entry, freed, kept, or counted and given a TSN and the journal slot at HEAD. -/
def Sys2Proof.Safety.DoorbellResults : Prop :=
  ∀ (s : State) (c r : Nat) (ws : List Word), s.power.phase = .run → r < 4096 →
    let rings (i : Instr) (d : Doorbell) : Prop :=
      let queued (d : Doorbell) (s : State) : State := { s with triad := { s.triad with dbq := [d] } }
      let counted := s.countPass d
      let tag := if d.bad then 0 else (d.words.getD 1 0).toNat
      (s.fget FAULT_MINSET.MINSET ≠ 0 → exec i s = .next (s.discardDoorbell d)) ∧
      (s.fget FAULT_MINSET.MINSET = 0 → s.triadUp = false →
        exec i s = .next { s with triad := { s.triad with dbq := s.triad.dbq ++ [{ d with shutter := s.cur == 4 }] } }) ∧
      (s.fget FAULT_MINSET.MINSET = 0 → s.triadUp = true → s.triad.dbq = [] →
        (s.verdict d = .discard → exec i s = .next (s.discardDoorbell d)) ∧
        (∀ st det, s.verdict d = .refuse st det → exec i s = .next (s.putEntry r (refusalEntry st det tag))) ∧
        (s.verdict d = .free → exec i s = .next (s.doFree d)) ∧
        (s.verdict d = .pass →
          (counted.mayLand = false → exec i s = .next (queued { d with passed := true } counted)) ∧
          (counted.mayLand = true → ∃ t : State, ∃ f : Flight, exec i s = .next t ∧
            t.triad.flights = s.triad.flights ++ [f] ∧ t.triad.dbq = [] ∧
            f.slot = s.fget HEM_JPTR.HEAD ∧ f.jr.tsn = s.tsnOf (s.fget HEM_TSNNEXT.TSNNEXT % 2 ^ 62) ∧ f.jr.desc = d.words ∧
            f.jr.pass = s.triad.jpass ∧ f.d0 = false ∧ f.d1 = false ∧
            t.fget HEM_JPTR.HEAD = (s.fget HEM_JPTR.HEAD + 1) % 4194304 ∧
            t.triad.txns = s.triad.txns ∧ t.triad.j0 = s.triad.j0 ∧ t.triad.j1 = s.triad.j1)))
    rings (.doorbellSend c r ws) (rung c r 1 ws) ∧ rings (.doorbellPost c r ws) (rung c r 2 ws) ∧
    rings (.doorbellAnswer c r ws) (rung c r 3 ws) ∧ rings (.doorbellFree c r ws) (rung c r 4 ws) ∧
    (∀ hub, rings (.doorbellBadStore c r hub)
      { ring := r, ctx := if hub then none else some c, bad := true, words := List.replicate 8 0 }) ∧
    -- the counts of one that has passed
    (∀ d : Doorbell, let n := s.fget (RING_CTL.PART r)
      d.ring = r → (d.words.getD 0 0).toNat / 2 ^ 7 % 2 = 0 → (d.words.getD 0 0).toNat % 16 ≠ 3 →
        Alters s (s.countPass d) id [fits (RING_STAT.OPEN r) (s.fget (RING_STAT.OPEN r) + 1),
          fits (RING_STAT.OWED r) (s.fget (RING_STAT.OWED r) + 1), fits (PART_JOPEN.JOPEN n) (s.fget (PART_JOPEN.JOPEN n) + 1)])

/-- Together: the checks of a doorbell and what it does. -/
def Obligations.Doorbells : Prop :=
  DoorbellChecks ∧ DoorbellResults

/-- The transaction is settled from `v` (R363, R389): its ANSWERED word carries the outcome and the DETAIL or ASTATUS. -/
def Sys2Proof.Safety.Settles (i : Instr) (s v : State) (tsn outcome value : Nat) : Prop :=
  ∃ t : State, ∃ y : Txn, exec i s = .next t ∧ t.txn tsn = some y ∧ y.stage = .settled ∧
    ansOutcome y.ansWord = outcome ∧ ansValue y.ansWord = value ∧ y.payload = [] ∧ y.reserved = 0 ∧
    (∀ k, k ≠ tsn → t.txn k = v.txn k) ∧ t.mem = v.mem ∧ t.triad.j0 = v.triad.j0 ∧ t.triad.j1 = v.triad.j1

/-- R30, R357, R363, R367, R368, R384, R391, R392: the steps of an accepted transaction: the durability vote, its reads,
its marks, its timeout, the detachment of its channel, and the carry of its record. -/
def Obligations.TransactionResults : Prop :=
  ∀ (s : State) (tsn : Nat) (x : Txn), s.power.phase = .run → s.triad.dbq = [] → s.fget TRIAD_STAT.MODE < 2 →
    let bad := if hdrVital x.hdr then 3 else 2
    let timer := if (x.desc.getD 0 0).toNat / 2 ^ 32 % 2 ^ 16 = 0 then s.fget (CHAN_RINGCTL.ATDEF (hdrChan x.hdr))
      else (x.desc.getD 0 0).toNat / 2 ^ 32 % 2 ^ 16
    let written (t : State) (p : JRec → Prop) : Prop :=
      ∀ i r, i < 2 → s.hWritten i = true → t.jrec i x.slot = some r → p r
    -- a record durable on some die: the vote waits for every die in service
    (∀ f : Flight, s.triad.flights = [f] → f.jr.tsn = tsn → f.d0 = false → f.d1 = false → ∀ h0 h1,
      let put (i : Nat) (b : Bool) (t : State) : State :=
        if b ∧ s.hWritten i = true then (t.setJrec i f.slot (some f.jr)).wearWrite i (128 * f.slot) else t
      let u := put 1 h1 (put 0 h0 s)
      let all := (s.hOk 0 = true ∨ s.hOk 1 = true) ∧ (s.hOk 0 = true → h0 = true) ∧ (s.hOk 1 = true → h1 = true)
      (¬ all → exec (.hemWriteDurable tsn h0 h1) s = .next { u with
        triad := { u.triad with flights := [{ f with d0 := h0, d1 := h1 }] } }) ∧
      (all → ∃ v : State, v = { u with triad := { u.triad with flights := [] } } ∧
        exec (.hemWriteDurable tsn h0 h1) s = .next ((v.accept { f with d0 := h0, d1 := h1 }).landAll) ∧
        ∃ y, (v.accept { f with d0 := h0, d1 := h1 }).txn tsn = some y ∧ y.slot = f.slot ∧ y.hdr = f.jr.hdr ∧ y.desc = f.jr.desc)) ∧
    ((∀ f ∈ s.triad.flights, f.jr.tsn ≠ tsn) → ∀ h0 h1, Idles (.hemWriteDurable tsn h0 h1) s) ∧
    (s.txn tsn = some x →
      -- the next chained descriptor
      (s.drives x = false → Idles (.descriptorFetchDone tsn) s) ∧
      (s.drives x = true → x.stage = .fetch → x.chain < dNchain x.ctl →
        (∀ v res, s.hubReadPR (triadFor (hdrPart x.hdr)) (hdrPart x.hdr) x.next 64 0 (hdrVital x.hdr) = (v, res) →
          (res = .fault → Settles (.descriptorFetchDone tsn) s v tsn 3 3) ∧
          (res = .outside → Settles (.descriptorFetchDone tsn) s v tsn 3 8) ∧
          (res = .poison → Settles (.descriptorFetchDone tsn) s v tsn bad 5) ∧
          (res = .lost → Settles (.descriptorFetchDone tsn) s v tsn bad 6) ∧
          (∀ bs, res = .done bs → chainParse x bs = none → Settles (.descriptorFetchDone tsn) s v tsn 3 4) ∧
          (∀ bs nx g sc, res = .done bs → chainParse x bs = some (nx, g, sc) →
            exec (.descriptorFetchDone tsn) s = .next ((v.setTxn tsn { x with
              chain := x.chain + 1, next := nx, gather := g, scatter := sc }).advance tsn)))) ∧
      -- the payload
      (s.drives x = true → x.stage = .fetch → dNchain x.ctl ≤ x.chain →
        ∀ v bs, s.gatherAll x = (v, .done bs) → exec (.descriptorFetchDone tsn) s =
          .next ((v.setTxn tsn { x with payload := bs.map (·.toNat) }).afterFetch tsn)) ∧
      (x.stage ≠ .fetch → Idles (.descriptorFetchDone tsn) s) ∧
      -- marks
      (x.stage = .ready → x.sentWord ≠ 0 → x.sentDur = false → ∃ t : State, ∃ y : Txn, exec (.markDurable tsn 0) s = .next t ∧
        t.txn tsn = some y ∧ y.sentDur = true ∧ y.stage = (if s.attach (hdrChan x.hdr) = 0 then .sent else .ready) ∧
        written t (fun r => r.sent = x.sentWord)) ∧
      (x.stage = .settled → ∃ t : State, t.txn tsn = some { x with stage := .answered } ∧
        written t (fun r => r.answered = x.ansWord) ∧
        exec (.markDurable tsn 1) s = .next (if s.rst (hdrRing x.hdr) = 0 then t
          else t.putEntry (hdrRing x.hdr) (finalEntry tsn { x with stage := .answered }))) ∧
      (x.retire = true → ∃ t : State, exec (.markDurable tsn 2) s = .next t ∧ t.txn tsn = none ∧
        written t (fun r => r.retired = markWord (s.passOf x) tsn 0x7E 0) ∧ ∀ k, k ≠ tsn → t.txn k = s.txn k) ∧
      -- the answer timer
      (x.sentDur = true → x.stage = .sent → s.attach (hdrChan x.hdr) = 0 → timer ≠ 0 → Settles (.answerTimeout tsn) s s tsn 3 2) ∧
      ((x.sentDur = false ∨ x.stage ≠ .sent ∨ s.attach (hdrChan x.hdr) ≠ 0 ∨ timer = 0) → Idles (.answerTimeout tsn) s) ∧
      -- the record at the tail is carried to HEAD
      (let tail := s.fget HEM_JPTR.TAIL
       let head := s.fget HEM_JPTR.HEAD
       ∀ r, x.slot = tail → head ≠ tail → (∀ e ∈ s.openTxns, e.2.slot = tail → e = (tsn, x)) → AMap.wf none s.triad.txns = true →
        s.hOk 0 = true → s.hOk 1 = true → s.jrec 0 tail = some r → s.fget HEM_JSTAT.FREE ≠ 0 →
        s.fget HEM_JSTAT.FREE < s.fget HEM_JCTL.CARRYTHR →
        ∃ t : State, ∃ q : JRec, ∃ y : Txn, exec .journalCarry s = .next t ∧
          t.jrec 0 head = some q ∧ t.jrec 1 head = some q ∧ q.tsn = r.tsn ∧ q.hdr = r.hdr ∧ q.desc = r.desc ∧ q.tod = r.tod ∧
          q.pass = s.triad.jpass ∧ q.retired = 0 ∧
          t.jrec 0 tail = some { r with retired := markWord r.pass tsn 0xC4 0 } ∧
          t.txn tsn = some y ∧ y.slot = head ∧ y.stage = x.stage ∧
          t.fget HEM_JPTR.HEAD = (head + 1) % 4194304)) ∧
    (s.fget HEM_JCTL.CARRYTHR ≤ s.fget HEM_JSTAT.FREE → Idles .journalCarry s) ∧
    -- REATTACH has passed: every open transaction of the channel is settled
    (∀ n, n < 256 → s.attach n = 1 → s.fget (CHAN_RINGCTL.REATTACH n) ≠ 0xFFFF → AMap.wf none s.triad.txns = true →
      ∃ t : State, exec (.reattachExpiry n) s = .next t ∧ t.attach n = 2 ∧ t.fget (CHAN_RINGSTAT.WAITLEFT n) = 0 ∧
        (∀ k ∈ s.chanTxns n, ∃ y, t.txn k = some y ∧ y.stage = .settled ∧ ansOutcome y.ansWord = 3 ∧ ansValue y.ansWord = 1) ∧
        ∀ k, k ∉ s.chanTxns n → t.txn k = s.txn k) ∧
    (∀ n, s.attach n ≠ 1 → Idles (.reattachExpiry n) s)

/-- R346 to R348, R369 to R372: acknowledgements, binding, unbinding, resumption and moderation of a ring pair. -/
def Obligations.RingCommands : Prop :=
  ∀ (s : State) (c r : Nat) (w : Word), s.power.phase = .run → r < 4096 → s.triad.dbq = [] →
    let st := s.fget (RING_STAT.STATE r)
    let res (i : Instr) (k : Nat) : Prop := Does i s id [(RING_CMD.RESULT r, k)]
    let ring (f : RingState → RingState) (s : State) : State :=
      { s with triad := { s.triad with rings := AMap.set {} s.triad.rings r (f (AMap.get {} s.triad.rings r)) } }
    -- an acknowledgement: a position between consumer and producer, of a size and phase that exist
    (∀ ir : Bool,
      let i := if ir then Instr.irack c r w else Instr.crack c r w
      let g := ringRegs r ir
      let n := s.slots r ir
      let idx := w.toNat % 2 ^ 16
      let ph := w.toNat / 2 ^ 16 % 2
      let cons := ringPos n (s.fget g.cons) (s.fget g.cph)
      let d := (ringPos n idx ph + 2 * n - cons) % (2 * n)
      let bad := 2 ^ 17 ≤ w.toNat ∨ n ≤ idx ∨ s.ringDist r ir < d
      let freed := (upFrom cons d).map (· % n)
      (st = 1 → Idles i s) ∧
      (st ≠ 1 → bad → exec i s = .next (s.ctxFault c (0xFFFFFFE800000 + 4096 * r + if ir then 0x48 else 0x40))) ∧
      (st ≠ 1 → ¬ bad → ir = true → Does i s id [(g.cons, idx), (g.cph, ph)]) ∧
      (st ≠ 1 → ¬ bad → ir = false → ∃ t : State, exec i s = .next t ∧
        Alters s t (fun s => { s with triad := t.triad }) [(g.cons, idx), (g.cph, ph)] ∧
        t.ring r = { s.ring r with finals := (s.ring r).finals.filter fun e => !freed.contains e.1 } ∧
        ∀ e ∈ (s.ring r).finals, freed.contains e.1 = true → ∀ x, s.txn e.2 = some x → t.txn e.2 = some { x with retire := true })) ∧
    -- BIND and its refusals, in order
    (let n := s.fget (RING_CTL.PART r)
     let big := 9 < s.fget (RING_CRBASE.SIZE r) ∨ (s.fget (RING_IRBASE.EN r) = 1 ∧ 9 < s.fget (RING_IRBASE.SIZE r))
     let small := 64 * 2 ^ s.fget (RING_CRBASE.SIZE r) < 2 * Nat.max 1 (s.fget (RING_CTL.OUTMAX r)) + 16
     let mine := ∀ e ∈ s.ringTxns r, hdrPart e.2.hdr = n ∧ hdrChan e.2.hdr = s.fget (RING_CTL.CHAN r)
     let active := s.fget (PART_STATE.STATE n) = 1
     (st ≠ 0 → res (.ringBind r) 2) ∧
     (st = 0 → ¬ active → res (.ringBind r) 3) ∧
     (st = 0 → active → big → res (.ringBind r) 4) ∧
     (st = 0 → active → ¬ big → small → res (.ringBind r) 5) ∧
     (st = 0 → active → ¬ big → ¬ small → ¬ mine → res (.ringBind r) 7) ∧
     (st = 0 → active → ¬ big → ¬ small → mine → ∃ u : State,
       Alters s u (ring fun _ => {}) [(RING_CMD.RESULT r, 1), fits (RING_STAT.OPEN r) (s.ringTxns r).length,
         (RING_STAT.STATE r, 1), (RING_STAT.STOPPED r, 0)] ∧
       exec (.ringBind r) s = .next (u.finishBind r) ∧
       -- the zeroing of the CR faults: the ring pair stops in BINDING
       (∀ v, u.zeroRing r false = (v, false) → ∃ t, Alters v t id [(RING_STAT.STOPPED r, 1)] ∧
         exec (.ringBind r) s = .next (t.hubFault (some (t.rpart r)) 0xFF 4 (t.fget (RING_CRBASE.BASE r) * 4096))) ∧
       -- it succeeds, with no IR and no record of the ring pair: BOUND, every index 0 with phase 1
       (∀ v, u.zeroRing r false = (v, true) → v.fget (RING_IRBASE.EN r) ≠ 1 → v.ringTxns r = [] →
         v.triad.flights = [] → v.triad.dbq = [] → ∃ t, Alters v t (ring fun _ => {})
           [(RING_STAT.OWED r, 0), (RING_STAT.STATE r, 3),
            (RING_CRIDX.PROD r, 0), (RING_CRIDX.PPH r, 1), (RING_CRIDX.CONS r, 0), (RING_CRIDX.CPH r, 1),
            (RING_IRIDX.PROD r, 0), (RING_IRIDX.PPH r, 1), (RING_IRIDX.CONS r, 0), (RING_IRIDX.CPH r, 1)] ∧
         exec (.ringBind r) s = .next t))) ∧
    -- UNBIND, RESUME
    (st ≠ 3 → res (.ringUnbind r) 2) ∧
    (st = 3 → s.fget (RING_STAT.OPEN r) ≠ 0 → res (.ringUnbind r) 6) ∧
    (st = 3 → s.fget (RING_STAT.OPEN r) = 0 →
      Does (.ringUnbind r) s (ring fun _ => {}) [(RING_STAT.STATE r, 0), (RING_CMD.RESULT r, 1)]) ∧
    (s.fget (RING_STAT.STOPPED r) ≠ 1 → res (.ringResume r) 2) ∧
    (s.fget (RING_STAT.STOPPED r) = 1 → ∃ t, Alters s t id [(RING_STAT.STOPPED r, 0), (RING_CMD.RESULT r, 1)] ∧
      exec (.ringResume r) s = .next (if st = 1 then t.finishBind r else t.flushRing r)) ∧
    -- the moderation timer
    ((s.ring r).armed = true → exec (.moderationTimerExpiry r) s =
      .next ((State.collarEvent (ring (fun x => { x with p := 0, armed := false }) s) r).wake)) ∧
    ((s.ring r).armed = false → Idles (.moderationTimerExpiry r) s)

/-! ### Hem dies, triad, pools -/

/-- R398, R399, R410: granule ownership and the windows of partitions: what zeroes a granule, and the first check of a window
that fails. -/
def Sys2Proof.Safety.WindowCommands : Prop :=
  ∀ (s : State) (j n k : Nat) (w : Word), s.power.phase = .run →
    let v := w.toNat
    let old (g : Nat) : Nat := s.fget (HEM_GOWN.VALID g) * 256 + s.fget (HEM_GOWN.OWNER g)
    let new (i : Nat) : Nat := v / 2 ^ (16 * i + 15) % 2 * 256 + v / 2 ^ (16 * i) % 256
    let held (g : Nat) : Prop := s.fget (HEM_GOWN.BUSY g) = 1 ∨ ∃ n k, n < 256 ∧ k < 8 ∧ s.fget (PART_HWINA.VALID n k) = 1 ∧
      s.fget (PART_HWINB.GRAN n k) ≤ g ∧ g < s.fget (PART_HWINB.GRAN n k) + s.fget (PART_HWINB.COUNT n k)
    (j < 192 →
      ((∃ i, i < 4 ∧ new i ≠ old (4 * j + i) ∧ held (4 * j + i)) → Does (.gownWrite j w) s id [(HEM_STAT.RESULT, 3)]) ∧
      ((∀ i, i < 4 → new i ≠ old (4 * j + i) → ¬ held (4 * j + i)) → ∃ t : State, exec (.gownWrite j w) s = .next t ∧
        t.fget HEM_STAT.RESULT = 1 ∧
        (∀ i, i < 4 → let g := 4 * j + i
          (new i ≠ old g → t.fget (HEM_GOWN.BUSY g) = 1 ∧ AMap.get 0 t.triad.zeroing g = new i + 1) ∧
          (new i = old g → t.fget (HEM_GOWN.BUSY g) = s.fget (HEM_GOWN.BUSY g)) ∧
          t.fget (HEM_GOWN.VALID g) = s.fget (HEM_GOWN.VALID g) ∧ t.fget (HEM_GOWN.OWNER g) = s.fget (HEM_GOWN.OWNER g)) ∧
        -- the bytes and the poison of each changed granule, and of no other
        (∀ a, let g := a / 2 ^ 21
          let zeroed := g / 4 = j ∧ new (g % 4) ≠ old g
          (zeroed → AMap.get none t.mem.winFlight a = none ∧ AMap.get false t.mem.winPoison (a / 64) = false ∧
            (s.hWritten 0 = true → AMap.get 0 t.mem.h0 a = 0) ∧ (s.hWritten 1 = true → AMap.get 0 t.mem.h1 a = 0)) ∧
          (¬ zeroed → AMap.get none t.mem.winFlight a = AMap.get none s.mem.winFlight a ∧
            AMap.get false t.mem.winPoison (a / 64) = AMap.get false s.mem.winPoison (a / 64) ∧
            AMap.get 0 t.mem.h0 a = AMap.get 0 s.mem.h0 a ∧ AMap.get 0 t.mem.h1 a = AMap.get 0 s.mem.h1 a)))) ∧
    (∀ g, let z := AMap.get 0 s.triad.zeroing g
      (z = 0 → Idles (.granuleZeroDone g) s) ∧
      (z ≠ 0 → Does (.granuleZeroDone g) s
        (fun s => { s with triad := { s.triad with zeroing := AMap.erase g s.triad.zeroing } })
        [fits (HEM_GOWN.VALID g) ((z - 1) / 256), fits (HEM_GOWN.OWNER g) ((z - 1) % 256), (HEM_GOWN.BUSY g, 0)])) ∧
    (n < 256 → k < 8 →
      let b := v / 2 ^ 21 % 2 ^ 25
      let cnt := s.fget (PART_HWINB.COUNT n k)
      let gr := s.fget (PART_HWINB.GRAN n k)
      let res (r : Nat) : Prop := Does (.hwinaWrite n k w) s id [(PART_HWINSTAT.RESULT n, r)]
      let shape := cnt ≠ 0 ∧ gr + cnt ≤ 768
      let owned := ∀ g, gr ≤ g → g < gr + cnt → s.fget (HEM_GOWN.VALID g) = 1 ∧ s.fget (HEM_GOWN.OWNER g) = n ∧
        s.fget (HEM_GOWN.BUSY g) ≠ 1
      let clash := ∃ i, i < 8 ∧ i ≠ k ∧ s.fget (PART_HWINA.VALID n i) = 1 ∧ 0 < s.fget (PART_HWINB.COUNT n i) ∧
        b < s.fget (PART_HWINA.PRBASE n i) + s.fget (PART_HWINB.COUNT n i) ∧ s.fget (PART_HWINA.PRBASE n i) < b + cnt
      (v % 2 = 0 → Does (.hwinaWrite n k w) s id
        [(PART_HWINA.VALID n k, 0), (PART_HWINA.PRBASE n k, b), (PART_HWINSTAT.RESULT n, 6)]) ∧
      (v % 2 = 1 → ¬ shape → res 3) ∧
      (v % 2 = 1 → shape → ¬ owned → res 2) ∧
      (v % 2 = 1 → shape → owned → clash → res 4) ∧
      (v % 2 = 1 → shape → owned → ¬ clash → Does (.hwinaWrite n k w) s id
        [(PART_HWINA.VALID n k, 1), (PART_HWINA.PRBASE n k, b), (PART_HWINSTAT.RESULT n, 1)]) ∧
      (s.fget (PART_HWINA.VALID n k) = 1 → Does (.hwinbWrite n k w) s id [(PART_HWINSTAT.RESULT n, 5)]) ∧
      (s.fget (PART_HWINA.VALID n k) ≠ 1 → Does (.hwinbWrite n k w) s id
        [(PART_HWINB.COUNT n k, v / 2 ^ 16 % 2 ^ 10), (PART_HWINB.GRAN n k, v % 2 ^ 10)]))

/-- R380, R395, R403, R405 to R408: single-copy mode, rejoin, wear levelling and patrol of the Hem dies. -/
def Sys2Proof.Safety.HemDieCommands : Prop :=
  ∀ (s : State) (i : Nat), s.power.phase = .run → i < 2 →
    let ok (i : Nat) : Prop := s.fget (if i = 0 then HEM_STAT.H0OK else HEM_STAT.H1OK) = 1
    let up := ok i
    let other := ok (1 - i)
    let rejoining := s.fget HEM_STAT.REJOIN = 1
    let low := match s.triad.flights.head? with
      | some f => f.jr.tsn
      | none => s.fget HEM_TSNNEXT.TSNNEXT
    let die (a k : Nat) : FaultRec := { loc := a * 2 ^ 60 + (7 + k) * 2 ^ 56 + 0xFF * 2 ^ 48 + 3 * 2 ^ 40 }
    -- a die leaves while the other serves: the marker of the other, the votes that waited, SINGLE and a contained fault
    let leaves (j : Instr) (after : State → State) : Prop := ∃ t : State, ∃ u : State,
      Alters s t (fun s => { s with triad := { s.triad with retiredDie := i + 1, singleMeta := low } })
        [(if i = 0 then HEM_STAT.H0OK else HEM_STAT.H1OK, 0), fits HEM_SINGLETSN.SINGLETSN low] ∧
      Alters t.voteAll u id [(HEM_STAT.SINGLE, 1)] ∧ exec j s = .next (after (u.raise (die 6 i)))
    (up → other → leaves (.hemDieFail i) id ∧ leaves (.hemRetire i) (fun s => s.fset HEM_STAT.RESULT 1)) ∧
    (up → ¬ other → (∃ t : State, Alters s t id [(if i = 0 then HEM_STAT.H0OK else HEM_STAT.H1OK, 0), (HEM_STAT.REJOIN, 0)] ∧
      exec (.hemDieFail i) s = .next ((t.raise (die 0xB i)).updMinset)) ∧ Does (.hemRetire i) s id [(HEM_STAT.RESULT, 2)]) ∧
    (¬ up → Does (.hemDieFail i) s id [(HEM_STAT.REJOIN, 0)]) ∧
    (¬ up → rejoining → Does (.hemRetire i) s id [(HEM_STAT.REJOIN, 0), (HEM_STAT.RESULT, 1)]) ∧
    (¬ up → ¬ rejoining → Does (.hemRetire i) s id [(HEM_STAT.RESULT, 2)]) ∧
    -- rejoin: refused, self-test failed, begun, ended with the other die's journal and owned granules
    (∀ pass, ((up ∨ ¬ other ∨ rejoining) → Does (.hemRejoin i pass) s id [(HEM_STAT.RESULT, 2)])) ∧
    (¬ up → other → ¬ rejoining → Does (.hemRejoin i false) s id [(HEM_STAT.RESULT, 4)] ∧
      Does (.hemRejoin i true) s id [(HEM_STAT.REJOIN, 1), (HEM_STAT.RESULT, 1)]) ∧
    (¬ rejoining → Idles .hemRejoinDone s) ∧
    (rejoining → ok 0 → AMap.wf 0 s.mem.h0 = true → ∃ t : State, exec .hemRejoinDone s = .next t ∧
      Alters s t (fun s => { s with
          triad := { s.triad with j1 := s.triad.j0, retiredDie := 0, singleMeta := 0, wearG := t.triad.wearG }
          mem := { s.mem with h1 := t.mem.h1 } })
        [(HEM_DIE.WEARMAX 1, t.fget (HEM_DIE.WEARMAX 1)), (HEM_STAT.H1OK, 1), (HEM_STAT.REJOIN, 0), (HEM_STAT.SINGLE, 0), (HEM_SINGLETSN.SINGLETSN, 0)] ∧
      -- the whole journal region and every owned granule are written once (R403)
      (∀ g, g < 1024 → AMap.get 0 t.triad.wearG (1024 + g) = AMap.get 0 s.triad.wearG (1024 + g) +
        if g < 256 ∨ s.fget (HEM_GOWN.VALID (g - 256)) = 1 then 64 else 0) ∧
      ∀ a, AMap.get 0 t.mem.h1 a =
        if s.fget (HEM_GOWN.VALID (a / 2 ^ 21)) = 1 then AMap.get 0 s.mem.h0 a else AMap.get 0 s.mem.h1 a) ∧
    (rejoining → ¬ ok 0 → ok 1 → AMap.wf 0 s.mem.h1 = true → ∃ t : State, exec .hemRejoinDone s = .next t ∧
      t.triad.j0 = s.triad.j1 ∧ t.fget HEM_STAT.H0OK = 1 ∧ t.fget HEM_STAT.SINGLE = 0 ∧ t.fget HEM_STAT.REJOIN = 0 ∧
      ∀ a, AMap.get 0 t.mem.h0 a =
        if s.fget (HEM_GOWN.VALID (a / 2 ^ 21)) = 1 then AMap.get 0 s.mem.h1 a else AMap.get 0 s.mem.h0 a) ∧
    -- wear levelling moves a frame that is due and keeps its contents; its count goes on from the spare's, which is free (log
    -- entry 136)
    (∀ fr stall, (up → s.wearDue i (fr % 2 ^ 19) = false → Idles (.wearLevelMove i fr stall) s) ∧ (up →
      s.wearDue i (fr % 2 ^ 19) = true → ∃ w : Nat,
      let k := i * 2 ^ 19 + fr % 2 ^ 19
      Does (.wearLevelMove i fr stall) s
        (fun s => { s with fresh := s.fresh + 1, triad := { s.triad with wear := AMap.set 0 s.triad.wear k w } })
        [fits HEM_LAT.MAXSTALL (Nat.max (s.fget HEM_LAT.MAXSTALL) (Nat.min 40 stall))])) ∧
    -- the patrol
    (let p := s.triad.patrol
     let u : State := { s with triad := { s.triad with patrol := (p + 1) % 2 ^ 25 } }
     -- the step rewrites its unit on every die in service, which counts the write
     let wear (i : Nat) (t : State) : State := if ok i then t.wearWrite i (p * 64) else t
     let done (t : State) : State := wear 1 (wear 0 t)
     ∀ w, exec (.hemPatrolRewrite 0 0 w) s = .next (done u) ∧
      (ok 0 → ∃ t : State, Alters u t id [counts s (HEM_DIE.CORR 0) 1] ∧
        exec (.hemPatrolRewrite 1 0 w) s = .next (done (t.raiseC (die 0 0)))) ∧
      (ok 1 → ∃ t : State, Alters u t id [counts s (HEM_DIE.CORR 1) 1] ∧
        exec (.hemPatrolRewrite 0 1 w) s = .next (done (t.raiseC (die 0 1)))) ∧
      (ok 0 → ok 1 → ∃ t : State, exec (.hemPatrolRewrite 2 2 w) s = .next t ∧
        t.fget (HEM_DIE.UNCORR 0) = (counts s (HEM_DIE.UNCORR 0) 1).2 ∧ t.fget (HEM_DIE.UNCORR 1) = (counts s (HEM_DIE.UNCORR 1) 1).2 ∧
        (2 ^ 23 ≤ p → AMap.get false t.mem.winPoison (p - 2 ^ 23) = true ∧ t.triad.j0 = s.triad.j0) ∧
        (p < 2 ^ 23 → t.mem = s.mem ∧
          ∀ r, s.jrec 0 (p / 2) = some r → ∃ q, t.jrec 0 (p / 2) = some q ∧ (p % 2 * 8 + w % 8) ∈ q.unc ∧ q.desc = r.desc)))

/-- Together: Hem windows and granules, and the Hem dies. -/
def Obligations.WindowAndHemCommands : Prop :=
  WindowCommands ∧ HemDieCommands

/-- R412 to R420: agreement and vote, ejections and rejoins of the triad's members. -/
def Sys2Proof.Safety.TriadCommands : Prop :=
  ∀ (s : State) (m tests v u : Nat) (dg outs : List (Option Nat)) (copy : CopyIn), s.power.phase = .run → m < 3 →
    let st := s.fget (TRIAD_MEMBER.STATE m)
    let mode := s.fget TRIAD_STAT.MODE
    let all := ∀ k, k < 3 → s.fget (TRIAD_MEMBER.STATE k) = 0
    let i (halves : Bool) : Instr := .triadInputBatch dg outs halves tests
    let offered (b : Bool) : State := { s with triad := { s.triad with offeredAgain := b } }
    let same (l : List (Option Nat)) (v : Nat) : Prop := ∀ k, k < 3 → l.getD k none = some v
    let odd (l : List (Option Nat)) (v : Nat) : Prop := ∀ k, k < 3 → (l.getD k none = some v ↔ k ≠ m)
    let apart (l : List (Option Nat)) : Prop := ∀ k j, k < 3 → j < 3 → k ≠ j → l.getD k none = none ∨ l.getD k none ≠ l.getD j none
    let outcast (s : State) (c : Nat) : State := (s.eject m c).fset TRIAD_STAT.MODE 1
    -- an ejection: its cause, its count within the hour, OUT or FAILED, and its record
    (∀ c, 1 ≤ c → c ≤ 6 → ∃ t : State, ∃ l : List Nat,
      let n := l.length
      let state := if c ≠ 6 ∧ Nat.max 1 (s.fget TRIAD_CTL.DISSMAX) ≤ n then 5 else 1
      Alters s.look t (fun s => { s with triad := { s.triad with
          ejections := AMap.set [] s.triad.ejections m l, inStep := s.triad.inStep.filter (· ≠ m) } })
        [counts s (if m = 0 then TRIAD_VOTESTAT.DISS0 else if m = 1 then TRIAD_VOTESTAT.DISS1 else TRIAD_VOTESTAT.DISS2) 1,
         (TRIAD_MEMBER.DISSENTS m, Nat.min 255 n), (TRIAD_MEMBER.CAUSE m, c), (TRIAD_MEMBER.STATE m, state)] ∧
      (c ≠ 6 → s.look.tod ∈ l) ∧
      s.eject m c = t.raiseC { loc := 2 * 2 ^ 60 + 4 * 2 ^ 56 + 0xFF * 2 ^ 48 + (1 + m) * 2 ^ 40,
                               d1 := c * 2 ^ 16 + Nat.min 255 n * 2 ^ 8 + state }) ∧
    -- TRIAD mode, three members voting
    (mode = 0 → all →
      (same dg v → same outs u → exec (i true) s = .next (offered false)) ∧
      (odd dg v → (∀ k, k < 3 → k ≠ m → outs.getD k none = some u) → exec (i true) s = .next (outcast (offered false) 3)) ∧
      (same dg v → odd outs u →
        exec (i true) s = .next (outcast (offered false) (if outs.getD m none = none then 2 else 1))) ∧
      (same dg v → exec (i false) s = .next ((offered false).triadStop tests)) ∧
      (same dg v → apart outs → exec (i true) s = .next ((offered false).triadStop tests)) ∧
      (apart dg → ∀ h, (s.triad.offeredAgain = true → exec (i h) s = .next (s.triadStop tests)) ∧
        (s.triad.offeredAgain = false → Does (i h) s (fun _ => offered true) [counts s TRIAD_VOTESTAT.AGREEFAIL 1]))) ∧
    (st = 0 → mode = 0 → exec (.memberSelfError m tests) s = .next (outcast s 4)) ∧
    (st = 0 → mode = 1 → exec (.memberSelfError m tests) s = .next ((s.eject m 4).triadStop tests)) ∧
    (st = 4 → mode ≤ 1 → exec (.memberSelfError m tests) s = .next (s.eject m 4)) ∧
    (st ≠ 0 → st ≠ 4 → Idles (.memberSelfError m tests) s) ∧
    (mode = 0 → st = 0 → exec (.triadEject m) s = .next ((outcast s 6).fset TRIAD_CMD.RESULT 1)) ∧
    ((mode ≠ 0 ∨ st ≠ 0) → Does (.triadEject m) s id [(TRIAD_CMD.RESULT, 2)]) ∧
    -- rejoin, in PAIR mode with no other member on its way in; a Tailor restart holds it
    (let free := mode = 1 ∧ ∀ k, k < 3 → s.fget (TRIAD_MEMBER.STATE k) = 0 ∨ s.fget (TRIAD_MEMBER.STATE k) = 1 ∨
       s.fget (TRIAD_MEMBER.STATE k) = 5
     let busy := s.fget TAILOR_TFWSTAT.BUSY = 1
     let forget (s : State) : State := { s with triad := { s.triad with ejections := AMap.erase m s.triad.ejections } }
     let waits (b : Bool) (s : State) : State := { s with triad := { s.triad with rejoinWaits := some (m, b, copy) } }
     -- the copy of a VOTING member's state memory: none of its words is uncorrectable in both (R421)
     let clean := copy.bad.any (·.2) = false
     let joins (b : Bool) (s : State) : State :=
       if b then { s with triad := { s.triad with inStep := s.triad.inStep.filter (· ≠ m) ++ [m] } } else s
     -- else the source is ejected, the rejoin ends and the triad stops
     let stops (i : Instr) (f : State → State) (l : List (Field × Nat)) : Prop := ∀ src rest, s.voting = src :: rest →
       ∃ t, Alters s t f ((TRIAD_MEMBER.STATE m, 1) :: l) ∧ exec i s = .next ((t.eject src 4).triadStop copy.tests)
     let ends (b : Bool) : List (Field × Nat) := if b then [(TRIAD_CMD.RESULT, 1), (TRIAD_MEMBER.STATE m, 4)]
       else [(TRIAD_CMD.RESULT, 4), (TRIAD_MEMBER.STATE m, 5)]
     ∀ b,
      ((¬ free ∨ (st ≠ 1 ∧ st ≠ 5)) → Does (.triadRejoin m ⟨b, copy⟩) s id [(TRIAD_CMD.RESULT, 2)]) ∧
      (free → st = 1 → ¬ busy → (b = true → clean) → Does (.triadRejoin m ⟨b, copy⟩) s (joins b) (ends b)) ∧
      (free → st = 1 → ¬ busy → b = true → ¬ clean → stops (.triadRejoin m ⟨b, copy⟩) id [(TRIAD_CMD.RESULT, 1)]) ∧
      (free → st = 1 → busy → Does (.triadRejoin m ⟨b, copy⟩) s (waits b) [(TRIAD_CMD.RESULT, 1)]) ∧
      (free → st = 5 → ¬ busy → (b = true → clean) →
        Does (.triadRejoin m ⟨b, copy⟩) s (fun s => joins b (forget s)) ((TRIAD_MEMBER.DISSENTS m, 0) :: ends b)) ∧
      (free → st = 5 → ¬ busy → b = true → ¬ clean →
        stops (.triadRejoin m ⟨b, copy⟩) forget [(TRIAD_MEMBER.DISSENTS m, 0), (TRIAD_CMD.RESULT, 1)]) ∧
      (free → st = 5 → busy → Does (.triadRejoin m ⟨b, copy⟩) s (fun s => waits b (forget s))
        [(TRIAD_MEMBER.DISSENTS m, 0), (TRIAD_CMD.RESULT, 1)]) ∧
      (s.fget TRIAD_CTL.AUTOREJOIN = 1 → free → st = 1 →
        (busy → exec (.autoRejoin m ⟨b, copy⟩) s = .next (waits b s)) ∧
        (¬ busy → (clean → Does (.autoRejoin m ⟨true, copy⟩) s (joins true) [(TRIAD_MEMBER.STATE m, 4)]) ∧
          (¬ clean → stops (.autoRejoin m ⟨true, copy⟩) id []) ∧
          Does (.autoRejoin m ⟨false, copy⟩) s id [(TRIAD_MEMBER.STATE m, 5), (TRIAD_CMD.RESULT, 4)])) ∧
      (s.fget TRIAD_CTL.AUTOREJOIN ≠ 1 → Idles (.autoRejoin m ⟨b, copy⟩) s)) ∧
    (st = 4 → mode = 1 → Does (.probationEnd m) s id [(TRIAD_MEMBER.STATE m, 0), (TRIAD_STAT.MODE, 0)]) ∧
    (st ≠ 4 → Idles (.probationEnd m) s)

/-- R424, R425: loading, switching and discarding the triad's firmware. -/
def Sys2Proof.Safety.TriadFirmware : Prop :=
  ∀ (s : State) (a : Nat), s.power.phase = .run →
    let mode := s.fget TRIAD_STAT.MODE
    let busy := s.fget TRIAD_FWSTAT.BUSY = 1 ∨ ∃ k, k < 3 ∧ (s.fget (TRIAD_MEMBER.STATE k) = 2 ∨ s.fget (TRIAD_MEMBER.STATE k) = 3)
    let at_ := (TRIAD_FWCTL.ADDR, a % 2 ^ 52 / 4096)
    let i := Instr.triadFwLoad a
    let act := s.triad.active
    (1 < mode → Does i s id [at_, (TRIAD_FWSTAT.RESULT, 7)] ∧ Does .triadFwSwitch s id [(TRIAD_FWSTAT.RESULT, 7)]) ∧
    (mode ≤ 1 → busy → Does i s id [at_, (TRIAD_FWSTAT.RESULT, 3)] ∧ Does .triadFwSwitch s id [(TRIAD_FWSTAT.RESULT, 3)]) ∧
    (mode ≤ 1 → ¬ busy → ∃ u : State, Alters s u id [at_] ∧ ∀ v img,
      u.imgRead triadHub (a % 2 ^ 52 / 4096 * 4096) (2 ^ 23) = (v, img) →
      (img = none → exec i s = .next (v.fset TRIAD_FWSTAT.RESULT 6)) ∧
      (∀ b, img = some b →
        let good := imgHeaderOk b (2 ^ 23) = true ∧ imgTableOk b = true ∧ imgType b = 4 ∧ imgCrcOk b = true
        (¬ good → exec i s = .next (v.fset TRIAD_FWSTAT.RESULT 6)) ∧
        (∀ ver fmt, good → imgTriad b = some (ver, fmt) →
          (fmt ≠ v.triad.active.format → exec i s = .next (v.fset TRIAD_FWSTAT.RESULT 5)) ∧
          (fmt = v.triad.active.format → ∃ t, Alters v t (fun v => { v with
              triad := { v.triad with staged := some { version := ver, format := fmt } } })
            [(TRIAD_FWSTAT.RESULT, 1), (TRIAD_FWSTAT.SVALID, 1), fits TRIAD_FWSTAT.STAGED ver] ∧ exec i s = .next t)))) ∧
    (mode ≤ 1 → ¬ busy → s.triad.staged = none → Does .triadFwSwitch s id [(TRIAD_FWSTAT.RESULT, 4)]) ∧
    (∀ q, mode ≤ 1 → ¬ busy → s.triad.staged = some q → Does .triadFwSwitch s
      (fun s => { s with triad := { s.triad with active := q, staged := some act } })
      [fits TRIAD_FWSTAT.ACTIVE q.version, fits TRIAD_FWSTAT.STAGED act.version, (TRIAD_FWSTAT.RESULT, 2),
       fits TRIAD_FWSWTSN.FWSWTSN (s.fget HEM_TSNNEXT.TSNNEXT)]) ∧
    (busy → Does .triadFwDiscard s id [(TRIAD_FWSTAT.RESULT, 3)]) ∧
    (¬ busy → Does .triadFwDiscard s (fun s => { s with triad := { s.triad with staged := none } })
      [(TRIAD_FWSTAT.SVALID, 0), (TRIAD_FWSTAT.STAGED, 0)])

/-- Together: the members of the triad and its firmware. -/
def Obligations.TriadResults : Prop :=
  TriadCommands ∧ TriadFirmware

/-- R427 to R434: writes of a pool's registers, and the end of its initialisation. -/
def Obligations.PoolCommands : Prop :=
  ∀ (s : State) (p reg : Nat) (w : Word), s.power.phase = .run → p < 4096 → reg < 3 →
    let i := Instr.triadPoolWrite p reg w
    let put (f : Field) : Field × Nat := fits f (w.toNat / 2 ^ f.lo)
    let l := if reg = 0 then [POOL_BASE.ADDR p] else if reg = 1 then
      [POOL_CFG.VALID p, POOL_CFG.PART p, POOL_CFG.SIZE p, POOL_CFG.COUNT p] else [POOL_STBASE.ADDR p]
    let geometry := [POOL_BASE.ADDR p, POOL_STBASE.ADDR p, POOL_CFG.SIZE p, POOL_CFG.COUNT p]
    let res (r : Nat) : Prop := Does i s id [(POOL_STAT.RESULT p, r)]
    ∃ t : State, Alters s t id (l.map put) ∧
      let same := ∀ f ∈ l, t.fget f = s.fget f
      let moved := ∃ f ∈ geometry, t.fget f ≠ s.fget f
      let starts := t.fget (POOL_CFG.VALID p) = 1 ∧ (s.fget (POOL_CFG.VALID p) ≠ 1 ∨ moved)
      let size := 2 ^ (11 + t.fget (POOL_CFG.SIZE p))
      let count := t.fget (POOL_CFG.COUNT p)
      let fine := t.fget (POOL_CFG.SIZE p) ≤ 5 ∧ 1 ≤ count ∧ count ≤ 2 ^ 20 ∧ t.fget (POOL_BASE.ADDR p) * 2048 % size = 0
      let used := s.poolInUse p = true
      (same → res 1) ∧
      (¬ same → used → res 2) ∧
      (¬ same → ¬ used → starts → ¬ fine → res 3) ∧
      (¬ same → ¬ used → ¬ starts → Does i s id ((POOL_STAT.RESULT p, 1) :: l.map put)) ∧
      (¬ same → ¬ used → starts → fine → ∃ u : State, exec i s = .next u ∧ u.fget (POOL_STAT.RESULT p) = 1 ∧
        u.fget (POOL_STAT.BUSY p) = 1 ∧ u.fget (POOL_STAT.FREECNT p) = count ∧ u.fget (POOL_STAT.QUAR p) = 0 ∧
        AMap.get [] u.triad.poolFree p = List.range count ∧ (∀ k, k < count → u.quarantined p k = false)) ∧
      Does (.poolInitDone p) s id [(POOL_STAT.BUSY p, 0)]

/-! ### Lanes and channels -/

/-- Change what a lane holds. -/
def Sys2Proof.Safety.lane (m : Nat) (f : LaneState → LaneState) (s : State) : State :=
  { s with link := { s.link with lanes := AMap.set {} s.link.lanes m (f (AMap.get {} s.link.lanes m)) } }

/-- R436, R438 to R445, R476: the states of a lane, its training and locks, markers, and its loss. -/
def Sys2Proof.Safety.LaneStateResults : Prop :=
  ∀ (s : State) (m : Nat), s.power.phase = .run → m < 512 →
    let n := m % 256
    let st := s.fget (LANE_STAT.STATE m)
    let x := s.lane m
    -- a lane that changes state shows it; one that goes DOWN shows why and is counted
    (∀ k, k < 8 → (s.laneTo m k).fget (LANE_STAT.STATE m) = k ∧
      ∀ j, j < 512 → j ≠ m → (s.laneTo m k).fget (LANE_STAT.STATE j) = s.fget (LANE_STAT.STATE j)) ∧
    (st ≠ 7 → st ≠ 0 → ∀ c, c < 8 → let t := s.laneDown m c
      t.fget (LANE_STAT.STATE m) = 7 ∧ t.fget (LANE_STAT.DOWNCAUSE m) = c ∧ t.fget (LANE_STAT.CURGEN m) = 0 ∧
      t.fget (LIFE_LANE1.DOWNS m) = (counts s (LIFE_LANE1.DOWNS m) 1).2) ∧
    ((st = 7 ∨ st = 0) → ∀ c, s.laneDown m c = s) ∧
    -- training
    (st = 1 → s.fget (LANE_CTL.EN m) = 1 → AMap.get false s.pins.present n = true →
      (s.fget (CHAN_CTL.SBREQ n) ≠ 1 ∨ s.fget (CHAN_ADAPTER.VALID n) = 1) → ∀ g,
        let b := s.laneTo m 2
        let may := g ∈ [1, 2, 3] ∧ (s.fget (LANE_CTL.GEN m) = 0 ∨ s.fget (LANE_CTL.GEN m) = g) ∧
          s.fget (LANE_CTL.GENMASK m) / 2 ^ (g - 1) % 2 = 1
        (may → ∃ t, Alters b t (lane m fun x => { x.unlocked with codeLock := true })
          [counts b (LIFE_LANE1.TRAININGS m) 1, (LANE_STAT.CURGEN m, g), (LANE_STAT.DOWNCAUSE m, 0), (LIFE_LANE0.LASTGEN m, g)] ∧
          exec (.laneTraining m g) s = .next (t.laneTo m 3)) ∧
        (s.fget (LANE_CTL.GEN m) ≤ 3 → ¬ may → ∃ t, Alters b t id [counts b (LIFE_LANE1.TRAININGS m) 1] ∧
          exec (.laneTraining m g) s = .next (t.laneDown m 4))) ∧
    (st ≠ 1 → ∀ g, Idles (.laneTraining m g) s) ∧
    (st = 3 → exec (.codeAlignmentLock m) s =
      .next (lane m (fun x => { x with codeLock := true, linkInfo := false, lastInfo := none }) s)) ∧
    (st ≠ 3 → Idles (.codeAlignmentLock m) s ∧ Idles (.losstoExpiry m) s) ∧
    (3 ≤ st → st ≤ 6 → ∃ t, Alters s t (lane m LaneState.unlocked) [counts s (LANE_ERR.UNLOCKS m) 1] ∧
      exec (.laneLockLoss m) s = .next (t.laneTo m 3)) ∧
    ((st < 3 ∨ 6 < st) → Idles (.laneLockLoss m) s) ∧
    (st = 3 → exec (.losstoExpiry m) s = .next (s.laneDown m 1)) ∧
    (st = 7 → s.fget (LANE_CTL.RETRY m) ≠ 0 → exec (.laneRetryExpiry m) s = .next (s.laneTo m 1)) ∧
    ((st ≠ 7 ∨ s.fget (LANE_CTL.RETRY m) = 0) → Idles (.laneRetryExpiry m) s) ∧
    -- markers sent and received
    ((st = 3 ∨ st = 4) → exec (.alignmentMarkerTx m) s =
      .next (lane m (fun x => { x with txCount := (x.txCount + 1) % 2 ^ 24 }) s)) ∧
    (st ≠ 3 → st ≠ 4 → Idles (.alignmentMarkerTx m) s) ∧
    -- corrected FEC symbols on Cuff-3, code violations on Cuff-1 (R477, R581); the lifetime word counts in units of 1,024
    (∀ k, let g := s.fget (LANE_STAT.CURGEN m)
      (k = 0 ∨ (g ≠ 1 ∧ g ≠ 3) → s.countCorr m k = s) ∧
      (0 < k → g = 1 ∨ g = 3 → let t := x.corrRest + k
        Alters s (s.countCorr m k) (lane m fun x => { x with corrRest := t % 1024 })
          [counts s (LANE_ERR.CORR m) (if g = 3 then t / 1024 else k), counts s (LIFE_LANE2.CORR m) (t / 1024)])) ∧
    (3 ≤ st → st ≤ 6 → x.codeLock = true → ∀ count ts placed corr,
      let seen := s.look.countCorr m corr
      let good := placed = true ∧ (∀ c, x.rxCount = some c → count % 2 ^ 24 = (c + 1) % 2 ^ 24)
      (good → ∃ t : State, t = { seen with link := t.link } ∧ (t.lane m).rxCount = some (count % 2 ^ 24) ∧
        (t.lane m).missed = 0 ∧ (t.lane m).markerLock = (x.markerLock || x.rxCount.isSome) ∧
        (t.lane m).stamps = (((s.look.tod + 2 ^ 28 - ts % 2 ^ 28) % 2 ^ 28) :: x.stamps).take 16 ∧
        exec (.cuffMarker m count ts ⟨placed, corr⟩) s = .next (t.updSkew n)) ∧
      (¬ good → 3 ≤ x.missed → exec (.cuffMarker m count ts ⟨placed, corr⟩) s = .next (seen.lockLoss m)) ∧
      (¬ good → x.missed < 3 → exec (.cuffMarker m count ts ⟨placed, corr⟩) s = .next (lane m (fun x => { x with
        missed := x.missed + 1, rxCount := x.rxCount.map fun c => (c + 1) % 2 ^ 24 }) seen))) ∧
    ((st < 3 ∨ st = 7 ∨ x.codeLock = false) → ∀ count ts placed corr, Idles (.cuffMarker m count ts ⟨placed, corr⟩) s) ∧
    (m < 256 →
      let both := s.fget (CHAN_STAT.MODE m) ≠ 1 ∧ s.laneUp m = true ∧ s.laneUp (m + 256) = true
      (both → Does (.pathmiss m) s id [counts s (CHAN_STAT.PATHMISS m) 1]) ∧ (¬ both → Idles (.pathmiss m) s))

/-- What a frame that arrives on lane `m` does (R447, R452, R464, R466, R469): the live counters, the end of a pause and of
LOWPOWER; a bad CRC is counted, a wrong channel is a contained fault; else its claim and acknowledgement are taken, and
then the frame. -/
def Sys2Proof.Safety.Receives (i : Instr) (s : State) (m : Nat) (f : CuffFrame) (take : State → State) : Prop :=
  let st := s.fget (LANE_STAT.STATE m)
  let x := s.lane m
  let carried := st = 4 ∨ (st = 3 ∧ f.type = 0x10) ∨ st = 5
  (¬ carried → Idles i s) ∧
  (carried → ∃ u : State, Alters s u
      (lane m fun x => { x with rxBytes := (x.rxBytes + f.size) % 2 ^ 48, rxFrames := (x.rxFrames + 1) % 2 ^ 48, peerPause := false })
      ((if 2 ^ 48 ≤ x.rxBytes + f.size then [(LANE_RXBYTES.WRAPPED m, 1)] else []) ++
       (if 2 ^ 48 ≤ x.rxFrames + 1 then [(LANE_RXFRAMES.WRAPPED m, 1)] else [])) ∧
    let v := if st = 5 then u.laneTo m 4 else u
    (f.good = false → ∃ t, Alters v t id [counts v (LANE_ERR.CRCERR m) 1] ∧ exec i s = .next t) ∧
    (f.good = true → f.chan ≠ m % 256 → exec i s = .next (v.raise {
      loc := 6 * 2 ^ 60 + (5 + m / 256) * 2 ^ 56 + m % 256 / 16 * 2 ^ 48 + m % 256 % 16 * 2 ^ 40 })) ∧
    (f.good = true → f.chan = m % 256 → exec i s = .next (take ((v.claimCheck (m % 256) f.claim).takeAck m f.ackfsn f.credit))))

/-- R447, R449, R452, R454, R460 to R462, R468, R469: the frames of the Cuff link as they arrive. -/
def Sys2Proof.Safety.FrameReception : Prop :=
  ∀ (s : State) (m : Nat) (f : CuffFrame), s.power.phase = .run → m < 512 →
    let ty (k : Nat) : CuffFrame := { f with type := k }
    let n := m % 256
    let seq (k : Nat) (s : State) : State := s.takeSeq m (ty k)
    Receives (.cuffReq m f) s m (ty 2) (seq 2) ∧ Receives (.cuffAnswer m f) s m (ty 3) (seq 3) ∧
    Receives (.cuffAnsack m f) s m (ty 5) (seq 5) ∧ Receives (.cuffLack m f) s m (ty 8) id ∧
    Receives (.cuffNak m f) s m (ty 9) (fun t => if fsnLater (s.lane m).ackSeen f.ackfsn = true then t else t.startReplay m) ∧
    Receives (.cuffRecal m f) s m (ty 0x11) (lane m fun x => { x with peerPause := true }) ∧
    Receives (.cuffLpreq m f) s m (ty 0x12) (fun t => if t.fget (LANE_STAT.STATE m) = 4 then t.laneTo m 5 else t) ∧
    -- LINKINFO: noted, answered where it is new, and in ALIGN with both locks it brings the lane up
    (let w (i : Nat) : Nat := natOfLe ((f.payload.drop (8 * i)).take 8)
     Receives (.cuffLinkinfo m f) s m (ty 0x10) fun t =>
      let x := t.lane m
      let a := lane m (fun x => { x with linkInfo := true, lastInfo := some (w 0, w 3) }) t
      let b := if x.lastInfo = some (w 0, w 3) then a else a.queueOnce m (a.linkInfoFrame m)
      let c := (b.onChan n fun c => { c with peerNext := AMap.set 0 c.peerNext (m / 256) (w 1 % 2 ^ 32) }).claimCheck n (w 0 / 2 ^ 48)
      if c.fget (LANE_STAT.STATE m) = 3 ∧ x.codeLock = true ∧ x.markerLock = true then
        (if c.fget (CHAN_ADAPTER.VALID n) = 1 ∧ w 3 % 2 ^ 48 ≠ c.fget (CHAN_ADAPTER.PID n) then
          (c.laneDown m 6).raise { loc := 6 * 2 ^ 60 + (5 + m / 256) * 2 ^ 56 + n / 16 * 2 ^ 48 + n % 16 * 2 ^ 40 }
        else c.linkUp m (w 1))
      else c) ∧
    -- a sequenced frame: its distance from the next expected
    (let d := (f.fsn + 2 ^ 32 - s.rxNext m) % 2 ^ 32
     let u := s.queueOnce m lackFrame
     (2 ^ 31 ≤ d → s.takeSeq m f = u) ∧ (512 ≤ d → d < 2 ^ 31 → s.takeSeq m f = u.queueOnce m nakFrame)) ∧
    -- a REQ of a transaction that is not known
    (let t := s.wakeBy 4 POWER_WAKE.ADAPTER_EN
     let p := s.fget (TRIAD_CHPOOL.POOL n)
     let r := ty 2
     (∀ b ∈ AMap.get [] s.triad.inbound n, b.tsn ≠ f.tsn) → s.fget (CHAN_STAT.FENCED n) ≠ 1 → f.frag = 0 →
      let done := (AMap.get [] s.triad.inDone n).contains f.tsn = true
      let on := s.fget (CHAN_RINGCTL.INEN n) = 1
      let old := f.tsn ≤ s.fget (CHAN_INTSN.INTSN n)
      let long := s.fget (POOL_CFG.VALID p) = 1 ∧ 2 ^ (11 + s.fget (POOL_CFG.SIZE p)) < f.h3
      (done → s.takeReq m r = t.fcount (CHAN_STAT.INDUP n) 1) ∧
      (¬ done → ¬ on → s.takeReq m r = t.refuse m f.tsn 3) ∧
      (¬ done → on → old → s.takeReq m r = t.refuse m f.tsn 4) ∧
      (¬ done → on → ¬ old → long → s.takeReq m r = t.refuse m f.tsn 2)) ∧
    (s.fget (CHAN_STAT.FENCED n) = 1 → s.takeReq m (ty 2) = s) ∧
    -- an ANSWER for no open SEND of the channel is late
    (s.txn f.tsn = none → s.takeAnswer m f =
      if f.flags / 2 % 2 = 1 then s.fcount (CHAN_RINGSTAT.LATE n) 1 else s)

/-- R452 to R456, R463, R533, R534: what a lane sends next, and replay. -/
def Sys2Proof.Safety.FrameTransmission : Prop :=
  ∀ (s : State) (m : Nat), s.power.phase = .run → m < 512 →
    let n := m % 256
    let i := Instr.laneTxFrame m
    let st := s.fget (LANE_STAT.STATE m)
    let x := s.lane m
    let waits (p : CuffFrame → Bool) : Option CuffFrame := firstThat p x.unseq
    let link (f : CuffFrame) : Bool := f.type == 0x10
    let ack (f : CuffFrame) : Bool := f.type == 8 || f.type == 9
    let fenced := s.fget (CHAN_STAT.FENCED n) = 1
    let standby := s.chRole n = 2
    let free := st = 4 ∧ s.ownerHeld n = false ∧ waits ack = none ∧ ¬ fenced
    (s.ownerHeld n = true → Idles i s) ∧
    (st ≠ 3 → st ≠ 4 → Idles i s) ∧
    (st = 3 → s.ownerHeld n = false → fenced → Idles i s) ∧
    (st = 3 → s.ownerHeld n = false → ¬ fenced →
      (waits link = none → Idles i s) ∧ (∀ f, waits link = some f → exec i s = .next (s.sendUnseq m f))) ∧
    (st = 4 → s.ownerHeld n = false → ∀ f, waits ack = some f → exec i s = .next (s.sendUnseq m f)) ∧
    (st = 4 → waits ack = none → fenced → Idles i s) ∧
    (free → standby → waits link = none → Idles i s) ∧
    (free → ¬ standby → x.peerPause = false →
      (∀ f l, x.replay = f :: l → exec i s = .next ((lane m (fun x => { x with replay := l }) s).countTx m f)) ∧
      (x.replay = [] →
        (∀ f l, x.unseq = f :: l → exec i s = .next (s.sendUnseq m f)) ∧
        (x.unseq = [] → s.nextSeq m = none → Idles i s) ∧
        (∀ f, x.unseq = [] → s.nextSeq m = some f → s.creditOk m f.fsn = false → Idles i s) ∧
        (∀ f, x.unseq = [] → s.nextSeq m = some f → s.creditOk m f.fsn = true →
          ∃ t : State, ∃ g : CuffFrame, exec i s = .next t ∧ (t.lane m).sent = x.sent ++ [g] ∧ g.fsn = f.fsn ∧ g.type = f.type ∧
            g.tsn = f.tsn ∧ g.payload = f.payload ∧ g.chan = n ∧ t.fget (LANE_FSN.TXNEXT m) = (f.fsn + 1) % 2 ^ 32))) ∧
    (free → ¬ standby → x.peerPause = true → x.unseq = [] → Idles i s) ∧
    -- replay
    ((st < 4 ∨ st = 7 ∨ x.sent = []) → Idles (.ackTimeout m) s) ∧
    (4 ≤ st → st ≤ 6 → x.sent ≠ [] →
      (8 ≤ x.replays → exec (.ackTimeout m) s = .next (s.laneDown m 2)) ∧
      (x.replays < 8 → Does (.ackTimeout m) s (lane m fun x => { x with replay := x.sent, replays := x.replays + 1 })
        [counts s (LANE_ERR.REPLAYS m) 1]))

/-- Together: frames of the Cuff link as they arrive and leave. -/
def Obligations.CuffFrames : Prop :=
  FrameReception ∧ FrameTransmission

/-- R467 to R469, R477: the commands of a lane, recalibration and low power. -/
def Sys2Proof.Safety.LaneCommands : Prop :=
  ∀ (s : State) (m : Nat), s.power.phase = .run → m < 512 →
    let n := m % 256
    let o := if m < 256 then m + 256 else m - 256
    let st := s.fget (LANE_STAT.STATE m)
    let x := s.lane m
    let res (i : Instr) (k : Nat) : Prop := Does i s id [(LANE_CMD.RESULT m, k)]
    let now := s.fget (CHAN_STAT.MODE n) ≠ 1 ∧ s.fget (LANE_STAT.STATE o) = 4
    let quiet := x.queue = [] ∧ x.unseq = [] ∧ x.behind = [] ∧ x.sent = [] ∧ x.replay = [] ∧ (s.chan n).queue = []
    let later := lane m (fun x => { x with recalWaits := true }) s
    -- a recalibration begins: RECAL, announced and counted
    (∀ full, let t := s.enterRecal m full
      t.fget (LANE_STAT.STATE m) = 6 ∧ (t.lane m).recalFull = full ∧ (t.lane m).recalWaits = false ∧
      t.fget (LIFE_LANE3.RECALS m) = (counts s (LIFE_LANE3.RECALS m) 1).2) ∧
    (st = 0 → res (.laneRetrain m) 2 ∧ res (.laneDownCmd m) 2) ∧
    (st ≠ 0 → (∃ t, Alters s t (lane m LaneState.unlocked) [(LANE_STAT.CURGEN m, 0)] ∧
        exec (.laneRetrain m) s = .next ((t.laneTo m 1).fset (LANE_CMD.RESULT m) 1)) ∧
      exec (.laneDownCmd m) s = .next ((s.laneDown m 5).fset (LANE_CMD.RESULT m) 1)) ∧
    Does (.snap m) s id [fits (LANE_TXBYTES.COUNT m) x.txBytes, fits (LANE_RXBYTES.COUNT m) x.rxBytes,
      fits (LANE_TXFRAMES.COUNT m) x.txFrames, fits (LANE_RXFRAMES.COUNT m) x.rxFrames, (LANE_CMD.RESULT m, 1)] ∧
    (st ≠ 4 → res (.laneRecal m) 2 ∧ Idles (.recalDue m) s ∧ Idles (.recalWaitEnd m) s ∧ Idles (.lowpowerEntry m) s) ∧
    (st = 4 → now → exec (.laneRecal m) s = .next ((s.enterRecal m true).fset (LANE_CMD.RESULT m) 1) ∧
      exec (.recalDue m) s = .next (s.enterRecal m true)) ∧
    (st = 4 → ¬ now → Does (.laneRecal m) s (lane m fun x => { x with recalWaits := true }) [(LANE_CMD.RESULT m, 3)] ∧
      exec (.recalDue m) s = .next later) ∧
    (st = 4 → x.recalWaits = false → Idles (.recalWaitEnd m) s) ∧
    (st = 4 → x.recalWaits = true → (quiet ∨ now) → exec (.recalWaitEnd m) s = .next (s.enterRecal m true)) ∧
    (st = 4 → x.recalWaits = true → ¬ quiet → ¬ now → exec (.recalWaitEnd m) s = .next (s.enterRecal m false)) ∧
    (st ≠ 6 → Idles (.recalDone m) s) ∧
    (st = 6 → let t := (lane m (fun x => { x with recalFull := false }) s).laneTo m 4
      exec (.recalDone m) s = .next (if s.fget (LANE_CMD.RESULT m) = 3 then t.fset (LANE_CMD.RESULT m) 1 else t)) ∧
    (st = 4 → (s.fget POWER_STATE.CUR ≠ 3 ∨ ¬ quiet) → Idles (.lowpowerEntry m) s) ∧
    (st = 4 → s.fget POWER_STATE.CUR = 3 → quiet →
      exec (.lowpowerEntry m) s = .next ((s.sendUnseq m { type := 0x12 }).laneTo m 5)) ∧
    (st = 5 → exec (.lowpowerRefresh m) s = .next (lane m (fun x => { x with txCount := (x.txCount + 1) % 2 ^ 24 }) s) ∧
      exec (.lowpowerWake m true) s = .next (s.laneTo m 4) ∧ exec (.lowpowerWake m false) s = .next (s.lockLoss m)) ∧
    (st ≠ 5 → Idles (.lowpowerRefresh m) s ∧ ∀ l, Idles (.lowpowerWake m l) s)

/-- R457, R470 to R474: the mode of a channel, and the sideband roll-call. -/
def Sys2Proof.Safety.ChannelCommands : Prop :=
  ∀ (s : State) (n : Nat), s.power.phase = .run → n < 256 →
    let c := s.chan n
    let a := s.lane n
    let b := s.lane (n + 256)
    let res (i : Instr) (k : Nat) : Prop := Does i s id [(CHAN_CMD.RESULT n, k)]
    let on := s.fget (CHAN_CTL.EN n) = 1
    let active := s.fget (LANE_STAT.STATE n) = 4 ∧ s.fget (LANE_STAT.STATE (n + 256)) = 4
    let asks (i : Instr) (mode : Nat) : Prop :=
      (¬ on → res i 5) ∧ (on → c.change ≠ 0 → res i 6) ∧ (on → c.change = 0 → ¬ active → res i 2) ∧
      (on → c.change = 0 → active → Does i s
        (fun s => { s with link := { s.link with chans := AMap.set {} s.link.chans n { c with change := mode } } })
        [(CHAN_CMD.RESULT n, 3)])
    asks (.chanDual n) 1 ∧ asks (.chanSplit n) 2 ∧
    -- the change ends once both replay buffers are empty
    (let empty := a.sent = [] ∧ b.sent = [] ∧ a.behind = [] ∧ b.behind = []
     let split := s.fget (CHAN_STAT.MODE n) = 1
     ((c.change = 0 ∨ ¬ empty) → Idles (.modeChangeDone n) s) ∧
     (c.change ≠ 0 → empty → ∃ t : State, exec (.modeChangeDone n) s = .next t ∧ (t.chan n).change = 0 ∧
       t.fget (CHAN_STAT.MODE n) = (if c.change = 1 then 0 else 1) ∧ t.fget (CHAN_CMD.RESULT n) = 1 ∧
       (let tx := if c.change = 1 ∧ split then fsnMax (s.fget (LANE_FSN.TXNEXT n)) (s.fget (LANE_FSN.TXNEXT (n + 256))) else c.txNext
        t.fget (LANE_FSN.TXNEXT n) = tx % 2 ^ 32 ∧ t.fget (LANE_FSN.TXNEXT (n + 256)) = tx % 2 ^ 32) ∧
       (∃ g ∈ (t.lane n).unseq, g.type = 0x10) ∧ ∃ g ∈ (t.lane (n + 256)).unseq, g.type = 0x10)) ∧
    -- the roll-call
    (let busy := s.fget TAILOR_ROLLSTAT.BUSY = 1
     let go (i : Instr) : Prop := (busy → Does i s id [(TAILOR_ROLLSTAT.AGAIN, 1)]) ∧ (¬ busy → Does i s id [(TAILOR_ROLLSTAT.BUSY, 1)])
     go .rollGo ∧ (s.fget TAILOR_ROLLCTL.AUTO = 1 → go .hotJoin) ∧ (s.fget TAILOR_ROLLCTL.AUTO ≠ 1 → Idles .hotJoin s) ∧
     -- (a pass waits for the end of a Tailor restart, R601)
     (∀ found gone voids, (¬ busy ∨ s.fget TAILOR_TFWSTAT.BUSY = 1 → Idles (.rollcallPass found gone voids) s) ∧
      (busy → s.fget TAILOR_TFWSTAT.BUSY ≠ 1 → ∃ t : State,
        let u := (s.link.adapters.filter fun a => gone.contains (a.bus * 128 + a.addr)).foldl State.dropAdapter
          (found.foldl State.takeTarget s)
        let on (k : Nat) : Nat := (u.link.adapters.filter fun a => a.bus == k).length
        Alters u t id [counts u TAILOR_ROLLSTAT.DISCARDED voids, counts u TAILOR_ROLLSTAT.PASSES 1, (TAILOR_ROLLSTAT.AGAIN, 0),
          (TAILOR_ROLLSTAT.BUSY, if u.fget TAILOR_ROLLSTAT.AGAIN = 1 then 1 else 0),
          fits TAILOR_ROLLSTAT.ADAPT2 (on 2), fits TAILOR_ROLLSTAT.ADAPT3 (on 3)] ∧
        exec (.rollcallPass found gone voids) s = .next t))) ∧
    -- a target with a good identity serves its channels; one without sets IDERR
    (∀ f : SbFound, n ∈ f.chans →
      (s.identityOk f = true → let t := s.takeTarget f
        t.fget (CHAN_ADAPTER.VALID n) = 1 ∧ t.fget (CHAN_ADAPTER.PID n) = f.pid % 2 ^ 48 ∧ t.fget (CHAN_ADAPTER.IDERR n) = 0) ∧
      (s.identityOk f = false → (s.takeTarget f).fget (CHAN_ADAPTER.IDERR n) = 1))

/-- Together: the states of lanes, and the commands of lanes and channels. -/
def Obligations.LanesAndChannels : Prop :=
  LaneStateResults ∧ LaneCommands ∧ ChannelCommands

/-! ### Pleat and Cloak -/

/-- R494 to R496, R515: a submission for submitter `part` of the command at `a`, which no other waits for: the first check it
fails is its RESULT, and one that passes joins the queue. -/
def Sys2Proof.Safety.Submits (i : Instr) (s : State) (k : EngKind) (part : Option Nat) (a : Nat) : Prop :=
  let full := 4096 ≤ (s.engQ k).length ∨ s.engWait k ≠ []
  let limit := if part.isSome then 64 else 256
  let answers (u : State) (v : Nat) : Prop := ∃ t, Alters u t id [fits (k.result part) v] ∧ exec i s = .next t
  (full → exec i s = .next (s.setEngWait k (s.engWait k ++ [{ part := part, addr := a }]))) ∧
  (¬ full →
    (limit ≤ s.fget (k.opened part) → answers s 2) ∧
    (s.fget (k.opened part) < limit → ∀ u res, s.opRead (k.agent 0 part) a 64 = (u, res) →
      ((∀ bs, res ≠ .done bs) → answers u 3) ∧
      (∀ bs, res = .done bs →
        let c : EngCmd := { part := part, addr := a, block := bs.map (·.toNat) }
        let sig := match k with
          | .pleat => c.ctl / 2 ^ 17 % 2 = 1
          | .cloak => c.ctl / 2 ^ 28 % 2 = 1
        let src := c.ctl / 2 ^ 32 % 2 ^ 16
        let may := match part with
          | none => sourceKnown src = true
          | some n => isSw src = true ∧ u.srcOwner src = some n
        let runs := ∀ n, part = some n → u.fget (PART_STATE.STATE n) = 1
        let place := c.word 56 ≠ 0 ∧ c.word 56 % 32 = 0
        (¬ place → answers u 4) ∧ (place → ¬ runs → answers u 5) ∧ (place → runs → sig → ¬ may → answers u 6) ∧
        (place → runs → (sig → may) → ∃ t, exec i s = .next t ∧ t.engQ k = s.engQ k ++ [c] ∧
          Alters u t (fun u => (u.setEngQ k (u.engQ k ++ [c])))
            [fits (k.result part) 1, fits (k.opened part) (u.fget (k.opened part) + 1), fits k.queued ((s.engQ k).length + 1)]))))

/-- R494 to R498, R513, R515, R516, R519: submissions of commands to Pleat and Cloak, the end of a command, failed comparisons and
checks, and the reset and removal of engines and lanes. -/
def Obligations.EngineCommands : Prop :=
  ∀ (s : State) (c n : Nat) (w : Word), s.power.phase = .run →
    let mine := c % 16 = 15 ∨ s.partOf c = some n
    (mine → Submits (.pleatsub c n w) s .pleat (some n) (w.toNat / 64 % 2 ^ 40 * 64) ∧
      Submits (.cloaksub c n w) s .cloak (some n) (w.toNat / 64 % 2 ^ 40 * 64)) ∧
    (¬ mine → exec (.pleatsub c n w) s = .next (s.ctxFault c (controlBase + 0x200068 + 1024 * n)) ∧
      exec (.cloaksub c n w) s = .next (s.ctxFault c (controlBase + 0x200078 + 1024 * n))) ∧
    (c % 16 = 15 → Submits (.pleatFwsub c w) s .pleat none (w.toNat / 64 % 2 ^ 46 * 64) ∧
      Submits (.cloakFwsub c w) s .cloak none (w.toNat / 64 % 2 ^ 46 * 64)) ∧
    (c % 16 ≠ 15 → exec (.pleatFwsub c w) s = .next (s.ctxFault c (controlBase + PLEAT_FWSUB.ADDR.off)) ∧
      exec (.cloakFwsub c w) s = .next (s.ctxFault c (controlBase + CLOAK_FWSUB.ADDR.off))) ∧
    -- the schedulers: commands are granted units by age, as many as the in-line jobs leave, and at least M2MMIN of them; a
    -- command waits for an earlier one of its stream context (R482, R496, R514)
    (∀ k : EngKind,
      let q := s.engQ k
      let floor := if q = [] ∨ s.cur = 4 then 0 else min (s.fget k.m2mMin) (s.unitsUp k)
      let waits (i : Nat) : Prop := k = .pleat ∧ ∃ c, q[i]? = some c ∧ c.word 32 ≠ 0 ∧
        ∃ j d, j < i ∧ q[j]? = some d ∧ d.word 32 = c.word 32 ∧ d.part = c.part
      (s.inlineMay k = true ↔ floor < s.unitsUp k) ∧ (s.unitsGranted k).length ≤ max floor (s.unitsUp k - s.inlineJobs k) ∧
      (∀ i ∈ s.unitsGranted k, i < q.length ∧ ¬ waits i ∧
        ∀ j, j < i → ¬ waits j → j ∈ s.unitsGranted k)) ∧
    -- the end of a command: it leaves the queue; words 1 to 3 of its record are written before word 0, then the event
    (∀ (k : EngKind) (u i : Nat) (x : EngCmd) (st : EngStatus) (ev : Bool), s.engWait k = [] →
      let q := (s.engQ k).eraseIdx i
      let h := k.agent u x.part
      ∃ v, Alters s v (fun s => s.setEngQ k q) [fits k.queued q.length, fits (k.opened x.part) (s.fget (k.opened x.part) - 1)] ∧
        ∀ v1 a v2 b, v.opWrite h (x.word 56 + 8) (leBytes 8 st.w1 ++ leBytes 8 st.w2 ++ leBytes 8 st.w3) = (v1, .done a) →
          v1.opWrite h (x.word 56) (leBytes 8 (1 + st.code * 2 ^ 8 + st.detail % 2 ^ 32 * 2 ^ 32)) = (v2, b) →
          s.engEnd k u i x st ev =
            if ev = true ∧ x.sig k = true then v2.hubDurable.collarEvent (x.ctl / 2 ^ 32 % 2 ^ 16) else v2.hubDurable) ∧
    -- a failed comparison or check: counted; the second within an hour takes the unit out
    (∀ (k : EngKind) (u : Nat), u < k.count →
      let fails (s : State) : List Nat := AMap.get [] (match k with
        | .pleat => s.eng.pleatFails
        | .cloak => s.eng.cloakFails) u
      let t := s.unitFail k u
      t.fget (k.mismatch u) = (counts s (k.mismatch u) 1).2 ∧ t.fget k.total = (counts s k.total 1).2 ∧
      ∃ now, s.tod ≤ now ∧ now ≤ t.tod ∧
        let recent := (fails s).filter fun t => now < t + 14745600000000
        fails t = recent ++ [now] ∧
        (recent ≠ [] → t.fget (k.state u) = 2 ∧ t.unitUp k u = false) ∧
        (recent = [] → t.fget (k.state u) = s.fget (k.state u) ∧ t.unitUp k u = s.unitUp k u)) ∧
    -- reset, and out of service
    (∀ u pass, u < 32 → Does (.pleatEngReset u pass) s
      (fun s => { s with eng := { s.eng with pleatFails := AMap.erase u s.eng.pleatFails } })
      [(PLEAT_ENG.STATE u, if pass then 0 else 2), fits PLEAT_STAT.ENGUP (setBitNat (s.fget PLEAT_STAT.ENGUP) u pass)]) ∧
    (∀ u pass, u < 64 → Does (.cloakLaneReset u pass) s
      (fun s => { s with eng := { s.eng with cloakFails := AMap.erase u s.eng.cloakFails } })
      [(CLOAK_LANE.STATE u, if pass then 0 else 2), fits CLOAK_LANEUP.LANEUP (setBitNat (s.fget CLOAK_LANEUP.LANEUP) u pass)]) ∧
    (∀ u, s.unitUp .pleat u = true → Does (.pleatEngOut u) s id
      [(PLEAT_ENG.STATE u, 2), fits PLEAT_STAT.ENGUP (setBitNat (s.fget PLEAT_STAT.ENGUP) u false)]) ∧
    (∀ u, s.unitUp .cloak u = true → Does (.cloakLaneOut u) s id
      [(CLOAK_LANE.STATE u, 2), fits CLOAK_LANEUP.LANEUP (setBitNat (s.fget CLOAK_LANEUP.LANEUP) u false)]) ∧
    (∀ u, (s.unitUp .pleat u = false → Idles (.pleatEngOut u) s) ∧ (s.unitUp .cloak u = false → Idles (.cloakLaneOut u) s))

/-- R481 to R497: a Pleat command that an engine runs: a field that breaks a rule, an operand that
faults, a comparison that fails twice, an output that does not fit, and its success; the in-line jobs of a transaction. -/
def Obligations.PleatResults : Prop :=
  ∀ (s : State) (i e bad blk : Nat) (c : EngCmd), s.power.phase = .run → s.cur ≠ 4 → s.fget PLEAT_CTL.EN = 1 →
    s.unitUp .pleat e = true →
    let h := EngKind.pleat.agent e c.part
    let ends (j : Instr) (v : State) (st : EngStatus) : Prop := exec j s = .next (v.engEnd .pleat e i c st true)
    let faults (j : Instr) (v : State) (d a : Nat) : Prop := exec j s = .next (v.engFault .pleat e i c 8 d a)
    let bytes (l : List Byte) : List Nat := l.map (·.toNat)
    let both (P : Instr → Prop) : Prop := (c.op = 1 → P (.pleatCompress i e bad blk)) ∧ (c.op = 2 → P (.pleatDecompress i e))
    (s.eng.pleatQ[i]? = some c → (s.unitsGranted .pleat).contains i = true →
      (∀ o, c.argBad = some o → both fun j => ends j s { code := 0x0B, detail := o }) ∧
      (c.argBad = none → ∀ u ru, s.opRead h c.src c.srclen = (u, ru) →
        ((∀ bs, ru ≠ .done bs) → both fun j => faults j u 1 c.src) ∧
        (∀ src, ru = .done src → ∀ v rv, u.opRead h c.dict c.dictlen = (v, rv) →
          ((∀ bs, rv ≠ .done bs) → both fun j => faults j v 4 c.dict) ∧
          (∀ dict, rv = .done dict →
            let d := bytes src
            let checked := if c.op = 1 then v.runChecks .pleat e bad else (v, false)
            let w := checked.1
            -- compression
            (c.op = 1 → (checked.2 = true ↔ 2 ≤ bad) ∧ (bad = 0 → w = v)) ∧
            (c.op = 1 → 2 ≤ bad → ends (.pleatCompress i e bad blk) w { code := 7, detail := blk }) ∧
            (c.op = 1 → bad < 2 → c.ctx = 0 →
              let out := pleatCompress c.fmt c.blksz (bytes dict) (if c.flush then [d.length] else []) true d
              (c.dstlen < out.length → ends (.pleatCompress i e bad blk) w
                { code := 2, w1 := d.length, w2 := c.dstlen, w3 := crc32cN d }) ∧
              (out.length ≤ c.dstlen → ∀ x rx, w.opWrite h c.dst (out.map (BitVec.ofNat 8)) = (x, rx) →
                (∀ b, rx = .done b → ends (.pleatCompress i e bad blk) x
                  { code := 1, w1 := d.length, w2 := out.length, w3 := crc32cN d }) ∧
                ((∀ b, rx ≠ .done b) → faults (.pleatCompress i e bad blk) x 2 c.dst))) ∧
            -- on a stream context: it goes on with the stream that the context holds
            (c.ctx ≠ 0 → both fun j => c.op = 1 ∧ 2 ≤ bad ∨
              (exec j s = .next (w.runStream e i c (bytes dict) d) ∧ ∀ y st, w.streamAt h c = (y, st) →
                (st = none → faults j y 3 c.ctx) ∧
                (∀ mp x, st = some (mp, x) → c.cont = true →
                  (∀ z, x = some z → z.fmt ≠ c.fmt ∨ z.blk ≠ c.blksz ∨ z.op ≠ c.op) → ends j y { code := 9 }))) ∧
            (c.op = 2 → w = v) ∧
            -- decompression: with HOLD a failed check leaves nothing written
            (c.op = 2 → c.ctx = 0 →
              let r := c.decode (bytes dict) d
              let len := if r.err.isSome && c.hold && decide (c.fmt < 3) then 0 else r.out.length
              let st := r.status c.hold c.fmt
              st.w1 = r.taken ∧ st.w2 = len ∧ (r.err = none → r.more = false → st.code = 1 ∧ st.w3 = crc32cN r.out) ∧
              (r.err = some .full → st.code = 2) ∧ (r.err = some .format → st.code = 3 ∧ st.detail = r.off) ∧
              (r.err = some .check → st.code = 4 ∧ st.detail = r.off) ∧ (r.err = none → r.more = true → st.code = 6) ∧
              (∀ x rx, v.opWrite h c.dst ((r.out.take len).map (BitVec.ofNat 8)) = (x, rx) →
                (∀ b, rx = .done b → ends (.pleatDecompress i e) x st) ∧
                ((∀ b, rx ≠ .done b) → faults (.pleatDecompress i e) x 2 c.dst))))))) ∧
    ((s.eng.pleatQ[i]? = none ∨ ∃ d, s.eng.pleatQ[i]? = some d ∧ (d.op ≠ 1 ∨ (s.unitsGranted .pleat).contains i = false)) →
      Idles (.pleatCompress i e bad blk) s) ∧
    ((s.eng.pleatQ[i]? = none ∨ ∃ d, s.eng.pleatQ[i]? = some d ∧ (d.op ≠ 2 ∨ (s.unitsGranted .pleat).contains i = false)) →
      Idles (.pleatDecompress i e) s) ∧
    -- in line
    (∀ tsn x, s.txn tsn = some x →
      let v := (s.runChecks .pleat e bad).1
      let b := min 4 (s.fget PLEAT_CTL.INBLK)
      let out := pleatEncode (Config.deflate 3 b [] [] true) b x.payload
      let may := s.inlineMay .pleat = true
      let r := pleatDecode (2 ^ 32) 0 0 x.reply
      (¬ may → s.fget PLEAT_STAT.ENGUP ≠ 0 → Idles (.inlineCompress tsn e bad) s ∧ Idles (.inlineDecompress tsn e) s) ∧
      (x.stage = .compress → may → s.fget PLEAT_STAT.ENGUP ≠ 0 → 2 ≤ bad → Settles (.inlineCompress tsn e bad) s v tsn 3 7) ∧
      (x.stage = .compress → may → s.fget PLEAT_STAT.ENGUP ≠ 0 → bad < 2 → x.ctl / 2 ^ 7 % 2 = 0 → s.attach x.chan ≠ 2 →
        ∃ t : State, ∃ y : Txn, exec (.inlineCompress tsn e bad) s = .next t ∧ t.txn tsn = some y ∧ y.payload = out ∧
          y.comp = true ∧ (y.stage = .ready ∨ y.stage = .sent) ∧ t.mem = v.mem) ∧
      (x.stage = .compress → may → s.fget PLEAT_STAT.ENGUP ≠ 0 → bad < 2 → x.ctl / 2 ^ 7 % 2 = 1 →
        xtsShort (v.slot (x.ctl / 2 ^ 16 % 2 ^ 12)).unitBytes out.length = false → out ≠ [] →
        exec (.inlineCompress tsn e bad) s = .next (v.setTxn tsn { x with payload := out, comp := true, stage := .encrypt })) ∧
      (x.stage ≠ .compress → Idles (.inlineCompress tsn e bad) s) ∧
      (x.stage = .decompress → may → s.fget PLEAT_STAT.ENGUP ≠ 0 → r.err.isSome = true → Settles (.inlineDecompress tsn e) s s tsn 3 7) ∧
      (x.stage = .decompress → may → s.fget PLEAT_STAT.ENGUP ≠ 0 → r.err = none →
        exec (.inlineDecompress tsn e) s = .next (s.scatterReply tsn r.out)) ∧
      (x.stage ≠ .decompress → Idles (.inlineDecompress tsn e) s))

/-- R500 to R516: a Cloak command that a lane runs: its argument and key checks, the usage limit, the operands, and the result of
each operation; the in-line jobs of a transaction. -/
def Sys2Proof.Safety.CloakResults : Prop :=
  ∀ (s : State) (i l bad unit : Nat) (c : EngCmd), s.power.phase = .run → s.cur ≠ 4 → s.fget CLOAK_CTL.EN = 1 →
    s.unitUp .cloak l = true →
    let h := EngKind.cloak.agent l c.part
    let k := c.slotNo
    let x := s.slot k
    let n := if c.op ≤ 2 then xtsBlocks x.unitBytes c.srclen else 1
    let counted := c.op = 1 ∨ c.op = 3 ∨ c.op = 5
    let st := s.fget (CLOAK_SLOTST.STATE k)
    let mode := x.cfg / 2 % 16
    let foreign := ∃ p, c.part = some p ∧ (x.cfg / 2 ^ 7 % 2 = 1 ∨ x.cfg / 2 ^ 8 % 2 ^ 8 ≠ p)
    let need := if c.op ≤ 2 then 1 else if c.op ≤ 4 then 2 else 3
    let each (P : Instr → Prop) : Prop :=
      (c.op = 1 → P (.xtsEnc i l bad unit)) ∧ (c.op = 2 → P (.xtsDec i l bad unit)) ∧ (c.op = 3 → P (.gcmSeal i l bad unit)) ∧
      (c.op = 4 → P (.gcmOpen i l bad unit)) ∧ (c.op = 5 → P (.cmacGen i l bad unit)) ∧ (c.op = 6 → P (.cmacVerify i l bad unit))
    let ends (v : State) (st : EngStatus) : Prop := each fun j => exec j s = .next (v.engEnd .cloak l i c st true)
    let faults (v : State) (d a : Nat) : Prop := each fun j => exec j s = .next (v.engFault .cloak l i c 7 d a)
    (s.eng.cloakQ[i]? = some c → (s.unitsGranted .cloak).contains i = true →
      (∀ o, s.cloakArg c = some o → ends s { code := 0x09, detail := o }) ∧
      (s.cloakArg c = none →
        (s.fget CLOAK_ROOTSTAT.STATE ≠ 2 → ends s { code := 0x04, detail := 1 }) ∧
        (s.fget CLOAK_ROOTSTAT.STATE = 2 → st ≠ 1 → st ≠ 2 → ends s { code := 0x04, detail := 2 }) ∧
        (s.fget CLOAK_ROOTSTAT.STATE = 2 → (st = 1 ∨ st = 2) → foreign → ends s { code := 0x04, detail := 3 }) ∧
        (s.fget CLOAK_ROOTSTAT.STATE = 2 → (st = 1 ∨ st = 2) → ¬ foreign → (mode ≠ need ∨ x.cfg / 2 ^ 6 % 2 = 1) →
          ends s { code := 0x04, detail := 4 }) ∧
        (s.fget CLOAK_ROOTSTAT.STATE = 2 → (st = 1 ∨ st = 2) → ¬ foreign → mode = need → x.cfg / 2 ^ 6 % 2 = 0 →
          (counted → st = 2 ∨ x.limit < x.used + n → ends s { code := 0x05 }) ∧
          (c.op = 3 → st ≠ 2 → x.used + n ≤ x.limit → s.sealOk = false → ends s { code := 0x0A }) ∧
          ((counted → st ≠ 2 ∧ x.used + n ≤ x.limit) → (c.op = 3 → s.sealOk = true) → ∀ u ru, s.opRead h c.src c.srclen = (u, ru) →
            ((∀ b, ru ≠ .done b) → faults u 1 c.src) ∧
            (∀ sb, ru = .done sb → ∀ v rv, u.opRead h (c.word 0x30) c.aadlen = (v, rv) →
              ((∀ b, rv ≠ .done b) → faults v 3 (c.word 0x30)) ∧
              (∀ ab, rv = .done ab →
                let src := sb.map (·.toNat)
                let aad := ab.map (·.toNat)
                let w := (v.runChecks .cloak l bad).1
                let iv := w.sealIv k
                let got := w.useKey l k x.gen
                let key := got.2
                let data (enc : Bool) : List Nat :=
                  xtsAll (key.take (key.length / 2)) (key.drop (key.length / 2)) enc x.unitBytes (c.word 32) src
                -- the result is written, the uses counted, and the command ends OK
                let good (out : List Nat) (d w3 : Nat) : Prop := ∀ y ry, got.1.opWrite h c.dst (out.map (BitVec.ofNat 8)) = (y, ry) →
                  ((∀ b, ry ≠ .done b) → faults y 2 c.dst) ∧
                  (∀ b, ry = .done b → (counted → ends (y.countUse k n) { code := 1, detail := d, w1 := c.srclen, w2 := out.length, w3 := w3 }) ∧
                    (¬ counted → ends y { code := 1, detail := d, w1 := c.srclen, w2 := out.length, w3 := w3 }))
                (2 ≤ bad → ends w { code := 0x06, detail := unit }) ∧
                (bad < 2 →
                  (c.op = 1 → good (data true) 0 0) ∧ (c.op = 2 → good (data false) 0 0) ∧
                  (c.op = 3 → good ((gcmSeal key iv aad src).1 ++ (gcmSeal key iv aad src).2) (iv / 2 ^ 64) (iv % 2 ^ 64)) ∧
                  (c.op = 4 → match gcmOpen key (c.word 32 + c.word 40 % 2 ^ 32 * 2 ^ 64) aad (src.take (c.srclen - 16)) (src.drop (c.srclen - 16)) with
                    | some p => good p 0 0
                    | none => ends got.1 { code := 0x03 }) ∧
                  (c.op = 5 → good (cmac key src) 0 0) ∧
                  (c.op = 6 → (natOfLe (cmac key src) = c.mac → good [] 0 0) ∧
                    (natOfLe (cmac key src) ≠ c.mac → ends got.1 { code := 0x03 }))))))))) ∧
    (∀ j ∈ [(1, Instr.xtsEnc i l bad unit), (2, .xtsDec i l bad unit), (3, .gcmSeal i l bad unit), (4, .gcmOpen i l bad unit),
        (5, .cmacGen i l bad unit), (6, .cmacVerify i l bad unit)],
      (s.eng.cloakQ[i]? = none ∨ ∃ d, s.eng.cloakQ[i]? = some d ∧ (d.op ≠ j.1 ∨ (s.unitsGranted .cloak).contains i = false)) →
        Idles j.2 s) ∧
    -- in line: XTS over the payload or the reply, with the tweak of the descriptor
    (∀ tsn y, s.txn tsn = some y →
      let q := y.ctl / 2 ^ 16 % 2 ^ 12
      let v := (s.runChecks .cloak l bad).1
      let tw := (y.desc.getD 1 0).toNat
      let may := s.inlineMay .cloak = true
      (¬ may → Idles (.inlineEncrypt tsn l bad) s ∧ Idles (.inlineDecrypt tsn l bad) s) ∧
      (y.stage = .encrypt → may → 2 ≤ bad → Settles (.inlineEncrypt tsn l bad) s v tsn 3 7) ∧
      (y.stage = .decrypt → may → 2 ≤ bad → Settles (.inlineDecrypt tsn l bad) s v tsn 3 7) ∧
      (y.stage = .encrypt → may → bad < 2 → s.attach y.chan ≠ 2 → ∃ t : State, ∃ z : Txn, exec (.inlineEncrypt tsn l bad) s = .next t ∧
        t.txn tsn = some z ∧ z.payload = (v.xtsJob l q true tw y.payload).2 ∧ z.enc = true ∧ z.reserved = 0 ∧
        (t.slot q).used = (s.slot q).used - y.reserved + xtsBlocks (s.slot q).unitBytes y.payload.length) ∧
      (y.stage = .decrypt → may → bad < 2 → exec (.inlineDecrypt tsn l bad) s =
        .next (((v.xtsJob l q false tw y.reply).1.setTxn tsn { y with reply := (v.xtsJob l q false tw y.reply).2 }).afterDecrypt tsn)) ∧
      (y.stage ≠ .encrypt → Idles (.inlineEncrypt tsn l bad) s) ∧ (y.stage ≠ .decrypt → Idles (.inlineDecrypt tsn l bad) s)) ∧
    -- the XTS job itself: the slot's key at its generation, derived from the owner root key
    (∀ q en tw d, let key := s.keyOf q (s.slot q).gen
      (s.xtsJob l q en tw d).2 = xtsAll (key.take (key.length / 2)) (key.drop (key.length / 2)) en (s.slot q).unitBytes tw d)

/-- R5, R504, R505, R510, R517: key slots are loaded, an old key is dropped, and the owner root key is provisioned. -/
def Sys2Proof.Safety.KeyResults : Prop :=
  ∀ (s : State) (k kcvexp : Nat) (good : Bool), k < 4096 →
    let loads (v : State) (r : Nat) : Prop := ∃ t, Alters v t id [(CLOAK_SLOTCMD.RESULT, r)] ∧ exec (.slotLoad k) s = .next t
    (s.power.phase = .run →
      (s.fget CLOAK_SLOTBASE.VALID ≠ 1 → loads s 2) ∧
      (s.fget CLOAK_SLOTBASE.VALID = 1 → s.fget (CLOAK_SLOTST.PINS k) ≠ 0 → loads s 3) ∧
      (s.fget CLOAK_SLOTBASE.VALID = 1 → s.fget (CLOAK_SLOTST.PINS k) = 0 →
        ∀ u bs po, s.hubRead (EngKind.cloak.agent 0 none) (s.fget CLOAK_SLOTBASE.ADDR * 4096 + 64 * k) 64 = (u, bs, po) →
          let w (o : Nat) : Nat := natOfLe (((bs.map (·.toNat)).drop o).take 8)
          let cfg := w 0
          let mode := cfg / 2 % 16
          let roll := cfg / 2 ^ 6 % 2 = 1
          let limit := if mode = 1 then 2 ^ 44 else if mode = 2 then 2 ^ 32 else 2 ^ 48
          let ok := (mode = 1 ∨ mode = 2 ∨ mode = 3) ∧ (roll → mode = 2) ∧ (cfg / 2 ^ 7 % 2 = 1 → cfg / 2 ^ 8 % 2 ^ 8 = 0) ∧
            cfg / 2 ^ 16 % 2 ^ 3 ≤ 4 ∧ cfg < 2 ^ 19 ∧ w 0x28 = 0 ∧ w 0x30 = 0 ∧ w 0x38 = 0
          let taken := po = false ∧ (cfg % 2 = 0 ∨ ok)
          (¬ taken → loads u 4) ∧
          (taken → ∃ t : State, exec (.slotLoad k) s = .next t ∧
            t.slot k = { cfg := cfg, gen := w 8, idlo := w 0x10, idhi := w 0x18, used := w 0x20 } ∧
            (∀ j, j ≠ k → t.slot j = u.slot j) ∧ t.fget CLOAK_SLOTCMD.RESULT = 1 ∧ t.fget (CLOAK_SLOTST.NEXT k) = 0 ∧
            t.fget (CLOAK_SLOTST.EPOCH k) = w 8 % 4 ∧ t.fget (CLOAK_SLOTST.FRAC k) = min (2 ^ 24 - 1) (w 0x20 * 2 ^ 24 / limit) ∧
            (cfg % 2 = 0 → t.fget (CLOAK_SLOTST.STATE k) = 0) ∧
            (cfg % 2 = 1 → t.fget (CLOAK_SLOTST.STATE k) = if ¬ roll ∧ limit ≤ w 0x20 then 2 else 1) ∧
            (∀ g ∈ t.eng.cache, ∀ e ∈ g.2, e.1 ≠ k) ∧ t.mem = u.mem)) ∧
      -- the key an opener kept from before an epoch change
      (∀ g, (s.slot k).old = some g → ∃ t : State, exec (.oldKeyDrop k) s = .next t ∧ t.slot k = { s.slot k with old := none } ∧
        (∀ m ∈ t.eng.cache, (k, g) ∉ m.2) ∧ (∀ j, j ≠ k → t.slot j = s.slot j) ∧ t.mem = s.mem)) ∧
    ((s.slot k).old = none → Idles (.oldKeyDrop k) s) ∧
    -- the owner root key
    ((s.power.phase = .run ∨ s.power.phase = .service) →
      let state := s.fget CLOAK_ROOTSTAT.STATE
      let service := s.pins.bootSel = 3 ∧ s.fget TAILOR_DBGCTL.SERVICE = 1
      let all (P : Instr → Prop) : Prop := P .rootAdd ∧ P (.rootLock kcvexp good) ∧ P .rootClear
      let share := ((List.range 4).map fun i => leNats 8 (s.fget (CLOAK_ROOTSHARE.SHARE i))).flatten
      let acc := if s.eng.accum = [] then share else xorBytes s.eng.accum share
      (2 ≤ state → all fun i => Does i s id [(CLOAK_ROOTSTAT.RESULT, 3)]) ∧
      (state < 2 → ¬ service → all fun i => Does i s id [(CLOAK_ROOTSTAT.RESULT, 2)]) ∧
      (state < 2 → service →
        Does .rootAdd s (fun s => { s with eng := { s.eng with accum := acc } })
          ([(CLOAK_ROOTSTAT.RESULT, 1), (CLOAK_ROOTSTAT.STATE, 1), (APRON_ID.ROOTKEY, 1), fits CLOAK_ROOTSTAT.KCV (kcv acc),
            (CLOAK_ROOTSTAT.SHARES, min 15 (s.fget CLOAK_ROOTSTAT.SHARES + 1))] ++ (List.range 4).map fun i => (CLOAK_ROOTSHARE.SHARE i, 0)) ∧
        Does .rootClear s (fun s => { s with eng := { s.eng with accum := [] } }) [(CLOAK_ROOTSTAT.RESULT, 1),
          (CLOAK_ROOTSTAT.STATE, 0), (APRON_ID.ROOTKEY, 0), (CLOAK_ROOTSTAT.SHARES, 0), (CLOAK_ROOTSTAT.KCV, 0)] ∧
        (s.fget CLOAK_ROOTSTAT.SHARES = 0 → Does (.rootLock kcvexp good) s id [(CLOAK_ROOTSTAT.RESULT, 6)]) ∧
        (s.fget CLOAK_ROOTSTAT.SHARES ≠ 0 → s.fget CLOAK_ROOTSTAT.KCV ≠ kcvexp % 2 ^ 24 →
          Does (.rootLock kcvexp good) s id [(CLOAK_ROOTSTAT.RESULT, 4)]) ∧
        (s.fget CLOAK_ROOTSTAT.SHARES ≠ 0 → s.fget CLOAK_ROOTSTAT.KCV = kcvexp % 2 ^ 24 → good = true →
          Does (.rootLock kcvexp good) s (fun s => { s with eng := { s.eng with root := s.eng.accum, accum := [] } })
            [(CLOAK_ROOTSTAT.RESULT, 1), (CLOAK_ROOTSTAT.STATE, 2), (APRON_ID.ROOTKEY, 2)]) ∧
        (s.fget CLOAK_ROOTSTAT.SHARES ≠ 0 → s.fget CLOAK_ROOTSTAT.KCV = kcvexp % 2 ^ 24 → good = false →
          Does (.rootLock kcvexp good) s (fun s => { s with eng := { s.eng with accum := [] } })
            [(CLOAK_ROOTSTAT.RESULT, 5), (CLOAK_ROOTSTAT.STATE, 3), (APRON_ID.ROOTKEY, 3), (CLOAK_ROOTSTAT.KCV, 0)])))

/-- Together: Cloak commands, key slots and the owner root key. -/
def Obligations.CloakAndKeyResults : Prop :=
  CloakResults ∧ KeyResults

/-! ### Seam -/

/-- What a frame that arrives on Seam port `p` does (R524, R525, R510): a malformed one is counted, a failed check is the lane's,
one whose tag fails is counted, and one that opens wakes the module, is heard, acknowledges, and is then taken with its
plaintext. With every lane OUT the port goes DOWN; while Cloak is off the frame is lost (log entry 137). -/
def Sys2Proof.Safety.SeamReceives (i : Instr) (s : State) (p : Nat) (f : SeamFrame) (take : State → List Nat → State) : Prop :=
  let ok := f.good = true ∧ f.rsv = false ∧ f.dst = s.fget SEAM_STAT.SELF ∧ f.src = s.fget (SEAM_PORT_STAT.PEER p)
  (s.fget (SEAM_PORT_STAT.STATE p) ≠ 4 → Idles i s) ∧
  (s.fget (SEAM_PORT_STAT.STATE p) = 4 →
    (¬ ok → Does i s id [counts s (SEAM_PORT_ERR.BADFRAME p) 1]) ∧
    (ok → s.fget CLOAK_LANEUP.LANEUP = 0 → exec i s = .next (s.portDown p 8)) ∧
    (ok → s.fget CLOAK_LANEUP.LANEUP ≠ 0 → s.fget CLOAK_CTL.EN ≠ 1 → Idles i s) ∧
    (ok → s.fget CLOAK_LANEUP.LANEUP ≠ 0 → s.fget CLOAK_CTL.EN = 1 →
      let l := if s.unitUp .cloak (f.lane % 64) = true then f.lane % 64 else s.otherUnit .cloak (f.lane % 64)
      let v := if f.bad = true ∨ f.once = true then s.unitFail .cloak l else s
      let g := { f with lane := l }
      (f.bad = true → exec i s = .next (v.unitFail .cloak (v.otherUnit .cloak l))) ∧
      (f.bad = false →
        (∀ u, v.openFrame p g = (u, none) → ∃ t, Alters u t id [counts u (SEAM_PORT_ERR.AUTHFAIL p) 1] ∧ exec i s = .next t) ∧
        (∀ u bs, v.openFrame p g = (u, some bs) →
          let w := (u.wakeBy 3 POWER_WAKE.SEAM_EN).look
          exec i s = .next (take ((w.onPair f.src fun x => { x with heard := w.tod, silent := false }).seamAck
            p f.src f.ackseq f.credit) bs)))))

/-- R510, R524, R525, R538: opening a sealed frame, its acknowledgement, and the order and delivery of sequenced frames. -/
def Obligations.SeamReception : Prop :=
  ∀ (s : State) (p : Nat) (f : SeamFrame), s.power.phase = .run → p < 4 →
    let m := f.src
    let x := s.spair m
    let ty (k : Nat) : SeamFrame := { f with type := k }
    let seqd (i : Instr) (k : Nat) : Prop := SeamReceives i s p (ty k) fun v bs => v.seamSeq p (ty k) bs
    seqd (.mirrec p f) 0x20 ∧ seqd (.mirmark p f) 0x21 ∧ seqd (.seamTake p f) 0x40 ∧ seqd (.claimsync p f) 0x41 ∧
    seqd (.rwrite p f) 0x50 ∧
    SeamReceives (.beat p f) s p (ty 0x10) (fun v bs => v.onPair m fun x => { x with
      age := pw bs 0 % 2 ^ 16, parked := x.parked || decide (pw bs 0 / 2 ^ 16 % 2 = 1) }) ∧
    SeamReceives (.seamLack p f) s p (ty 0x11) (fun v _ => v) ∧
    SeamReceives (.seamNak p f) s p (ty 0x12) (fun v _ => v.seamReplay p m) ∧
    SeamReceives (.mirack p f) s p (ty 0x22) (fun v bs =>
      (v.onPair m fun x => { x with mir := x.mir.filter fun q => pw bs 0 < q }).updMir) ∧
    SeamReceives (.tfollow p f) s p (ty 0x31) (fun v bs =>
      if (v.sport p).sync = pw bs 0 % 2 ^ 16 ∧ v.fget SEAM_TODSTAT.MASTER = m then
        (v.onPort p fun x => { x with t1 := pw bs 1 }).seamUnseq p 0x32 (bs.take 8) else v) ∧
    SeamReceives (.tdreq p f) s p (ty 0x32) (fun v bs => v.seamUnseq p 0x33 (bs.take 8 ++ leNats 8 v.tod)) ∧
    SeamReceives (.tdresp p f) s p (ty 0x33) (fun v bs =>
      let y := v.sport p
      if y.sync = pw bs 0 % 2 ^ 16 ∧ v.fget SEAM_TODSTAT.MASTER = m then
        v.measure (((y.t2 : Int) - y.t1 - ((pw bs 1 : Int) - y.t3)) / 2) else v) ∧
    -- the ranks of masters: role 0 ranks lowest, then the lower ROLE, then the lower SEAM_ID
    (∀ role, SeamReceives (.tsync p f role) s p (ty 0x30) (fun v bs =>
      let mine := v.fget SEAM_TODCTL.ROLE % 3
      let cur := v.fget SEAM_TODSTAT.MASTER
      let ahead (q n : Nat) : Bool := decide (role < q) || (role == q && decide (m < n))
      let first := match v.seam.masterRole with
        | none => true
        | some q => m == cur || ahead q cur
      if (mine = 0 ∨ v.fget SEAM_TODSTAT.VALID ≠ 1 ∨ ahead mine (v.fget SEAM_STAT.SELF) = true) ∧ first = true then
        ((v.fset SEAM_TODSTAT.MASTER m).onSeam fun x => { x with masterRole := some role }).onPort p fun x =>
          { x with sync := pw bs 0 % 2 ^ 16, t2 := v.tod }
      else v)) ∧
    -- the key of a frame: the slot's generation whose number mod 4 is its EPOCH
    (let k := s.fget (SEAM_PORT_CTL.RXSLOT p)
     let y := s.slot k
     let usable := y.cfg % 2 = 1 ∧ y.cfg / 2 % 16 = 2 ∧ s.fget CLOAK_ROOTSTAT.STATE = 2
     let iv := m * 2 ^ 94 + x.bootno.getD 0 % 2 ^ 30 * 2 ^ 64 + f.ivcnt
     let opens (g : Nat) : Prop := (s.openFrame p f).2 = gcmOpen (s.keyOf k g) iv f.header f.payload f.tag
     (¬ usable → (s.openFrame p f).2 = none) ∧
     (usable → f.epoch = y.gen % 4 → opens y.gen ∧ (s.openFrame p f).1.slot k = y) ∧
     (usable → f.epoch = (y.gen + 1) % 4 → opens ((y.gen + 1) % 2 ^ 64) ∧
       (s.openFrame p f).1.slot k = { y with gen := (y.gen + 1) % 2 ^ 64, used := 0, old := some y.gen }) ∧
     (usable → f.epoch ≠ y.gen % 4 → f.epoch ≠ (y.gen + 1) % 4 →
       (∀ o, y.old = some o → f.epoch = o % 4 → opens o) ∧
       ((∀ o, y.old = some o → f.epoch ≠ o % 4) → (s.openFrame p f).2 = none))) ∧
    -- an acknowledgement
    (∀ a c, let v := s.seamAck p m a c
      v.spair m = { x with
        sent := x.sent.filter fun q => a < q.seq, replay := x.replay.filter fun q => a < q.seq, ackSeen := max x.ackSeen a, credit := c } ∧
      ((∃ q ∈ x.sent, q.seq ≤ a ∧ q.txm = true) → v.fget SEAM_TXRES.RESULT = 5) ∧
      ((∀ q ∈ x.sent, a < q.seq) → v.sport p = s.sport p ∧ v.fields = s.fields)) ∧
    -- a sequenced frame: dropped twice received, held ahead of a gap, refused beyond 512, delivered in order
    (∀ bs, let lack (v : State) : State := if (v.sport p).unseq.any (fun q => q.type == 0x11) then v else v.seamUnseq p 0x11 []
      (x.rxNext + 512 < f.seq → s.seamSeq p f bs = s.seamUnseq p 0x12 []) ∧
      (f.seq < x.rxNext → s.seamSeq p f bs = lack s) ∧
      (x.rxNext < f.seq → f.seq ≤ x.rxNext + 512 → x.held = [] →
        s.seamSeq p f bs = lack (s.onPair m fun x => { x with held := [(f.seq, f.type, bs)] })) ∧
      (f.seq = x.rxNext → x.held = [] →
        s.seamSeq p f bs = lack ((s.onPair m fun x => { x with rxNext := x.rxNext + 1 }).deliverSeam p m f.seq f.type bs))) ∧
    -- delivery
    (∀ seq bs,
      let hosting := s.fget (SEAM_MIRSRC.EN m) = 1 ∧ s.fget (SEAM_MIRSRC.SLOTS m) ≤ 10 ∧ AMap.get false s.seam.hostOff m = false ∧
        s.fget SEAM_TODSTAT.REFUSING ≠ 1
      let slot := windowBase + s.fget (SEAM_MIRSRC.GRAN m) * 2 ^ 21 + pw bs 0 % 2 ^ (12 + s.fget (SEAM_MIRSRC.SLOTS m)) * 128
      let stored (a : Nat) (d : List Nat) : State :=
        (((s.opWrite (seamAgent p) a (d.map (BitVec.ofNat 8))).1.hubDurable.onSeam fun y => { y with
          mirTop := AMap.set 0 y.mirTop m seq }).seamUnseq p 0x22 (leNats 8 seq))
      let w := s
      let n := pw bs 0 % 256
      let c := pw bs 1 % 2 ^ 16
      let d := (c + 2 ^ 16 - w.kget (CHAN_CLAIM.CLAIM n) % 2 ^ 16) % 2 ^ 16
      let higher := 1 ≤ d ∧ d < 2 ^ 15
      let dst := w.fget SEAM_RXWIN.ADDR * 65536 + pw bs 1 % 65536
      let src := pw bs 0 / 2 ^ 16 % 2 ^ 16
      let u := (w.opWrite (seamAgent p) dst (((bs.drop 16).take (pw bs 0 / 2 ^ 32 % 2 ^ 16)).map (BitVec.ofNat 8))).1.hubDurable
      (¬ hosting → s.deliverSeam p m seq 0x20 bs = s ∧ s.deliverSeam p m seq 0x21 bs = s) ∧
      (hosting → s.deliverSeam p m seq 0x20 bs = stored slot ((bs.drop 8).take 0x78 ++ leNats 8 (s.kget (SEAM_MIREP.EPOCH m)))) ∧
      (hosting → pw bs 1 ∈ [0x60, 0x68, 0x70] → s.deliverSeam p m seq 0x21 bs = stored (slot + pw bs 1) ((bs.drop 16).take 8)) ∧
      (¬ higher → s.deliverSeam p m seq 0x40 bs = w ∧ s.deliverSeam p m seq 0x41 bs = w) ∧
      (higher → s.deliverSeam p m seq 0x41 bs = (w.keepWrite (CHAN_CLAIM.CLAIM n) c).1 ∧
        s.deliverSeam p m seq 0x40 bs = (w.keepWrite (CHAN_CLAIM.CLAIM n) c).1.standDown n (some m)) ∧
      (w.fget SEAM_RXWIN.VALID = 1 →
        (src = 0 → s.deliverSeam p m seq 0x50 bs = u) ∧
        (src ≠ 0 → sourceKnown src = true → s.deliverSeam p m seq 0x50 bs = u.collarEvent src) ∧
        (src ≠ 0 → sourceKnown src = false → s.deliverSeam p m seq 0x50 bs = u.hubFault none 0xFF (0x10 + p) src)) ∧
      (w.fget SEAM_RXWIN.VALID ≠ 1 → ∃ t, Alters w t id [counts w (SEAM_PORT_ERR.BADFRAME p) 1] ∧ s.deliverSeam p m seq 0x50 bs = t)) ∧
    -- a measured offset: positive when the follower is ahead
    (∀ off : Int, s.fget SEAM_TODSTAT.REFUSING ≠ 1 → off.natAbs ≤ 4096000 →
      let far := s.fget SEAM_TODCTL.GUARD * 4096 / 100 < off.natAbs
      Alters s (s.measure off) (fun s => { s with
          tod := if far ∧ off < 0 then s.tod + off.natAbs else s.tod, seam := { s.seam with measured := true } })
        [(SEAM_TODOFFS.TODOFFS, (off % 2 ^ 64).toNat), (SEAM_TODSTAT.VALID, 1), (SEAM_TODSTAT.SOURCE, 3),
          (SEAM_TODSTAT.UNCERTAIN, if far then 1 else 0)])

/-- R503, R521 to R528, R534, R537: ports come up and go down, the hello exchange, the sealing of the next frame, heartbeats and
replay. -/
def Sys2Proof.Safety.SeamPorts : Prop :=
  ∀ (s : State) (p : Nat), s.power.phase = .run → p < 4 →
    let st := s.fget (SEAM_PORT_STAT.STATE p)
    let peer := s.fget (SEAM_PORT_STAT.PEER p)
    let trains (u : State) (i : Instr) (res : Nat) : Prop :=
      (res = 0 → ∃ t, Alters u t (fun s => s.onPort p fun _ => { unseq := [{ type := 1, payload := [] }] }) [(SEAM_PORT_STAT.STATE p, 3)] ∧
        exec i s = .next t) ∧
      (res ≠ 0 → ∃ t, Alters u t id [(SEAM_PORT_STAT.STATE p, 1)] ∧ exec i s = .next (t.portDown p (if res = 4 then 4 else 3)))
    let useable := s.fget SEAM_CTL.EN = 1 ∧ 1 ≤ s.fget SEAM_CTL.SIZE
    (∀ res, let i := Instr.seamPortBringup p res
      ∃ u, Alters s u id [(SEAM_PORT_CTL.EN p, 1)] ∧
        (((st = 0 ∨ st = 5) ∧ useable) ∨ st = 1 → trains u i res) ∧
        (¬ (((st = 0 ∨ st = 5) ∧ useable) ∨ st = 1) → exec i s = .next u)) ∧
    (∀ res, let i := Instr.seamPortRetry p res
      let go := st = 5 ∧ s.fget (SEAM_PORT_CTL.EN p) = 1 ∧ s.fget (SEAM_PORT_CTL.RETRY p) ≠ 0 ∧ useable
      (go → trains s i res) ∧ (¬ go → Idles i s)) ∧
    (1 ≤ st → st ≤ 4 → ∃ t, Alters s t id [counts s (SEAM_PORT_ERR.UNLOCKS p) 1] ∧
      exec (.seamLockLoss p) s = .next (t.portDown p 1)) ∧
    ((st = 0 ∨ 4 < st) → Idles (.seamLockLoss p) s) ∧
    -- DOWN: what was sent on the port and not acknowledged is sent again on another
    (st ≠ 0 → st ≠ 5 → ∀ c, c < 16 → let t := s.portDown p c
      t.fget (SEAM_PORT_STAT.STATE p) = 5 ∧ t.fget (SEAM_PORT_STAT.DOWNCAUSE p) = c ∧ t.sport p = {} ∧
      (st = 4 → (t.spair peer).replay = (s.spair peer).sent.filter fun m =>
        m.port == p || (s.spair peer).replay.any fun q => q.seq == m.seq) ∧
      (st ≠ 4 → t.spair peer = s.spair peer)) ∧
    -- the next frame
    (∀ l bad, l < 64 →
      let i := Instr.seamFrameSeal p ⟨l, bad⟩
      let good := s.fget CLOAK_CTL.EN = 1 ∧ s.unitUp .cloak l = true ∧ bad = 0
      let x := s.spair peer
      let k := s.fget (SEAM_PORT_CTL.TXSLOT p)
      let y := s.slot k
      let iv := s.fget SEAM_STAT.SELF * 2 ^ 94 + s.kget CLOAK_BOOTNO.BOOTNO % 2 ^ 30 * 2 ^ 64 + y.used % 2 ^ 64
      let plain (m : SeamMsg) : SeamFrame := {
        type := m.type, src := s.fget SEAM_STAT.SELF, dst := peer, seq := m.seq, ackseq := x.rxNext - 1
        credit := 512 - x.held.length, payload := m.payload, epoch := y.gen % 4, ivcnt := y.used % 2 ^ 64 }
      let sealed (m : SeamMsg) : SeamFrame :=
        let c := gcmSeal (s.keyOf k y.gen) iv (plain m).header m.payload
        { plain m with payload := c.1, tag := c.2 }
      let can := s.sealOk = true ∧ s.fget CLOAK_ROOTSTAT.STATE = 2 ∧ s.fget (CLOAK_SLOTST.STATE k) = 1 ∧ y.cfg / 2 % 16 = 2 ∧
        y.cfg / 2 ^ 6 % 2 = 1 ∧ y.used < y.limit
      let sends (m : SeamMsg) (after : State → Prop) : Prop := ∃ t : State, exec i s = .next t ∧ (t.sport p).lastTx = some (sealed m) ∧
        (t.slot k).used = y.used + 1 ∧ after t
      (good → st = 4 → can → ∀ m rest, (s.sport p).unseq = m :: rest → m.type ≠ 1 → m.type ≠ 2 →
        sends m fun t => t.spair peer = x ∧
          (m.type ≠ 0x30 → (t.sport p).unseq = rest) ∧
          (m.type = 0x30 → (t.sport p).unseq = rest ++ [{ type := 0x31, payload := m.payload.take 8 ++ leNats 8 t.tod }]) ∧
          (m.type = 0x32 → (t.sport p).t3 = t.tod)) ∧
      (good → st = 4 → can → (s.sport p).unseq = [] → ∀ m rest, x.replay = m :: rest → sends m fun t => (t.spair peer).replay = rest) ∧
      (good → st = 4 → can → (s.sport p).unseq = [] → x.replay = [] → ∀ m rest, x.pend = m :: rest →
        x.txNext ≤ x.ackSeen + x.credit → x.sent.length < 512 →
        let m' := { m with seq := x.txNext, port := p }
        sends m' fun t => (t.spair peer).pend = rest ∧ (t.spair peer).txNext = x.txNext + 1 ∧ (t.spair peer).sent = x.sent ++ [m'] ∧
          (t.spair peer).mir = if m.type = 0x20 ∨ m.type = 0x21 then x.mir ++ [x.txNext] else x.mir) ∧
      (good → st = 4 → (s.sport p).unseq = [] → x.replay = [] →
        (x.pend = [] ∨ x.ackSeen + x.credit < x.txNext ∨ 512 ≤ x.sent.length) → Idles i s) ∧
      (st ≠ 3 → st ≠ 4 → Idles i s) ∧
      -- the lane that works on it: with every lane OUT the port goes DOWN; another lane where the named one is OUT; a failed
      -- check is the lane's, and after two the frame is not sent
      ((st = 3 ∨ st = 4) → s.fget CLOAK_LANEUP.LANEUP = 0 → exec i s = .next (s.portDown p 8)) ∧
      (s.fget CLOAK_LANEUP.LANEUP ≠ 0 → s.fget CLOAK_CTL.EN ≠ 1 → Idles i s) ∧
      ((st = 3 ∨ st = 4) → s.fget CLOAK_CTL.EN = 1 →
        (s.unitUp .cloak l = false → s.unitUp .cloak (s.otherUnit .cloak l) = true →
          exec i s = exec (.seamFrameSeal p ⟨s.otherUnit .cloak l, bad⟩) s) ∧
        (s.unitUp .cloak l = true →
          let v := s.unitFail .cloak l
          (2 ≤ bad → exec i s = .next (v.unitFail .cloak (v.otherUnit .cloak l))) ∧
          (bad = 1 → v.unitUp .cloak l = true → exec i s = exec (.seamFrameSeal p ⟨l, 0⟩) v))) ∧
      -- at its limit the slot goes to its next generation first
      (y.cfg / 2 ^ 6 % 2 = 1 → y.limit ≤ y.used →
        (s.rollUse k).slot k = { y with gen := (y.gen + 1) % 2 ^ 64, used := 0 } ∧ (s.rollUse k).fget (CLOAK_SLOTST.NEXT k) = 0 ∧
        (s.rollUse k).fget CLOAK_STAT.ROLLS = (counts s CLOAK_STAT.ROLLS 1).2) ∧
      -- HELLO, under a CMAC of AUTHSLOT
      (let a := s.fget SEAM_CTL.AUTHSLOT
       let h : SeamFrame := {
         type := 1, src := s.fget SEAM_STAT.SELF, dst := peer, ackseq := x.rxNext - 1, credit := 512 - x.held.length
         payload := leNats 8 (s.kget CLOAK_BOOTNO.BOOTNO % 2 ^ 30 + s.fget SEAM_STAT.SELF * 2 ^ 30 + s.fget SEAM_CTL.SIZE * 2 ^ 32)
           ++ leNats 8 y.gen ++ leNats 8 (bnat (s.hosts peer)) ++ leNats 8 (if s.fget SEAM_TODSTAT.VALID = 1 then s.tod else 0) }
       good → st = 3 → (s.sport p).unseq = [] → s.fget CLOAK_ROOTSTAT.STATE = 2 → s.fget (CLOAK_SLOTST.STATE a) = 1 →
        (s.slot a).cfg / 2 % 16 = 3 → ∃ t : State, exec i s = .next t ∧
          (t.sport p).lastTx = some { h with tag := cmac (s.keyOf a (s.slot a).gen) (h.header ++ h.payload) } ∧
          (t.slot a).used = (s.slot a).used + 1)) ∧
    -- HELLO and HELLOACK received
    (∀ (f : SeamFrame) (ack : Bool),
      let i := if ack then Instr.helloack p f else Instr.hello p f
      let g := { f with type := if ack then 2 else 1 }
      let a := s.fget SEAM_CTL.AUTHSLOT
      let k := s.slot a
      let genuine := k.cfg % 2 = 1 ∧ k.cfg / 2 % 16 = 3 ∧ s.fget CLOAK_ROOTSTAT.STATE = 2 ∧
        cmac (s.keyOf a k.gen) (g.header ++ f.payload) = f.tag
      let w := pw f.payload 0
      let m := w / 2 ^ 30 % 4
      let boot := w % 2 ^ 30
      let x := s.spair m
      let fails (c : Nat) : Prop := ∃ t : State, exec i s = .next t ∧ t.fget (SEAM_PORT_STAT.STATE p) = 5 ∧
        t.fget (SEAM_PORT_STAT.DOWNCAUSE p) = c
      (st ≠ 3 → st ≠ 4 → Idles i s) ∧
      ((st = 3 ∨ st = 4) → (f.good = false ∨ f.rsv = true) → Does i s id [counts s (SEAM_PORT_ERR.BADFRAME p) 1]) ∧
      ((st = 3 ∨ st = 4) → f.good = true → f.rsv = false →
        (¬ genuine → fails 6) ∧
        (genuine → m = s.fget SEAM_STAT.SELF → fails 5) ∧
        (genuine → m ≠ s.fget SEAM_STAT.SELF → (w / 2 ^ 32 % 4 ≠ s.fget SEAM_CTL.SIZE ∨ s.fget SEAM_CTL.SIZE < m) → fails 9) ∧
        (genuine → m ≠ s.fget SEAM_STAT.SELF → w / 2 ^ 32 % 4 = s.fget SEAM_CTL.SIZE → m ≤ s.fget SEAM_CTL.SIZE →
          ∃ t : State, t.fget (SEAM_PORT_STAT.PEER p) = m ∧ (t.spair m).bootno = some boot ∧
            (t.spair m).txgen = pw f.payload 1 ∧ (t.spair m).silent = false ∧ (t.spair m).credit = f.credit ∧
            (t.sport p).gotAck = (ack || (s.sport p).gotAck) ∧ (t.sport p).gotHello = (!ack || (s.sport p).gotHello) ∧
            t.fget (SEAM_PORT_STAT.STATE p) = st ∧
            (x.bootno ≠ some boot → (t.spair m).txNext = 1 ∧ (t.spair m).rxNext = 1 ∧ (t.spair m).held = [] ∧ (t.spair m).sent = [] ∧
              (t.spair m).pend = (x.sent.map fun q => { q with seq := 0 }) ++ x.pend) ∧
            (x.bootno = some boot → (t.spair m).txNext = x.txNext ∧ (t.spair m).rxNext = x.rxNext ∧ (t.spair m).sent = x.sent) ∧
            -- both received: step 5
            (let both := st = 3 ∧ (t.sport p).gotHello = true ∧ (t.sport p).gotAck = true
             (both → exec i s = .next (t.portGo p m)) ∧ (¬ both → exec i s = .next t))))) ∧
    -- step 5: the port is UP once its RXSLOT entry, with the other side's GEN, is in use; else it goes DOWN (log entry 137)
    (∀ v : State,
      let k := v.fget (SEAM_PORT_CTL.RXSLOT p)
      let r := (v.slotWrite k 0x08 (v.spair peer).txgen).slotRead k
      let opens := ∃ x, r.2 = some x ∧ x.cfg % 2 = 1 ∧ x.cfg / 2 % 16 = 2 ∧ r.1.fget CLOAK_SLOTBASE.VALID = 1
      (¬ opens → v.portGo p peer = r.1.portDown p 6) ∧
      (opens → (v.portGo p peer).fget (SEAM_PORT_STAT.STATE p) = 4 ∧ (v.portGo p peer).fget (SEAM_PORT_STAT.DOWNCAUSE p) = 0)) ∧
    -- heartbeats, acknowledgement timers
    (let v := s.look
     let park := s.fget POWER_STATE.MOVING = 1 ∧ s.fget POWER_STATE.GOAL = 5
     st = 4 → exec (.beatTimer p) s = .next (v.seamUnseq p 0x10 (leNats 8
       (min 65535 ((v.tod - (s.spair peer).heard) * 10 / 4096) + if park then 2 ^ 16 else 0)))) ∧
    (st ≠ 4 → Idles (.beatTimer p) s ∧ Idles (.seamAckTimeout p) s) ∧
    (st = 4 → (∃ q ∈ (s.spair peer).sent, q.port = p) →
      (8 ≤ (s.sport p).replays → exec (.seamAckTimeout p) s = .next (s.portDown p 2)) ∧
      ((s.sport p).replays < 8 → Does (.seamAckTimeout p) s
        (fun s => (s.onPort p fun y => { y with replays := y.replays + 1 }).onPair peer fun x => { x with replay := x.sent })
        [counts s (SEAM_PORT_ERR.REPLAYS p) 1])) ∧
    (st = 4 → (∀ q ∈ (s.spair peer).sent, q.port ≠ p) → Idles (.seamAckTimeout p) s)

/-- The takeover of channel `n` from `s` leaves `t` (R464, R535, R536): its claim is one higher and kept, the fence is lifted, a
STANDBY is OWNER, and every other module of a shared channel is told. -/
def Sys2Proof.Safety.TakenOver (s t : State) (n : Nat) : Prop :=
  let c := (s.kget (CHAN_CLAIM.CLAIM n) + 1) % 2 ^ 16
  let role := s.fget (SEAM_CHSUCC.ROLE n) % 3
  t.fget (CHAN_CLAIM.CLAIM n) = c ∧ t.fget (CHAN_STAT.FENCED n) = 0 ∧
  t.fget (SEAM_CHSUCC.ROLE n) = (if role = 2 then 1 else s.fget (SEAM_CHSUCC.ROLE n)) ∧
  (role ≠ 0 → ∀ m ∈ s.seamOthers, ({ type := 0x40, payload := leNats 8 n ++ leNats 8 c } : SeamMsg) ∈ (t.spair m).pend) ∧
  (s.fget (CHAN_RINGSTAT.ATTACH n) ≠ 0 → (s.laneUp n = true ∨ s.laneUp (n + 256) = true) → role = 0 →
    t.fget (CHAN_RINGSTAT.ATTACH n) = 0)

/-- R464, R533 to R535, R538 to R543: takeover of a channel, silence of a module, firmware messages, and time-of-day. -/
def Sys2Proof.Safety.SeamCommands : Prop :=
  ∀ (s : State) (n m : Nat) (w : Word), s.power.phase = .run → n < 256 →
    let role := s.fget (SEAM_CHSUCC.ROLE n) % 3
    let far := s.reach (s.fget (SEAM_CHSUCC.PEER n))
    let c := (s.kget (CHAN_CLAIM.CLAIM n) + 1) % 2 ^ 16
    let kept := s.keepWrite (CHAN_CLAIM.CLAIM n) c
    let en := s.fget (CHAN_CTL.EN n) = 1
    let refusing := s.fget SEAM_TODSTAT.REFUSING = 1
    (¬ en → Does (.chanTake n) s id [(CHAN_CMD.RESULT n, 5)]) ∧
    (en → (refusing ∨ (role ≠ 0 ∧ far = false)) → Does (.chanTake n) s id [(CHAN_CMD.RESULT n, 2)]) ∧
    (en → ¬ refusing → (role = 0 ∨ far = true) →
      (kept.2 = false → ∃ t, Alters kept.1 t id [(CHAN_CMD.RESULT n, 4)] ∧ exec (.chanTake n) s = .next t) ∧
      (kept.2 = true → ∃ t, exec (.chanTake n) s = .next t ∧ TakenOver s t n ∧ t.fget (CHAN_CMD.RESULT n) = 1)) ∧
    (let go := role = 2 ∧ s.fget (SEAM_CHSUCC.AUTO n) = 1 ∧ 1 ≤ s.fget SEAM_CTL.SIZE ∧
        (s.spair (s.fget (SEAM_CHSUCC.PEER n))).parked = false
     (¬ (go ∧ en ∧ ¬ refusing) → Idles (.takewaitSilence n) s) ∧
     (go → en → ¬ refusing → (kept.2 = false → exec (.takewaitSilence n) s = .next kept.1) ∧
       (kept.2 = true → ∃ t, exec (.takewaitSilence n) s = .next t ∧ TakenOver s t n))) ∧
    (let other := m < 4 ∧ m ≠ s.fget SEAM_STAT.SELF ∧ 1 ≤ s.fget SEAM_CTL.SIZE
     (other → exec (.holdtimeSilence m) s = .next (s.onPair m fun x => { x with silent := true })) ∧
     (¬ other → Idles (.holdtimeSilence m) s)) ∧
    -- TXMSG
    (let at_ := w.toNat % 2 ^ 52 / 64 * 64
     let answers (v : State) (r : Nat) : Prop := ∃ t, Alters v t id [(SEAM_TXRES.RESULT, r)] ∧ exec (.txmsg w) s = .next t
     (refusing → answers s 3) ∧
     (¬ refusing → ∀ u res, s.opRead (seamAgent 0) at_ 16 = (u, res) →
       ((∀ b, res ≠ .done b) → answers u 4) ∧
       (∀ b, res = .done b →
         let hd := b.map (·.toNat)
         let len := pw hd 0 / 2 ^ 32 % 2 ^ 16
         let off := pw hd 1
         let dst := pw hd 0 % 4
         let form := 8 ≤ len ∧ len ≤ 4072 ∧ len % 8 = 0 ∧ off % 8 = 0 ∧ off + len ≤ 65536
         let there := dst ≠ u.fget SEAM_STAT.SELF ∧ dst ≤ u.fget SEAM_CTL.SIZE ∧ u.reach dst = true
         (¬ form → answers u 4) ∧ (form → ¬ there → answers u 2) ∧
         (form → there → ∀ v rv, u.opRead (seamAgent 0) (at_ + 16) len = (v, rv) →
           ((∀ d, rv ≠ .done d) → answers v 4) ∧
           (∀ d, rv = .done d → answers (v.seamSend dst 0x50 (hd ++ d.map (·.toNat)) true) 1))))) ∧
    -- TODSET
    (let v := s.look
     let tr := s.fget SEAM_TODCTL.ROLE % 3
     let back := s.fget SEAM_TODSTAT.VALID = 1 ∧ w.toNat < v.tod
     let answers (u : State) (r : Nat) : Prop := ∃ t, Alters u t id [(SEAM_TODSTAT.SETRES, r)] ∧ exec (.todset w) s = .next t
     (tr = 0 → answers v 3) ∧ (tr ≠ 0 → back → answers v 2) ∧
     (tr = 2 → ¬ back → ∃ t : State, exec (.todset w) s = .next t ∧ t.tod = w.toNat ∧ t.fget SEAM_TODSTAT.VALID = 1 ∧
       t.fget SEAM_TODSTAT.UNCERTAIN = 0 ∧ t.fget SEAM_TODSTAT.SOURCE = 2 ∧ t.fget SEAM_TODSTAT.SETRES = 1 ∧
       t.fget SEAM_TODSTAT.MASTER = s.fget SEAM_STAT.SELF % 4 ∧ t.fget SEAM_TODSTAT.REFUSING ≠ 1 ∧ t.seam.measured = true) ∧
     (tr = 1 → ¬ back → w.toNat % 4096000000 ≠ 0 → answers v 5) ∧
     (tr = 1 → ¬ back → w.toNat % 4096000000 = 0 → answers (v.onSeam fun x => { x with todWait := some w.toNat }) 4)) ∧
    -- synchronisation
    (let tr := s.fget SEAM_TODCTL.ROLE % 3
     let follows := tr = 0 ∨ s.fget SEAM_TODSTAT.SOURCE = 3
     let two := 1 ≤ s.fget SEAM_CTL.SIZE
     (s.fget SEAM_TODSTAT.VALID = 1 → ¬ follows → two → ∃ t : State, exec .syncPeriod s = .next t ∧
       (∀ k ∈ s.seamOthers, ∀ p rest, s.upPorts k = p :: rest →
         let q := ((s.sport p).sync + 1) % 2 ^ 16
         t.sport p = { s.sport p with sync := q, unseq := (s.sport p).unseq ++ [{ type := 0x30, payload := leNats 8 q }] }) ∧
       t = { s with seam := { s.seam with ports := t.seam.ports } }) ∧
     ((s.fget SEAM_TODSTAT.VALID ≠ 1 ∨ follows ∨ ¬ two) → Idles .syncPeriod s) ∧
     (follows → two → tr = 0 → Does .syncLoss s (fun s => { s with seam := { s.seam with masterRole := none } }) [(SEAM_TODSTAT.UNCERTAIN, 1)]) ∧
     (follows → two → tr ≠ 0 → Does .syncLoss s (fun s => { s with seam := { s.seam with masterRole := none } }) [(SEAM_TODSTAT.UNCERTAIN, 1), fits SEAM_TODSTAT.SOURCE tr,
       fits SEAM_TODSTAT.MASTER (s.fget SEAM_STAT.SELF)]) ∧
     ((¬ follows ∨ ¬ two) → Idles .syncLoss s))

/-- Together: Seam ports, takeover, messages and time-of-day. -/
def Obligations.SeamPortsAndCommands : Prop :=
  SeamPorts ∧ SeamCommands

/-! ### Faults -/

/-- R546, R552, R557 to R559: an event at the collector. Every record gets the next SEQ; a corrected event changes nothing else;
a contained one is charged to its partition and starts or extends the fault state; a fatal one lowers FAIL_N and is kept. -/
def Obligations.FaultRecords : Prop :=
  ∀ (s : State) (r : FaultRec), s.hubOn = true → s.faults.queue.length < 256 → r.bare = true →
    let act := r.loc / 2 ^ 60 % 16
    let t := s.raise r
    let logged (q : FaultRec) : Prop := q = { r with seq := q.seq, tod := q.tod, todu := q.todu } ∧ s.tod ≤ q.tod
    (act < 4 → s.logFull = true → t.faults.queue = s.faults.queue ∧ t.faults.lost = true ∧
      t.fget FAULT_LOGSTAT.CDROP = (counts s FAULT_LOGSTAT.CDROP 1).2) ∧
    (act < 4 → s.logFull = false → ∃ q, logged q ∧ q.seq = s.faults.seqNext ∧ t.faults.queue = s.faults.queue ++ [q] ∧
      t.faults.seqNext = s.faults.seqNext + 1 ∧ t.fget FAULT_STAT.FSTATE = s.fget FAULT_STAT.FSTATE ∧ t.pins = s.pins ∧
      t.collar = s.collar ∧ t.mem = s.mem ∧ t.ctxs = s.ctxs) ∧
    (4 ≤ act → act < 8 → ∃ q, logged q ∧ q.seq = s.faults.seqNext ∧ t.faults.queue = s.faults.queue ++ [q] ∧
      t.faults.seqNext = s.faults.seqNext + 1 ∧ t.mem = s.mem) ∧
    (4 ≤ act →
      t.fget FAULT_STAT.FSTATE = 1 ∧ t.fget FAULT_STAT.QUIETLEFT = max 1 (s.fget FAULT_CTL.QUIET) % 2 ^ FAULT_STAT.QUIETLEFT.width ∧
      (∀ n, n < 256 → (r.part = some n ∧ act < 8 ∧ r.replay = false →
          t.fget (PART_FAULTS.FAULTS n) = (counts s (PART_FAULTS.FAULTS n) 1).2) ∧
        (r.part ≠ some n ∨ 8 ≤ act ∨ r.replay = true → t.fget (PART_FAULTS.FAULTS n) = s.fget (PART_FAULTS.FAULTS n))) ∧
      (t.faults.onlyReplays = ((s.fget FAULT_STAT.FSTATE ≠ 1 ∨ s.faults.onlyReplays = true) ∧ r.replay = true))) ∧
    ((act = 8 ∨ act = 9) → s.pins.hiZ = false → t.pins.failN = false) ∧
    (8 ≤ act → r.replay = false → (s.keepMeta 4).uncorr = false → (s.keepMeta 4).count < keepRating → r.loc < 2 ^ 64 →
      t.fget FAULT_LASTF.LASTF = r.loc)

/-- R552, R553: the 64 bytes of a record in the log read back as the record, whose CRC holds. -/
def Obligations.LogRecordRoundTrip : Prop :=
  ∀ r : FaultRec, r.loc < 2 ^ 64 → r.seq < 2 ^ 64 → r.tod < 2 ^ 64 → r.d0 < 2 ^ 64 → r.d1 < 2 ^ 64 → r.d2 < 2 ^ 64 →
    (∀ c, r.ctx = some c → c < 2 ^ 10) → (∀ n, r.part = some n → n < 2 ^ 8) →
    r.bytes.length = 64 ∧ recOfBytes r.bytes = some { r with bare := false }

/-- R547 to R550, R320, R549, R623: a fault event is recorded, and its unit takes its own action. -/
def Sys2Proof.Safety.FaultEventResults : Prop :=
  ∀ (s : State) (f : FaultIn),
    let act := f.loc / 2 ^ 60 % 16
    let die := f.loc / 2 ^ 56 % 16
    let tile := f.loc / 2 ^ 48 % 256
    let unit := f.loc / 2 ^ 40 % 256
    let r : FaultRec := { loc := f.loc % 2 ^ 64, ctx := f.ctx, part := f.part, d0 := f.d0 % 2 ^ 64, d1 := f.d1 % 2 ^ 64,
                          d2 := f.d2 % 2 ^ 64, bare := true }
    let t := s.raise r
    let does (u : State) : Prop := exec (.faultEvent f) s = .next u
    let sec := f.d0 / 64
    (s.hubOn = false ∨ 0xC ≤ act → Idles (.faultEvent f) s) ∧
    (s.hubOn = true →
      -- a Module reset, a checkstop
      (act = 0xA → t.power.phase ∈ [Phase.moduleReset, .lockWait, .bootFailed, .service, .run] →
        ∃ u, does u ∧ ResetLeaves false 5 t u) ∧
      (act = 8 → does t.stopCompute) ∧
      -- a Pocket array, an L2, an L1 of a pair
      ((act = 4 ∨ act = 9) → die < 4 → tile < 12 → unit = 5 →
        let c := f.ctx.getD 0
        (isFw c = true → does (t.stopPocket c true)) ∧
        (isFw c = false → (t.pk c = 0 ∨ t.pk c = 1) → does t) ∧
        (isFw c = false → t.pk c ≠ 0 → t.pk c ≠ 1 → does (t.partxStop c { code := 0x01 } 0 (t.ctx c).pc))) ∧
      (act = 7 → die < 4 → tile < 12 → unit = 6 → t.served f.d0 = true →
        does ((t.setHomePois sec true).spareOut (die * 12 + tile) false)) ∧
      (act = 1 → die < 4 → tile < 12 → (unit = 1 ∨ unit = 2) →
        ∃ g, (g = 1 ∨ g = 2) ∧ does (t.draw.2.mismatch (die * 12 + tile) g 0 {} false)) ∧
      (let st := t.cst (die * 12 + tile) sec
       die < 4 → tile < 12 → unit = 4 →
        (act = 7 → (st = .m ∨ st = .o) → does (t.setCopyPois (die * 12 + tile) sec true)) ∧
        (act = 0 → (st = .e ∨ st = .s) → does t.draw.2 ∨ does (t.draw.2.leave (die * 12 + tile) sec))) ∧
      -- an L3 word, or a tag or directory entry of it, is poison
      (act = 7 → die < 4 → 16 ≤ tile → tile < 32 → unit = 0x10 → does (t.setHomePois sec true)) ∧
      (act = 7 → die < 4 → 16 ≤ tile → tile < 32 → (unit = 0x11 ∨ unit = 0x12) → does (t.entryLost sec)) ∧
      -- a die is out of service
      (act ≠ 8 → act < 0xA → die < 4 → tile = 0xFF → unit = 0x30 → ∃ u : State, does u ∧ AMap.get false u.mem.weftOut die = true ∧
        ∀ p, 12 * die ≤ p → p < 12 * die + 12 → u.ph p = 4) ∧
      (act ≠ 8 → act < 0xA → (die = 5 ∨ die = 6) → tile = 0xFF → unit = 0x30 → ∃ u : State, does u ∧
        AMap.get false u.mem.portOut (die - 5) = true ∧
        ∀ m, 256 * (die - 5) ≤ m → m < 256 * (die - 5) + 256 → u.fget (LANE_STAT.STATE m) = 0 ∨ u.fget (LANE_STAT.STATE m) = 7) ∧
      -- the Tailor, the Hem dies, a Keep entry
      (act = 6 → die = 4 → tile = 0xFF → unit = 5 → does (t.tailorFromCur f.pass)) ∧
      (act = 0xB → die = 4 → tile = 0xFF → unit = 5 → does (t.setMinset (setBitNat (t.fget FAULT_MINSET.MINSET) 2 true))) ∧
      (act = 0xB → die = 4 → tile = 0xFF → unit = 8 → does ((t.dieFail 0).dieFail 1)) ∧
      (act = 9 → die = 4 → tile = 0xFF → unit = 0x1A →
        does (t.setKeepMeta f.d2 { t.keepMeta f.d2 with uncorr := true })) ∧
      -- any other corrected event is only recorded
      (act < 4 → (tile ≠ 0xFF ∨ unit ≠ 0x30) → (4 ≤ die ∨ 12 ≤ tile ∨ unit ∉ [1, 2, 4]) → does t)) ∧
    -- a pair whose contexts are lost
    (∀ p, p < 48 → let u := s.pairLost p
      u.ph p = 4 ∧ ∀ k, s.slotServed p = some k → u.fget (TAILOR_SLOT.SERVING k) = 0 ∧
        ∀ c, k * 16 ≤ c → c < k * 16 + 15 → s.partOf c ≠ none → u.pk c = 1 ∧ u.fget (POCKET_STAT.FWHOLD c) = 1)

/-- R551 to R556, R558, R562, R564, R565: the log is written and acknowledged, the module goes on after a checkstop, a record
is replayed, the fault state ends, the watchdog, the collector's self-check, and the signal of a partition. -/
def Sys2Proof.Safety.FaultCommands : Prop :=
  ∀ (s : State) (c n : Nat) (w : Word) (pass : Bool),
    let logOn := s.fget FAULT_LOGBASE.VALID = 1 ∧ s.fget FAULT_LOGBASE.GRAN ≤ 766
    let die := s.fget HEM_STAT.H0OK = 1 ∨ s.fget HEM_STAT.H1OK = 1
    -- the log
    (s.hubOn = true → logOn → die → ∀ r rest, s.faults.queue = r :: rest →
      (∀ k, s.logSlot = some k →
        let q := { r with lostBefore := s.faults.lost }
        let v := (s.hubWrite collectorHub (windowBase + s.fget FAULT_LOGBASE.GRAN * 2 ^ 21 + 64 * k) q.bytes).hubDurable
        ∃ t, Alters v t (fun v => { v with faults := { v.faults with
            queue := v.faults.queue.drop 1, mirrorQueued := (v.faults.queue.drop 1 != []),
            log := AMap.set none v.faults.log k (some q), lost := false } })
          [fits FAULT_STAT.QUEUED (v.faults.queue.drop 1).length] ∧
          exec .logWrite s = .next (t.updLog.logSources q (s.fget FAULT_LOGSTAT.UNREADS))) ∧
      (s.logSlot = none → r.corrected = false → Idles .logWrite s) ∧
      (s.logSlot = none → r.corrected = true → exec .logWrite s = .next (s.unqueueRec.countLost true))) ∧
    ((s.hubOn = false ∨ ¬ logOn ∨ ¬ die ∨ s.faults.queue = []) → Idles .logWrite s) ∧
    -- LOGHEAD names the oldest record above LOGACK
    (AMap.wf none s.faults.log = true → (∀ e ∈ s.faults.log, e.1 < 65536) →
      let ack := s.fget FAULT_LOGACK.LOGACK
      let t := s.updLog
      let unread (k : Nat) (r : FaultRec) : Prop := AMap.get none s.faults.log k = some r ∧ ack < r.seq
      ((∀ k r, ¬ unread k r) → t.fget FAULT_LOGHEAD.EMPTY = 1 ∧ t.fget FAULT_LOGHEAD.SLOT = 0) ∧
      (∀ k r, unread k r → (∀ j q, unread j q → j ≠ k → r.seq < q.seq) →
        t.fget FAULT_LOGHEAD.EMPTY = 0 ∧ t.fget FAULT_LOGHEAD.SLOT = k)) ∧
    -- the sources of a record in the log
    (∀ (r : FaultRec) (was : Nat), s.fget FAULT_LOGSTAT.UNREADS = was → r.replay = false →
      let act := r.loc / 2 ^ 60 % 16
      (act < 4 → s.logSources r was = if s.fget FAULT_CTL.CSIG = 1 then s.collarEvent 0x2000 else s) ∧
      (4 ≤ act → act < 8 → s.logSources r was = s.collarEvent 0x2001) ∧ (8 ≤ act → s.logSources r was = s.collarEvent 0x2002)) ∧
    (s.power.phase = .run →
      let ack := s.fget FAULT_LOGACK.LOGACK
      ((w.toNat < ack ∨ s.faults.seqNext ≤ w.toNat) → Idles (.logack w) s) ∧
      (ack ≤ w.toNat → w.toNat < s.faults.seqNext → ∃ t, Alters s t id [(FAULT_LOGACK.LOGACK, w.toNat)] ∧
        exec (.logack w) s = .next t.updLog) ∧
      -- RESUME
      (s.fget FAULT_STAT.CHECKSTOP ≠ 1 → Does .faultResume s id [(FAULT_CMD.RESULT, 2)]) ∧
      (s.fget FAULT_STAT.CHECKSTOP = 1 → ∃ t : State, exec .faultResume s = .next t ∧ t.mem.checkstop = false ∧
        t.fget FAULT_STAT.CHECKSTOP = 0 ∧ t.fget FAULT_CMD.RESULT = 1 ∧
        ∀ k, k < 48 → s.fget (TAILOR_SLOT.SERVING k) = 1 →
          t.fget (WEFT_LOCK.COUNT (s.physOf k)) = 0 ∧
          (s.fget CSTORE_STAGECTL.SEALED = 1 → t.fget (CSTORE_VER.PATCH (s.physOf k)) = s.fget CSTORE_STAGECTL.VERSION) ∧
          (∀ i, i < 15 → s.pk (16 * k + i) ≠ 0 → t.pk (16 * k + i) = 1 ∧ t.fget (POCKET_STAT.FWHOLD (16 * k + i)) = 1) ∧
          (stBit (s.ctx (16 * k + 15)).st ST.ex = false →
            (t.ctx (16 * k + 15)).fr.rpc = (s.ctx (16 * k + 15)).pc ∧ (t.ctx (16 * k + 15)).fr.rst = (s.ctx (16 * k + 15)).st ∧
            (t.ctx (16 * k + 15)).pc = (s.ctx (16 * k + 15)).fr.vbar + 0x40 ∧
            (t.ctx (16 * k + 15)).fr.cause.toNat % 2 ^ 8 = 0x01)) ∧
      -- a replay
      (∀ a, let at_ := a % 2 ^ 52 / 64 * 64
        let answers (v : State) (r : Nat) : Prop := ∃ t, Alters v t id [(FAULT_REPLAY.RESULT, r)] ∧ exec (.replay a) s = .next t
        (s.fget FAULT_CTL.REPLAYEN ≠ 1 → answers s 2) ∧
        (s.fget FAULT_CTL.REPLAYEN = 1 → ∀ v bs po, s.hubRead collectorHub at_ 64 = (v, bs, po) →
          let word (k : Nat) : Nat := leNat ((bs.drop (8 * k)).take 8)
          let x := word 3
          let ok := po = false ∧ word 0 / 2 ^ 60 % 16 < 0xC
          (¬ ok → answers v 3) ∧ (ok → 256 ≤ v.faults.queue.length → answers v 4) ∧
          (ok → v.faults.queue.length < 256 → answers (v.raise {
            loc := word 0, replay := true, bare := true, d0 := word 4, d1 := word 5, d2 := word 6
            ctx := if x / 2 ^ 15 % 2 = 1 then some (x % 2 ^ 10) else none
            part := if x / 2 ^ 24 % 2 = 1 then some (x / 2 ^ 16 % 2 ^ 8) else none }) 1))) ∧
      -- the end of the fault state
      (s.fget FAULT_STAT.FSTATE ≠ 1 → Idles .quietExpiry s) ∧
      (s.fget FAULT_STAT.FSTATE = 1 → ∃ u, Alters s u (fun s => { s with faults := { s.faults with quietOver := true } })
        [(FAULT_STAT.QUIETLEFT, 0)] ∧ exec .quietExpiry s = .next u.faultEnd) ∧
      (let ends := s.faults.quietOver = true ∧ s.fget FAULT_STAT.FSTATE = 1 ∧ s.fget FAULT_STAT.CHECKSTOP ≠ 1 ∧
          s.fget FAULT_MINSET.MINSET = 0 ∧ ∀ m, m < 3 → s.mb m ≠ 2 ∧ s.mb m ≠ 3
       (¬ ends → s.faultEnd = s) ∧
       (ends → ∃ u, Alters s u
          (fun s => { s with faults := { s.faults with holdsFatal := false, onlyReplays := true, quietOver := false } })
          [(FAULT_STAT.FSTATE, 0), (FAULT_STAT.QUIETLEFT, 0)] ∧
        (s.faults.onlyReplays = true → ∃ t, Alters u t id [counts u FAULT_STAT.REPLAYEND 1] ∧
          s.faultEnd = (t.collarEvent 0x2004).updFail) ∧
        (s.faults.onlyReplays = false → 65535 ≤ s.kget FAULT_RECOV.RECOV → s.faultEnd = (u.collarEvent 0x2004).updFail) ∧
        (s.faults.onlyReplays = false → s.kget FAULT_RECOV.RECOV < 65535 → s.faultEnd =
          ((u.keepWrite FAULT_RECOV.RECOV (s.kget FAULT_RECOV.RECOV + 1)).1.collarEvent 0x2004).updFail))) ∧
      -- the watchdog and a restart of the Tailor from its current image
      (s.fget FAULT_CTL.WDOG ≠ 0 → exec (.watchdogExpiry pass) s =
        .next ((s.raise { loc := 6 * 2 ^ 60 + 4 * 2 ^ 56 + 0xFF * 2 ^ 48 + 5 * 2 ^ 40 }).tailorFromCur pass)) ∧
      (s.fget FAULT_CTL.WDOG = 0 → Idles (.watchdogExpiry pass) s) ∧
      -- the signal of a partition
      (let mine := c % 16 = 15 ∨ s.partOf c = some n
       let src := w.toNat % 2 ^ 16
       let may := isSw src = true ∧ s.srcOwner src = some n
       let faults : Prop := exec (.faultsigWrite c n w) s = .next (s.ctxFault c (controlBase + 0x200090 + 1024 * n))
       (¬ mine → faults) ∧ (mine → w.toNat / 2 ^ 16 % 2 = 1 → ¬ may → faults) ∧
       (mine → (w.toNat / 2 ^ 16 % 2 = 1 → may) → Does (.faultsigWrite c n w) s id
         [(PART_FAULTSIG.EN n, w.toNat / 2 ^ 16 % 2), (PART_FAULTSIG.SOURCE n, src)]))) ∧
    Idles .pet s ∧
    (s.hubOn = true → let t := s.raise { loc := 0xA * 2 ^ 60 + 4 * 2 ^ 56 + 0xFF * 2 ^ 48 + 7 * 2 ^ 40, bare := true }
      t.power.phase ∈ [Phase.moduleReset, .lockWait, .bootFailed, .service, .run] →
      ∃ u, exec .collectorSelfcheckFail s = .next u ∧ ResetLeaves false 5 t u) ∧
    (s.hubOn = false → Idles .collectorSelfcheckFail s)

/-- Together: fault events and the commands of the collector. -/
def Obligations.FaultResults : Prop :=
  FaultEventResults ∧ FaultCommands

/-! ### Apron, Tailor, boot -/

/-- R566 to R571, R579 to R582: the Apron island's power, count, calendar, alarm and trim, the lifetime records, and the return of
a blade pair (R43). -/
def Obligations.ApronResults : Prop :=
  ∀ (s : State) (err : Int) (temps : List Nat) (hour : Bool) (a b : Nat),
    let on := s.apron.powered = true
    -- power
    (on → s.hubOn = false → AMap.risesFrom 0 s.apron.lifeFlushed = true → (∀ e ∈ s.apron.lifeFlushed, isLifeKey e.1 = true) →
      ∃ t : State, exec .apronPowerLoss s = .next t ∧ t.apron.powered = false ∧ t.apron.count = 0 ∧ t.power.phase = .off ∧
        t.apron.calfloor = s.apron.calfloor ∧ t.apron.keep = s.apron.keep ∧
        ∀ f : Field, t.fget f = if isLifeKey f.key then AMap.get f.dflt s.apron.lifeFlushed f.key
          else if apronKept f.key then s.fget f else f.dflt) ∧
    ((¬ on ∨ s.hubOn = true) → Idles .apronPowerLoss s) ∧
    (¬ on → ∃ bad : Bool, Does .apronPowerUp s
      -- (whether CALFLOOR is uncorrectable is a free value, drawn)
      (fun s => { s with
        fresh := s.fresh + 1
        apron := { s.apron with
          powered := true, calfloorBad := bad, count := if bad then 0 else (s.apron.calfloor + 4096) * 4096000000 }
        faults := { s.faults with islandLost := true } })
      [(APRON_STAT.CALVALID, 0), (APRON_STAT.INTOSC, 1), (APRON_STAT.SLOEOK, 0), counts s LIFE_STOPS.BLACKOUT 1]) ∧
    (on → Idles .apronPowerUp s) ∧
    -- the count
    (on → ∃ t : State, exec .calfloorSave s = .next t ∧ s.apron.count ≤ t.apron.count ∧
      t.apron.calfloor = t.apron.count / 4096000000 ∧ t.apron.calfloorBad = false ∧ t.fields = s.fields ∧ t.apron.keep = s.apron.keep) ∧
    (¬ on → Idles .calfloorSave s) ∧
    (on → s.power.phase = .run → s.fget SEAM_TODSTAT.VALID = 1 → ∃ t : State, exec .todSecondCapture s = .next t ∧
      t.tod % 4096000000 = 0 ∧ s.tod ≤ t.tod ∧ t.apron.count = t.tod ∧ t.fget APRON_STAT.CALVALID = 1) ∧
    ((¬ on ∨ s.power.phase ≠ .run ∨ s.fget SEAM_TODSTAT.VALID ≠ 1) → Idles .todSecondCapture s) ∧
    -- the trim, in units of 0.01 ppm
    (let runs := s.power.phase = .run ∧ s.fget POWER_STATE.CUR = 0 ∧ s.fget APRON_TRIM.AUTO = 1 ∧ s.fget APRON_STAT.SLOEOK = 1 ∧
        s.fget APRON_STAT.INTOSC ≠ 1 ∧ s.pins.refclk = true
     let shows := [(APRON_SLOEMEAS.ERROR, (err % 2 ^ 32).toNat), counts s APRON_SLOEMEAS.WINDOWS 1]
     (¬ runs → Idles (.trimWindowEnd err) s) ∧
     (runs → err.natAbs ≤ 10000 → Does (.trimWindowEnd err) s id ((APRON_TRIM.TRIM, (-err % 2 ^ 16).toNat) :: shows)) ∧
     (runs → 10000 < err.natAbs → Does (.trimWindowEnd err) s id ((APRON_STAT.SLOEBAD, 1) :: shows)
       (fun t => t.raiseC { loc := 3 * 2 ^ 60 + 4 * 2 ^ 56 + 0xFF * 2 ^ 48 + 0x1A * 2 ^ 40 }))) ∧
    -- the alarm
    (on → s.fget APRON_ALARM.EN = 1 → ∃ n fr u,
      Alters s u (fun s => { s with fresh := s.fresh + 2, apron := { s.apron with count := n, frac := fr } })
        [(APRON_STAT.ALARMHIT, 1), (APRON_ALARM.EN, 0)] ∧
      s.apron.count ≤ n ∧ s.fget APRON_ALARM.SECONDS * 4096000000 ≤ n ∧
      exec .alarmFire s = .next (if s.power.phase = .vault then u.vaultExit 2 else if s.power.phase = .run then u.wakeEvent 2 else u)) ∧
    ((¬ on ∨ s.fget APRON_ALARM.EN ≠ 1) → Idles .alarmFire s) ∧
    -- lifetime records
    (let band (t : Nat) : Nat := if t < 64 then 0 else if t ≤ 149 then 1 else if t ≤ 169 then 2 else if t ≤ 189 then 3
        else if t ≤ 204 then 4 else if t ≤ 214 then 5 else 6
     let minutes := (List.range 9).map fun g => counts s (LIFE_THERM.MINUTES g (band (temps.getD g 0))) 1
     let hours := counts s LIFE_POWERON.HOURS 1 ::
       (((List.range 48).filter fun k => s.chanUp (k / 2) && decide (s.fget (MC_STAT.SLOTS (k / 2)) / 2 ^ (k % 2) % 2 = 1)).map
         fun k => counts s (LIFE_DIMM1.HOURS k) 1) ++
       ((List.range 512).filter fun m => s.laneUp m).map fun m => counts s (LIFE_LANE0.HOURS m) 1
     (s.hubOn = true → Does (.lifeSample temps hour) s id (if hour then minutes ++ hours else minutes)) ∧
     (s.power.phase = .vault → Does (.lifeSample temps hour) s id
       (counts s (LIFE_VTHERM.MINUTES (band (temps.getD 7 0))) 1 :: if hour then [counts s LIFE_VAULT.HOURS 1] else [])) ∧
     (s.hubOn = false → s.power.phase ≠ .vault → Idles (.lifeSample temps hour) s)) ∧
    (let flushed : State := { s with apron := { s.apron with lifeFlushed := AMap.keep isLifeKey s.fields } }
     (s.hubOn = true → exec .lifeFlush s = .next flushed) ∧ (s.hubOn = false → Idles .lifeFlush s) ∧
     (s.power.phase = .run → exec .lifectlFlush s = .next flushed) ∧ (s.power.phase ≠ .run → Idles .lifectlFlush s)) ∧
    -- a blade pair in range again
    (∀ p, let back := s.power.phase = .run ∧ 32700 ≤ if p = 0 then a else b
      (back → ∃ t, Senses a b s t ∧ exec (.pairReturn p a b) s = .next t) ∧ (¬ back → Idles (.pairReturn p a b) s))

/-- R549, R585, R587, R593, R599 to R601: Unit resets, a Module reset asked for, image checks, restarts of the Tailor, and the
boot flash. -/
def Obligations.TailorResults : Prop :=
  ∀ (s : State) (num a : Nat) (w : Word) (pass : Bool), s.power.phase = .run →
    -- Unit resets
    (∀ i ∈ [Instr.unitrstPair num, .unitReset 1 num pass],
      (47 < num → Does i s id [(TAILOR_UNITRST.RESULT, 3)]) ∧
      (num ≤ 47 → s.fget (TAILOR_PHYS.STATE num) ≠ 0 → Does i s id [(TAILOR_UNITRST.RESULT, 2)]) ∧
      -- a serving pair retries: its routine is abandoned, its L1 caches are empty, its lock takes its reset values and its
      -- Damson the sealed stage
      (num ≤ 47 → s.fget (TAILOR_PHYS.STATE num) = 0 →
        let sealed := s.fget CSTORE_STAGECTL.SEALED = 1
        let d := if sealed then s.stageDamson else AMap.get {} s.core.damson num
        let v := if sealed then s.fget CSTORE_STAGECTL.VERSION % 2 ^ 16 else s.fget (CSTORE_VER.PATCH num)
        ∃ core : CoreState, AMap.get {} core.damson num = d ∧ AMap.get none core.routines num = none ∧
          { core with damson := s.core.damson, routines := s.core.routines } = s.core ∧
          Does i s (fun s => { s with
              core := core, mem := { s.mem with l1 := AMap.keep (fun k => k / 2 ^ 9 ≠ num) s.mem.l1 } })
            [(CSTORE_VER.PATCH num, v), (WEFT_LOCK.LASTGRP num, 0), (WEFT_LOCK.COUNT num, 0), (WEFT_LOCK.LASTCTX num, 0),
              (TAILOR_UNITRST.RESULT, 1)])) ∧
    (∀ i ∈ [Instr.unitrstLane num, .unitReset 2 num pass],
      (512 ≤ num → Does i s id [(TAILOR_UNITRST.RESULT, 3)]) ∧
      (num < 512 → ∃ t : State, exec i s = .next t ∧ t.fget TAILOR_UNITRST.RESULT = 1 ∧
        t.fget (LANE_FSN.TXNEXT num) = s.fget (LANE_FSN.TXNEXT num) % 2 ^ 32 ∧
        t.fget (LANE_FSN.RXNEXT num) = s.fget (LANE_FSN.RXNEXT num) % 2 ^ 32 ∧
        (∀ f ∈ LANE_CTL.fields num, f.rM = .boot → t.fget f = s.cfgValue f) ∧
        t.fget (LANE_STAT.STATE num) = (if s.cfgValue (LANE_CTL.EN num) = 1 then 1 else 0) ∧
        (t.lane num).codeLock = false ∧ (t.lane num).markerLock = false)) ∧
    (num < 32 → Does (.unitReset 3 num pass) s
      (fun s => { s with eng := { s.eng with pleatFails := AMap.erase num s.eng.pleatFails } })
      [(PLEAT_ENG.STATE num, if pass then 0 else 2), fits PLEAT_STAT.ENGUP (setBitNat (s.fget PLEAT_STAT.ENGUP) num pass)]) ∧
    (num < 64 → Does (.unitReset 4 num pass) s
      (fun s => { s with eng := { s.eng with cloakFails := AMap.erase num s.eng.cloakFails } })
      [(CLOAK_LANE.STATE num, if pass then 0 else 2), fits CLOAK_LANEUP.LANEUP (setBitNat (s.fget CLOAK_LANEUP.LANEUP) num pass)]) ∧
    (∀ kind, kind = 0 ∨ 4 < kind → Does (.unitReset kind num pass) s id [(TAILOR_UNITRST.RESULT, 4)]) ∧
    -- RESETCTL
    (let go := w.toNat % 4 = 1 ∧ w.toNat / 2 ^ 8 % 2 ^ 8 = 0xA5
     (go → ∃ t, exec (.resetctl w) s = .next t ∧ ResetLeaves false 4 s t) ∧ (¬ go → Idles (.resetctl w) s)) ∧
    -- IMGCHK
    (∀ type, type < 8 →
      let at_ := a % 2 ^ 52 / 64 * 64
      (∀ u, s.imgRead tailorHub at_ 50331648 = (u, none) → ∃ t, Alters u t id [(TAILOR_IMGRES.RESULT, 2)] ∧
        exec (.imgchk a type) s = .next t) ∧
      (∀ u b, s.imgRead tailorHub at_ 50331648 = (u, some b) →
        let r := u.imgCheck b 50331648 type
        let fmt := match (if r = 1 ∨ 5 ≤ r then imgTriad b else none) with
          | some v => v.2
          | none => 0
        ∃ t, Alters u t (fun u => if r = 1 then { u with tailor := { u.tailor with imgOk := AMap.set 0 u.tailor.imgOk type (at_ + 1) } } else u)
          [fits TAILOR_IMGRES.RESULT r, fits TAILOR_IMGRES.VERSION (imgVersion b), fits TAILOR_IMGRES.STATEFMT fmt] ∧
          exec (.imgchk a type) s = .next t)) ∧
    -- a restart into another image
    (let at_ := a % 2 ^ 52 / 64 * 64
     let addr := fits TAILOR_TFWCTL.ADDR (at_ / 64)
     let busy := s.fget TAILOR_TFWSTAT.BUSY = 1
     let known := AMap.get 0 s.tailor.imgOk 5 = at_ + 1
     let moving := ∃ p, p < 48 ∧ s.fget (TAILOR_PHYS.STATE p) = 3
     (busy → Does (.tfwRestart a) s id [addr, (TAILOR_TFWSTAT.RESULT, 5)]) ∧
     (¬ busy → ¬ known → Does (.tfwRestart a) s id [addr, (TAILOR_TFWSTAT.RESULT, 2)]) ∧
     (¬ busy → known → moving → Does (.tfwRestart a) s id [addr, (TAILOR_TFWSTAT.RESULT, 3)]) ∧
     (¬ busy → known → ¬ moving → Does (.tfwRestart a) s
       (fun s => { s with tailor := { s.tailor with restartAt := at_ } }) [addr, (TAILOR_TFWSTAT.BUSY, 1)])) ∧
    (∀ fails, ∀ i ∈ [Instr.tfwReady fails, .quiesceTimeout fails],
      (s.fget TAILOR_TFWSTAT.BUSY ≠ 1 → Idles i s) ∧
      (s.fget TAILOR_TFWSTAT.BUSY = 1 → ∀ u im, s.imgRead tailorHub s.tailor.restartAt 8388608 = (u, im) →
        let whole (b : List Nat) : Prop := imgHeaderOk b 8388608 = true ∧ imgTableOk b = true ∧ imgCrcOk b = true
        (∀ b, im = some b → fails = 0 → whole b →
          ∃ t, Alters u t (fun u => { u with tailor := { u.tailor with exec := execArea b, alt := u.tailor.cur, cur := b } })
            [(TAILOR_TFWSTAT.BUSY, 0), (TAILOR_TFWSTAT.RESULT, 1)] ∧ exec i s = .next t.tailorRuns) ∧
        ((∀ b, im = some b → fails ≠ 0 ∨ ¬ whole b) →
          ∃ t, Alters u t id [(TAILOR_TFWSTAT.BUSY, 0), (TAILOR_TFWSTAT.RESULT, 4)] ∧
            exec i s = .next (if fails = 2 then t.tailorLost else t.tailorFromCur true)))) ∧
    (s.tailorFromCur true = ({ s with tailor := { s.tailor with exec := execArea s.tailor.cur } } : State).tailorRuns) ∧
    -- the Tailor runs: a pass that the restart ended starts as one full pass; the moves, then the rejoin that waited go on
    (∃ v, Alters s v id (if s.fget TAILOR_ROLLSTAT.BUSY = 1 then [(TAILOR_ROLLSTAT.AGAIN, 0)] else []) ∧
      s.tailorRuns = v.movesHeld.movesEnded.rejoinHeld) ∧
    (let v := s.look
     let u : State := { v with tailor := { v.tailor with lastFail := v.tod + 1 } }
     s.tailorFromCur false = if s.tailor.lastFail ≠ 0 ∧ v.tod < s.tailor.lastFail - 1 + 4096000000 then u.tailorLost else u) ∧
    (let t := s.tailorLost
     t.fget FAULT_MINSET.MINSET / 4 % 2 = 1 ∧ t.fget FAULT_STAT.FSTATE = 1) ∧
    -- the flash takes one command at a time
    (∀ p ∈ [(1, Instr.flashErase a), (2, .flashProgram a), (3, .flashRead a)],
      (s.fget TAILOR_FLASHCMD.BUSY = 1 → Does p.2 s id [(TAILOR_FLASHCMD.RESULT, 2)]) ∧
      (s.fget TAILOR_FLASHCMD.BUSY ≠ 1 → Does p.2 s
        (fun s => { s with tailor := { s.tailor with flashOp := some (p.1, a % 2 ^ 32 / 256 * 256, s.fget TAILOR_FLASHSRC.ADDR * 256) } })
        [(TAILOR_FLASHCMD.BUSY, 1)])) ∧
    (s.tailor.flashOp = none → ∀ e, Idles (.flashDone e) s) ∧
    (∀ op at_ src, s.tailor.flashOp = some (op, at_, src) → op = 1 ∨ op = 2 ∨ op = 3 → ∀ e, ∃ t : State,
      exec (.flashDone e) s = .next t ∧ t.tailor.flashOp = none ∧ t.fget TAILOR_FLASHCMD.BUSY = 0 ∧
      t.fget TAILOR_FLASHCMD.RESULT = (if e then 3 else 1) ∧
      (op = 1 → (∀ i, i / 65536 = at_ / 65536 → e = false → t.flashByte i = 0xFF) ∧
        (∀ i, i / 65536 ≠ at_ / 65536 → t.flashByte i = s.flashByte i)) ∧
      (op = 2 → (e = false → ∀ i, i < 256 →
          t.flashByte (at_ + i) = s.flashByte (at_ + i) &&& (((s.hubRead tailorHub src 256).2.1).getD i 0).toNat) ∧
        (∀ i, (i < at_ ∨ at_ + 256 ≤ i) → t.flashByte i = s.flashByte i)) ∧
      (op = 3 → (∀ i, t.flashByte i = s.flashByte i) ∧ (e = false → t.mem =
        (s.opWrite tailorHub src ((List.range 256).map fun i => BitVec.ofNat 8 (s.flashByte (at_ + i)))).1.mem)))

/-- R80, R81, R335, R386, R393, R554, R586, R589 to R592, R598: the boot: its exits at steps 1 to 5, and what steps 7, 8, 9 and 11
do. -/
def Obligations.BootResults : Prop :=
  ∀ (s : State) (e : BootEnv), s.sparesFit e = true →
    (s.power.phase ≠ .coldReset → s.power.phase ≠ .moduleReset → Idles (.bootSequence e) s) ∧
    (s.power.phase = .moduleReset → s.pins.resetN = false → Idles (.bootSequence e) s) ∧
    (s.power.phase = .coldReset → s.power.coldest < 24 → Idles (.bootSequence e) s) ∧
    (s.power.phase = .coldReset → 24 ≤ s.power.coldest → s.pins.resetN = false →
      ∃ u t, Alters s u
          (fun s => { s with pins := { s.pins with bootSel := e.bootSel % 4, vaultAllow := e.vaultAllow, ftmN := e.ftmN } })
          [fits SEAM_STAT.SELF e.seamId, (TAILOR_DBGCTL.SERVICE, if e.bootSel % 4 = 3 then 1 else 0)] ∧
        exec (.bootSequence e) s = .next t ∧ ResetLeaves false 3 u t) ∧
    (let cold := s.power.phase = .coldReset ∧ 24 ≤ s.power.coldest
     (cold ∨ s.power.phase = .moduleReset) → s.pins.resetN = true →
      let ftm := if s.power.phase = .coldReset then e.ftmN else s.pins.ftmN
      let sel := if s.power.phase = .coldReset then e.bootSel % 4 else s.pins.bootSel
      let r (i : Nat) : Nat := (s.bootImage e i).2
      let tried := if sel = 1 then [1, 0] else if sel = 2 then [0] else [0, 1]
      let three := ftm = true ∧ e.collector = true ∧ e.refclk = true ∧ e.tailor = true
      let ends (step : Nat) (ph : Phase) (also : State → Prop) : Prop := ∃ t : State, exec (.bootSequence e) s = .next t ∧
        t.power.phase = ph ∧ t.fget TAILOR_BOOTSTAT.STEP = step ∧ t.fget TAILOR_RESETSTAT.CAUSE = s.power.cause % 16 ∧
        t.fget TAILOR_RESETSTAT.KIND = (if s.power.module then 1 else 0) ∧ t.pins.hiZ = false ∧ also t
      ((ftm = false ∨ e.collector = false) → ends 1 .bootFailed fun t => t.pins.failN = false) ∧
      (ftm = true → e.collector = true → e.refclk = false → ends 2 .lockWait fun t => t.pins.failN = false) ∧
      (ftm = true → e.collector = true → e.refclk = true → e.tailor = false →
        ends 3 .bootFailed fun t => t.pins.failN = false ∧ t.fget FAULT_MINSET.MINSET / 4 % 2 = 1) ∧
      -- no image passes
      (three → (∀ i ∈ tried, r i ≠ 1) → sel ≠ 3 → ends 4 .bootFailed fun t => t.pins.failN = false ∧
        (0 ∈ tried → t.fget TAILOR_BOOTSTAT.RESULTA = r 0 % 16) ∧ (1 ∈ tried → t.fget TAILOR_BOOTSTAT.RESULTB = r 1 % 16)) ∧
      -- a service boot serves without an image
      (three → (∀ i ∈ tried, r i ≠ 1) → sel = 3 → ends 4 .service fun t =>
        t.fget TAILOR_BOOTSTAT.RESULTA = r 0 % 16 ∧ t.fget TAILOR_BOOTSTAT.RESULTB = r 1 % 16 ∧
        (s.power.phase = .coldReset → t.fget SEAM_STAT.SELF = e.seamId % 4 ∧ t.fget TAILOR_DBGCTL.SERVICE = 1))) ∧
    -- step 7: the members that vote, the next TSN at the ceiling
    (let good := (List.range 3).filter fun m => e.members / 2 ^ m % 2 = 1
     let n := good.length
     (n < 2 → (s.boot7 e).2 = false ∧ (s.boot7 e).1.power.phase = .bootFailed ∧ (s.boot7 e).1.fget FAULT_MINSET.MINSET / 8 % 2 = 1) ∧
     (2 ≤ n → (s.boot7 e).2 = true ∧ (s.boot7 e).1.triad.inStep = good ∧ (s.boot7 e).1.fget TRIAD_STAT.MODE = (if n = 3 then 0 else 1) ∧
       (s.boot7 e).1.fget HEM_TSNNEXT.TSNNEXT = s.tsnOf (max 1 (s.kget HEM_TSNCEIL.TSNCEIL)) % 2 ^ 64 ∧
       ((s.keepMeta 1).uncorr = false → (s.keepMeta 1).count < keepRating →
         (s.boot7 e).1.fget HEM_TSNCEIL.TSNCEIL = (s.fget HEM_TSNCEIL.TSNCEIL + 2 ^ 32) % 2 ^ 64))) ∧
    -- step 8: with every pair good, pair k serves slot k, and the fused spares are SPARE
    (e.pairsBad = [] → (∀ p, p < 48 → s.kget (TAILOR_PHYS.FAILREC p) ≠ 1) → s.tailor.patch = [] → (∃ k, k < 48 ∧ k ∉ e.spares) →
      (s.boot8 e).2 = true ∧ ∀ k, k < 48 →
        (k ∉ e.spares → (s.boot8 e).1.fget (TAILOR_SLOT.SERVING k) = 1 ∧ (s.boot8 e).1.fget (TAILOR_SLOT.PHYS k) = k ∧
          (s.boot8 e).1.fget (TAILOR_PHYS.STATE k) = 0 ∧ (s.boot8 e).1.pk (16 * k + 15) = 1) ∧
        (k ∈ e.spares → (s.boot8 e).1.fget (TAILOR_PHYS.STATE k) = 1)) ∧
    -- step 9: without a DIMM in service there is no service
    (e.dimms = [] → (∀ ch, ch < 24 → s.fget (MC_STAT.STATE ch) = 0) → (s.boot9 e).2 = false ∧
      (s.boot9 e).1.power.phase = .bootFailed ∧ (s.boot9 e).1.fget FAULT_MINSET.MINSET / 128 % 2 = 1) ∧
    -- step 11: with the minimum set, doorbells land and READY is high
    (let m := s.updMinset
     (m.fget FAULT_MINSET.MINSET = 0 → s.boot11.1.fget TRIAD_STAT.ACCEPTING = 1 ∧
       (m.pins.hiZ = false → m.power.phase = .run → m.fget TAILOR_BOOTSTAT.STEP = 11 → s.boot11.1.pins.ready = true)) ∧
     (m.fget FAULT_MINSET.MINSET ≠ 0 → s.boot11.1.pins.ready = false ∧ (s.pins.hiZ = false → s.boot11.1.pins.failN = false)))

/-! ### Registers -/

/-- R572 to R576: a write of a Keep entry. An equal value is not performed; a rated or uncorrectable entry refuses, with a
corrected event; a write counts, and the one that reaches 9,000,000,000 says so once. An uncorrectable entry reads 0. -/
def Obligations.KeepWrites : Prop :=
  ∀ (s : State) (f : Field) (e v k : Nat) (w : Word), keepEntry f = some e →
    let m := s.keepMeta e
    let x := v % 2 ^ f.width
    let rec_ : FaultRec := { loc := 3 * 2 ^ 60 + 4 * 2 ^ 56 + 0xFF * 2 ^ 48 + 0x1A * 2 ^ 40, d2 := e }
    let puts (n : KeepMeta) (s : State) : State := { s with apron := { s.apron with keep := AMap.set {} s.apron.keep e n } }
    let near := m.near = false ∧ 9000000000 ≤ m.count + 1
    (m.uncorr = false → s.fget f = x → s.keepWrite f v = (s, true)) ∧
    ((m.uncorr = true ∨ (s.fget f ≠ x ∧ 10000000000 ≤ m.count)) →
      ∃ t, Alters s t id [(APRON_STAT.REFUSED, 1), fits APRON_KEEPSTAT.LASTREF e] ∧ s.keepWrite f v = (t.raiseC rec_, false)) ∧
    (m.uncorr = false → s.fget f ≠ x → m.count < 10000000000 →
      (¬ near → ∃ t, Alters s t (puts { m with count := m.count + 1 }) [(f, x)] ∧ s.keepWrite f v = (t, true)) ∧
      (near → ∃ t, Alters s t (puts { m with count := m.count + 1, near := true })
        [(f, x), (APRON_KEEPSTAT.NEAR, 1), fits APRON_KEEPSTAT.NEARENT e] ∧ s.keepWrite f v = (t.raiseC rec_, true))) ∧
    s.kget f = (if m.uncorr then 0 else s.fget f) ∧
    (s.power.phase = .run → k < 1024 →
      exec (.keepWrite k w) s = .next (s.keepWrite (APRON_KEEPFW.VALUE k) w.toNat).1) ∧
    (s.power.phase ≠ .run ∨ 1024 ≤ k → Idles (.keepWrite k w) s)

/-- A register whose write does more than set its fields. -/
def Sys2Proof.Safety.actsOnWrite (o : Nat) : Bool :=
  [0x20, 0x50, 0x11000, 0x12000, 0x13000, 0x13018, 0x13028, 0x13038, 0x13040, 0x20008, 0x20010, 0x20018, 0x20028, 0x20050,
    0x30008, 0x30010, 0x80010, 0x80040, 0x180008, 0x190010, 0x1A0018, 0x1A0040, 0x1A0070, 0x1B0000, 0x1B0038, 0x1B0048,
    0x1B0020].contains o ||
  decide (0x40000 ≤ o ∧ o < 0x80000) || decide (0xA0000 ≤ o ∧ o < 0x100000) ||
  decide (0x100000 ≤ o ∧ o < 0x140000 ∧ o % 1024 = 0x28) || decide (0x140000 ≤ o ∧ o < 0x180000 ∧ (o % 512 = 0 ∨ o % 512 = 0x10)) ||
  decide (0x180100 ≤ o ∧ o < 0x180700) || decide (0x190100 ≤ o ∧ o < 0x190200) || decide (0x1A0050 ≤ o ∧ o < 0x1A0300) ||
  decide (0x1B0100 ≤ o ∧ o < 0x1B0180 ∧ o % 32 = 0) || decide (0x1B1000 ≤ o)

/-- R14 to R18, R230, R241, R349, R618 to R623: who reaches a register of the control window, what a write sets, and what a
read does. -/
def Sys2Proof.Safety.RegisterAccesses : Prop :=
  ∀ (s : State) (c o : Nat) (w : Word), s.power.phase = .run → c < 768 → o < 2 ^ 23 →
    let fw := c % 16 = 15
    let n := (o - 0x200000) / 1024
    let own := 0x200000 ≤ o ∧ o < 0x240000 ∧ s.partOf c = some n
    let bad := o % 8 ≠ 0 ∨ reservedOff o = true
    let wr := Instr.registerWrite c o w
    let rd := Instr.rsRead c o
    let faults (i : Instr) : Prop := exec i s = .next (s.ctxFault c (controlBase + o))
    let mine := [0x20, 0x28, 0x30, 0x40, 0x50, 0x58, 0x60, 0x68, 0x78, 0x90]
    -- the access comes after the context's posted stores to the same block
    (let v := s.devOwn c (· == devBlock (controlBase + o))
     exec wr s = .next (v.winWrite (v.rights c) c o 8 w) ∧ exec rd s = .next (v.winRead (v.rights c) c o 8).1) ∧
    ((∀ d ∈ s.core.devq, d.ctx = c → devBlock d.mp ≠ devBlock (controlBase + o)) →
    -- a misformed access, and one without the right, faults
    (bad → faults wr ∧ faults rd) ∧
    (¬ bad → ¬ fw → ¬ own → faults wr ∧ faults rd) ∧
    (¬ bad → ¬ fw → own → regFields o ≠ [] → o % 1024 ∉ mine → faults wr) ∧
    -- nothing answers
    (¬ bad → fw → s.offOut o = true → Idles wr s ∧ Idles rd s) ∧
    (¬ bad → (fw ∨ own) → regFields o = [] → mapOff o = o → Idles wr s ∧ Idles rd s) ∧
    -- a write of plain fields
    (¬ bad → fw → s.offOut o = false → o < 0x1C0000 → actsOnWrite o = false → (∀ f ∈ regFields o, f.acc ≠ .rwk) →
      Does wr s id ((regFields o).filterMap fun f =>
        let v := w.toNat / 2 ^ f.lo % 2 ^ f.width
        match f.acc with
        | .rw => some (f, v)
        | .w1c => if v = 0 then none else some (f, 0)
        | .w1s => if v = 0 then none else some (f, v)
        | _ => none)) ∧
    -- reads: a claim, the calendar, and registers that a read clears
    (¬ bad → (fw ∧ o = 0x40018 ∨ own ∧ o % 1024 = 0x48) → exec rd s = .next (s.claim c).1) ∧
    (fw → o = 0x18 → ∃ t : State, exec rd s = .next t ∧ s.apron.count ≤ t.apron.count ∧ t.fields = s.fields) ∧
    (let clears := ((regFields o).filter fun f => f.acc == .rs).map fun f => (f, 0)
     let chan := 0x100000 ≤ o ∧ o < 0x140000 ∧ o % 1024 = 8
     let timed := o = 0x20000 ∨ (0x80018 ≤ o ∧ o < 0x80030) ∨ chan
     (¬ bad → fw → s.offOut o = false → o < 0x1C0000 → o ≠ 0x40018 → o ≠ 0x18 → o ≠ 0x20030 → (o < 0x50000 ∨ 0x69800 ≤ o) →
       ¬ timed → Does rd s id clears) ∧
     (fw → o = 0x20030 → Does rd s (fun s => { s with faults := { s.faults with lostNoted := false } }) clears) ∧
     -- what the time changes in a register is seen at the read: QUIETLEFT, WAITLEFT, DISSENTS
     (fw → o = 0x20000 →
       (s.fget FAULT_STAT.QUIETLEFT ≤ 1 → Does rd s id clears) ∧
       (1 < s.fget FAULT_STAT.QUIETLEFT → ∃ q, 1 ≤ q ∧ q ≤ s.fget FAULT_STAT.QUIETLEFT ∧
         Does rd s (fun s => { s with fresh := s.fresh + 1 }) ((FAULT_STAT.QUIETLEFT, q) :: clears))) ∧
     (let k := (o - 0x100000) / 1024
      let waits := s.fget (CHAN_RINGSTAT.ATTACH k) = 1 ∧ s.fget (CHAN_RINGCTL.REATTACH k) ≠ 0xFFFF
      fw → chan → (¬ waits → Does rd s id clears) ∧
        (waits → ∃ q, q ≤ s.fget (CHAN_RINGSTAT.WAITLEFT k) ∧
          Does rd s (fun s => { s with fresh := s.fresh + 1 }) ((CHAN_RINGSTAT.WAITLEFT k, q) :: clears))) ∧
     (∀ m, m < 3 → fw → o = 0x80018 + 8 * m → ∃ t : State, exec rd s = .next t ∧ s.tod ≤ t.tod ∧
       t.fget (TRIAD_MEMBER.DISSENTS m) =
         min 255 ((AMap.get [] s.triad.ejections m).filter fun x => t.tod < x + 3600 * 4096000000).length)))

/-- R14, R230, R350, R621: a write to a command's register does what the command does. -/
def Sys2Proof.Safety.RegisterCommands : Prop :=
  ∀ (s : State) (c n m r : Nat) (w : Word), s.power.phase = .run → c < 768 → c % 16 = 15 →
    AMap.get false s.mem.portOut (m / 256) = false → (∀ d ∈ s.core.devq, d.ctx ≠ c) →
    let op := w.toNat % 4
    let act (o : Nat) (i : Instr) : Prop := exec (.registerWrite c o w) s = exec i s
    act 0x20028 (.logack w) ∧ (op = 1 → act 0x20010 .faultResume) ∧
    (w.toNat % 2 = 1 → act 0x20050 (.replay w.toNat)) ∧
    act 0x13000 (.resetctl w) ∧ (w.toNat % 2 = 1 → act 0x13018 (.imgchk w.toNat (w.toNat / 8 % 8))) ∧
    act 0x190010 (.pleatFwsub c w) ∧ act 0x1A0018 (.cloakFwsub c w) ∧ (op = 1 → act 0x1A0040 .rootAdd) ∧
    (op = 3 → act 0x1A0040 .rootClear) ∧ (w.toNat / 2 ^ 16 % 4 = 1 → act 0x1A0070 (.slotLoad w.toNat)) ∧
    act 0x1B0020 (.todset w) ∧ act 0x40000 (.gdisWrite (w.toNat % 2 = 1)) ∧ act 0x40010 (.collarSend c w.toNat) ∧ act 0x40020 (.collarFweos c w.toNat) ∧
    (op = 2 → act 0x80010 (.triadEject (w.toNat / 16 % 4))) ∧
    (w.toNat / 2 ^ 33 = 0 → w.toNat / 2 ^ 32 % 2 = 1 → act 0x13040 (.flashErase w.toNat)) ∧
    (r < 4096 → (op = 1 → act (0xC0038 + 64 * r) (.ringBind r)) ∧ (op = 2 → act (0xC0038 + 64 * r) (.ringUnbind r)) ∧
      (op = 3 → act (0xC0038 + 64 * r) (.ringResume r))) ∧
    (n < 256 → (op = 1 → act (0x100028 + 1024 * n) (.chanDual n)) ∧ (op = 2 → act (0x100028 + 1024 * n) (.chanSplit n)) ∧
      (op = 3 → act (0x100028 + 1024 * n) (.chanTake n)) ∧ act (0x200068 + 1024 * n) (.pleatsub c n w) ∧
      act (0x200078 + 1024 * n) (.cloaksub c n w) ∧ act (0x200090 + 1024 * n) (.faultsigWrite c n w) ∧
      act (0x200040 + 1024 * n) (.ltrWrite false n w) ∧ act (0x200058 + 1024 * n) (.partColsend c n w.toNat) ∧
      act (0x200050 + 1024 * n) (.partEos c n w.toNat)) ∧
    (m < 512 → (w.toNat % 8 = 1 → act (0x140010 + 512 * m) (.laneRetrain m)) ∧
      (w.toNat % 8 = 2 → act (0x140010 + 512 * m) (.laneRecal m)) ∧
      (w.toNat % 8 = 3 → act (0x140010 + 512 * m) (.laneDownCmd m)) ∧ (w.toNat % 8 = 4 → act (0x140010 + 512 * m) (.snap m))) ∧
    -- where the command has an outcome that the write does not carry, either may come
    (∀ u, u < 32 → w.toNat / 2 ^ 8 % 4 = 1 → ∃ pass, exec (.registerWrite c (0x190100 + 8 * u) w) s =
      exec (.pleatEngReset u pass) { s with fresh := s.fresh + 1 }) ∧
    (∀ u, u < 64 → w.toNat / 2 ^ 8 % 4 = 1 → ∃ pass, exec (.registerWrite c (0x1A0100 + 8 * u) w) s =
      exec (.cloakLaneReset u pass) { s with fresh := s.fresh + 1 }) ∧
    (op = 2 → ∃ good, exec (.registerWrite c 0x1A0040 w) s =
      exec (.rootLock (w.toNat / 2 ^ 8 % 2 ^ 24) good) { s with fresh := s.fresh + 1 })

/-- Together: accesses to registers, and registers that are commands. -/
def Obligations.RegisterAccess : Prop :=
  RegisterAccesses ∧ RegisterCommands

/-! ### The module as a whole -/

/-- A step runs the command at the front of the queue with the queue's rest; on an empty queue the module idles, and its stores that
wait to be performed go on (the model's choice, log entries 13 and 31). -/
def Obligations.StepRunsFrontCommand : Prop :=
  ∀ (s : State), (∀ c rest, s.pending = c :: rest → step s = exec c { s with pending := rest }) ∧
    (s.pending = [] → step s = .next s.idle) ∧ (s.mem.sbuf = [] → s.core.devq = [] → s.idle = s)

/-- No command stops the model: from every state every command answers a next state, so every step is safe. -/
def Obligations.EveryCommandAnswers : Prop :=
  (∀ (i : Instr) (s : State), ∃ t, exec i s = .next t) ∧ ∀ s : State, SafeStep s

/-- Every step takes exactly the front command: no command puts one into the queue, drops one or reorders them. -/
def Obligations.StepKeepsQueue : Prop :=
  ∀ s t : State, step s = .next t → t.pending = s.pending.tail

/-- Every step keeps the canonical form of memory: DRAM, both Hem dies, the dirty bytes of L3 and of the caches, and the window
bytes in flight. -/
def Obligations.MemoryStaysCanonical : Prop :=
  ∀ s t : State, Memory.wf s.mem = true → step s = .next t → Memory.wf t.mem = true

/-- R12: after reset every register field whose Cold entry is a number reads that number, no command waits, and memory lists
nothing and is canonical. That the queue is empty and that memory reads as zero where nothing is listed is the model's choice
(log entries 13, 8 and 9). -/
def Obligations.ResetValues : Prop :=
  (∀ (f : Field) (n : Nat), fieldAt f.key = some f → f.rC = .num n → State.reset.fget f = n) ∧
  State.reset.pending = [] ∧ Memory.wf State.reset.mem = true ∧ State.reset.mem = {} ∧ State.reset.power.phase = .coldReset

/-- R619 to R622: every register is at one offset of the control window, aligned to eight bytes, its fields do not overlap and
lie in its 64 bits, and a field's key names it alone. -/
def Obligations.RegisterMap : Prop :=
  ∀ o, regFields o ≠ [] → o % 8 = 0 ∧ o < 2 ^ 23 ∧ reservedOff o = false ∧
    (∀ f ∈ regFields o, f.off = o ∧ f.lo ≤ f.hi ∧ f.hi < 64 ∧ fieldAt f.key = some f) ∧
    (regFields o).Pairwise fun f g => g.hi < f.lo
end

