-- ==== Sys2Proof/Laws/AMap.lean ====
section
/-! SUPPORT. The laws of sparse arrays: a read after a write, and that every operation keeps the canonical form. -/

namespace Sys2Proof.Machine

variable {α : Type}

@[simp] theorem AMap.find?_nil (k : Nat) : AMap.find? k ([] : AMap α) = none := rfl

theorem AMap.find?_erase_same (k : Nat) (m : AMap α) : AMap.find? k (AMap.erase k m) = none := by
  induction m with
  | nil => rfl
  | cons e m ih =>
    obtain ⟨j, v⟩ := e
    by_cases h : j = k
    · simp [AMap.erase, h, ih]
    · simp [AMap.erase, AMap.find?, h, ih]

theorem AMap.find?_erase_ne {k j : Nat} (h : j ≠ k) (m : AMap α) :
    AMap.find? j (AMap.erase k m) = AMap.find? j m := by
  induction m with
  | nil => rfl
  | cons e m ih =>
    obtain ⟨i, v⟩ := e
    by_cases hi : i = k
    · have hij : ¬ i = j := fun e => h (e ▸ hi)
      simp [AMap.erase, AMap.find?, hi ▸ hij, hi, ih]
    · simp [AMap.erase, AMap.find?, hi, ih]

theorem AMap.find?_insert_same (k : Nat) (v : α) (m : AMap α) (h : AMap.find? k m = none) :
    AMap.find? k (AMap.insert k v m) = some v := by
  induction m with
  | nil => simp [AMap.insert, AMap.find?]
  | cons e m ih =>
    obtain ⟨i, w⟩ := e
    have hi : ¬ i = k := by intro e; simp [AMap.find?, e] at h
    have hm : AMap.find? k m = none := by simpa [AMap.find?, hi] using h
    by_cases hk : k < i
    · simp [AMap.insert, AMap.find?, hk]
    · simp [AMap.insert, AMap.find?, hk, hi, ih hm]

theorem AMap.find?_insert_ne {k j : Nat} (hj : j ≠ k) (v : α) (m : AMap α) :
    AMap.find? j (AMap.insert k v m) = AMap.find? j m := by
  induction m with
  | nil => simp [AMap.insert, AMap.find?, Ne.symm hj]
  | cons e m ih =>
    obtain ⟨i, w⟩ := e
    by_cases hk : k < i
    · simp [AMap.insert, AMap.find?, hk, Ne.symm hj]
    · simp only [AMap.insert, hk, if_false, AMap.find?, ih]

theorem AMap.get_erase_same (d : α) (m : AMap α) (k : Nat) : AMap.get d (AMap.erase k m) k = d := by
  simp [AMap.get, AMap.find?_erase_same]

theorem AMap.get_erase_ne (d : α) (m : AMap α) {k j : Nat} (h : j ≠ k) :
    AMap.get d (AMap.erase k m) j = AMap.get d m j := by
  simp [AMap.get, AMap.find?_erase_ne h]

variable [DecidableEq α]

/-- A read after a write to the same key gives the value written. -/
@[simp] theorem AMap.get_set_same (d : α) (m : AMap α) (k : Nat) (v : α) : AMap.get d (AMap.set d m k v) k = v := by
  unfold AMap.set
  split
  · next h => simp [AMap.get_erase_same, h]
  · simp [AMap.get, AMap.find?_insert_same k v _ (AMap.find?_erase_same k m)]

/-- A write leaves every other key alone, whatever an unlisted key reads as. -/
theorem AMap.get_set_ne (d d' : α) (m : AMap α) {k j : Nat} (v : α) (h : j ≠ k) :
    AMap.get d' (AMap.set d m k v) j = AMap.get d' m j := by
  unfold AMap.set
  split
  · exact AMap.get_erase_ne d' m h
  · simp [AMap.get, AMap.find?_insert_ne h, AMap.find?_erase_ne h]

/-- A read after a write, both cases. -/
theorem AMap.get_set (d : α) (m : AMap α) (k j : Nat) (v : α) :
    AMap.get d (AMap.set d m k v) j = if j = k then v else AMap.get d m j := by
  by_cases h : j = k
  · simp [h]
  · simp [h, AMap.get_set_ne d d m v h]

omit [DecidableEq α] in
@[simp] theorem AMap.get_nil (d : α) (k : Nat) : AMap.get d ([] : AMap α) k = d := rfl

/-! ### The canonical form -/

omit [DecidableEq α] in
theorem AMap.risesFrom_mono {a b : Nat} (h : a ≤ b) (m : AMap α) (hb : AMap.risesFrom b m = true) :
    AMap.risesFrom a m = true := by
  cases m with
  | nil => rfl
  | cons e m =>
    obtain ⟨j, v⟩ := e
    simp only [AMap.risesFrom, Bool.and_eq_true, decide_eq_true_eq] at hb ⊢
    exact ⟨h.trans hb.1, hb.2⟩

omit [DecidableEq α] in
theorem AMap.risesFrom_filter (p : Nat × α → Bool) (m : AMap α) (a : Nat) (h : AMap.risesFrom a m = true) :
    AMap.risesFrom a (m.filter p) = true := by
  induction m generalizing a with
  | nil => rfl
  | cons e m ih =>
    obtain ⟨j, v⟩ := e
    simp only [AMap.risesFrom, Bool.and_eq_true, decide_eq_true_eq] at h
    by_cases hp : p (j, v)
    · simp only [List.filter_cons, hp, if_true, AMap.risesFrom, Bool.and_eq_true, decide_eq_true_eq]
      exact ⟨h.1, ih _ h.2⟩
    · simp only [List.filter_cons, hp]
      exact AMap.risesFrom_mono (by omega) _ (ih _ h.2)

omit [DecidableEq α] in
theorem AMap.erase_eq_filter (k : Nat) (m : AMap α) : AMap.erase k m = m.filter (fun e => decide (e.1 ≠ k)) := by
  induction m with
  | nil => rfl
  | cons e m ih =>
    obtain ⟨j, v⟩ := e
    by_cases h : j = k <;> simp [AMap.erase, h, ih]

omit [DecidableEq α] in
theorem AMap.risesFrom_insert {a k : Nat} (v : α) (m : AMap α) (hk : a ≤ k) (h : AMap.risesFrom a m = true)
    (hn : AMap.find? k m = none) : AMap.risesFrom a (AMap.insert k v m) = true := by
  induction m generalizing a with
  | nil => simp [AMap.insert, AMap.risesFrom, hk]
  | cons e m ih =>
    obtain ⟨j, w⟩ := e
    simp only [AMap.risesFrom, Bool.and_eq_true, decide_eq_true_eq] at h
    have hj : ¬ j = k := by intro e; simp [AMap.find?, e] at hn
    have hm : AMap.find? k m = none := by simpa [AMap.find?, hj] using hn
    by_cases hl : k < j
    · simp only [AMap.insert, hl, if_true, AMap.risesFrom, Bool.and_eq_true, decide_eq_true_eq]
      exact ⟨hk, hl, h.2⟩
    · simp only [AMap.insert, hl, if_false, AMap.risesFrom, Bool.and_eq_true, decide_eq_true_eq]
      exact ⟨h.1, ih (by omega) h.2 hm⟩

omit [DecidableEq α] in
theorem AMap.mem_insert {k : Nat} {v : α} {m : AMap α} {e : Nat × α} (h : e ∈ AMap.insert k v m) :
    e = (k, v) ∨ e ∈ m := by
  induction m with
  | nil => simpa [AMap.insert] using h
  | cons x m ih =>
    obtain ⟨j, w⟩ := x
    by_cases hl : k < j
    · simpa [AMap.insert, hl] using h
    · simp only [AMap.insert, hl, if_false, List.mem_cons] at h
      rcases h with h | h
      · exact .inr (by simp [h])
      · rcases ih h with h | h
        · exact .inl h
        · exact .inr (by simp [h])

theorem AMap.wf_iff (d : α) (m : AMap α) :
    AMap.wf d m = true ↔ AMap.risesFrom 0 m = true ∧ ∀ e ∈ m, e.2 ≠ d := by
  simp [AMap.wf]

@[simp] theorem AMap.wf_nil (d : α) : AMap.wf d ([] : AMap α) = true := rfl

/-- Removing entries keeps the canonical form. -/
theorem AMap.wf_filter (d : α) (p : Nat × α → Bool) {m : AMap α} (h : AMap.wf d m = true) :
    AMap.wf d (m.filter p) = true := by
  rw [AMap.wf_iff] at h ⊢
  exact ⟨AMap.risesFrom_filter p m 0 h.1, fun e he => h.2 e (List.mem_filter.mp he).1⟩

theorem AMap.wf_keep (d : α) (p : Nat → Bool) {m : AMap α} (h : AMap.wf d m = true) :
    AMap.wf d (AMap.keep p m) = true := AMap.wf_filter d _ h

theorem AMap.wf_erase (d : α) (k : Nat) {m : AMap α} (h : AMap.wf d m = true) :
    AMap.wf d (AMap.erase k m) = true := by
  rw [AMap.erase_eq_filter]
  exact AMap.wf_filter d _ h

/-- A write keeps the canonical form. -/
theorem AMap.wf_set (d : α) (k : Nat) (v : α) {m : AMap α} (h : AMap.wf d m = true) :
    AMap.wf d (AMap.set d m k v) = true := by
  unfold AMap.set
  split
  · exact AMap.wf_erase d k h
  · next hv =>
    have he := AMap.wf_erase d k h
    rw [AMap.wf_iff] at he ⊢
    refine ⟨AMap.risesFrom_insert v _ (Nat.zero_le _) he.1 (AMap.find?_erase_same k m), fun e hm => ?_⟩
    rcases AMap.mem_insert hm with rfl | hm
    · exact hv
    · exact he.2 e hm

/-- A run of writes keeps the canonical form. -/
theorem AMap.wf_foldl {β : Type} (d : α) (f : AMap α → β → AMap α) (hf : ∀ m b, AMap.wf d m = true → AMap.wf d (f m b) = true)
    (l : List β) {m : AMap α} (h : AMap.wf d m = true) : AMap.wf d (l.foldl f m) = true := by
  induction l generalizing m with
  | nil => exact h
  | cons b l ih => exact ih (hf m b h)

end Sys2Proof.Machine
end

