-- ==== Sys2Proof/Laws/State.lean ====
section
/-! SUPPORT. Reads of the state after the named updates: one law for each field and each update, so that no proof
unfolds a record update; and a register field, a context and a general register read back. -/

namespace Sys2Proof.Machine

/-! ### State.fset -/

@[simp] theorem State.fset_pending (s : State) (f : Field) (v : Nat) : (s.fset f v).pending = s.pending := rfl
@[simp] theorem State.fset_power (s : State) (f : Field) (v : Nat) : (s.fset f v).power = s.power := rfl
@[simp] theorem State.fset_pins (s : State) (f : Field) (v : Nat) : (s.fset f v).pins = s.pins := rfl
@[simp] theorem State.fset_tap (s : State) (f : Field) (v : Nat) : (s.fset f v).tap = s.tap := rfl
@[simp] theorem State.fset_ctxs (s : State) (f : Field) (v : Nat) : (s.fset f v).ctxs = s.ctxs := rfl
@[simp] theorem State.fset_core (s : State) (f : Field) (v : Nat) : (s.fset f v).core = s.core := rfl
@[simp] theorem State.fset_collar (s : State) (f : Field) (v : Nat) : (s.fset f v).collar = s.collar := rfl
@[simp] theorem State.fset_faults (s : State) (f : Field) (v : Nat) : (s.fset f v).faults = s.faults := rfl
@[simp] theorem State.fset_apron (s : State) (f : Field) (v : Nat) : (s.fset f v).apron = s.apron := rfl
@[simp] theorem State.fset_mem (s : State) (f : Field) (v : Nat) : (s.fset f v).mem = s.mem := rfl
@[simp] theorem State.fset_dbg (s : State) (f : Field) (v : Nat) : (s.fset f v).dbg = s.dbg := rfl
@[simp] theorem State.fset_triad (s : State) (f : Field) (v : Nat) : (s.fset f v).triad = s.triad := rfl
@[simp] theorem State.fset_link (s : State) (f : Field) (v : Nat) : (s.fset f v).link = s.link := rfl
@[simp] theorem State.fset_eng (s : State) (f : Field) (v : Nat) : (s.fset f v).eng = s.eng := rfl
@[simp] theorem State.fset_seam (s : State) (f : Field) (v : Nat) : (s.fset f v).seam = s.seam := rfl
@[simp] theorem State.fset_tailor (s : State) (f : Field) (v : Nat) : (s.fset f v).tailor = s.tailor := rfl
@[simp] theorem State.fset_tod (s : State) (f : Field) (v : Nat) : (s.fset f v).tod = s.tod := rfl
@[simp] theorem State.fset_fresh (s : State) (f : Field) (v : Nat) : (s.fset f v).fresh = s.fresh := rfl
@[simp] theorem State.fset_ctx (s : State) (f : Field) (v : Nat) (d : Nat) : (s.fset f v).ctx d = s.ctx d := rfl

/-! ### State.fsetB -/

@[simp] theorem State.fsetB_pending (s : State) (f : Field) (b : Bool) : (s.fsetB f b).pending = s.pending := rfl
@[simp] theorem State.fsetB_power (s : State) (f : Field) (b : Bool) : (s.fsetB f b).power = s.power := rfl
@[simp] theorem State.fsetB_pins (s : State) (f : Field) (b : Bool) : (s.fsetB f b).pins = s.pins := rfl
@[simp] theorem State.fsetB_tap (s : State) (f : Field) (b : Bool) : (s.fsetB f b).tap = s.tap := rfl
@[simp] theorem State.fsetB_ctxs (s : State) (f : Field) (b : Bool) : (s.fsetB f b).ctxs = s.ctxs := rfl
@[simp] theorem State.fsetB_core (s : State) (f : Field) (b : Bool) : (s.fsetB f b).core = s.core := rfl
@[simp] theorem State.fsetB_collar (s : State) (f : Field) (b : Bool) : (s.fsetB f b).collar = s.collar := rfl
@[simp] theorem State.fsetB_faults (s : State) (f : Field) (b : Bool) : (s.fsetB f b).faults = s.faults := rfl
@[simp] theorem State.fsetB_apron (s : State) (f : Field) (b : Bool) : (s.fsetB f b).apron = s.apron := rfl
@[simp] theorem State.fsetB_mem (s : State) (f : Field) (b : Bool) : (s.fsetB f b).mem = s.mem := rfl
@[simp] theorem State.fsetB_dbg (s : State) (f : Field) (b : Bool) : (s.fsetB f b).dbg = s.dbg := rfl
@[simp] theorem State.fsetB_triad (s : State) (f : Field) (b : Bool) : (s.fsetB f b).triad = s.triad := rfl
@[simp] theorem State.fsetB_link (s : State) (f : Field) (b : Bool) : (s.fsetB f b).link = s.link := rfl
@[simp] theorem State.fsetB_eng (s : State) (f : Field) (b : Bool) : (s.fsetB f b).eng = s.eng := rfl
@[simp] theorem State.fsetB_seam (s : State) (f : Field) (b : Bool) : (s.fsetB f b).seam = s.seam := rfl
@[simp] theorem State.fsetB_tailor (s : State) (f : Field) (b : Bool) : (s.fsetB f b).tailor = s.tailor := rfl
@[simp] theorem State.fsetB_tod (s : State) (f : Field) (b : Bool) : (s.fsetB f b).tod = s.tod := rfl
@[simp] theorem State.fsetB_fresh (s : State) (f : Field) (b : Bool) : (s.fsetB f b).fresh = s.fresh := rfl
@[simp] theorem State.fsetB_ctx (s : State) (f : Field) (b : Bool) (d : Nat) : (s.fsetB f b).ctx d = s.ctx d := rfl

/-! ### State.fcount -/

@[simp] theorem State.fcount_pending (s : State) (f : Field) (n : Nat) : (s.fcount f n).pending = s.pending := rfl
@[simp] theorem State.fcount_power (s : State) (f : Field) (n : Nat) : (s.fcount f n).power = s.power := rfl
@[simp] theorem State.fcount_pins (s : State) (f : Field) (n : Nat) : (s.fcount f n).pins = s.pins := rfl
@[simp] theorem State.fcount_tap (s : State) (f : Field) (n : Nat) : (s.fcount f n).tap = s.tap := rfl
@[simp] theorem State.fcount_ctxs (s : State) (f : Field) (n : Nat) : (s.fcount f n).ctxs = s.ctxs := rfl
@[simp] theorem State.fcount_core (s : State) (f : Field) (n : Nat) : (s.fcount f n).core = s.core := rfl
@[simp] theorem State.fcount_collar (s : State) (f : Field) (n : Nat) : (s.fcount f n).collar = s.collar := rfl
@[simp] theorem State.fcount_faults (s : State) (f : Field) (n : Nat) : (s.fcount f n).faults = s.faults := rfl
@[simp] theorem State.fcount_apron (s : State) (f : Field) (n : Nat) : (s.fcount f n).apron = s.apron := rfl
@[simp] theorem State.fcount_mem (s : State) (f : Field) (n : Nat) : (s.fcount f n).mem = s.mem := rfl
@[simp] theorem State.fcount_dbg (s : State) (f : Field) (n : Nat) : (s.fcount f n).dbg = s.dbg := rfl
@[simp] theorem State.fcount_triad (s : State) (f : Field) (n : Nat) : (s.fcount f n).triad = s.triad := rfl
@[simp] theorem State.fcount_link (s : State) (f : Field) (n : Nat) : (s.fcount f n).link = s.link := rfl
@[simp] theorem State.fcount_eng (s : State) (f : Field) (n : Nat) : (s.fcount f n).eng = s.eng := rfl
@[simp] theorem State.fcount_seam (s : State) (f : Field) (n : Nat) : (s.fcount f n).seam = s.seam := rfl
@[simp] theorem State.fcount_tailor (s : State) (f : Field) (n : Nat) : (s.fcount f n).tailor = s.tailor := rfl
@[simp] theorem State.fcount_tod (s : State) (f : Field) (n : Nat) : (s.fcount f n).tod = s.tod := rfl
@[simp] theorem State.fcount_fresh (s : State) (f : Field) (n : Nat) : (s.fcount f n).fresh = s.fresh := rfl
@[simp] theorem State.fcount_ctx (s : State) (f : Field) (n : Nat) (d : Nat) : (s.fcount f n).ctx d = s.ctx d := rfl

/-! ### State.setCtx -/

@[simp] theorem State.setCtx_pending (s : State) (c : Nat) (x : Ctx) : (s.setCtx c x).pending = s.pending := rfl
@[simp] theorem State.setCtx_fields (s : State) (c : Nat) (x : Ctx) : (s.setCtx c x).fields = s.fields := rfl
@[simp] theorem State.setCtx_power (s : State) (c : Nat) (x : Ctx) : (s.setCtx c x).power = s.power := rfl
@[simp] theorem State.setCtx_pins (s : State) (c : Nat) (x : Ctx) : (s.setCtx c x).pins = s.pins := rfl
@[simp] theorem State.setCtx_tap (s : State) (c : Nat) (x : Ctx) : (s.setCtx c x).tap = s.tap := rfl
@[simp] theorem State.setCtx_core (s : State) (c : Nat) (x : Ctx) : (s.setCtx c x).core = s.core := rfl
@[simp] theorem State.setCtx_collar (s : State) (c : Nat) (x : Ctx) : (s.setCtx c x).collar = s.collar := rfl
@[simp] theorem State.setCtx_faults (s : State) (c : Nat) (x : Ctx) : (s.setCtx c x).faults = s.faults := rfl
@[simp] theorem State.setCtx_apron (s : State) (c : Nat) (x : Ctx) : (s.setCtx c x).apron = s.apron := rfl
@[simp] theorem State.setCtx_mem (s : State) (c : Nat) (x : Ctx) : (s.setCtx c x).mem = s.mem := rfl
@[simp] theorem State.setCtx_dbg (s : State) (c : Nat) (x : Ctx) : (s.setCtx c x).dbg = s.dbg := rfl
@[simp] theorem State.setCtx_triad (s : State) (c : Nat) (x : Ctx) : (s.setCtx c x).triad = s.triad := rfl
@[simp] theorem State.setCtx_link (s : State) (c : Nat) (x : Ctx) : (s.setCtx c x).link = s.link := rfl
@[simp] theorem State.setCtx_eng (s : State) (c : Nat) (x : Ctx) : (s.setCtx c x).eng = s.eng := rfl
@[simp] theorem State.setCtx_seam (s : State) (c : Nat) (x : Ctx) : (s.setCtx c x).seam = s.seam := rfl
@[simp] theorem State.setCtx_tailor (s : State) (c : Nat) (x : Ctx) : (s.setCtx c x).tailor = s.tailor := rfl
@[simp] theorem State.setCtx_tod (s : State) (c : Nat) (x : Ctx) : (s.setCtx c x).tod = s.tod := rfl
@[simp] theorem State.setCtx_fresh (s : State) (c : Nat) (x : Ctx) : (s.setCtx c x).fresh = s.fresh := rfl
@[simp] theorem State.setCtx_fget (s : State) (c : Nat) (x : Ctx) (g : Field) : (s.setCtx c x).fget g = s.fget g := rfl
@[simp] theorem State.setCtx_fbit (s : State) (c : Nat) (x : Ctx) (g : Field) : (s.setCtx c x).fbit g = s.fbit g := rfl

/-! ### State.setG -/

@[simp] theorem State.setG_pending (s : State) (c : Nat) (r : RegNo) (v : Word) : (s.setG c r v).pending = s.pending := rfl
@[simp] theorem State.setG_fields (s : State) (c : Nat) (r : RegNo) (v : Word) : (s.setG c r v).fields = s.fields := rfl
@[simp] theorem State.setG_power (s : State) (c : Nat) (r : RegNo) (v : Word) : (s.setG c r v).power = s.power := rfl
@[simp] theorem State.setG_pins (s : State) (c : Nat) (r : RegNo) (v : Word) : (s.setG c r v).pins = s.pins := rfl
@[simp] theorem State.setG_tap (s : State) (c : Nat) (r : RegNo) (v : Word) : (s.setG c r v).tap = s.tap := rfl
@[simp] theorem State.setG_core (s : State) (c : Nat) (r : RegNo) (v : Word) : (s.setG c r v).core = s.core := rfl
@[simp] theorem State.setG_collar (s : State) (c : Nat) (r : RegNo) (v : Word) : (s.setG c r v).collar = s.collar := rfl
@[simp] theorem State.setG_faults (s : State) (c : Nat) (r : RegNo) (v : Word) : (s.setG c r v).faults = s.faults := rfl
@[simp] theorem State.setG_apron (s : State) (c : Nat) (r : RegNo) (v : Word) : (s.setG c r v).apron = s.apron := rfl
@[simp] theorem State.setG_mem (s : State) (c : Nat) (r : RegNo) (v : Word) : (s.setG c r v).mem = s.mem := rfl
@[simp] theorem State.setG_dbg (s : State) (c : Nat) (r : RegNo) (v : Word) : (s.setG c r v).dbg = s.dbg := rfl
@[simp] theorem State.setG_triad (s : State) (c : Nat) (r : RegNo) (v : Word) : (s.setG c r v).triad = s.triad := rfl
@[simp] theorem State.setG_link (s : State) (c : Nat) (r : RegNo) (v : Word) : (s.setG c r v).link = s.link := rfl
@[simp] theorem State.setG_eng (s : State) (c : Nat) (r : RegNo) (v : Word) : (s.setG c r v).eng = s.eng := rfl
@[simp] theorem State.setG_seam (s : State) (c : Nat) (r : RegNo) (v : Word) : (s.setG c r v).seam = s.seam := rfl
@[simp] theorem State.setG_tailor (s : State) (c : Nat) (r : RegNo) (v : Word) : (s.setG c r v).tailor = s.tailor := rfl
@[simp] theorem State.setG_tod (s : State) (c : Nat) (r : RegNo) (v : Word) : (s.setG c r v).tod = s.tod := rfl
@[simp] theorem State.setG_fresh (s : State) (c : Nat) (r : RegNo) (v : Word) : (s.setG c r v).fresh = s.fresh := rfl
@[simp] theorem State.setG_fget (s : State) (c : Nat) (r : RegNo) (v : Word) (g : Field) : (s.setG c r v).fget g = s.fget g := rfl
@[simp] theorem State.setG_fbit (s : State) (c : Nat) (r : RegNo) (v : Word) (g : Field) : (s.setG c r v).fbit g = s.fbit g := rfl

/-! ### State.setFr -/

@[simp] theorem State.setFr_pending (s : State) (c : Nat) (r : RegNo) (v : Word) : (s.setFr c r v).pending = s.pending := rfl
@[simp] theorem State.setFr_fields (s : State) (c : Nat) (r : RegNo) (v : Word) : (s.setFr c r v).fields = s.fields := rfl
@[simp] theorem State.setFr_power (s : State) (c : Nat) (r : RegNo) (v : Word) : (s.setFr c r v).power = s.power := rfl
@[simp] theorem State.setFr_pins (s : State) (c : Nat) (r : RegNo) (v : Word) : (s.setFr c r v).pins = s.pins := rfl
@[simp] theorem State.setFr_tap (s : State) (c : Nat) (r : RegNo) (v : Word) : (s.setFr c r v).tap = s.tap := rfl
@[simp] theorem State.setFr_core (s : State) (c : Nat) (r : RegNo) (v : Word) : (s.setFr c r v).core = s.core := rfl
@[simp] theorem State.setFr_collar (s : State) (c : Nat) (r : RegNo) (v : Word) : (s.setFr c r v).collar = s.collar := rfl
@[simp] theorem State.setFr_faults (s : State) (c : Nat) (r : RegNo) (v : Word) : (s.setFr c r v).faults = s.faults := rfl
@[simp] theorem State.setFr_apron (s : State) (c : Nat) (r : RegNo) (v : Word) : (s.setFr c r v).apron = s.apron := rfl
@[simp] theorem State.setFr_mem (s : State) (c : Nat) (r : RegNo) (v : Word) : (s.setFr c r v).mem = s.mem := rfl
@[simp] theorem State.setFr_dbg (s : State) (c : Nat) (r : RegNo) (v : Word) : (s.setFr c r v).dbg = s.dbg := rfl
@[simp] theorem State.setFr_triad (s : State) (c : Nat) (r : RegNo) (v : Word) : (s.setFr c r v).triad = s.triad := rfl
@[simp] theorem State.setFr_link (s : State) (c : Nat) (r : RegNo) (v : Word) : (s.setFr c r v).link = s.link := rfl
@[simp] theorem State.setFr_eng (s : State) (c : Nat) (r : RegNo) (v : Word) : (s.setFr c r v).eng = s.eng := rfl
@[simp] theorem State.setFr_seam (s : State) (c : Nat) (r : RegNo) (v : Word) : (s.setFr c r v).seam = s.seam := rfl
@[simp] theorem State.setFr_tailor (s : State) (c : Nat) (r : RegNo) (v : Word) : (s.setFr c r v).tailor = s.tailor := rfl
@[simp] theorem State.setFr_tod (s : State) (c : Nat) (r : RegNo) (v : Word) : (s.setFr c r v).tod = s.tod := rfl
@[simp] theorem State.setFr_fresh (s : State) (c : Nat) (r : RegNo) (v : Word) : (s.setFr c r v).fresh = s.fresh := rfl
@[simp] theorem State.setFr_fget (s : State) (c : Nat) (r : RegNo) (v : Word) (g : Field) : (s.setFr c r v).fget g = s.fget g := rfl
@[simp] theorem State.setFr_fbit (s : State) (c : Nat) (r : RegNo) (v : Word) (g : Field) : (s.setFr c r v).fbit g = s.fbit g := rfl

/-! ### State.flags -/

@[simp] theorem State.flags_pending (s : State) (c : Nat) (f : FlagSet) : (s.flags c f).pending = s.pending := rfl
@[simp] theorem State.flags_fields (s : State) (c : Nat) (f : FlagSet) : (s.flags c f).fields = s.fields := rfl
@[simp] theorem State.flags_power (s : State) (c : Nat) (f : FlagSet) : (s.flags c f).power = s.power := rfl
@[simp] theorem State.flags_pins (s : State) (c : Nat) (f : FlagSet) : (s.flags c f).pins = s.pins := rfl
@[simp] theorem State.flags_tap (s : State) (c : Nat) (f : FlagSet) : (s.flags c f).tap = s.tap := rfl
@[simp] theorem State.flags_core (s : State) (c : Nat) (f : FlagSet) : (s.flags c f).core = s.core := rfl
@[simp] theorem State.flags_collar (s : State) (c : Nat) (f : FlagSet) : (s.flags c f).collar = s.collar := rfl
@[simp] theorem State.flags_faults (s : State) (c : Nat) (f : FlagSet) : (s.flags c f).faults = s.faults := rfl
@[simp] theorem State.flags_apron (s : State) (c : Nat) (f : FlagSet) : (s.flags c f).apron = s.apron := rfl
@[simp] theorem State.flags_mem (s : State) (c : Nat) (f : FlagSet) : (s.flags c f).mem = s.mem := rfl
@[simp] theorem State.flags_dbg (s : State) (c : Nat) (f : FlagSet) : (s.flags c f).dbg = s.dbg := rfl
@[simp] theorem State.flags_triad (s : State) (c : Nat) (f : FlagSet) : (s.flags c f).triad = s.triad := rfl
@[simp] theorem State.flags_link (s : State) (c : Nat) (f : FlagSet) : (s.flags c f).link = s.link := rfl
@[simp] theorem State.flags_eng (s : State) (c : Nat) (f : FlagSet) : (s.flags c f).eng = s.eng := rfl
@[simp] theorem State.flags_seam (s : State) (c : Nat) (f : FlagSet) : (s.flags c f).seam = s.seam := rfl
@[simp] theorem State.flags_tailor (s : State) (c : Nat) (f : FlagSet) : (s.flags c f).tailor = s.tailor := rfl
@[simp] theorem State.flags_tod (s : State) (c : Nat) (f : FlagSet) : (s.flags c f).tod = s.tod := rfl
@[simp] theorem State.flags_fresh (s : State) (c : Nat) (f : FlagSet) : (s.flags c f).fresh = s.fresh := rfl
@[simp] theorem State.flags_fget (s : State) (c : Nat) (f : FlagSet) (g : Field) : (s.flags c f).fget g = s.fget g := rfl
@[simp] theorem State.flags_fbit (s : State) (c : Nat) (f : FlagSet) (g : Field) : (s.flags c f).fbit g = s.fbit g := rfl

/-! ### State.setC -/

@[simp] theorem State.setC_pending (s : State) (c : Nat) (r : RegNo) (v : Nat) : (s.setC c r v).pending = s.pending := rfl
@[simp] theorem State.setC_fields (s : State) (c : Nat) (r : RegNo) (v : Nat) : (s.setC c r v).fields = s.fields := rfl
@[simp] theorem State.setC_power (s : State) (c : Nat) (r : RegNo) (v : Nat) : (s.setC c r v).power = s.power := rfl
@[simp] theorem State.setC_pins (s : State) (c : Nat) (r : RegNo) (v : Nat) : (s.setC c r v).pins = s.pins := rfl
@[simp] theorem State.setC_tap (s : State) (c : Nat) (r : RegNo) (v : Nat) : (s.setC c r v).tap = s.tap := rfl
@[simp] theorem State.setC_core (s : State) (c : Nat) (r : RegNo) (v : Nat) : (s.setC c r v).core = s.core := rfl
@[simp] theorem State.setC_collar (s : State) (c : Nat) (r : RegNo) (v : Nat) : (s.setC c r v).collar = s.collar := rfl
@[simp] theorem State.setC_faults (s : State) (c : Nat) (r : RegNo) (v : Nat) : (s.setC c r v).faults = s.faults := rfl
@[simp] theorem State.setC_apron (s : State) (c : Nat) (r : RegNo) (v : Nat) : (s.setC c r v).apron = s.apron := rfl
@[simp] theorem State.setC_mem (s : State) (c : Nat) (r : RegNo) (v : Nat) : (s.setC c r v).mem = s.mem := rfl
@[simp] theorem State.setC_dbg (s : State) (c : Nat) (r : RegNo) (v : Nat) : (s.setC c r v).dbg = s.dbg := rfl
@[simp] theorem State.setC_triad (s : State) (c : Nat) (r : RegNo) (v : Nat) : (s.setC c r v).triad = s.triad := rfl
@[simp] theorem State.setC_link (s : State) (c : Nat) (r : RegNo) (v : Nat) : (s.setC c r v).link = s.link := rfl
@[simp] theorem State.setC_eng (s : State) (c : Nat) (r : RegNo) (v : Nat) : (s.setC c r v).eng = s.eng := rfl
@[simp] theorem State.setC_seam (s : State) (c : Nat) (r : RegNo) (v : Nat) : (s.setC c r v).seam = s.seam := rfl
@[simp] theorem State.setC_tailor (s : State) (c : Nat) (r : RegNo) (v : Nat) : (s.setC c r v).tailor = s.tailor := rfl
@[simp] theorem State.setC_tod (s : State) (c : Nat) (r : RegNo) (v : Nat) : (s.setC c r v).tod = s.tod := rfl
@[simp] theorem State.setC_fresh (s : State) (c : Nat) (r : RegNo) (v : Nat) : (s.setC c r v).fresh = s.fresh := rfl
@[simp] theorem State.setC_fget (s : State) (c : Nat) (r : RegNo) (v : Nat) (g : Field) : (s.setC c r v).fget g = s.fget g := rfl
@[simp] theorem State.setC_fbit (s : State) (c : Nat) (r : RegNo) (v : Nat) (g : Field) : (s.setC c r v).fbit g = s.fbit g := rfl

/-! ### State.setReady -/

@[simp] theorem State.setReady_pending (s : State) (k : Nat) (l : List Nat) : (s.setReady k l).pending = s.pending := rfl
@[simp] theorem State.setReady_fields (s : State) (k : Nat) (l : List Nat) : (s.setReady k l).fields = s.fields := rfl
@[simp] theorem State.setReady_power (s : State) (k : Nat) (l : List Nat) : (s.setReady k l).power = s.power := rfl
@[simp] theorem State.setReady_pins (s : State) (k : Nat) (l : List Nat) : (s.setReady k l).pins = s.pins := rfl
@[simp] theorem State.setReady_tap (s : State) (k : Nat) (l : List Nat) : (s.setReady k l).tap = s.tap := rfl
@[simp] theorem State.setReady_ctxs (s : State) (k : Nat) (l : List Nat) : (s.setReady k l).ctxs = s.ctxs := rfl
@[simp] theorem State.setReady_collar (s : State) (k : Nat) (l : List Nat) : (s.setReady k l).collar = s.collar := rfl
@[simp] theorem State.setReady_faults (s : State) (k : Nat) (l : List Nat) : (s.setReady k l).faults = s.faults := rfl
@[simp] theorem State.setReady_apron (s : State) (k : Nat) (l : List Nat) : (s.setReady k l).apron = s.apron := rfl
@[simp] theorem State.setReady_mem (s : State) (k : Nat) (l : List Nat) : (s.setReady k l).mem = s.mem := rfl
@[simp] theorem State.setReady_dbg (s : State) (k : Nat) (l : List Nat) : (s.setReady k l).dbg = s.dbg := rfl
@[simp] theorem State.setReady_triad (s : State) (k : Nat) (l : List Nat) : (s.setReady k l).triad = s.triad := rfl
@[simp] theorem State.setReady_link (s : State) (k : Nat) (l : List Nat) : (s.setReady k l).link = s.link := rfl
@[simp] theorem State.setReady_eng (s : State) (k : Nat) (l : List Nat) : (s.setReady k l).eng = s.eng := rfl
@[simp] theorem State.setReady_seam (s : State) (k : Nat) (l : List Nat) : (s.setReady k l).seam = s.seam := rfl
@[simp] theorem State.setReady_tailor (s : State) (k : Nat) (l : List Nat) : (s.setReady k l).tailor = s.tailor := rfl
@[simp] theorem State.setReady_tod (s : State) (k : Nat) (l : List Nat) : (s.setReady k l).tod = s.tod := rfl
@[simp] theorem State.setReady_fresh (s : State) (k : Nat) (l : List Nat) : (s.setReady k l).fresh = s.fresh := rfl
@[simp] theorem State.setReady_fget (s : State) (k : Nat) (l : List Nat) (g : Field) : (s.setReady k l).fget g = s.fget g := rfl
@[simp] theorem State.setReady_fbit (s : State) (k : Nat) (l : List Nat) (g : Field) : (s.setReady k l).fbit g = s.fbit g := rfl
@[simp] theorem State.setReady_ctx (s : State) (k : Nat) (l : List Nat) (d : Nat) : (s.setReady k l).ctx d = s.ctx d := rfl

/-! ### State.setPartx -/

@[simp] theorem State.setPartx_pending (s : State) (k : Nat) (l : List PartxEntry) : (s.setPartx k l).pending = s.pending := rfl
@[simp] theorem State.setPartx_fields (s : State) (k : Nat) (l : List PartxEntry) : (s.setPartx k l).fields = s.fields := rfl
@[simp] theorem State.setPartx_power (s : State) (k : Nat) (l : List PartxEntry) : (s.setPartx k l).power = s.power := rfl
@[simp] theorem State.setPartx_pins (s : State) (k : Nat) (l : List PartxEntry) : (s.setPartx k l).pins = s.pins := rfl
@[simp] theorem State.setPartx_tap (s : State) (k : Nat) (l : List PartxEntry) : (s.setPartx k l).tap = s.tap := rfl
@[simp] theorem State.setPartx_ctxs (s : State) (k : Nat) (l : List PartxEntry) : (s.setPartx k l).ctxs = s.ctxs := rfl
@[simp] theorem State.setPartx_collar (s : State) (k : Nat) (l : List PartxEntry) : (s.setPartx k l).collar = s.collar := rfl
@[simp] theorem State.setPartx_faults (s : State) (k : Nat) (l : List PartxEntry) : (s.setPartx k l).faults = s.faults := rfl
@[simp] theorem State.setPartx_apron (s : State) (k : Nat) (l : List PartxEntry) : (s.setPartx k l).apron = s.apron := rfl
@[simp] theorem State.setPartx_mem (s : State) (k : Nat) (l : List PartxEntry) : (s.setPartx k l).mem = s.mem := rfl
@[simp] theorem State.setPartx_dbg (s : State) (k : Nat) (l : List PartxEntry) : (s.setPartx k l).dbg = s.dbg := rfl
@[simp] theorem State.setPartx_triad (s : State) (k : Nat) (l : List PartxEntry) : (s.setPartx k l).triad = s.triad := rfl
@[simp] theorem State.setPartx_link (s : State) (k : Nat) (l : List PartxEntry) : (s.setPartx k l).link = s.link := rfl
@[simp] theorem State.setPartx_eng (s : State) (k : Nat) (l : List PartxEntry) : (s.setPartx k l).eng = s.eng := rfl
@[simp] theorem State.setPartx_seam (s : State) (k : Nat) (l : List PartxEntry) : (s.setPartx k l).seam = s.seam := rfl
@[simp] theorem State.setPartx_tailor (s : State) (k : Nat) (l : List PartxEntry) : (s.setPartx k l).tailor = s.tailor := rfl
@[simp] theorem State.setPartx_tod (s : State) (k : Nat) (l : List PartxEntry) : (s.setPartx k l).tod = s.tod := rfl
@[simp] theorem State.setPartx_fresh (s : State) (k : Nat) (l : List PartxEntry) : (s.setPartx k l).fresh = s.fresh := rfl
@[simp] theorem State.setPartx_fget (s : State) (k : Nat) (l : List PartxEntry) (g : Field) : (s.setPartx k l).fget g = s.fget g := rfl
@[simp] theorem State.setPartx_fbit (s : State) (k : Nat) (l : List PartxEntry) (g : Field) : (s.setPartx k l).fbit g = s.fbit g := rfl
@[simp] theorem State.setPartx_ctx (s : State) (k : Nat) (l : List PartxEntry) (d : Nat) : (s.setPartx k l).ctx d = s.ctx d := rfl

/-! ### State.setKeepMeta -/

@[simp] theorem State.setKeepMeta_pending (s : State) (e : Nat) (m : KeepMeta) : (s.setKeepMeta e m).pending = s.pending := rfl
@[simp] theorem State.setKeepMeta_fields (s : State) (e : Nat) (m : KeepMeta) : (s.setKeepMeta e m).fields = s.fields := rfl
@[simp] theorem State.setKeepMeta_power (s : State) (e : Nat) (m : KeepMeta) : (s.setKeepMeta e m).power = s.power := rfl
@[simp] theorem State.setKeepMeta_pins (s : State) (e : Nat) (m : KeepMeta) : (s.setKeepMeta e m).pins = s.pins := rfl
@[simp] theorem State.setKeepMeta_tap (s : State) (e : Nat) (m : KeepMeta) : (s.setKeepMeta e m).tap = s.tap := rfl
@[simp] theorem State.setKeepMeta_ctxs (s : State) (e : Nat) (m : KeepMeta) : (s.setKeepMeta e m).ctxs = s.ctxs := rfl
@[simp] theorem State.setKeepMeta_core (s : State) (e : Nat) (m : KeepMeta) : (s.setKeepMeta e m).core = s.core := rfl
@[simp] theorem State.setKeepMeta_collar (s : State) (e : Nat) (m : KeepMeta) : (s.setKeepMeta e m).collar = s.collar := rfl
@[simp] theorem State.setKeepMeta_faults (s : State) (e : Nat) (m : KeepMeta) : (s.setKeepMeta e m).faults = s.faults := rfl
@[simp] theorem State.setKeepMeta_mem (s : State) (e : Nat) (m : KeepMeta) : (s.setKeepMeta e m).mem = s.mem := rfl
@[simp] theorem State.setKeepMeta_dbg (s : State) (e : Nat) (m : KeepMeta) : (s.setKeepMeta e m).dbg = s.dbg := rfl
@[simp] theorem State.setKeepMeta_triad (s : State) (e : Nat) (m : KeepMeta) : (s.setKeepMeta e m).triad = s.triad := rfl
@[simp] theorem State.setKeepMeta_link (s : State) (e : Nat) (m : KeepMeta) : (s.setKeepMeta e m).link = s.link := rfl
@[simp] theorem State.setKeepMeta_eng (s : State) (e : Nat) (m : KeepMeta) : (s.setKeepMeta e m).eng = s.eng := rfl
@[simp] theorem State.setKeepMeta_seam (s : State) (e : Nat) (m : KeepMeta) : (s.setKeepMeta e m).seam = s.seam := rfl
@[simp] theorem State.setKeepMeta_tailor (s : State) (e : Nat) (m : KeepMeta) : (s.setKeepMeta e m).tailor = s.tailor := rfl
@[simp] theorem State.setKeepMeta_tod (s : State) (e : Nat) (m : KeepMeta) : (s.setKeepMeta e m).tod = s.tod := rfl
@[simp] theorem State.setKeepMeta_fresh (s : State) (e : Nat) (m : KeepMeta) : (s.setKeepMeta e m).fresh = s.fresh := rfl
@[simp] theorem State.setKeepMeta_fget (s : State) (e : Nat) (m : KeepMeta) (g : Field) : (s.setKeepMeta e m).fget g = s.fget g := rfl
@[simp] theorem State.setKeepMeta_fbit (s : State) (e : Nat) (m : KeepMeta) (g : Field) : (s.setKeepMeta e m).fbit g = s.fbit g := rfl
@[simp] theorem State.setKeepMeta_ctx (s : State) (e : Nat) (m : KeepMeta) (d : Nat) : (s.setKeepMeta e m).ctx d = s.ctx d := rfl

/-! ### State.onMem -/

@[simp] theorem State.onMem_pending (s : State) (f : MemState → MemState) : (s.onMem f).pending = s.pending := rfl
@[simp] theorem State.onMem_fields (s : State) (f : MemState → MemState) : (s.onMem f).fields = s.fields := rfl
@[simp] theorem State.onMem_power (s : State) (f : MemState → MemState) : (s.onMem f).power = s.power := rfl
@[simp] theorem State.onMem_pins (s : State) (f : MemState → MemState) : (s.onMem f).pins = s.pins := rfl
@[simp] theorem State.onMem_tap (s : State) (f : MemState → MemState) : (s.onMem f).tap = s.tap := rfl
@[simp] theorem State.onMem_ctxs (s : State) (f : MemState → MemState) : (s.onMem f).ctxs = s.ctxs := rfl
@[simp] theorem State.onMem_core (s : State) (f : MemState → MemState) : (s.onMem f).core = s.core := rfl
@[simp] theorem State.onMem_collar (s : State) (f : MemState → MemState) : (s.onMem f).collar = s.collar := rfl
@[simp] theorem State.onMem_faults (s : State) (f : MemState → MemState) : (s.onMem f).faults = s.faults := rfl
@[simp] theorem State.onMem_apron (s : State) (f : MemState → MemState) : (s.onMem f).apron = s.apron := rfl
@[simp] theorem State.onMem_dbg (s : State) (f : MemState → MemState) : (s.onMem f).dbg = s.dbg := rfl
@[simp] theorem State.onMem_triad (s : State) (f : MemState → MemState) : (s.onMem f).triad = s.triad := rfl
@[simp] theorem State.onMem_link (s : State) (f : MemState → MemState) : (s.onMem f).link = s.link := rfl
@[simp] theorem State.onMem_eng (s : State) (f : MemState → MemState) : (s.onMem f).eng = s.eng := rfl
@[simp] theorem State.onMem_seam (s : State) (f : MemState → MemState) : (s.onMem f).seam = s.seam := rfl
@[simp] theorem State.onMem_tailor (s : State) (f : MemState → MemState) : (s.onMem f).tailor = s.tailor := rfl
@[simp] theorem State.onMem_tod (s : State) (f : MemState → MemState) : (s.onMem f).tod = s.tod := rfl
@[simp] theorem State.onMem_fresh (s : State) (f : MemState → MemState) : (s.onMem f).fresh = s.fresh := rfl
@[simp] theorem State.onMem_mem (s : State) (f : MemState → MemState) : (s.onMem f).mem = f s.mem := rfl
@[simp] theorem State.onMem_fget (s : State) (f : MemState → MemState) (g : Field) : (s.onMem f).fget g = s.fget g := rfl
@[simp] theorem State.onMem_fbit (s : State) (f : MemState → MemState) (g : Field) : (s.onMem f).fbit g = s.fbit g := rfl
@[simp] theorem State.onMem_ctx (s : State) (f : MemState → MemState) (d : Nat) : (s.onMem f).ctx d = s.ctx d := rfl

/-! ### State.onPower -/

@[simp] theorem State.onPower_pending (s : State) (f : PowerState → PowerState) : (s.onPower f).pending = s.pending := rfl
@[simp] theorem State.onPower_fields (s : State) (f : PowerState → PowerState) : (s.onPower f).fields = s.fields := rfl
@[simp] theorem State.onPower_pins (s : State) (f : PowerState → PowerState) : (s.onPower f).pins = s.pins := rfl
@[simp] theorem State.onPower_tap (s : State) (f : PowerState → PowerState) : (s.onPower f).tap = s.tap := rfl
@[simp] theorem State.onPower_ctxs (s : State) (f : PowerState → PowerState) : (s.onPower f).ctxs = s.ctxs := rfl
@[simp] theorem State.onPower_core (s : State) (f : PowerState → PowerState) : (s.onPower f).core = s.core := rfl
@[simp] theorem State.onPower_collar (s : State) (f : PowerState → PowerState) : (s.onPower f).collar = s.collar := rfl
@[simp] theorem State.onPower_faults (s : State) (f : PowerState → PowerState) : (s.onPower f).faults = s.faults := rfl
@[simp] theorem State.onPower_apron (s : State) (f : PowerState → PowerState) : (s.onPower f).apron = s.apron := rfl
@[simp] theorem State.onPower_mem (s : State) (f : PowerState → PowerState) : (s.onPower f).mem = s.mem := rfl
@[simp] theorem State.onPower_dbg (s : State) (f : PowerState → PowerState) : (s.onPower f).dbg = s.dbg := rfl
@[simp] theorem State.onPower_triad (s : State) (f : PowerState → PowerState) : (s.onPower f).triad = s.triad := rfl
@[simp] theorem State.onPower_link (s : State) (f : PowerState → PowerState) : (s.onPower f).link = s.link := rfl
@[simp] theorem State.onPower_eng (s : State) (f : PowerState → PowerState) : (s.onPower f).eng = s.eng := rfl
@[simp] theorem State.onPower_seam (s : State) (f : PowerState → PowerState) : (s.onPower f).seam = s.seam := rfl
@[simp] theorem State.onPower_tailor (s : State) (f : PowerState → PowerState) : (s.onPower f).tailor = s.tailor := rfl
@[simp] theorem State.onPower_tod (s : State) (f : PowerState → PowerState) : (s.onPower f).tod = s.tod := rfl
@[simp] theorem State.onPower_fresh (s : State) (f : PowerState → PowerState) : (s.onPower f).fresh = s.fresh := rfl
@[simp] theorem State.onPower_power (s : State) (f : PowerState → PowerState) : (s.onPower f).power = f s.power := rfl
@[simp] theorem State.onPower_fget (s : State) (f : PowerState → PowerState) (g : Field) : (s.onPower f).fget g = s.fget g := rfl
@[simp] theorem State.onPower_fbit (s : State) (f : PowerState → PowerState) (g : Field) : (s.onPower f).fbit g = s.fbit g := rfl
@[simp] theorem State.onPower_ctx (s : State) (f : PowerState → PowerState) (d : Nat) : (s.onPower f).ctx d = s.ctx d := rfl

/-! ### State.onTap -/

@[simp] theorem State.onTap_pending (s : State) (f : TapState → TapState) : (s.onTap f).pending = s.pending := rfl
@[simp] theorem State.onTap_fields (s : State) (f : TapState → TapState) : (s.onTap f).fields = s.fields := rfl
@[simp] theorem State.onTap_power (s : State) (f : TapState → TapState) : (s.onTap f).power = s.power := rfl
@[simp] theorem State.onTap_pins (s : State) (f : TapState → TapState) : (s.onTap f).pins = s.pins := rfl
@[simp] theorem State.onTap_ctxs (s : State) (f : TapState → TapState) : (s.onTap f).ctxs = s.ctxs := rfl
@[simp] theorem State.onTap_core (s : State) (f : TapState → TapState) : (s.onTap f).core = s.core := rfl
@[simp] theorem State.onTap_collar (s : State) (f : TapState → TapState) : (s.onTap f).collar = s.collar := rfl
@[simp] theorem State.onTap_faults (s : State) (f : TapState → TapState) : (s.onTap f).faults = s.faults := rfl
@[simp] theorem State.onTap_apron (s : State) (f : TapState → TapState) : (s.onTap f).apron = s.apron := rfl
@[simp] theorem State.onTap_mem (s : State) (f : TapState → TapState) : (s.onTap f).mem = s.mem := rfl
@[simp] theorem State.onTap_dbg (s : State) (f : TapState → TapState) : (s.onTap f).dbg = s.dbg := rfl
@[simp] theorem State.onTap_triad (s : State) (f : TapState → TapState) : (s.onTap f).triad = s.triad := rfl
@[simp] theorem State.onTap_link (s : State) (f : TapState → TapState) : (s.onTap f).link = s.link := rfl
@[simp] theorem State.onTap_eng (s : State) (f : TapState → TapState) : (s.onTap f).eng = s.eng := rfl
@[simp] theorem State.onTap_seam (s : State) (f : TapState → TapState) : (s.onTap f).seam = s.seam := rfl
@[simp] theorem State.onTap_tailor (s : State) (f : TapState → TapState) : (s.onTap f).tailor = s.tailor := rfl
@[simp] theorem State.onTap_tod (s : State) (f : TapState → TapState) : (s.onTap f).tod = s.tod := rfl
@[simp] theorem State.onTap_fresh (s : State) (f : TapState → TapState) : (s.onTap f).fresh = s.fresh := rfl
@[simp] theorem State.onTap_tap (s : State) (f : TapState → TapState) : (s.onTap f).tap = f s.tap := rfl
@[simp] theorem State.onTap_fget (s : State) (f : TapState → TapState) (g : Field) : (s.onTap f).fget g = s.fget g := rfl
@[simp] theorem State.onTap_fbit (s : State) (f : TapState → TapState) (g : Field) : (s.onTap f).fbit g = s.fbit g := rfl
@[simp] theorem State.onTap_ctx (s : State) (f : TapState → TapState) (d : Nat) : (s.onTap f).ctx d = s.ctx d := rfl

/-! ### State.onDbg -/

@[simp] theorem State.onDbg_pending (s : State) (f : DebugState → DebugState) : (s.onDbg f).pending = s.pending := rfl
@[simp] theorem State.onDbg_fields (s : State) (f : DebugState → DebugState) : (s.onDbg f).fields = s.fields := rfl
@[simp] theorem State.onDbg_power (s : State) (f : DebugState → DebugState) : (s.onDbg f).power = s.power := rfl
@[simp] theorem State.onDbg_pins (s : State) (f : DebugState → DebugState) : (s.onDbg f).pins = s.pins := rfl
@[simp] theorem State.onDbg_tap (s : State) (f : DebugState → DebugState) : (s.onDbg f).tap = s.tap := rfl
@[simp] theorem State.onDbg_ctxs (s : State) (f : DebugState → DebugState) : (s.onDbg f).ctxs = s.ctxs := rfl
@[simp] theorem State.onDbg_core (s : State) (f : DebugState → DebugState) : (s.onDbg f).core = s.core := rfl
@[simp] theorem State.onDbg_collar (s : State) (f : DebugState → DebugState) : (s.onDbg f).collar = s.collar := rfl
@[simp] theorem State.onDbg_faults (s : State) (f : DebugState → DebugState) : (s.onDbg f).faults = s.faults := rfl
@[simp] theorem State.onDbg_apron (s : State) (f : DebugState → DebugState) : (s.onDbg f).apron = s.apron := rfl
@[simp] theorem State.onDbg_mem (s : State) (f : DebugState → DebugState) : (s.onDbg f).mem = s.mem := rfl
@[simp] theorem State.onDbg_triad (s : State) (f : DebugState → DebugState) : (s.onDbg f).triad = s.triad := rfl
@[simp] theorem State.onDbg_link (s : State) (f : DebugState → DebugState) : (s.onDbg f).link = s.link := rfl
@[simp] theorem State.onDbg_eng (s : State) (f : DebugState → DebugState) : (s.onDbg f).eng = s.eng := rfl
@[simp] theorem State.onDbg_seam (s : State) (f : DebugState → DebugState) : (s.onDbg f).seam = s.seam := rfl
@[simp] theorem State.onDbg_tailor (s : State) (f : DebugState → DebugState) : (s.onDbg f).tailor = s.tailor := rfl
@[simp] theorem State.onDbg_tod (s : State) (f : DebugState → DebugState) : (s.onDbg f).tod = s.tod := rfl
@[simp] theorem State.onDbg_fresh (s : State) (f : DebugState → DebugState) : (s.onDbg f).fresh = s.fresh := rfl
@[simp] theorem State.onDbg_dbg (s : State) (f : DebugState → DebugState) : (s.onDbg f).dbg = f s.dbg := rfl
@[simp] theorem State.onDbg_fget (s : State) (f : DebugState → DebugState) (g : Field) : (s.onDbg f).fget g = s.fget g := rfl
@[simp] theorem State.onDbg_fbit (s : State) (f : DebugState → DebugState) (g : Field) : (s.onDbg f).fbit g = s.fbit g := rfl
@[simp] theorem State.onDbg_ctx (s : State) (f : DebugState → DebugState) (d : Nat) : (s.onDbg f).ctx d = s.ctx d := rfl

/-! ### State.onTailor -/

@[simp] theorem State.onTailor_pending (s : State) (f : TailorState → TailorState) : (s.onTailor f).pending = s.pending := rfl
@[simp] theorem State.onTailor_fields (s : State) (f : TailorState → TailorState) : (s.onTailor f).fields = s.fields := rfl
@[simp] theorem State.onTailor_power (s : State) (f : TailorState → TailorState) : (s.onTailor f).power = s.power := rfl
@[simp] theorem State.onTailor_pins (s : State) (f : TailorState → TailorState) : (s.onTailor f).pins = s.pins := rfl
@[simp] theorem State.onTailor_tap (s : State) (f : TailorState → TailorState) : (s.onTailor f).tap = s.tap := rfl
@[simp] theorem State.onTailor_ctxs (s : State) (f : TailorState → TailorState) : (s.onTailor f).ctxs = s.ctxs := rfl
@[simp] theorem State.onTailor_core (s : State) (f : TailorState → TailorState) : (s.onTailor f).core = s.core := rfl
@[simp] theorem State.onTailor_collar (s : State) (f : TailorState → TailorState) : (s.onTailor f).collar = s.collar := rfl
@[simp] theorem State.onTailor_faults (s : State) (f : TailorState → TailorState) : (s.onTailor f).faults = s.faults := rfl
@[simp] theorem State.onTailor_apron (s : State) (f : TailorState → TailorState) : (s.onTailor f).apron = s.apron := rfl
@[simp] theorem State.onTailor_mem (s : State) (f : TailorState → TailorState) : (s.onTailor f).mem = s.mem := rfl
@[simp] theorem State.onTailor_dbg (s : State) (f : TailorState → TailorState) : (s.onTailor f).dbg = s.dbg := rfl
@[simp] theorem State.onTailor_triad (s : State) (f : TailorState → TailorState) : (s.onTailor f).triad = s.triad := rfl
@[simp] theorem State.onTailor_link (s : State) (f : TailorState → TailorState) : (s.onTailor f).link = s.link := rfl
@[simp] theorem State.onTailor_eng (s : State) (f : TailorState → TailorState) : (s.onTailor f).eng = s.eng := rfl
@[simp] theorem State.onTailor_seam (s : State) (f : TailorState → TailorState) : (s.onTailor f).seam = s.seam := rfl
@[simp] theorem State.onTailor_tod (s : State) (f : TailorState → TailorState) : (s.onTailor f).tod = s.tod := rfl
@[simp] theorem State.onTailor_fresh (s : State) (f : TailorState → TailorState) : (s.onTailor f).fresh = s.fresh := rfl
@[simp] theorem State.onTailor_tailor (s : State) (f : TailorState → TailorState) : (s.onTailor f).tailor = f s.tailor := rfl
@[simp] theorem State.onTailor_fget (s : State) (f : TailorState → TailorState) (g : Field) : (s.onTailor f).fget g = s.fget g := rfl
@[simp] theorem State.onTailor_fbit (s : State) (f : TailorState → TailorState) (g : Field) : (s.onTailor f).fbit g = s.fbit g := rfl
@[simp] theorem State.onTailor_ctx (s : State) (f : TailorState → TailorState) (d : Nat) : (s.onTailor f).ctx d = s.ctx d := rfl

/-! ### State.onApron -/

@[simp] theorem State.onApron_pending (s : State) (f : ApronState → ApronState) : (s.onApron f).pending = s.pending := rfl
@[simp] theorem State.onApron_fields (s : State) (f : ApronState → ApronState) : (s.onApron f).fields = s.fields := rfl
@[simp] theorem State.onApron_power (s : State) (f : ApronState → ApronState) : (s.onApron f).power = s.power := rfl
@[simp] theorem State.onApron_pins (s : State) (f : ApronState → ApronState) : (s.onApron f).pins = s.pins := rfl
@[simp] theorem State.onApron_tap (s : State) (f : ApronState → ApronState) : (s.onApron f).tap = s.tap := rfl
@[simp] theorem State.onApron_ctxs (s : State) (f : ApronState → ApronState) : (s.onApron f).ctxs = s.ctxs := rfl
@[simp] theorem State.onApron_core (s : State) (f : ApronState → ApronState) : (s.onApron f).core = s.core := rfl
@[simp] theorem State.onApron_collar (s : State) (f : ApronState → ApronState) : (s.onApron f).collar = s.collar := rfl
@[simp] theorem State.onApron_faults (s : State) (f : ApronState → ApronState) : (s.onApron f).faults = s.faults := rfl
@[simp] theorem State.onApron_mem (s : State) (f : ApronState → ApronState) : (s.onApron f).mem = s.mem := rfl
@[simp] theorem State.onApron_dbg (s : State) (f : ApronState → ApronState) : (s.onApron f).dbg = s.dbg := rfl
@[simp] theorem State.onApron_triad (s : State) (f : ApronState → ApronState) : (s.onApron f).triad = s.triad := rfl
@[simp] theorem State.onApron_link (s : State) (f : ApronState → ApronState) : (s.onApron f).link = s.link := rfl
@[simp] theorem State.onApron_eng (s : State) (f : ApronState → ApronState) : (s.onApron f).eng = s.eng := rfl
@[simp] theorem State.onApron_seam (s : State) (f : ApronState → ApronState) : (s.onApron f).seam = s.seam := rfl
@[simp] theorem State.onApron_tailor (s : State) (f : ApronState → ApronState) : (s.onApron f).tailor = s.tailor := rfl
@[simp] theorem State.onApron_tod (s : State) (f : ApronState → ApronState) : (s.onApron f).tod = s.tod := rfl
@[simp] theorem State.onApron_fresh (s : State) (f : ApronState → ApronState) : (s.onApron f).fresh = s.fresh := rfl
@[simp] theorem State.onApron_apron (s : State) (f : ApronState → ApronState) : (s.onApron f).apron = f s.apron := rfl
@[simp] theorem State.onApron_fget (s : State) (f : ApronState → ApronState) (g : Field) : (s.onApron f).fget g = s.fget g := rfl
@[simp] theorem State.onApron_fbit (s : State) (f : ApronState → ApronState) (g : Field) : (s.onApron f).fbit g = s.fbit g := rfl
@[simp] theorem State.onApron_ctx (s : State) (f : ApronState → ApronState) (d : Nat) : (s.onApron f).ctx d = s.ctx d := rfl

/-! ### State.onEng -/

@[simp] theorem State.onEng_pending (s : State) (f : EngineState → EngineState) : (s.onEng f).pending = s.pending := rfl
@[simp] theorem State.onEng_fields (s : State) (f : EngineState → EngineState) : (s.onEng f).fields = s.fields := rfl
@[simp] theorem State.onEng_power (s : State) (f : EngineState → EngineState) : (s.onEng f).power = s.power := rfl
@[simp] theorem State.onEng_pins (s : State) (f : EngineState → EngineState) : (s.onEng f).pins = s.pins := rfl
@[simp] theorem State.onEng_tap (s : State) (f : EngineState → EngineState) : (s.onEng f).tap = s.tap := rfl
@[simp] theorem State.onEng_ctxs (s : State) (f : EngineState → EngineState) : (s.onEng f).ctxs = s.ctxs := rfl
@[simp] theorem State.onEng_core (s : State) (f : EngineState → EngineState) : (s.onEng f).core = s.core := rfl
@[simp] theorem State.onEng_collar (s : State) (f : EngineState → EngineState) : (s.onEng f).collar = s.collar := rfl
@[simp] theorem State.onEng_faults (s : State) (f : EngineState → EngineState) : (s.onEng f).faults = s.faults := rfl
@[simp] theorem State.onEng_apron (s : State) (f : EngineState → EngineState) : (s.onEng f).apron = s.apron := rfl
@[simp] theorem State.onEng_mem (s : State) (f : EngineState → EngineState) : (s.onEng f).mem = s.mem := rfl
@[simp] theorem State.onEng_dbg (s : State) (f : EngineState → EngineState) : (s.onEng f).dbg = s.dbg := rfl
@[simp] theorem State.onEng_triad (s : State) (f : EngineState → EngineState) : (s.onEng f).triad = s.triad := rfl
@[simp] theorem State.onEng_link (s : State) (f : EngineState → EngineState) : (s.onEng f).link = s.link := rfl
@[simp] theorem State.onEng_seam (s : State) (f : EngineState → EngineState) : (s.onEng f).seam = s.seam := rfl
@[simp] theorem State.onEng_tailor (s : State) (f : EngineState → EngineState) : (s.onEng f).tailor = s.tailor := rfl
@[simp] theorem State.onEng_tod (s : State) (f : EngineState → EngineState) : (s.onEng f).tod = s.tod := rfl
@[simp] theorem State.onEng_fresh (s : State) (f : EngineState → EngineState) : (s.onEng f).fresh = s.fresh := rfl
@[simp] theorem State.onEng_eng (s : State) (f : EngineState → EngineState) : (s.onEng f).eng = f s.eng := rfl
@[simp] theorem State.onEng_fget (s : State) (f : EngineState → EngineState) (g : Field) : (s.onEng f).fget g = s.fget g := rfl
@[simp] theorem State.onEng_fbit (s : State) (f : EngineState → EngineState) (g : Field) : (s.onEng f).fbit g = s.fbit g := rfl
@[simp] theorem State.onEng_ctx (s : State) (f : EngineState → EngineState) (d : Nat) : (s.onEng f).ctx d = s.ctx d := rfl

/-! ### State.onSeam -/

@[simp] theorem State.onSeam_pending (s : State) (f : SeamState → SeamState) : (s.onSeam f).pending = s.pending := rfl
@[simp] theorem State.onSeam_fields (s : State) (f : SeamState → SeamState) : (s.onSeam f).fields = s.fields := rfl
@[simp] theorem State.onSeam_power (s : State) (f : SeamState → SeamState) : (s.onSeam f).power = s.power := rfl
@[simp] theorem State.onSeam_pins (s : State) (f : SeamState → SeamState) : (s.onSeam f).pins = s.pins := rfl
@[simp] theorem State.onSeam_tap (s : State) (f : SeamState → SeamState) : (s.onSeam f).tap = s.tap := rfl
@[simp] theorem State.onSeam_ctxs (s : State) (f : SeamState → SeamState) : (s.onSeam f).ctxs = s.ctxs := rfl
@[simp] theorem State.onSeam_core (s : State) (f : SeamState → SeamState) : (s.onSeam f).core = s.core := rfl
@[simp] theorem State.onSeam_collar (s : State) (f : SeamState → SeamState) : (s.onSeam f).collar = s.collar := rfl
@[simp] theorem State.onSeam_faults (s : State) (f : SeamState → SeamState) : (s.onSeam f).faults = s.faults := rfl
@[simp] theorem State.onSeam_apron (s : State) (f : SeamState → SeamState) : (s.onSeam f).apron = s.apron := rfl
@[simp] theorem State.onSeam_mem (s : State) (f : SeamState → SeamState) : (s.onSeam f).mem = s.mem := rfl
@[simp] theorem State.onSeam_dbg (s : State) (f : SeamState → SeamState) : (s.onSeam f).dbg = s.dbg := rfl
@[simp] theorem State.onSeam_triad (s : State) (f : SeamState → SeamState) : (s.onSeam f).triad = s.triad := rfl
@[simp] theorem State.onSeam_link (s : State) (f : SeamState → SeamState) : (s.onSeam f).link = s.link := rfl
@[simp] theorem State.onSeam_eng (s : State) (f : SeamState → SeamState) : (s.onSeam f).eng = s.eng := rfl
@[simp] theorem State.onSeam_tailor (s : State) (f : SeamState → SeamState) : (s.onSeam f).tailor = s.tailor := rfl
@[simp] theorem State.onSeam_tod (s : State) (f : SeamState → SeamState) : (s.onSeam f).tod = s.tod := rfl
@[simp] theorem State.onSeam_fresh (s : State) (f : SeamState → SeamState) : (s.onSeam f).fresh = s.fresh := rfl
@[simp] theorem State.onSeam_seam (s : State) (f : SeamState → SeamState) : (s.onSeam f).seam = f s.seam := rfl
@[simp] theorem State.onSeam_fget (s : State) (f : SeamState → SeamState) (g : Field) : (s.onSeam f).fget g = s.fget g := rfl
@[simp] theorem State.onSeam_fbit (s : State) (f : SeamState → SeamState) (g : Field) : (s.onSeam f).fbit g = s.fbit g := rfl
@[simp] theorem State.onSeam_ctx (s : State) (f : SeamState → SeamState) (d : Nat) : (s.onSeam f).ctx d = s.ctx d := rfl

/-! ### State.onTriad -/

@[simp] theorem State.onTriad_pending (s : State) (f : TriadState → TriadState) : (s.onTriad f).pending = s.pending := rfl
@[simp] theorem State.onTriad_fields (s : State) (f : TriadState → TriadState) : (s.onTriad f).fields = s.fields := rfl
@[simp] theorem State.onTriad_power (s : State) (f : TriadState → TriadState) : (s.onTriad f).power = s.power := rfl
@[simp] theorem State.onTriad_pins (s : State) (f : TriadState → TriadState) : (s.onTriad f).pins = s.pins := rfl
@[simp] theorem State.onTriad_tap (s : State) (f : TriadState → TriadState) : (s.onTriad f).tap = s.tap := rfl
@[simp] theorem State.onTriad_ctxs (s : State) (f : TriadState → TriadState) : (s.onTriad f).ctxs = s.ctxs := rfl
@[simp] theorem State.onTriad_core (s : State) (f : TriadState → TriadState) : (s.onTriad f).core = s.core := rfl
@[simp] theorem State.onTriad_collar (s : State) (f : TriadState → TriadState) : (s.onTriad f).collar = s.collar := rfl
@[simp] theorem State.onTriad_faults (s : State) (f : TriadState → TriadState) : (s.onTriad f).faults = s.faults := rfl
@[simp] theorem State.onTriad_apron (s : State) (f : TriadState → TriadState) : (s.onTriad f).apron = s.apron := rfl
@[simp] theorem State.onTriad_mem (s : State) (f : TriadState → TriadState) : (s.onTriad f).mem = s.mem := rfl
@[simp] theorem State.onTriad_dbg (s : State) (f : TriadState → TriadState) : (s.onTriad f).dbg = s.dbg := rfl
@[simp] theorem State.onTriad_link (s : State) (f : TriadState → TriadState) : (s.onTriad f).link = s.link := rfl
@[simp] theorem State.onTriad_eng (s : State) (f : TriadState → TriadState) : (s.onTriad f).eng = s.eng := rfl
@[simp] theorem State.onTriad_seam (s : State) (f : TriadState → TriadState) : (s.onTriad f).seam = s.seam := rfl
@[simp] theorem State.onTriad_tailor (s : State) (f : TriadState → TriadState) : (s.onTriad f).tailor = s.tailor := rfl
@[simp] theorem State.onTriad_tod (s : State) (f : TriadState → TriadState) : (s.onTriad f).tod = s.tod := rfl
@[simp] theorem State.onTriad_fresh (s : State) (f : TriadState → TriadState) : (s.onTriad f).fresh = s.fresh := rfl
@[simp] theorem State.onTriad_triad (s : State) (f : TriadState → TriadState) : (s.onTriad f).triad = f s.triad := rfl
@[simp] theorem State.onTriad_fget (s : State) (f : TriadState → TriadState) (g : Field) : (s.onTriad f).fget g = s.fget g := rfl
@[simp] theorem State.onTriad_fbit (s : State) (f : TriadState → TriadState) (g : Field) : (s.onTriad f).fbit g = s.fbit g := rfl
@[simp] theorem State.onTriad_ctx (s : State) (f : TriadState → TriadState) (d : Nat) : (s.onTriad f).ctx d = s.ctx d := rfl

/-! ### State.onFaults -/

@[simp] theorem State.onFaults_pending (s : State) (f : FaultState → FaultState) : (s.onFaults f).pending = s.pending := rfl
@[simp] theorem State.onFaults_fields (s : State) (f : FaultState → FaultState) : (s.onFaults f).fields = s.fields := rfl
@[simp] theorem State.onFaults_power (s : State) (f : FaultState → FaultState) : (s.onFaults f).power = s.power := rfl
@[simp] theorem State.onFaults_pins (s : State) (f : FaultState → FaultState) : (s.onFaults f).pins = s.pins := rfl
@[simp] theorem State.onFaults_tap (s : State) (f : FaultState → FaultState) : (s.onFaults f).tap = s.tap := rfl
@[simp] theorem State.onFaults_ctxs (s : State) (f : FaultState → FaultState) : (s.onFaults f).ctxs = s.ctxs := rfl
@[simp] theorem State.onFaults_core (s : State) (f : FaultState → FaultState) : (s.onFaults f).core = s.core := rfl
@[simp] theorem State.onFaults_collar (s : State) (f : FaultState → FaultState) : (s.onFaults f).collar = s.collar := rfl
@[simp] theorem State.onFaults_apron (s : State) (f : FaultState → FaultState) : (s.onFaults f).apron = s.apron := rfl
@[simp] theorem State.onFaults_mem (s : State) (f : FaultState → FaultState) : (s.onFaults f).mem = s.mem := rfl
@[simp] theorem State.onFaults_dbg (s : State) (f : FaultState → FaultState) : (s.onFaults f).dbg = s.dbg := rfl
@[simp] theorem State.onFaults_triad (s : State) (f : FaultState → FaultState) : (s.onFaults f).triad = s.triad := rfl
@[simp] theorem State.onFaults_link (s : State) (f : FaultState → FaultState) : (s.onFaults f).link = s.link := rfl
@[simp] theorem State.onFaults_eng (s : State) (f : FaultState → FaultState) : (s.onFaults f).eng = s.eng := rfl
@[simp] theorem State.onFaults_seam (s : State) (f : FaultState → FaultState) : (s.onFaults f).seam = s.seam := rfl
@[simp] theorem State.onFaults_tailor (s : State) (f : FaultState → FaultState) : (s.onFaults f).tailor = s.tailor := rfl
@[simp] theorem State.onFaults_tod (s : State) (f : FaultState → FaultState) : (s.onFaults f).tod = s.tod := rfl
@[simp] theorem State.onFaults_fresh (s : State) (f : FaultState → FaultState) : (s.onFaults f).fresh = s.fresh := rfl
@[simp] theorem State.onFaults_faults (s : State) (f : FaultState → FaultState) : (s.onFaults f).faults = f s.faults := rfl
@[simp] theorem State.onFaults_fget (s : State) (f : FaultState → FaultState) (g : Field) : (s.onFaults f).fget g = s.fget g := rfl
@[simp] theorem State.onFaults_fbit (s : State) (f : FaultState → FaultState) (g : Field) : (s.onFaults f).fbit g = s.fbit g := rfl
@[simp] theorem State.onFaults_ctx (s : State) (f : FaultState → FaultState) (d : Nat) : (s.onFaults f).ctx d = s.ctx d := rfl

/-! ### State.setLane -/

@[simp] theorem State.setLane_pending (s : State) (m : Nat) (x : LaneState) : (s.setLane m x).pending = s.pending := rfl
@[simp] theorem State.setLane_fields (s : State) (m : Nat) (x : LaneState) : (s.setLane m x).fields = s.fields := rfl
@[simp] theorem State.setLane_power (s : State) (m : Nat) (x : LaneState) : (s.setLane m x).power = s.power := rfl
@[simp] theorem State.setLane_pins (s : State) (m : Nat) (x : LaneState) : (s.setLane m x).pins = s.pins := rfl
@[simp] theorem State.setLane_tap (s : State) (m : Nat) (x : LaneState) : (s.setLane m x).tap = s.tap := rfl
@[simp] theorem State.setLane_ctxs (s : State) (m : Nat) (x : LaneState) : (s.setLane m x).ctxs = s.ctxs := rfl
@[simp] theorem State.setLane_core (s : State) (m : Nat) (x : LaneState) : (s.setLane m x).core = s.core := rfl
@[simp] theorem State.setLane_collar (s : State) (m : Nat) (x : LaneState) : (s.setLane m x).collar = s.collar := rfl
@[simp] theorem State.setLane_faults (s : State) (m : Nat) (x : LaneState) : (s.setLane m x).faults = s.faults := rfl
@[simp] theorem State.setLane_apron (s : State) (m : Nat) (x : LaneState) : (s.setLane m x).apron = s.apron := rfl
@[simp] theorem State.setLane_mem (s : State) (m : Nat) (x : LaneState) : (s.setLane m x).mem = s.mem := rfl
@[simp] theorem State.setLane_dbg (s : State) (m : Nat) (x : LaneState) : (s.setLane m x).dbg = s.dbg := rfl
@[simp] theorem State.setLane_triad (s : State) (m : Nat) (x : LaneState) : (s.setLane m x).triad = s.triad := rfl
@[simp] theorem State.setLane_eng (s : State) (m : Nat) (x : LaneState) : (s.setLane m x).eng = s.eng := rfl
@[simp] theorem State.setLane_seam (s : State) (m : Nat) (x : LaneState) : (s.setLane m x).seam = s.seam := rfl
@[simp] theorem State.setLane_tailor (s : State) (m : Nat) (x : LaneState) : (s.setLane m x).tailor = s.tailor := rfl
@[simp] theorem State.setLane_tod (s : State) (m : Nat) (x : LaneState) : (s.setLane m x).tod = s.tod := rfl
@[simp] theorem State.setLane_fresh (s : State) (m : Nat) (x : LaneState) : (s.setLane m x).fresh = s.fresh := rfl
@[simp] theorem State.setLane_fget (s : State) (m : Nat) (x : LaneState) (g : Field) : (s.setLane m x).fget g = s.fget g := rfl
@[simp] theorem State.setLane_fbit (s : State) (m : Nat) (x : LaneState) (g : Field) : (s.setLane m x).fbit g = s.fbit g := rfl
@[simp] theorem State.setLane_ctx (s : State) (m : Nat) (x : LaneState) (d : Nat) : (s.setLane m x).ctx d = s.ctx d := rfl

/-! ### State.setChan -/

@[simp] theorem State.setChan_pending (s : State) (n : Nat) (x : ChanState) : (s.setChan n x).pending = s.pending := rfl
@[simp] theorem State.setChan_fields (s : State) (n : Nat) (x : ChanState) : (s.setChan n x).fields = s.fields := rfl
@[simp] theorem State.setChan_power (s : State) (n : Nat) (x : ChanState) : (s.setChan n x).power = s.power := rfl
@[simp] theorem State.setChan_pins (s : State) (n : Nat) (x : ChanState) : (s.setChan n x).pins = s.pins := rfl
@[simp] theorem State.setChan_tap (s : State) (n : Nat) (x : ChanState) : (s.setChan n x).tap = s.tap := rfl
@[simp] theorem State.setChan_ctxs (s : State) (n : Nat) (x : ChanState) : (s.setChan n x).ctxs = s.ctxs := rfl
@[simp] theorem State.setChan_core (s : State) (n : Nat) (x : ChanState) : (s.setChan n x).core = s.core := rfl
@[simp] theorem State.setChan_collar (s : State) (n : Nat) (x : ChanState) : (s.setChan n x).collar = s.collar := rfl
@[simp] theorem State.setChan_faults (s : State) (n : Nat) (x : ChanState) : (s.setChan n x).faults = s.faults := rfl
@[simp] theorem State.setChan_apron (s : State) (n : Nat) (x : ChanState) : (s.setChan n x).apron = s.apron := rfl
@[simp] theorem State.setChan_mem (s : State) (n : Nat) (x : ChanState) : (s.setChan n x).mem = s.mem := rfl
@[simp] theorem State.setChan_dbg (s : State) (n : Nat) (x : ChanState) : (s.setChan n x).dbg = s.dbg := rfl
@[simp] theorem State.setChan_triad (s : State) (n : Nat) (x : ChanState) : (s.setChan n x).triad = s.triad := rfl
@[simp] theorem State.setChan_eng (s : State) (n : Nat) (x : ChanState) : (s.setChan n x).eng = s.eng := rfl
@[simp] theorem State.setChan_seam (s : State) (n : Nat) (x : ChanState) : (s.setChan n x).seam = s.seam := rfl
@[simp] theorem State.setChan_tailor (s : State) (n : Nat) (x : ChanState) : (s.setChan n x).tailor = s.tailor := rfl
@[simp] theorem State.setChan_tod (s : State) (n : Nat) (x : ChanState) : (s.setChan n x).tod = s.tod := rfl
@[simp] theorem State.setChan_fresh (s : State) (n : Nat) (x : ChanState) : (s.setChan n x).fresh = s.fresh := rfl
@[simp] theorem State.setChan_fget (s : State) (n : Nat) (x : ChanState) (g : Field) : (s.setChan n x).fget g = s.fget g := rfl
@[simp] theorem State.setChan_fbit (s : State) (n : Nat) (x : ChanState) (g : Field) : (s.setChan n x).fbit g = s.fbit g := rfl
@[simp] theorem State.setChan_ctx (s : State) (n : Nat) (x : ChanState) (d : Nat) : (s.setChan n x).ctx d = s.ctx d := rfl

/-! ### State.setRing -/

@[simp] theorem State.setRing_pending (s : State) (r : Nat) (x : RingState) : (s.setRing r x).pending = s.pending := rfl
@[simp] theorem State.setRing_fields (s : State) (r : Nat) (x : RingState) : (s.setRing r x).fields = s.fields := rfl
@[simp] theorem State.setRing_power (s : State) (r : Nat) (x : RingState) : (s.setRing r x).power = s.power := rfl
@[simp] theorem State.setRing_pins (s : State) (r : Nat) (x : RingState) : (s.setRing r x).pins = s.pins := rfl
@[simp] theorem State.setRing_tap (s : State) (r : Nat) (x : RingState) : (s.setRing r x).tap = s.tap := rfl
@[simp] theorem State.setRing_ctxs (s : State) (r : Nat) (x : RingState) : (s.setRing r x).ctxs = s.ctxs := rfl
@[simp] theorem State.setRing_core (s : State) (r : Nat) (x : RingState) : (s.setRing r x).core = s.core := rfl
@[simp] theorem State.setRing_collar (s : State) (r : Nat) (x : RingState) : (s.setRing r x).collar = s.collar := rfl
@[simp] theorem State.setRing_faults (s : State) (r : Nat) (x : RingState) : (s.setRing r x).faults = s.faults := rfl
@[simp] theorem State.setRing_apron (s : State) (r : Nat) (x : RingState) : (s.setRing r x).apron = s.apron := rfl
@[simp] theorem State.setRing_mem (s : State) (r : Nat) (x : RingState) : (s.setRing r x).mem = s.mem := rfl
@[simp] theorem State.setRing_dbg (s : State) (r : Nat) (x : RingState) : (s.setRing r x).dbg = s.dbg := rfl
@[simp] theorem State.setRing_link (s : State) (r : Nat) (x : RingState) : (s.setRing r x).link = s.link := rfl
@[simp] theorem State.setRing_eng (s : State) (r : Nat) (x : RingState) : (s.setRing r x).eng = s.eng := rfl
@[simp] theorem State.setRing_seam (s : State) (r : Nat) (x : RingState) : (s.setRing r x).seam = s.seam := rfl
@[simp] theorem State.setRing_tailor (s : State) (r : Nat) (x : RingState) : (s.setRing r x).tailor = s.tailor := rfl
@[simp] theorem State.setRing_tod (s : State) (r : Nat) (x : RingState) : (s.setRing r x).tod = s.tod := rfl
@[simp] theorem State.setRing_fresh (s : State) (r : Nat) (x : RingState) : (s.setRing r x).fresh = s.fresh := rfl
@[simp] theorem State.setRing_fget (s : State) (r : Nat) (x : RingState) (g : Field) : (s.setRing r x).fget g = s.fget g := rfl
@[simp] theorem State.setRing_fbit (s : State) (r : Nat) (x : RingState) (g : Field) : (s.setRing r x).fbit g = s.fbit g := rfl
@[simp] theorem State.setRing_ctx (s : State) (r : Nat) (x : RingState) (d : Nat) : (s.setRing r x).ctx d = s.ctx d := rfl

/-! ### Register fields -/

/-- A field reads what was set, modulo its width. -/
@[simp] theorem State.fget_fset_same (s : State) (f : Field) (v : Nat) : (s.fset f v).fget f = v % 2 ^ f.width := by
  simp [State.fget, State.fset]

/-- Setting one field leaves every other field alone. -/
theorem State.fget_fset_ne (s : State) {f g : Field} (v : Nat) (h : g.key ≠ f.key) : (s.fset f v).fget g = s.fget g := by
  simp [State.fget, State.fset, AMap.get_set_ne _ _ _ _ h]

theorem State.fbit_fset_ne (s : State) {f g : Field} (v : Nat) (h : g.key ≠ f.key) : (s.fset f v).fbit g = s.fbit g := by
  simp [State.fbit, State.fget_fset_ne s v h]

theorem State.fget_fsetB_ne (s : State) {f g : Field} (b : Bool) (h : g.key ≠ f.key) : (s.fsetB f b).fget g = s.fget g :=
  State.fget_fset_ne s _ h

theorem State.fbit_fsetB_ne (s : State) {f g : Field} (b : Bool) (h : g.key ≠ f.key) : (s.fsetB f b).fbit g = s.fbit g :=
  State.fbit_fset_ne s _ h

theorem State.fget_fcount_ne (s : State) {f g : Field} (n : Nat) (h : g.key ≠ f.key) : (s.fcount f n).fget g = s.fget g :=
  State.fget_fset_ne s _ h

/-- A one-bit field reads the truth value it was set to. -/
theorem State.fbit_fsetB_same (s : State) (f : Field) (b : Bool) (h : f.width = 1) : (s.fsetB f b).fbit f = b := by
  cases b <;> simp [State.fbit, State.fsetB, bnat, h]

/-! ### Contexts and their registers -/

/-- A context reads what was set; every other context is unchanged. -/
@[simp] theorem State.ctx_setCtx_same (s : State) (c : Nat) (x : Ctx) : (s.setCtx c x).ctx c = x := by
  simp [State.ctx, State.setCtx]

theorem State.ctx_setCtx_ne (s : State) {c d : Nat} (x : Ctx) (h : d ≠ c) : (s.setCtx c x).ctx d = s.ctx d := by
  simp [State.ctx, State.setCtx, AMap.get_set_ne _ _ _ _ h]

@[simp] theorem Ctx.readG_zero (x : Ctx) : x.readG 0 = 0 := rfl

/-- A general register reads what was written; g0 reads zero (R93). -/
theorem Ctx.readG_writeG (x : Ctx) (r q : Nat) (v : Word) (hr : r < 32) (hq : q < 32) :
    (x.writeG r v).readG q = if q = r ∧ r ≠ 0 then v else x.readG q := by
  unfold Ctx.writeG Ctx.readG
  rw [Nat.mod_eq_of_lt hr, Nat.mod_eq_of_lt hq]
  by_cases h0 : r = 0
  · simp [h0]
  · by_cases hq0 : q = 0
    · simp [hq0, Ne.symm h0, h0]
    · by_cases hqr : q = r
      · simp [hqr, h0]
      · simp [hqr, hq0, h0, AMap.get_set_ne _ _ _ _ hqr]

/-- A floating register reads what was written (R94). -/
theorem Ctx.readF_writeF (x : Ctx) (r q : Nat) (v : Word) (hr : r < 32) (hq : q < 32) :
    (x.writeF r v).readF q = if q = r then v else x.readF q := by
  unfold Ctx.writeF Ctx.readF
  rw [Nat.mod_eq_of_lt hr, Nat.mod_eq_of_lt hq]
  exact AMap.get_set 0 x.f r q v

@[simp] theorem Ctx.writeG_f (x : Ctx) (r : Nat) (v : Word) : (x.writeG r v).f = x.f := by unfold Ctx.writeG; split <;> rfl
@[simp] theorem Ctx.writeG_pc (x : Ctx) (r : Nat) (v : Word) : (x.writeG r v).pc = x.pc := by unfold Ctx.writeG; split <;> rfl
@[simp] theorem Ctx.writeG_st (x : Ctx) (r : Nat) (v : Word) : (x.writeG r v).st = x.st := by unfold Ctx.writeG; split <;> rfl
@[simp] theorem Ctx.writeG_fcsr (x : Ctx) (r : Nat) (v : Word) : (x.writeG r v).fcsr = x.fcsr := by unfold Ctx.writeG; split <;> rfl
@[simp] theorem Ctx.writeG_dcr (x : Ctx) (r : Nat) (v : Word) : (x.writeG r v).dcr = x.dcr := by unfold Ctx.writeG; split <;> rfl
@[simp] theorem Ctx.writeG_sr (x : Ctx) (r : Nat) (v : Word) : (x.writeG r v).sr = x.sr := by unfold Ctx.writeG; split <;> rfl
@[simp] theorem Ctx.writeG_fr (x : Ctx) (r : Nat) (v : Word) : (x.writeG r v).fr = x.fr := by unfold Ctx.writeG; split <;> rfl
@[simp] theorem Ctx.writeF_g (x : Ctx) (r : Nat) (v : Word) : (x.writeF r v).g = x.g := rfl
@[simp] theorem Ctx.writeF_pc (x : Ctx) (r : Nat) (v : Word) : (x.writeF r v).pc = x.pc := rfl
@[simp] theorem Ctx.writeF_st (x : Ctx) (r : Nat) (v : Word) : (x.writeF r v).st = x.st := rfl

end Sys2Proof.Machine
end

