-- ==== Sys2Proof/Laws/Cpu.lean ====
section
/-! SUPPORT. What the frame of one instruction does, once for each way a body can end: a completion, a jump, a
completion with a store, an exception. -/

namespace Sys2Proof.Machine

open Sys2Proof.Safety

/-! ### What a commit leaves alone -/

@[simp] theorem State.commit_pending (s : State) (c : Nat) (b : Bool) (pc : Word) : (s.commit c b pc).pending = s.pending := rfl
@[simp] theorem State.commit_power (s : State) (c : Nat) (b : Bool) (pc : Word) : (s.commit c b pc).power = s.power := rfl
@[simp] theorem State.commit_pins (s : State) (c : Nat) (b : Bool) (pc : Word) : (s.commit c b pc).pins = s.pins := rfl
@[simp] theorem State.commit_tap (s : State) (c : Nat) (b : Bool) (pc : Word) : (s.commit c b pc).tap = s.tap := rfl
@[simp] theorem State.commit_core (s : State) (c : Nat) (b : Bool) (pc : Word) : (s.commit c b pc).core = s.core := rfl
@[simp] theorem State.commit_collar (s : State) (c : Nat) (b : Bool) (pc : Word) : (s.commit c b pc).collar = s.collar := rfl
@[simp] theorem State.commit_faults (s : State) (c : Nat) (b : Bool) (pc : Word) : (s.commit c b pc).faults = s.faults := rfl
@[simp] theorem State.commit_apron (s : State) (c : Nat) (b : Bool) (pc : Word) : (s.commit c b pc).apron = s.apron := rfl
@[simp] theorem State.commit_mem (s : State) (c : Nat) (b : Bool) (pc : Word) : (s.commit c b pc).mem = s.mem := rfl
@[simp] theorem State.commit_dbg (s : State) (c : Nat) (b : Bool) (pc : Word) : (s.commit c b pc).dbg = s.dbg := rfl
@[simp] theorem State.commit_triad (s : State) (c : Nat) (b : Bool) (pc : Word) : (s.commit c b pc).triad = s.triad := rfl
@[simp] theorem State.commit_link (s : State) (c : Nat) (b : Bool) (pc : Word) : (s.commit c b pc).link = s.link := rfl
@[simp] theorem State.commit_eng (s : State) (c : Nat) (b : Bool) (pc : Word) : (s.commit c b pc).eng = s.eng := rfl
@[simp] theorem State.commit_seam (s : State) (c : Nat) (b : Bool) (pc : Word) : (s.commit c b pc).seam = s.seam := rfl
@[simp] theorem State.commit_tailor (s : State) (c : Nat) (b : Bool) (pc : Word) : (s.commit c b pc).tailor = s.tailor := rfl
@[simp] theorem State.commit_tod (s : State) (c : Nat) (b : Bool) (pc : Word) : (s.commit c b pc).tod = s.tod := rfl

theorem key_count_ne_swguard (c p : Nat) : (WEFT_LOCK.COUNT p).key ≠ (POCKET_STAT.SWGUARD c).key := by
  simp only [Field.key, WEFT_LOCK.COUNT, POCKET_STAT.SWGUARD]
  omega

theorem key_phys_ne_swguard (c k : Nat) : (TAILOR_SLOT.PHYS k).key ≠ (POCKET_STAT.SWGUARD c).key := by
  simp only [Field.key, TAILOR_SLOT.PHYS, POCKET_STAT.SWGUARD]
  omega

/-- What a commit leaves (R98, R183, R213, R324). -/
theorem State.commit_commits (t : State) (c : Nat) (lvlS : Bool) (pc : Word) (u : State)
    (hu : u = { t.commit c lvlS pc with dbg := { t.dbg with passBp := AMap.erase c t.dbg.passBp } }) :
    Commits t u c (t.ctx c) pc := by
  have hx : u.ctx c = { (if lvlS then { t.ctx c with abandonS := none } else { t.ctx c with abandonLow := none } : Ctx) with
      pc := pc, cyc := (t.ctx c).cyc + BitVec.ofNat 64 (1 + Config.freeElapsed t.fresh) } := by
    subst hu
    simp only [State.commit]
    split <;> simp [State.ctx, State.setCtx, State.fset]
  have hag : ∀ s : State, s.fields = (t.fset (POCKET_STAT.SWGUARD c) 0).fields → s.agentOf c = t.agentOf c := by
    intro s hs
    have h := State.fget_fset_ne t (f := POCKET_STAT.SWGUARD c) (g := TAILOR_SLOT.PHYS (slotOf c)) 0 (key_phys_ne_swguard _ _)
    simpa [State.agentOf, State.physOf, State.fget, hs] using h
  have hf : u.fields = ((t.fset (POCKET_STAT.SWGUARD c) 0).fset (WEFT_LOCK.COUNT (t.agentOf c)) 0).fields := by
    subst hu
    simp only [State.commit]
    have := hag ((t.setCtx c (if lvlS then { t.ctx c with abandonS := none } else { t.ctx c with abandonLow := none })).fset
      (POCKET_STAT.SWGUARD c) 0) rfl
    rw [this]
    rfl
  have hg : ∀ f : Field, u.fget f = ((t.fset (POCKET_STAT.SWGUARD c) 0).fset (WEFT_LOCK.COUNT (t.agentOf c)) 0).fget f := by
    intro f
    simp [State.fget, hf]
  refine ⟨?_, ⟨_, Nat.le_add_right 1 (Config.freeElapsed t.fresh), ?_⟩, ?_, ?_, ?_⟩
  · rw [hx]; cases lvlS <;> rfl
  · rw [hx]
  · rw [hg, State.fget_fset_ne _ _ (key_count_ne_swguard _ _).symm, State.fget_fset_same]
    exact Nat.zero_mod _
  · rw [hg, State.fget_fset_same]
    exact Nat.zero_mod _
  · refine ⟨?_, ?_, ?_, ?_, ?_, ?_, ?_, ?_, ?_, ?_, ?_, ?_, ?_, ?_, ?_, ?_, ?_, ?_⟩
    case refine_16 =>
      intro d hd
      subst hu
      simp only [State.commit, State.ctx, State.setCtx, State.fset]
      rw [AMap.get_set_ne _ _ _ _ hd, AMap.get_set_ne _ _ _ _ hd]
    case refine_17 =>
      intro f h1 h2
      rw [hg, State.fget_fset_ne _ _ h2, State.fget_fset_ne _ _ h1]
    all_goals subst hu; rfl

/-- A body that completes, in a context that is not stepped: the instruction commits with PC past it. -/
theorem State.instr_next {s t v : State} {c len insn : Nat} {cls : Bool} {body : State → Done} {hold : Bool} {insn2 : Nat}
    (h : Starts s c len cls t) (hb : body t = .next v) (hd : NotStepped v c) :
    Commits v (s.instr c len insn cls body hold insn2) c (v.ctx c) (pcPlus cls (s.ctx c).pc len) := by
  apply State.commit_commits v c (s.level c == 1)
  have hs : AMap.get false v.dbg.stepping c = false := hd
  simp [State.instr, h.canRun, h.mode, h.noPartx, h.noIntr, h.noBreak, h.noStep, h.fetched, h.unpatched, hb, State.debugEnd, hs]

/-- A body that jumps. -/
theorem State.instr_jump {s t v : State} {c len insn : Nat} {cls : Bool} {body : State → Done} {hold : Bool} {insn2 : Nat} {pc : Word}
    (h : Starts s c len cls t) (hb : body t = .jump v pc) (hd : NotStepped v c) :
    Commits v (s.instr c len insn cls body hold insn2) c (v.ctx c) pc := by
  apply State.commit_commits v c (s.level c == 1)
  have hs : AMap.get false v.dbg.stepping c = false := hd
  simp [State.instr, h.canRun, h.mode, h.noPartx, h.noIntr, h.noBreak, h.noStep, h.fetched, h.unpatched, hb, State.debugEnd, hs]

/-- A body that completes with a store: the store is performed at the commit (R281). -/
theorem State.instr_post {s t v : State} {c len insn : Nat} {cls : Bool} {body : State → Done} {hold : Bool} {insn2 : Nat}
    {eff : State → State} (h : Starts s c len cls t) (hb : body t = .post v eff) (hd : NotStepped v c) :
    ∃ w, Commits v w c (v.ctx c) (pcPlus cls (s.ctx c).pc len) ∧ s.instr c len insn cls body hold insn2 = eff w := by
  refine ⟨_, State.commit_commits v c (s.level c == 1) _ _ rfl, ?_⟩
  have hs : AMap.get false v.dbg.stepping c = false := hd
  simp [State.instr, h.canRun, h.mode, h.noPartx, h.noIntr, h.noBreak, h.noStep, h.fetched, h.unpatched, hb, State.debugEnd, hs]

/-- A body that raises an exception: the context takes it with the instruction's own PC in RPC (R117). -/
theorem State.instr_exc {s t v : State} {c len insn : Nat} {cls : Bool} {body : State → Done} {hold : Bool} {insn2 : Nat} {e : Exc}
    (h : Starts s c len cls t) (hb : body t = .exc v e) :
    s.instr c len insn cls body hold insn2 = (v.takeExc c e insn (s.ctx c).pc (s.ctx c).pc).debugEnd c := by
  simp [State.instr, h.canRun, h.mode, h.noPartx, h.noIntr, h.noBreak, h.fetched, h.unpatched, hb]

/-- A body that raises an exception after the instruction: RPC holds the next one (R117, SVC and FWC). -/
theorem State.instr_after {s t v : State} {c len insn : Nat} {cls : Bool} {body : State → Done} {hold : Bool} {insn2 : Nat} {e : Exc}
    (h : Starts s c len cls t) (hb : body t = .after v e none) :
    s.instr c len insn cls body hold insn2 =
      ((v.commit c (s.level c == 1) (pcPlus cls (s.ctx c).pc len)).takeExc c e insn (pcPlus cls (s.ctx c).pc len)
        (s.ctx c).pc).debugEnd c := by
  simp [State.instr, h.canRun, h.mode, h.noPartx, h.noIntr, h.noBreak, h.fetched, h.unpatched, hb]

end Sys2Proof.Machine
end

