-- ==== Sys2Proof/Laws/Ops.lean ====
section
/-! SUPPORT. What the shared operations of the module leave alone: Collar events, wake events, Keep writes, fault records and
the minimum set change neither memory nor the queue of commands; and the value a Keep write leaves. -/

namespace Sys2Proof.Machine

@[simp] theorem State.look_mem (s : State) : (s.look).mem = s.mem := by
  unfold State.look
  split <;> rfl

@[simp] theorem State.look_pending (s : State) : (s.look).pending = s.pending := by
  unfold State.look
  split <;> rfl

@[simp] theorem State.draw_mem (s : State) : (s.draw.2).mem = s.mem := by
  rfl

@[simp] theorem State.draw_pending (s : State) : (s.draw.2).pending = s.pending := by
  rfl

@[simp] theorem State.setPk_mem (s : State) (c st : Nat) : (s.setPk c st).mem = s.mem := by
  rfl

@[simp] theorem State.setPk_pending (s : State) (c st : Nat) : (s.setPk c st).pending = s.pending := by
  rfl

@[simp] theorem State.makeReady_mem (s : State) (c : Nat) : (s.makeReady c).mem = s.mem := by
  rfl

@[simp] theorem State.makeReady_pending (s : State) (c : Nat) : (s.makeReady c).pending = s.pending := by
  rfl

@[simp] theorem State.wake_mem (s : State) : (s.wake).mem = s.mem := by
  unfold State.wake
  repeat' split
  all_goals simp

@[simp] theorem State.wake_pending (s : State) : (s.wake).pending = s.pending := by
  unfold State.wake
  repeat' split
  all_goals simp

@[simp] theorem State.wakeBy_mem (s : State) (k : Nat) (en : Field) : (s.wakeBy k en).mem = s.mem := by
  unfold State.wakeBy
  split <;> simp

@[simp] theorem State.wakeBy_pending (s : State) (k : Nat) (en : Field) : (s.wakeBy k en).pending = s.pending := by
  unfold State.wakeBy
  split <;> simp

@[simp] theorem State.eventFor_mem (s : State) (c : Nat) : (s.eventFor c).mem = s.mem := by
  unfold State.eventFor
  dsimp only
  split <;> simp

@[simp] theorem State.eventFor_pending (s : State) (c : Nat) : (s.eventFor c).pending = s.pending := by
  unfold State.eventFor
  dsimp only
  split <;> simp

@[simp] theorem State.setPend_mem (s : State) (src : Nat) (b : Bool) : (s.setPend src b).mem = s.mem := by
  unfold State.setPend
  dsimp only
  rw [apply_ite State.mem, State.fset_mem, State.fsetB_mem, ite_self]

@[simp] theorem State.setPend_pending (s : State) (src : Nat) (b : Bool) : (s.setPend src b).pending = s.pending := by
  unfold State.setPend
  dsimp only
  rw [apply_ite State.pending, State.fset_pending, State.fsetB_pending, ite_self]

@[simp] theorem State.setServ_mem (s : State) (src : Nat) (b : Bool) : (s.setServ src b).mem = s.mem := by
  unfold State.setServ
  rw [apply_ite State.mem, State.fset_mem, State.fsetB_mem, ite_self]

@[simp] theorem State.setServ_pending (s : State) (src : Nat) (b : Bool) : (s.setServ src b).pending = s.pending := by
  unfold State.setServ
  rw [apply_ite State.pending, State.fset_pending, State.fsetB_pending, ite_self]

@[simp] theorem State.setHolder_mem (s : State) (src c : Nat) : (s.setHolder src c).mem = s.mem := by
  unfold State.setHolder
  generalize isSw src = k
  cases k <;> rfl

@[simp] theorem State.setHolder_pending (s : State) (src c : Nat) : (s.setHolder src c).pending = s.pending := by
  unfold State.setHolder
  generalize isSw src = k
  cases k <;> rfl

/-- A run of operations that leave a part of the state alone leaves it alone. -/
theorem State.foldl_same {α β : Type} (p : State → α) (f : State → β → State) (hf : ∀ s b, p (f s b) = p s) (l : List β)
    (s : State) : p (l.foldl f s) = p s := by
  induction l generalizing s with
  | nil => rfl
  | cons b l ih => exact (ih (f s b)).trans (hf s b)

@[simp] theorem State.deliver_mem (s : State) (src : Nat) : (s.deliver src).mem = s.mem := by
  have h := State.foldl_same State.mem State.eventFor (fun t c => t.eventFor_mem c) (s.targetsOf src) s
  unfold State.deliver
  dsimp only
  split
  · rw [State.wake_mem, h]
  · exact h

@[simp] theorem State.deliver_pending (s : State) (src : Nat) : (s.deliver src).pending = s.pending := by
  have h := State.foldl_same State.pending State.eventFor (fun t c => t.eventFor_pending c) (s.targetsOf src) s
  unfold State.deliver
  dsimp only
  split
  · rw [State.wake_pending, h]
  · exact h

@[simp] theorem State.updNotgt_mem (s : State) : (s.updNotgt).mem = s.mem := by
  rfl

@[simp] theorem State.updNotgt_pending (s : State) : (s.updNotgt).pending = s.pending := by
  rfl

/-- A Collar event moves neither memory nor the queue. -/
@[simp] theorem State.collarEvent_mem (s : State) (src : Nat) : (s.collarEvent src).mem = s.mem := by
  unfold State.collarEvent
  repeat' split
  all_goals simp

@[simp] theorem State.collarEvent_pending (s : State) (src : Nat) : (s.collarEvent src).pending = s.pending := by
  unfold State.collarEvent
  repeat' split
  all_goals simp

@[simp] theorem State.updFail_mem (s : State) : (s.updFail).mem = s.mem := by
  rfl

@[simp] theorem State.updFail_pending (s : State) : (s.updFail).pending = s.pending := by
  rfl

@[simp] theorem State.countLost_mem (s : State) (b : Bool) : (s.countLost b).mem = s.mem := by
  unfold State.countLost
  dsimp only
  cases b
  all_goals
    repeat' split
    all_goals simp

@[simp] theorem State.countLost_pending (s : State) (b : Bool) : (s.countLost b).pending = s.pending := by
  unfold State.countLost
  dsimp only
  cases b
  all_goals
    repeat' split
    all_goals simp

@[simp] theorem State.queueRec_mem (s : State) (r : FaultRec) : (s.queueRec r).mem = s.mem := by
  unfold State.queueRec
  dsimp only
  split
  · simp
  · split <;> simp

@[simp] theorem State.queueRec_pending (s : State) (r : FaultRec) : (s.queueRec r).pending = s.pending := by
  unfold State.queueRec
  dsimp only
  split
  · simp
  · split <;> simp

@[simp] theorem State.coords_mem (s : State) (r : FaultRec) : ((s.coords r).1).mem = s.mem := by
  unfold State.coords
  dsimp only
  split <;> rfl

@[simp] theorem State.coords_pending (s : State) (r : FaultRec) : ((s.coords r).1).pending = s.pending := by
  unfold State.coords
  dsimp only
  split <;> rfl

@[simp] theorem State.raiseC_mem (s : State) (r : FaultRec) : (s.raiseC r).mem = s.mem := by
  unfold State.raiseC
  dsimp only
  simp

@[simp] theorem State.raiseC_pending (s : State) (r : FaultRec) : (s.raiseC r).pending = s.pending := by
  unfold State.raiseC
  dsimp only
  simp

/-- A Keep write moves neither memory nor the queue, whether it is performed or refused. -/
@[simp] theorem State.keepWrite_mem (s : State) (f : Field) (v : Nat) : ((s.keepWrite f v).1).mem = s.mem := by
  unfold State.keepWrite
  split
  · rfl
  · dsimp only
    repeat' split
    all_goals simp

@[simp] theorem State.keepWrite_pending (s : State) (f : Field) (v : Nat) : ((s.keepWrite f v).1).pending = s.pending := by
  unfold State.keepWrite
  split
  · rfl
  · dsimp only
    repeat' split
    all_goals simp

/-- A Keep write that is performed leaves the value in the register (R573, R574). -/
theorem State.keepWrite_value (s : State) (f : Field) (v e : Nat) (he : keepEntry f = some e) (hu : (s.keepMeta e).uncorr = false)
    (hv : s.fget f ≠ v % 2 ^ f.width) (hc : (s.keepMeta e).count + 1 < keepNear) :
    s.keepWrite f v = ((s.fset f v).setKeepMeta e { s.keepMeta e with count := (s.keepMeta e).count + 1 }, true) := by
  have hr : ¬ keepRating ≤ (s.keepMeta e).count := by simp only [keepRating, keepNear] at *; omega
  have hk : ¬ keepNear ≤ (s.keepMeta e).count + 1 := by omega
  simp [State.keepWrite, he, hu, hv, hr, hk]

@[simp] theorem State.faultEnd_mem (s : State) : (s.faultEnd).mem = s.mem := by
  unfold State.faultEnd
  dsimp only
  split
  · simp only [State.updFail_mem, State.collarEvent_mem]
    repeat' split
    all_goals simp
  · rfl

@[simp] theorem State.faultEnd_pending (s : State) : (s.faultEnd).pending = s.pending := by
  unfold State.faultEnd
  dsimp only
  split
  · simp only [State.updFail_pending, State.collarEvent_pending]
    repeat' split
    all_goals simp
  · rfl

@[simp] theorem State.setMinset_mem (s : State) (m : Nat) : (s.setMinset m).mem = s.mem := by
  unfold State.setMinset
  split
  · rfl
  · dsimp only
    repeat' split
    all_goals simp

@[simp] theorem State.setMinset_pending (s : State) (m : Nat) : (s.setMinset m).pending = s.pending := by
  unfold State.setMinset
  split
  · rfl
  · dsimp only
    repeat' split
    all_goals simp

@[simp] theorem State.updMinset_mem (s : State) : (s.updMinset).mem = s.mem := by
  unfold State.updMinset
  dsimp only
  rw [State.setMinset_mem]

@[simp] theorem State.updMinset_pending (s : State) : (s.updMinset).pending = s.pending := by
  unfold State.updMinset
  dsimp only
  rw [State.setMinset_pending]

/-- Raising a fault moves neither memory nor the queue. -/
@[simp] theorem State.raise_mem (s : State) (r : FaultRec) : (s.raise r).mem = s.mem := by
  unfold State.raise
  dsimp only
  split
  · simp
  · rw [State.updFail_mem, State.queueRec_mem]
    repeat' split
    all_goals simp

@[simp] theorem State.raise_pending (s : State) (r : FaultRec) : (s.raise r).pending = s.pending := by
  unfold State.raise
  dsimp only
  split
  · simp
  · rw [State.updFail_pending, State.queueRec_pending]
    repeat' split
    all_goals simp

@[simp] theorem State.ctxFault_mem (s : State) (c a : Nat) : (s.ctxFault c a).mem = s.mem := by
  unfold State.ctxFault
  rw [State.raise_mem]

@[simp] theorem State.ctxFault_pending (s : State) (c a : Nat) : (s.ctxFault c a).pending = s.pending := by
  unfold State.ctxFault
  rw [State.raise_pending]

@[simp] theorem State.hubFault_mem (s : State) (p : Option Nat) (t u a d : Nat) : (s.hubFault p t u a d).mem = s.mem := by
  unfold State.hubFault
  rw [State.raise_mem]

@[simp] theorem State.hubFault_pending (s : State) (p : Option Nat) (t u a d : Nat) : (s.hubFault p t u a d).pending = s.pending := by
  unfold State.hubFault
  rw [State.raise_pending]

end Sys2Proof.Machine
end

