-- ==== Sys2Proof/Laws/Memory.lean ====
section
/-! SUPPORT. Every operation over memory keeps its canonical form: one law for each, from the byte writes up to the
reads and writes of contexts and Hub agents. A law about an operation of the home or of a cache cites the laws of the
operations it is built from. -/

namespace Sys2Proof.Machine

/-- The memory of a state has its canonical form. -/
@[irreducible] def State.canon (s : State) : Prop := Memory.wf s.mem = true

theorem Memory.wf_iff (m : MemState) : Memory.wf m = true ↔
    AMap.wf 0 m.dram = true ∧ AMap.wf 0 m.h0 = true ∧ AMap.wf 0 m.h1 = true ∧ AMap.wf none m.l3data = true
      ∧ AMap.wf none m.cdata = true ∧ AMap.wf none m.winFlight = true := by
  simp [Memory.wf, and_assoc]

/-- After reset memory lists nothing. -/
theorem State.reset_canon : State.reset.canon := by unfold State.canon; rfl

/-- A change that leaves memory alone keeps the form. -/
theorem State.canon_of_mem {s t : State} (h : s.canon) (e : t.mem = s.mem) : t.canon := by
  unfold State.canon at *; rw [e]; exact h

/-- A run of operations that keep the form keeps it. -/
theorem State.canon_foldl {β : Type} (f : State → β → State) (hf : ∀ s b, s.canon → (f s b).canon) (l : List β)
    {s : State} (h : s.canon) : (l.foldl f s).canon := by
  induction l generalizing s with
  | nil => exact h
  | cons b l ih => exact ih (hf s b h)

/-- The same for a run that carries something beside the state. -/
theorem State.canon_foldl_pair {α β : Type} (f : State × α → β → State × α) (hf : ∀ x b, x.1.canon → (f x b).1.canon)
    (l : List β) {x : State × α} (h : x.1.canon) : (l.foldl f x).1.canon := by
  induction l generalizing x with
  | nil => exact h
  | cons b l ih => exact ih (hf x b h)

/-- Each way of a choice keeps the form. -/
theorem State.canon_ite {c : Prop} [Decidable c] {a b : State} (ha : a.canon) (hb : b.canon) : (if c then a else b).canon := by
  split
  · exact ha
  · exact hb

/-- A change of memory that keeps the form of memory. -/
theorem State.onMem_canon_of {s : State} (h : s.canon) (f : MemState → MemState)
    (hf : ∀ m, Memory.wf m = true → Memory.wf (f m) = true) : (s.onMem f).canon := by
  unfold State.canon at *; exact hf _ h

/-- A change of memory outside its byte maps. -/
theorem State.onMem_same {s : State} (h : s.canon) (f : MemState → MemState)
    (hf : ∀ m, (f m).dram = m.dram ∧ (f m).h0 = m.h0 ∧ (f m).h1 = m.h1 ∧ (f m).l3data = m.l3data ∧ (f m).cdata = m.cdata
      ∧ (f m).winFlight = m.winFlight) : (s.onMem f).canon := by
  refine State.onMem_canon_of h f fun m hm => ?_
  obtain ⟨h1, h2, h3, h4, h5, h6⟩ := hf m
  rw [Memory.wf_iff] at *
  rw [h1, h2, h3, h4, h5, h6]
  exact hm

theorem State.fset_canon {s : State} (f : Field) (v : Nat) (h : s.canon) : (s.fset f v).canon := State.canon_of_mem h rfl

theorem State.draw_canon {s : State} (h : s.canon) : s.draw.2.canon := State.canon_of_mem h rfl

theorem State.raise_canon {s : State} (r : FaultRec) (h : s.canon) : (s.raise r).canon :=
  State.canon_of_mem h (s.raise_mem r)

/-! ### DRAM -/

theorem State.setDram_canon {s : State} (p : Place) (b : Byte) (h : s.canon) : (s.setDram p b).canon := by
  refine State.canon_foldl _ (fun t c ht => State.onMem_canon_of ht _ fun m hm => ?_) _ h
  rw [Memory.wf_iff] at *
  dsimp only
  exact ⟨AMap.wf_set 0 _ _ hm.1, hm.2⟩

theorem State.setDramPois_canon {s : State} (p : Place) (b : Bool) (h : s.canon) : (s.setDramPois p b).canon := by
  refine State.canon_foldl _ (fun _ _ ht => ?_) _ h
  exact State.onMem_same ht _ fun _ => ⟨rfl, rfl, rfl, rfl, rfl, rfl⟩

/-! ### L3 -/

theorem State.l3Clean_canon {s : State} (sec : Nat) (h : s.canon) : (s.l3Clean sec).canon := by
  have step : ∀ t a, State.canon t → (match AMap.get none t.mem.l3data a, t.place a with
      | some b, some p => (t.setDram p b).onMem fun m => { m with l3data := AMap.erase a m.l3data }
      | _, _ => t).canon := by
    intro t a ht
    split
    · refine State.onMem_canon_of (State.setDram_canon _ _ ht) _ fun m hm => ?_
      rw [Memory.wf_iff] at *
      dsimp only
      exact ⟨hm.1, hm.2.1, hm.2.2.1, AMap.wf_erase none _ hm.2.2.2.1, hm.2.2.2.2⟩
    · exact ht
  unfold State.l3Clean
  split
  · exact h
  · dsimp only
    refine State.onMem_same ?_ _ fun _ => ⟨rfl, rfl, rfl, rfl, rfl, rfl⟩
    split
    · exact State.onMem_same (State.setDramPois_canon _ _ (State.canon_foldl _ step _ h)) _ fun _ => ⟨rfl, rfl, rfl, rfl, rfl, rfl⟩
    · exact State.canon_foldl _ step _ h

theorem State.l3Drop_canon {s : State} (sec : Nat) (h : s.canon) : (s.l3Drop sec).canon := by
  refine State.onMem_canon_of h _ fun m h => ?_
  rw [Memory.wf_iff] at *
  dsimp only
  exact ⟨h.1, h.2.1, h.2.2.1, AMap.wf_keep none _ h.2.2.2.1, h.2.2.2.2⟩

theorem State.l3Accept_canon {s : State} (sec : Nat) (h : s.canon) : (s.l3Accept sec).canon := by
  unfold State.l3Accept
  exact State.onMem_same (State.l3Drop_canon _ (State.l3Clean_canon _ h)) _ fun _ => ⟨rfl, rfl, rfl, rfl, rfl, rfl⟩

theorem State.l3Evict_canon {s : State} (sec : Nat) (h : s.canon) : (s.l3Evict sec).canon := by
  unfold State.l3Evict
  refine State.canon_ite (State.l3Drop_canon _ h) ?_
  dsimp only
  exact State.onMem_same (State.canon_ite (State.l3Accept_canon _ h) h) _ fun _ => ⟨rfl, rfl, rfl, rfl, rfl, rfl⟩

theorem State.l3Touch_canon {s : State} (sec : Nat) (h : s.canon) : (s.l3Touch sec).1.canon := by
  unfold State.l3Touch
  split
  · exact h
  · have h1 : (if s.l3Leaving sec then s.l3Accept sec else s).canon := State.canon_ite (State.l3Accept_canon _ h) h
    dsimp only
    generalize (if s.l3Leaving sec then s.l3Accept sec else s) = t at h1
    have hold : ∀ (u : State) k l, u.canon → (u.onMem fun m => { m with
        l3sets := AMap.set [] m.l3sets k l
        l3 := if AMap.get 0 m.l3 sec = 0 then AMap.set 0 m.l3 sec 1 else m.l3 }).canon :=
      fun u k l hu => State.onMem_same hu _ fun _ => ⟨rfl, rfl, rfl, rfl, rfl, rfl⟩
    split
    · split
      · exact h1
      · exact hold _ _ _ h1
    · split
      · exact hold _ _ _ h1
      · exact hold _ _ _ (State.canon_foldl _ (fun u x hu => State.canon_ite hu (State.l3Evict_canon _ hu)) _ h1)
      · exact h1

theorem State.l3CleanSets_canon {s : State} (d a b : Nat) (h : s.canon) : (s.l3CleanSets d a b).canon := by
  unfold State.l3CleanSets
  exact State.canon_foldl _ (fun t e ht => State.canon_foldl _ (fun u x hu =>
    State.canon_foldl _ (fun v y hv => State.l3Clean_canon y hv) _ hu) _ ht) _ h

theorem State.l3Walk_canon {s : State} (d : Nat) (h : s.canon) : (s.l3Walk d).canon := by
  unfold State.l3Walk
  refine State.canon_ite h ?_
  dsimp only
  refine State.fset_canon _ _ (State.onMem_same (State.l3CleanSets_canon _ _ _ ?_) _ fun _ => ⟨rfl, rfl, rfl, rfl, rfl, rfl⟩)
  exact State.draw_canon h

theorem State.l3Pass_canon {s : State} (d sec : Nat) (h : s.canon) : (s.l3Pass d sec).canon := by
  unfold State.l3Pass
  refine State.canon_ite h ?_
  dsimp only
  exact State.canon_ite (State.l3Clean_canon _ (State.l3Walk_canon _ h)) (State.l3Walk_canon _ h)

/-! ### The Hem home -/

theorem State.setWin_canon {s : State} (g a : Nat) (b : Byte) (h : s.canon) : (s.setWin g a b).canon := by
  refine State.onMem_canon_of h _ fun m h => ?_
  rw [Memory.wf_iff] at *
  dsimp only
  exact ⟨h.1, h.2.1, h.2.2.1, h.2.2.2.1, h.2.2.2.2.1, AMap.wf_set none _ _ h.2.2.2.2.2⟩

@[simp] theorem State.noteWear_mem (s : State) (i f : Nat) : (s.noteWear i f).mem = s.mem := by
  unfold State.noteWear
  dsimp only
  split <;> rfl

@[simp] theorem State.wearWrite_mem (s : State) (i off : Nat) : (s.wearWrite i off).mem = s.mem := by
  unfold State.wearWrite
  exact State.noteWear_mem _ _ _

@[simp] theorem State.wearGran_mem (s : State) (i g : Nat) : (s.wearGran i g).mem = s.mem := by
  unfold State.wearGran
  exact State.noteWear_mem _ _ _

theorem State.winDurable_canon {s : State} (p : Nat → Nat → Bool) (h : s.canon) : (s.winDurable p).canon := by
  have put : ∀ (on : Bool) (l : List (Nat × Option Byte)) (m : AMap Byte), AMap.wf 0 m = true →
      AMap.wf 0 (if on then l.foldl (fun h e => match e.2 with
        | some b => AMap.set 0 h e.1 b
        | none => h) m else m) = true := by
    intro on l m hm
    split
    · refine AMap.wf_foldl 0 _ (fun m e hm => ?_) l hm
      split
      · exact AMap.wf_set 0 _ _ hm
      · exact hm
    · exact hm
  unfold State.winDurable
  dsimp only
  refine State.onMem_canon_of (State.canon_foldl _ (fun t i ht => State.canon_ite (State.canon_foldl _
    (fun u k hu => State.canon_of_mem hu (State.wearWrite_mem _ _ _)) _ ht) ht) _ h) _ fun m h => ?_
  rw [Memory.wf_iff] at *
  dsimp only
  exact ⟨h.1, put _ _ _ h.2.1, put _ _ _ h.2.2.1, h.2.2.2.1, h.2.2.2.2.1, AMap.wf_filter none _ h.2.2.2.2.2⟩

theorem State.hubDurable_canon {s : State} (h : s.canon) : s.hubDurable.canon := State.winDurable_canon _ h

/-! ### The home's copy -/

theorem State.setHomePois_canon {s : State} (sec : Nat) (b : Bool) (h : s.canon) : (s.setHomePois sec b).canon := by
  unfold State.setHomePois
  split
  · exact State.onMem_same h _ fun _ => ⟨rfl, rfl, rfl, rfl, rfl, rfl⟩
  · split
    · exact h
    · exact State.canon_ite (State.onMem_same h _ fun _ => ⟨rfl, rfl, rfl, rfl, rfl, rfl⟩) (State.setDramPois_canon _ _ h)

theorem State.homePut_canon {s : State} (g sec : Nat) (bs : List (Nat × Byte)) (h : s.canon) :
    (s.homePut g sec bs).canon := by
  unfold State.homePut
  split
  · exact State.canon_foldl _ (fun t e ht => State.setWin_canon _ _ _ ht) _ h
  · have ht := State.l3Touch_canon sec h
    dsimp only
    refine State.canon_ite (State.l3Pass_canon _ _ (State.onMem_canon_of ht _ fun m ht => ?_)) (State.canon_foldl _ (fun t e ht => ?_) _ ht)
    · rw [Memory.wf_iff] at *
      dsimp only
      exact ⟨ht.1, ht.2.1, ht.2.2.1, AMap.wf_foldl none _ (fun m e hm => AMap.wf_set none _ _ hm) _ ht.2.2.2.1,
        ht.2.2.2.2⟩
    · split
      · exact State.setDram_canon _ _ ht
      · exact ht
  · exact h

/-! ### The caches and their directory -/

theorem State.setDir_canon {s : State} (sec : Nat) (e : DirEntry) (h : s.canon) : (s.setDir sec e).canon :=
  State.onMem_same h _ fun _ => ⟨rfl, rfl, rfl, rfl, rfl, rfl⟩

theorem State.setCopyPois_canon {s : State} (p sec : Nat) (b : Bool) (h : s.canon) : (s.setCopyPois p sec b).canon :=
  State.onMem_same h _ fun _ => ⟨rfl, rfl, rfl, rfl, rfl, rfl⟩

theorem State.setEvict_canon {s : State} (p : Nat) (l : List (Nat × Bool)) (h : s.canon) : (s.setEvict p l).canon :=
  State.onMem_same h _ fun _ => ⟨rfl, rfl, rfl, rfl, rfl, rfl⟩

theorem State.setWalk_canon {s : State} (i v : Nat) (h : s.canon) : (s.setWalk i v).canon :=
  State.onMem_same h _ fun _ => ⟨rfl, rfl, rfl, rfl, rfl, rfl⟩

theorem State.dropBytes_canon {s : State} (sec : Nat) (h : s.canon) : (s.dropBytes sec).canon := by
  refine State.onMem_canon_of h _ fun m h => ?_
  rw [Memory.wf_iff] at *
  dsimp only
  exact ⟨h.1, h.2.1, h.2.2.1, h.2.2.2.1, AMap.wf_keep none _ h.2.2.2.2.1, h.2.2.2.2.2⟩

theorem State.countDirty_canon {s : State} (p : Nat) (h : s.canon) : (s.countDirty p).canon := by
  unfold State.countDirty
  exact State.canon_ite (State.fset_canon _ _ h) h

theorem State.undirty_canon {s : State} (p sec : Nat) (h : s.canon) : (s.undirty p sec).canon :=
  State.countDirty_canon _ (State.onMem_same h _ fun _ => ⟨rfl, rfl, rfl, rfl, rfl, rfl⟩)

theorem State.wbData_canon {s : State} (p sec : Nat) (h : s.canon) : (s.wbData p sec).canon := by
  unfold State.wbData
  dsimp only
  refine State.undirty_canon _ _ (State.dropBytes_canon _ (State.canon_ite (State.raise_canon _ h) ?_))
  exact State.canon_ite (State.homePut_canon _ _ _ h) (State.setHomePois_canon _ _ (State.homePut_canon _ _ _ h))

theorem State.cleanAt_canon {s : State} (p sec : Nat) (h : s.canon) : (s.cleanAt p sec).canon := by
  unfold State.cleanAt
  dsimp only
  exact State.canon_ite (State.canon_ite (State.setDir_canon _ _ (State.wbData_canon _ _ h))
    (State.setDir_canon _ _ (State.wbData_canon _ _ h))) h

theorem State.dropCopy_canon {s : State} (p sec : Nat) (h : s.canon) : (s.dropCopy p sec).canon := by
  unfold State.dropCopy
  dsimp only
  exact State.canon_ite (State.onMem_same (State.setCopyPois_canon _ _ _ h) _ fun _ => ⟨rfl, rfl, rfl, rfl, rfl, rfl⟩)
    (State.setCopyPois_canon _ _ _ h)

theorem State.dirFree_canon {s : State} (sec : Nat) (h : s.canon) : (s.dirFree sec).canon := by
  unfold State.dirFree
  exact State.canon_ite (State.onMem_same (State.dropBytes_canon _ h) _ fun _ => ⟨rfl, rfl, rfl, rfl, rfl, rfl⟩) h

theorem State.leave_canon {s : State} (p sec : Nat) (h : s.canon) : (s.leave p sec).canon := by
  unfold State.leave
  dsimp only
  exact State.dirFree_canon _ (State.dropCopy_canon _ _ (State.setDir_canon _ _ (State.canon_ite (State.wbData_canon _ _ h) h)))

theorem State.forget_canon {s : State} (p sec : Nat) (h : s.canon) : (s.forget p sec).canon := by
  unfold State.forget
  dsimp only
  exact State.dirFree_canon _ (State.dropCopy_canon _ _ (State.setDir_canon _ _ (State.canon_ite
    (State.undirty_canon _ _ (State.canon_ite (State.dropBytes_canon _ h) h)) h)))

/-! ### Eviction buffers -/

theorem State.evictFinish_canon {s : State} (p sec : Nat) (h : s.canon) : (s.evictFinish p sec).canon := by
  unfold State.evictFinish
  split
  · exact h
  · unfold State.evictAck State.evictHome
    exact State.setEvict_canon _ _ (State.canon_ite h (State.setEvict_canon _ _ (State.leave_canon _ _ h)))

theorem State.evictPush_canon {s : State} (p sec : Nat) (b : Bool) (h : s.canon) : (s.evictPush p sec b).canon := by
  unfold State.evictPush
  dsimp only
  refine State.setEvict_canon _ _ ?_
  split
  · exact State.canon_ite (State.evictFinish_canon _ _ h) h
  · exact h

theorem State.cleanVia_canon {s : State} (p sec : Nat) (h : s.canon) : (s.cleanVia p sec).canon :=
  State.cleanAt_canon _ _ (State.evictPush_canon _ _ _ h)

theorem State.evictSector_canon {s : State} (p sec : Nat) (h : s.canon) : (s.evictSector p sec).canon := by
  unfold State.evictSector
  dsimp only
  exact State.canon_ite (State.evictPush_canon _ _ _ (State.undirty_canon _ _ h)) (State.canon_ite h (State.leave_canon _ _ h))

/-! ### The L2 -/

theorem State.l2Touch_canon {s : State} (p sec : Nat) (h : s.canon) : (s.l2Touch p sec).canon := by
  unfold State.l2Touch
  refine State.canon_ite h ?_
  dsimp only
  have h1 : ∀ (t : State) k l, t.canon → (t.onMem fun m => { m with l2sets := AMap.set [] m.l2sets k l }).canon :=
    fun _ _ _ ht => State.onMem_same ht _ fun _ => ⟨rfl, rfl, rfl, rfl, rfl, rfl⟩
  exact State.canon_ite (h1 _ _ _ h) (h1 _ _ _ (State.canon_foldl _ (fun t x ht => State.evictSector_canon _ _ ht) _ (h1 _ _ _ h)))

theorem State.l1Touch_canon {s : State} (p sec : Nat) (d : Bool) (h : s.canon) : (s.l1Touch p sec d).canon := by
  unfold State.l1Touch
  dsimp only
  exact State.canon_ite (State.onMem_same h _ fun _ => ⟨rfl, rfl, rfl, rfl, rfl, rfl⟩) h

theorem State.noteDirty_canon {s : State} (p sec : Nat) (h : s.canon) : (s.noteDirty p sec).canon := by
  unfold State.noteDirty
  dsimp only
  have h1 : ∀ l, ((s.onMem fun m => { m with dirty := AMap.set [] m.dirty p l }).countDirty p).canon :=
    fun l => State.countDirty_canon _ (State.onMem_same h _ fun _ => ⟨rfl, rfl, rfl, rfl, rfl, rfl⟩)
  have h2 : ∀ (b : Prop) [Decidable b] (t : State) x, t.canon → (if b then t.cleanVia p x else t).canon :=
    fun b _ t x ht => State.canon_ite (State.cleanVia_canon _ _ ht) ht
  exact State.canon_ite (h1 _) (h2 _ _ _ (h2 _ _ _ (h1 _)))

theorem State.l2Walk_canon {s : State} (p : Nat) (h : s.canon) : (s.l2Walk p).canon := by
  unfold State.l2Walk
  refine State.canon_ite h ?_
  dsimp only
  have h1 : ∀ (t : State) (l : List Nat) v, t.canon → ((l.foldl (fun t x => t.cleanVia p x) t).setWalk p v).canon :=
    fun t l v ht => State.setWalk_canon _ _ (State.canon_foldl _ (fun u x hu => State.cleanVia_canon _ _ hu) _ ht)
  exact State.canon_ite (State.fset_canon _ _ (h1 _ _ _ (State.draw_canon h))) (h1 _ _ _ (State.draw_canon h))

theorem State.l2Pass_canon {s : State} (p sec : Nat) (h : s.canon) : (s.l2Pass p sec).canon := by
  unfold State.l2Pass
  refine State.canon_ite h ?_
  dsimp only
  exact State.canon_ite (State.cleanVia_canon _ _ (State.l2Walk_canon _ h)) (State.l2Walk_canon _ h)

/-! ### Requests at the home -/

theorem State.cohCount_canon {s : State} (sec n : Nat) (f : Nat → Field) (h : s.canon) : (s.cohCount sec f n).canon := by
  unfold State.cohCount
  dsimp only
  exact State.canon_ite (State.canon_of_mem h rfl) h

theorem State.recallAll_canon {s : State} (sec : Nat) (h : s.canon) : (s.recallAll sec).canon := by
  unfold State.recallAll
  dsimp only
  refine State.canon_foldl _ (fun t q ht => State.leave_canon _ _ ht) _ ?_
  split
  · exact State.leave_canon _ _ h
  · exact h

theorem State.dirAlloc_canon {s : State} (sec : Nat) (h : s.canon) : (s.dirAlloc sec).canon := by
  unfold State.dirAlloc
  dsimp only
  refine State.canon_ite h (State.onMem_same ?_ _ fun _ => ⟨rfl, rfl, rfl, rfl, rfl, rfl⟩)
  split
  · exact State.cohCount_canon _ _ _ (State.recallAll_canon _ h)
  · exact h

theorem State.endTxn_canon {s : State} (sec : Nat) (h : s.canon) : (s.endTxn sec).canon :=
  State.dirFree_canon _ (State.onMem_same h _ fun _ => ⟨rfl, rfl, rfl, rfl, rfl, rfl⟩)

theorem State.forwarded_canon {s : State} (q sec : Nat) (k : ReqKind) (h : s.canon) : (s.forwarded q sec k).canon := by
  have put : ∀ (b : Bool) l, ((s.homePut q sec l).setHomePois sec b).canon :=
    fun b l => State.setHomePois_canon _ _ (State.homePut_canon _ _ _ h)
  have own : ∀ (b : Prop) [Decidable b] (po : Bool) l (e : DirEntry), ((((if b then (s.homePut q sec l).setHomePois sec po
      else s).undirty q sec).setDir sec e).dropCopy q sec).canon :=
    fun b _ po l e => State.dropCopy_canon _ _ (State.setDir_canon _ _ (State.undirty_canon _ _ (State.canon_ite (put _ _) h)))
  unfold State.forwarded
  dsimp only
  refine State.canon_ite h ?_
  cases k
  case readS =>
    exact State.canon_ite (State.setDir_canon _ _ h) (State.canon_ite (State.setDir_canon _ _ (put _ _)) (State.setDir_canon _ _ h))
  case readM => exact own _ _ _ _
  case upgrade => exact own _ _ _ _
  case writePart => exact State.leave_canon _ _ h
  all_goals exact h

theorem State.grant_canon {s : State} (p sec : Nat) (k : ReqKind) (po : Bool) (h : s.canon) : (s.grant p sec k po).canon := by
  have ha := State.dirAlloc_canon sec h
  have own : ∀ (t : State) (e : DirEntry) (l : List Nat), t.canon → ((((l.foldl (fun t q => t.dropCopy q sec) (t.setDir sec e)).setCopyPois
      p sec po).l2Touch p sec).noteDirty p sec).canon :=
    fun t e l ht => State.noteDirty_canon _ _ (State.l2Touch_canon _ _ (State.setCopyPois_canon _ _ _ (State.canon_foldl _
      (fun u q hu => State.dropCopy_canon _ _ hu) _ (State.setDir_canon _ _ ht))))
  unfold State.grant
  dsimp only
  cases k
  case readS =>
    exact State.l2Touch_canon _ _ (State.setCopyPois_canon _ _ _ (State.canon_ite (State.setDir_canon _ _ ha) (State.setDir_canon _ _ ha)))
  case readM => exact own _ _ _ ha
  case upgrade => exact own _ _ _ ha
  all_goals exact ha

theorem State.settle_canon {s : State} (sec : Nat) (h : s.canon) : (s.settle sec).canon := by
  unfold State.settle
  split
  · exact h
  · dsimp only
    refine State.endTxn_canon _ (State.grant_canon _ _ _ _ (State.canon_foldl _ (fun t q ht => State.leave_canon _ _ ht) _ ?_))
    have hc := State.cohCount_canon sec (1 + s.draw.1.toNat % 63) WEFT_COHSTAT.NACK (State.draw_canon h)
    split
    · exact State.forwarded_canon _ _ _ hc
    · exact hc

theorem State.readShared_canon {s : State} (p sec : Nat) (h : s.canon) : (s.readShared p sec).canon := by
  unfold State.readShared
  dsimp only
  refine State.grant_canon _ _ _ _ ?_
  split
  · exact State.forwarded_canon _ _ _ (State.l3Touch_canon _ h)
  · exact State.l3Touch_canon _ h

theorem State.readOwn_canon {s : State} (p sec : Nat) (h : s.canon) : (s.readOwn p sec).canon := by
  unfold State.readOwn
  dsimp only
  have ht : (if (s.cst p sec == .i) = true then (s.l3Touch sec).1 else s).canon := State.canon_ite (State.l3Touch_canon _ h) h
  refine State.grant_canon _ _ _ _ ?_
  split
  · exact State.canon_ite ht (State.forwarded_canon _ _ _ ht)
  · exact ht

/-! ### Accesses -/

theorem State.meet_canon {s : State} (p sec : Nat) (h : s.canon) : (s.meet p sec).canon :=
  State.settle_canon _ (State.evictFinish_canon _ _ h)

theorem State.loadSector_canon {s : State} (p sec : Nat) (u : Bool) (h : s.canon) : (s.loadSector p sec u).canon := by
  have hs := State.meet_canon p sec h
  unfold State.loadSector
  dsimp only
  exact State.canon_ite hs (State.canon_ite (State.l2Touch_canon _ _ hs) (State.canon_ite (State.l3Touch_canon _ hs)
    (State.readShared_canon _ _ hs)))

theorem State.storeSector_canon {s : State} (p sec a : Nat) (bs : List Byte) (u w : Bool) (h : s.canon) :
    (s.storeSector p sec a bs u w).canon := by
  have hs := State.meet_canon p sec h
  have hp : ∀ l, (((s.meet p sec).recallAll sec).homePut p sec l).canon := fun l => State.homePut_canon _ _ _ (State.recallAll_canon _ hs)
  have hw : ∀ l : List (Nat × Byte), (((s.meet p sec).readOwn p sec).onMem fun m => { m with
      cdata := l.foldl (fun l e => AMap.set none l e.1 (some e.2)) m.cdata }).canon := by
    intro l
    refine State.onMem_canon_of (State.readOwn_canon p sec hs) _ fun m ho => ?_
    rw [Memory.wf_iff] at *
    dsimp only
    exact ⟨ho.1, ho.2.1, ho.2.2.1, ho.2.2.2.1, AMap.wf_foldl none _ (fun m e hm => AMap.wf_set none _ _ hm) _ ho.2.2.2.2.1,
      ho.2.2.2.2.2⟩
  unfold State.storeSector
  dsimp only
  exact State.canon_ite (State.canon_ite (State.setHomePois_canon _ _ (hp _)) (hp _)) (State.l2Pass_canon _ _ (State.noteDirty_canon _ _
    (State.canon_ite (State.setCopyPois_canon _ _ _ (hw _)) (hw _))))

theorem State.ctxRead_canon {s : State} (c a n : Nat) (u : Bool) (h : s.canon) : (s.ctxRead c a n u).1.canon := by
  unfold State.ctxRead
  refine State.canon_foldl_pair _ (fun x b hx => ?_) _ h
  dsimp only
  split
  · exact State.canon_of_mem hx (State.ctxFault_mem _ _ _)
  · exact State.loadSector_canon _ _ _ hx

theorem State.ctxWrite_canon {s : State} (c a : Nat) (bs : List Byte) (u w : Bool) (h : s.canon) :
    (s.ctxWrite c a bs u w).canon := by
  unfold State.ctxWrite
  exact State.canon_foldl _ (fun t b ht => State.canon_ite (State.canon_of_mem ht (State.ctxFault_mem _ _ _))
    (State.storeSector_canon _ _ _ _ _ _ ht)) _ h

/-! ### The store buffers -/

theorem State.setSbuf_canon {s : State} (p : Nat) (l : List MemStore) (h : s.canon) : (s.setSbuf p l).canon :=
  State.onMem_same h _ fun _ => ⟨rfl, rfl, rfl, rfl, rfl, rfl⟩

theorem State.sbPut_canon {s : State} (m : MemStore) (h : s.canon) : (s.sbPut m).canon := State.setSbuf_canon _ _ h

theorem State.sbPerform_canon {s : State} (p n : Nat) (h : s.canon) : (s.sbPerform p n).canon := by
  induction n generalizing s with
  | zero => exact h
  | succ n ih =>
    unfold State.sbPerform
    split
    · exact h
    · exact ih (State.ctxWrite_canon _ _ _ _ _ (State.setSbuf_canon _ _ h))

theorem State.sbFlush_canon {s : State} (p : Nat) (h : s.canon) : (s.sbFlush p).canon := State.sbPerform_canon _ _ h
theorem State.sbOwn_canon {s : State} (c : Nat) (h : s.canon) : (s.sbOwn c).canon := State.sbPerform_canon _ _ h

theorem State.sbProgress_canon {s : State} (h : s.canon) : s.sbProgress.canon := by
  unfold State.sbProgress
  exact State.canon_foldl _ (fun t e ht => State.sbPerform_canon _ _ (State.draw_canon ht)) _ h

theorem State.memRead_canon {s : State} (c a n : Nat) (u : Bool) (h : s.canon) : (s.memRead c a n u).1.canon := by
  unfold State.memRead
  split
  · exact h
  · dsimp only
    have hr := State.ctxRead_canon c a n u (State.sbOwn_canon c h)
    exact State.canon_ite hr (State.canon_foldl _ (fun t x ht => State.l1Touch_canon _ _ _ ht) _ hr)

/-! ### Hub agents -/

theorem State.hubRead_canon {s : State} (g : HubAgent) (a n : Nat) (h : s.canon) : (s.hubRead g a n).1.canon := by
  unfold State.hubRead
  refine State.canon_foldl_pair _ (fun x b hx => ?_) _ (State.sbProgress_canon h)
  dsimp only
  split
  · exact State.canon_of_mem hx (State.hubFault_mem _ _ _ _ _ _)
  · exact State.canon_ite (State.l3Touch_canon _ (State.settle_canon _ hx)) (State.settle_canon _ hx)

theorem State.hubWrite_canon {s : State} (g : HubAgent) (a : Nat) (bs : List Byte) (h : s.canon) :
    (s.hubWrite g a bs).canon := by
  unfold State.hubWrite
  refine State.canon_foldl _ (fun t b ht => ?_) _ (State.sbProgress_canon h)
  dsimp only
  have hp : ∀ l, ((((t.settle b.1).recallAll b.1).homePut hubAgentNo b.1 l)).canon :=
    fun l => State.homePut_canon _ _ _ (State.recallAll_canon _ (State.settle_canon _ ht))
  exact State.canon_ite (State.canon_of_mem ht (State.hubFault_mem _ _ _ _ _ _)) (State.canon_ite (State.setHomePois_canon _ _ (hp _)) (hp _))

end Sys2Proof.Machine
end

