-- ==== Sys2Proof/Laws/Results.lean ====
section
/-! SUPPORT. Results of instructions in the terms the statements use: from the body of a meaning to its completion, its
written register, its flags, its exception; the arithmetic of words behind them; and the address forms of loads. -/

namespace Sys2Proof.Machine

open Sys2Proof.Safety

variable {α : Sort _}

/-- A change of one context is no step of the debugger. -/
theorem notStepped_setCtx {t : State} {c d : Nat} {x : Ctx} (h : NotStepped t d) : NotStepped (t.setCtx c x) d := h

/-- A native instruction whose body changes only its context completes with that context. -/
theorem completes_of {s t : State} {c insn : Nat} {body : State → Done} {x : Ctx} {i : Instr}
    (h : Starts s c 4 false t) (hd : NotStepped t c) (hi : exec i s = .next (s.native c insn body))
    (hb : body t = .next (t.setCtx c x)) : Completes i s t c x := by
  refine ⟨_, hi, ?_⟩
  have := State.instr_next (insn := insn) (hold := false) (insn2 := 0) h hb (notStepped_setCtx hd)
  rw [State.ctx_setCtx_same] at this
  exact ⟨this.ctx, this.cyc, this.guard, this.retries, ⟨this.rest.pending, this.rest.power, this.rest.pins, this.rest.tap,
    this.rest.core, this.rest.collar, this.rest.faults, this.rest.apron, this.rest.mem, this.rest.triad, this.rest.link,
    this.rest.eng, this.rest.seam, this.rest.tailor, this.rest.tod,
    fun d h => (this.rest.ctxs d h).trans (State.ctx_setCtx_ne _ _ h), this.rest.fields, this.rest.dbg⟩⟩

/-- An instruction of Ra and Rb with Rc = 0 writes the operation of the two to Rd. -/
theorem rab_writes {s t : State} {c major func : Nat} {f : RFmt} {op : Word → Word → Word} {i : Instr} {v : Word}
    (h : Starts s c 4 false t) (hd : NotStepped t c) (hi : exec i s = .next (s.rab c major func f op))
    (hz : f.rc = 0) (h0 : wordR major func f ≠ 0) (hv : op (t.g c f.ra) (t.g c f.rb) = v) :
    WritesG i s t c f.rd v := by
  apply completes_of h hd (insn := wordR major func f) hi
  simp [guardUndef, hz, h0, ← hv, State.setG]

/-- An instruction of Ra alone, with Rb = Rc = 0, writes the operation of it to Rd. -/
theorem ra1_writes {s t : State} {c major func : Nat} {f : RFmt} {op : Word → Word} {i : Instr} {v : Word}
    (h : Starts s c 4 false t) (hd : NotStepped t c) (hi : exec i s = .next (s.ra1 c major func f op))
    (hz : f.rc = 0) (hb : f.rb = 0) (hv : op (t.g c f.ra) = v) :
    WritesG i s t c f.rd v := by
  apply completes_of h hd (insn := wordR major func f) hi
  simp [guardUndef, hz, hb, ← hv, State.setG]

/-- A word of R form with a major or a function code is not the word of zeros. -/
theorem wordR_func_ne (major func : Nat) (f : RFmt) (h : 0 < major * 2 ^ 26 + func) : wordR major func f ≠ 0 := by
  unfold wordR; omega

/-- A choice by signed comparison of words is the choice by their integers. -/
theorem sltif (a b : Word) (x y : α) : (if a.slt b then x else y) = if a.toInt < b.toInt then x else y := by
  simp [BitVec.slt]

/-- A choice by unsigned comparison of words is the choice by their naturals. -/
theorem ultif (a b : Word) (x y : α) : (if a.ult b then x else y) = if a.toNat < b.toNat then x else y := by
  simp [BitVec.ult]

/-- The sum the flags are computed from is the 65-bit sum of the statements. -/
theorem sum65_eq (a b : Word) (ci : Bool) : sum65 64 a.toNat b.toNat ci = (sum65Of a b ci).toNat := by
  unfold sum65 sum65Of
  have := a.isLt; have := b.isLt
  cases ci <;> simp [bnat] <;> omega

/-- The complement as a natural. -/
theorem notW_eq (b : Word) : notW 64 b.toNat = (~~~b).toNat := by
  have := b.isLt
  simp [notW]; omega

/-- Bit 63 of a word is its sign. -/
theorem bitOf63 (a : Word) : bitOf a.toNat 63 = a.msb := by
  have := a.isLt
  rw [BitVec.msb_eq_decide]
  unfold bitOf
  by_cases h : 2 ^ 63 ≤ a.toNat
  · have h2 : a.toNat / 2 ^ 63 = 1 := by omega
    rw [h2]; simp at h; simp [h]
  · have h2 : a.toNat / 2 ^ 63 = 0 := by omega
    rw [h2]; simp at h; simp [h]

/-- Bit 64 of a 65-bit sum is its carry. -/
theorem msb65 (x : BitVec 65) : decide (2 ^ 64 ≤ x.toNat) = x.msb := by
  rw [BitVec.msb_eq_decide]

/-- The flags of an addition (R140). -/
theorem addFlags_eq (a b : Word) (ci : Bool) : addFlags 64 a.toNat b.toNat ci = flagsOf a b (sum65Of a b ci) false := by
  unfold addFlags flagsOf
  simp only [sum65_eq]
  have hr : (sum65Of a b ci).toNat % 2 ^ 64 = ((sum65Of a b ci).setWidth 64).toNat := by simp
  rw [hr, msb65]
  have h1 : bitOf ((sum65Of a b ci).setWidth 64).toNat (64 - 1) = ((sum65Of a b ci).setWidth 64).msb := bitOf63 _
  have h2 : bitOf a.toNat (64 - 1) = a.msb := bitOf63 _
  have h3 : bitOf b.toNat (64 - 1) = b.msb := bitOf63 _
  rw [h1, h2, h3]
  have hz : ((BitVec.setWidth 64 (sum65Of a b ci)).toNat == 0) = decide (BitVec.setWidth 64 (sum65Of a b ci) = 0) := by
    rw [Bool.eq_iff_iff]; simp [BitVec.toNat_eq]
  rw [hz]
  simp
  cases a.msb <;> cases b.msb <;> cases (BitVec.setWidth 64 (sum65Of a b ci)).msb <;> rfl

/-- The flags of a subtraction (R140). -/
theorem subFlags_eq (a b : Word) (ci : Bool) : subFlags 64 a.toNat b.toNat ci = flagsOf a b (sum65Of a (~~~b) ci) true := by
  unfold subFlags flagsOf
  rw [notW_eq]
  simp only [sum65_eq]
  have hr : (sum65Of a (~~~b) ci).toNat % 2 ^ 64 = ((sum65Of a (~~~b) ci).setWidth 64).toNat := by simp
  rw [hr, msb65]
  have h1 : bitOf ((sum65Of a (~~~b) ci).setWidth 64).toNat (64 - 1) = ((sum65Of a (~~~b) ci).setWidth 64).msb := bitOf63 _
  have h2 : bitOf a.toNat (64 - 1) = a.msb := bitOf63 _
  have h3 : bitOf b.toNat (64 - 1) = b.msb := bitOf63 _
  rw [h1, h2, h3]
  have hz : ((BitVec.setWidth 64 (sum65Of a (~~~b) ci)).toNat == 0) = decide (BitVec.setWidth 64 (sum65Of a (~~~b) ci) = 0) := by
    rw [Bool.eq_iff_iff]; simp [BitVec.toNat_eq]
  rw [hz]
  simp
  cases a.msb <;> cases b.msb <;> cases (BitVec.setWidth 64 (sum65Of a (~~~b) ci)).msb <;> rfl

/-- The result of an addition. -/
theorem addRes_eq (a b : Word) (ci : Bool) : BitVec.ofNat 64 (addRes 64 a.toNat b.toNat ci) = (sum65Of a b ci).setWidth 64 := by
  apply BitVec.eq_of_toNat_eq; simp [addRes, sum65_eq]

/-- The result of a subtraction. -/
theorem subRes_eq (a b : Word) (ci : Bool) : BitVec.ofNat 64 (subRes 64 a.toNat b.toNat ci) = (sum65Of a (~~~b) ci).setWidth 64 := by
  apply BitVec.eq_of_toNat_eq; rw [subRes, notW_eq, sum65_eq]; simp

/-- The later of two changes of a context stands. -/
theorem State.setCtx_setCtx (t : State) (c : Nat) (x y : Ctx) : ((t.setCtx c x).setCtx c y) = t.setCtx c y := by
  simp only [State.setCtx]
  congr 1
  have hc (m : AMap Ctx) : AMap.erase c (AMap.erase c m) = AMap.erase c m := by
    simp [AMap.erase_eq_filter, List.filter_filter]
  have hci (x : Ctx) (m : AMap Ctx) : AMap.erase c (AMap.insert c x m) = AMap.erase c m := by
    induction m with
    | nil => simp [AMap.insert, AMap.erase]
    | cons e m ih =>
      obtain ⟨j, w⟩ := e
      by_cases h : c < j <;> by_cases hj : j = c <;> simp [AMap.insert, AMap.erase, h, hj, ih]
  simp only [AMap.set]
  split <;> split <;> simp [hc, hci]

/-- An instruction that writes its flags and then Rd. -/
theorem writesGF_of {s t : State} {c insn : Nat} {body : State → Done} {r : RegNo} {v : Word} {fl : FlagSet} {i : Instr}
    (h : Starts s c 4 false t) (hd : NotStepped t c) (hi : exec i s = .next (s.native c insn body))
    (hb : body t = .next ((t.flags c fl).setG c r v)) : WritesGF i s t c r v fl := by
  apply completes_of h hd hi
  rw [hb]; simp [State.flags, State.setG, State.setCtx_setCtx]

/-- A body that raises an exception. -/
theorem raises_of {s t v : State} {c insn : Nat} {body : State → Done} {e : Exc} {i : Instr}
    (h : Starts s c 4 false t) (hi : exec i s = .next (s.native c insn body))
    (hb : body t = .exc v e) : Raises i s v c insn e := by
  rw [Raises, hi]
  exact congrArg _ (State.instr_exc h hb)

/-- The high half of the signed product. -/
theorem mulhs_eq (a b : Word) : BitVec.ofNat 64 (wrapTo 128 (a.toInt * b.toInt) / 2 ^ 64) =
    (((a.signExtend 128 * b.signExtend 128 : BitVec 128)) >>> 64).setWidth 64 := by
  apply BitVec.eq_of_toNat_eq
  have h : (a.signExtend 128 * b.signExtend 128 : BitVec 128) = BitVec.ofInt 128 (a.toInt * b.toInt) := by
    apply BitVec.eq_of_toInt_eq
    rw [BitVec.toInt_mul, BitVec.toInt_signExtend_of_le (by decide), BitVec.toInt_signExtend_of_le (by decide), BitVec.toInt_ofInt]
  rw [h]
  simp [wrapTo, Nat.shiftRight_eq_div_pow]

/-- The signed product as 128 bits. -/
theorem wrap128 (a b : Word) : wrapTo 128 (a.toInt * b.toInt) = (a.signExtend 128 * b.signExtend 128 : BitVec 128).toNat := by
  have h : (a.signExtend 128 * b.signExtend 128 : BitVec 128) = BitVec.ofInt 128 (a.toInt * b.toInt) := by
    apply BitVec.eq_of_toInt_eq
    rw [BitVec.toInt_mul, BitVec.toInt_signExtend_of_le (by decide), BitVec.toInt_signExtend_of_le (by decide), BitVec.toInt_ofInt]
  rw [h]
  simp [wrapTo]

/-- The unsigned product as 128 bits. -/
theorem umul128 (a b : Word) : a.toNat * b.toNat = (a.setWidth 128 * b.setWidth 128 : BitVec 128).toNat := by
  have := a.isLt; have := b.isLt
  simp
  rw [Nat.mod_eq_of_lt]
  nlinarith

/-- The same where the body also drew free values or changed debug state on the way. -/
theorem completes_gen {s t v w : State} {c insn : Nat} {body : State → Done} {x : Ctx} {i : Instr}
    (h : Starts s c 4 false t) (hd : NotStepped v c) (hi : exec i s = .next (s.native c insn body))
    (hb : body t = .next w) (hw : w = v.setCtx c x ∨ ∃ n, w = { v.setCtx c x with fresh := n }) : Completes i s v c x := by
  refine ⟨_, hi, ?_⟩
  have hd' : NotStepped w c := by rcases hw with rfl | ⟨n, rfl⟩ <;> exact hd
  have := State.instr_next (insn := insn) (hold := false) (insn2 := 0) h hb hd'
  rcases hw with rfl | ⟨n, rfl⟩
  · rw [State.ctx_setCtx_same] at this
    exact ⟨this.ctx, this.cyc, this.guard, this.retries, ⟨this.rest.pending, this.rest.power, this.rest.pins, this.rest.tap,
      this.rest.core, this.rest.collar, this.rest.faults, this.rest.apron, this.rest.mem, this.rest.triad, this.rest.link,
      this.rest.eng, this.rest.seam, this.rest.tailor, this.rest.tod,
      fun d h => (this.rest.ctxs d h).trans (State.ctx_setCtx_ne _ _ h), this.rest.fields, this.rest.dbg⟩⟩
  · have hc : ({ v.setCtx c x with fresh := n } : State).ctx c = x := State.ctx_setCtx_same v c x
    rw [hc] at this
    exact ⟨this.ctx, this.cyc, this.guard, this.retries, ⟨this.rest.pending, this.rest.power, this.rest.pins, this.rest.tap,
      this.rest.core, this.rest.collar, this.rest.faults, this.rest.apron, this.rest.mem, this.rest.triad, this.rest.link,
      this.rest.eng, this.rest.seam, this.rest.tailor, this.rest.tod,
      fun d h => (this.rest.ctxs d h).trans (State.ctx_setCtx_ne v _ h), this.rest.fields, this.rest.dbg⟩⟩

/-- The four addressing modes. -/
theorem modeCases (f : MFmt) : f.mode = 0 ∨ f.mode = 1 ∨ f.mode = 2 ∨ f.mode = 3 := by
  have : f.mode.toNat < 4 := f.mode.isLt
  have h : f.mode.toNat = 0 ∨ f.mode.toNat = 1 ∨ f.mode.toNat = 2 ∨ f.mode.toNat = 3 := by omega
  rcases h with h | h | h | h
  · exact .inl (BitVec.eq_of_toNat_eq h)
  · exact .inr (.inl (BitVec.eq_of_toNat_eq h))
  · exact .inr (.inr (.inl (BitVec.eq_of_toNat_eq h)))
  · exact .inr (.inr (.inr (BitVec.eq_of_toNat_eq h)))

/-- The effective address as the statements say it. -/
theorem ea_eq (t : State) (c : Nat) (f : MFmt) (n : Nat) : t.ea c f n = eaOf t c f n := by
  unfold State.ea eaOf mDisp
  have h14 := f.opnd.isLt
  have hk : bitsOf f.opnd.toNat 13 9 = f.opnd.toNat / 2 ^ 9 := by
    unfold bitsOf; apply Nat.mod_eq_of_lt; omega
  have h8 : bitsOf f.opnd.toNat 8 6 = f.opnd.toNat / 2 ^ 6 % 8 := rfl
  rcases modeCases f with h | h | h | h <;> simp [h, hk, h8]
  split <;> rfl

/-- A form that the specification allows is not refused. -/
theorem mBad_ok (f : MFmt) (load : Bool) (h : FormOk f load) : mBad f load false false = false := by
  obtain ⟨h2, h1⟩ := h
  have e1 : bitsOf f.opnd.toNat 8 6 = f.opnd.toNat / 2 ^ 6 % 8 := rfl
  have e2 : bitsOf f.opnd.toNat 5 0 = f.opnd.toNat % 64 := by simp [bitsOf]
  unfold mBad
  rcases modeCases f with h | h | h | h
  · simp [h]
  · have := h1 h
    simp [h, e1, e2]; omega
  all_goals
    have := h2 (by simp [h])
    cases load <;> simp_all

/-- Base update: the context with the base written, or no change. -/
theorem writeBack_eq (v : State) (c : Nat) (f : MFmt) (n : Nat) (a : Word) :
    v.writeBack c f n a = v.setCtx c (writtenBack v c f n a) ∨ v.writeBack c f n a = v ∧ writtenBack v c f n a = v.ctx c := by
  unfold State.writeBack writtenBack mDisp
  rcases modeCases f with h | h | h | h <;> simp [h, State.setG]

/-- Base update, then the destination. -/
theorem wb_setG (v : State) (c : Nat) (f : MFmt) (n : Nat) (a : Word) (r : RegNo) (w : Word) :
    (v.writeBack c f n a).setG c r w = v.setCtx c ((writtenBack v c f n a).writeG r.toNat w) := by
  rcases writeBack_eq v c f n a with h | ⟨h, h2⟩
  · rw [h]; simp [State.setG, State.setCtx_setCtx]
  · rw [h, h2]; rfl

/-- A load completes with what its destination takes. -/
theorem load_completes {s t v : State} {c major n : Nat} {f : MFmt} {bs : List Byte} {fp bad : Bool} {put : State → List Byte → State}
    {x : Ctx} {i : Instr}
    (h : Starts s c 4 false t) (hd : NotStepped v c) (hi : exec i s = .next (s.load c major f n fp bad put))
    (hf : FormOk f (!fp)) (hbad : bad = false) (hl : Loads t c (eaOf t c f n) n fp v bs)
    (hp : put (v.writeBack c f n (eaOf t c f n)) bs = v.setCtx c x ∨ ∃ m, put (v.writeBack c f n (eaOf t c f n)) bs = { v.setCtx c x with fresh := m }) : Completes i s v c x := by
  obtain ⟨hlive, t1, l, t2, h1, h2, h3⟩ := hl
  apply completes_gen h hd hi _ hp
  simp only [mBad_ok f _ hf, hbad, guardUndef, ea_eq]
  have e1 : (((eaOf t c f n).toNat % n != 0) : Bool) = decide ((eaOf t c f n).toNat % n ≠ 0) := by rw [Bool.eq_iff_iff]; simp
  have e2 : ((n == 16) : Bool) = decide (n = 16) := by rw [Bool.eq_iff_iff]; simp
  have hz : t.lazyIf c fp = .ok t () := by
    cases fp
    · rfl
    · simp [State.lazyIf, State.lazy, hlive rfl]
  simp only [hz, Out.fin, e1, e2, h1, h2, h3]
  rfl

/-- An access inside a sector is one piece. -/
theorem sector_single (a n : Nat) (hn : 0 < n) (h : a % 64 + n ≤ 64) : sectorPieces a n = [(a / 64, a, n)] := by
  have hd : (a + n - 1) / 64 = a / 64 := by omega
  have hs : (a + n - 1) / 64 - a / 64 + 1 = 1 := by omega
  unfold sectorPieces
  rw [if_neg (by omega), hs]
  simp [upFrom]
  omega

/-- A sector with no open transaction is settled. -/
theorem settle_idle (s : State) (sec : Nat) (h : s.txnOf sec = none) : s.settle sec = s := by
  simp [State.settle, h]

/-- A sector taken into an L2 set with room evicts nothing. -/
theorem l2Touch_room (s : State) (p sec : Nat) (hp : p < 48)
    (h : (sec / 2 :: (AMap.get [] s.mem.l2sets (l2Key p sec)).filter (· ≠ sec / 2)).length ≤ 16) :
    s.l2Touch p sec = s.onMem fun m => { m with
      l2sets := AMap.set [] m.l2sets (l2Key p sec) (sec / 2 :: (AMap.get [] s.mem.l2sets (l2Key p sec)).filter (· ≠ sec / 2)) } := by
  unfold State.l2Touch
  rw [if_neg (by omega)]
  simp only []
  rw [if_pos h]

end Sys2Proof.Machine
end

