-- ==== Sys2Proof/WellFormed.lean ====
section
/-! DEFINITION. Which commands are well formed: every operand lies in the range the spec gives the unit or the field it
names. A meaning takes any operand; one out of range names nothing. -/

namespace Sys2Proof

/-- A frame of the link: every field within its width (R446). -/
def cuffWf (f : Machine.CuffFrame) : Bool :=
  decide (f.type < 256 ∧ f.flags < 256 ∧ f.claim < 2 ^ 16 ∧ f.fsn < 2 ^ 32 ∧ f.tsn < 2 ^ 64 ∧ f.opcode < 2 ^ 16)
    && decide (f.order < 8 ∧ f.frag < 256 ∧ f.frags < 256 ∧ f.chan < 256 ∧ f.h3 < 2 ^ 64 ∧ f.ackfsn < 2 ^ 32)
    && decide (f.credit < 2 ^ 16 ∧ f.astatus < 2 ^ 16 ∧ f.reftsn < 2 ^ 64 ∧ f.payload.length ≤ 4096)
    && f.payload.all (fun b => decide (b < 256))

/-- A frame of a Seam port: every field within its width (R524). -/
def seamWf (f : Machine.SeamFrame) : Bool :=
  decide (f.type < 256 ∧ f.epoch < 4 ∧ f.src < 4 ∧ f.dst < 4 ∧ f.credit < 2 ^ 16 ∧ f.seq < 2 ^ 64 ∧ f.ackseq < 2 ^ 64)
    && decide (f.ivcnt < 2 ^ 64 ∧ f.payload.length ≤ 4096 ∧ f.tag.length = 16 ∧ f.lane < 64)
    && f.payload.all (fun b => decide (b < 256)) && f.tag.all (fun b => decide (b < 256))

/-- A fault event: its location has an action code of R547 and its numbers fit the record (R552). -/
def faultWf (f : Machine.FaultIn) : Bool :=
  decide (f.loc < 0xC * 2 ^ 60 ∧ f.d0 < 2 ^ 64 ∧ f.d1 < 2 ^ 64 ∧ f.d2 < 2 ^ 64)
    && f.ctx.all (fun c => decide (c < 768)) && f.part.all (fun n => decide (n < 256))

/-- Words of the 24 MiB state memory (R411), and a bit for each member. -/
def copyWf (e : Machine.CopyIn) : Bool := e.bad.all (fun w => decide (w.1 < 3 * 2 ^ 20)) && decide (e.tests < 8)

/-- What a move meets names spares and contexts. -/
def moveWf (e : Machine.MoveIn) : Bool := e.spares.all (fun p => decide (p < 48)) && e.images.all (fun c => decide (c < 768))

/-- A target of a sideband bus (R471, R472). -/
def sbWf (f : Machine.SbFound) : Bool :=
  (f.bus == 2 || f.bus == 3) && decide (f.addr < 128 ∧ f.pid < 2 ^ 48) && f.ident.length == 18

/-- DIMMs of the 48 slots, one to a slot. -/
def dimmsWf (l : List Machine.DimmIn) : Bool :=
  l.all (fun d => decide (d.slot < 48 ∧ d.ident < 2 ^ 48)) && decide ((l.map (·.slot)).Nodup)

/-- A request at a memory controller (R311). -/
def reqWf (r : Machine.McReq) : Bool := decide (r.l < 2 ∧ r.port < 8 ∧ r.ca < 2 ^ 40)

/-- What a boot finds: one DIMM to a slot, straps and fused spares in range (R79, R86, R326). -/
def bootWf (e : Machine.BootEnv) : Bool :=
  decide (e.bootSel < 4 ∧ e.seamId < 4 ∧ e.members < 8 ∧ e.rateLimit < 5)
    && e.spares.all (fun p => decide (p < 48)) && e.pairsBad.all (fun p => decide (p < 48))
    && dimmsWf e.dimms
    && e.found.all sbWf

/-- The operands of a command are in range. -/
def Instr.wf (i : Instr) : Bool :=
  match i with
  | .undervoltageRelease a b => decide (a < 2 ^ 20) && decide (b < 2 ^ 20)
  | .softStartEnd => true
  | .coldReset => true
  | .moduleReset cause => decide (cause < 16)
  | .bootSequence e => bootWf e
  | .undervoltageTrip a b => decide (a < 2 ^ 20) && decide (b < 2 ^ 20)
  | .overvoltageShutdown a b => decide (a < 2 ^ 20) && decide (b < 2 ^ 20)
  | .overvoltageRecovery a b => decide (a < 2 ^ 20) && decide (b < 2 ^ 20)
  | .brownout a b => decide (a < 2 ^ 20) && decide (b < 2 ^ 20)
  | .overvoltageFlag a b => decide (a < 2 ^ 20) && decide (b < 2 ^ 20)
  | .pairLost p a b => decide (p < 2) && decide (a < 2 ^ 20) && decide (b < 2 ^ 20)
  | .powerCapStep c _ => decide (c < 12)
  | .clusterClockStepDown c t => decide (c < 12) && decide (t < 256)
  | .clusterClockStepUp c t => decide (c < 12) && decide (t < 256)
  | .thermalStop t => decide (t < 256)
  | .thermalRestart t => decide (t < 256)
  | .coldSensorResample t => decide (t < 256)
  | .powerStateEntry => true
  | .wakeEvent kind => decide (kind < 6)
  | .powerStateExitEnd => true
  | .shutterRequest => true
  | .shutterEntryEnd => true
  | .vaultRequest => true
  | .powerWakeWrite => true
  | .vaultExit kind => decide (kind < 3)
  | .ltrWrite _ n _ => decide (n < 256)
  | .resetNAssert => true
  | .resetNRelease => true
  | .wakeNAssert _ => true
  | .prsntChange n _ => decide (n < 256)
  | .refclkLockRetry _ => true
  | .refclkLoss => true
  | .sloeFail => true
  | .sloeReturn => true
  | .ppsInEdge => true
  | .ppsOutSecond => true
  | .idcode => true
  | .samplePreload cells => cells.length == 6611
  | .extest cells lanes => cells.length == 6611 && lanes.all (fun m => decide (m < 512))
  | .clamp lanes => lanes.all (fun m => decide (m < 512))
  | .highz lanes => lanes.all (fun m => decide (m < 512))
  | .bypass code => decide (code < 256)
  | .dsel v => decide (v < 2 ^ 16)
  | .dcmdHalt => true
  | .dcmdResume => true
  | .dcmdStep => true
  | .dstat => true
  | .dregRead reg => decide (reg < 4096)
  | .dregWrite reg _ => decide (reg < 4096)
  | .dmemRead addr size _ => decide (addr < 2 ^ 52) && decide (size < 4)
  | .dmemWrite addr size _ _ => decide (addr < 2 ^ 52) && decide (size < 4)
  | .dbrk idx _ _ => decide (idx < 4)
  | .debugActionApply => true
  | .breakpointHit c => decide (c < 768)
  | .add c _ => decide (c < 768)
  | .adds c _ => decide (c < 768)
  | .adc c _ => decide (c < 768)
  | .sub c _ => decide (c < 768)
  | .subs c _ => decide (c < 768)
  | .sbc c _ => decide (c < 768)
  | .neg c _ => decide (c < 768)
  | .cmp c _ => decide (c < 768)
  | .and c _ => decide (c < 768)
  | .or c _ => decide (c < 768)
  | .xor c _ => decide (c < 768)
  | .andn c _ => decide (c < 768)
  | .orn c _ => decide (c < 768)
  | .tst c _ => decide (c < 768)
  | .sel c _ => decide (c < 768)
  | .slt c _ => decide (c < 768)
  | .sltu c _ => decide (c < 768)
  | .min c _ => decide (c < 768)
  | .max c _ => decide (c < 768)
  | .minu c _ => decide (c < 768)
  | .maxu c _ => decide (c < 768)
  | .abs c _ => decide (c < 768)
  | .sextb c _ => decide (c < 768)
  | .sexth c _ => decide (c < 768)
  | .sextw c _ => decide (c < 768)
  | .zextw c _ => decide (c < 768)
  | .jr c _ => decide (c < 768)
  | .callr c _ => decide (c < 768)
  | .mul c _ => decide (c < 768)
  | .mulhs c _ => decide (c < 768)
  | .mulhu c _ => decide (c < 768)
  | .mulw c _ => decide (c < 768)
  | .mulwu c _ => decide (c < 768)
  | .madd c _ => decide (c < 768)
  | .msub c _ => decide (c < 768)
  | .divs c _ => decide (c < 768)
  | .divu c _ => decide (c < 768)
  | .rems c _ => decide (c < 768)
  | .remu c _ => decide (c < 768)
  | .sll c _ => decide (c < 768)
  | .srl c _ => decide (c < 768)
  | .sra c _ => decide (c < 768)
  | .ror c _ => decide (c < 768)
  | .clz c _ => decide (c < 768)
  | .ctz c _ => decide (c < 768)
  | .popc c _ => decide (c < 768)
  | .brev c _ => decide (c < 768)
  | .bswap c _ => decide (c < 768)
  | .dadd c _ => decide (c < 768)
  | .dsub c _ => decide (c < 768)
  | .dcmp c _ => decide (c < 768)
  | .dmul c _ => decide (c < 768)
  | .ddiv c _ => decide (c < 768)
  | .dshl c _ => decide (c < 768)
  | .dshr c _ => decide (c < 768)
  | .dneg c _ => decide (c < 768)
  | .dchk c _ => decide (c < 768)
  | .cvbd c _ => decide (c < 768)
  | .cvdb c _ => decide (c < 768)
  | .dsadd c _ => decide (c < 768)
  | .dssub c _ => decide (c < 768)
  | .dsmul c _ => decide (c < 768)
  | .dsdiv c _ => decide (c < 768)
  | .dscmp c _ => decide (c < 768)
  | .dpack c _ => decide (c < 768)
  | .dunpk c _ => decide (c < 768)
  | .fadd c _ _ => decide (c < 768)
  | .fsub c _ _ => decide (c < 768)
  | .fmul c _ _ => decide (c < 768)
  | .fdiv c _ _ => decide (c < 768)
  | .fsqrt c _ _ => decide (c < 768)
  | .fmadd c _ _ => decide (c < 768)
  | .fmsub c _ _ => decide (c < 768)
  | .fmin c _ _ => decide (c < 768)
  | .fmax c _ _ => decide (c < 768)
  | .fabs c _ _ => decide (c < 768)
  | .fneg c _ _ => decide (c < 768)
  | .fcmp c _ _ => decide (c < 768)
  | .feq c _ _ => decide (c < 768)
  | .flt c _ _ => decide (c < 768)
  | .fle c _ _ => decide (c < 768)
  | .fcvti c _ _ => decide (c < 768)
  | .fcvtu c _ _ => decide (c < 768)
  | .icvtf c _ _ => decide (c < 768)
  | .ucvtf c _ _ => decide (c < 768)
  | .fcvt c _ _ => decide (c < 768)
  | .fmvg c _ _ => decide (c < 768)
  | .gmvf c _ _ => decide (c < 768)
  | .fclass c _ _ => decide (c < 768)
  | .frnd c _ _ => decide (c < 768)
  | .cas c _ _ => decide (c < 768)
  | .swp c _ _ => decide (c < 768)
  | .ldadd c _ _ => decide (c < 768)
  | .ldand c _ _ => decide (c < 768)
  | .ldor c _ _ => decide (c < 768)
  | .ldxor c _ _ => decide (c < 768)
  | .movblk c _ => decide (c < 768)
  | .fillblk c _ => decide (c < 768)
  | .nop c _ => decide (c < 768)
  | .mfsr c _ => decide (c < 768)
  | .mtsr c _ => decide (c < 768)
  | .svc c _ => decide (c < 768)
  | .fwc c _ => decide (c < 768)
  | .rfe c _ => decide (c < 768)
  | .brk c _ => decide (c < 768)
  | .bar c _ => decide (c < 768)
  | .persist c _ => decide (c < 768)
  | .isync c _ => decide (c < 768)
  | .wfe c _ => decide (c < 768)
  | .tlbi c _ => decide (c < 768)
  | .tlb2i c _ => decide (c < 768)
  | .cclean c _ => decide (c < 768)
  | .cflush c _ => decide (c < 768)
  | .cinv c _ => decide (c < 768)
  | .pref c _ => decide (c < 768)
  | .csw c _ => decide (c < 768)
  | .savem c _ => decide (c < 768)
  | .loadm c _ => decide (c < 768)
  | .addi c _ => decide (c < 768)
  | .andi c _ => decide (c < 768)
  | .ori c _ => decide (c < 768)
  | .xori c _ => decide (c < 768)
  | .cmpi c _ => decide (c < 768)
  | .movi c _ => decide (c < 768)
  | .insh c _ => decide (c < 768)
  | .slli c _ => decide (c < 768)
  | .srli c _ => decide (c < 768)
  | .srai c _ => decide (c < 768)
  | .muli c _ => decide (c < 768)
  | .extu c _ => decide (c < 768)
  | .exts c _ => decide (c < 768)
  | .insf c _ => decide (c < 768)
  | .ldb c _ => decide (c < 768)
  | .ldbu c _ => decide (c < 768)
  | .ldh c _ => decide (c < 768)
  | .ldhu c _ => decide (c < 768)
  | .ldw c _ => decide (c < 768)
  | .ldwu c _ => decide (c < 768)
  | .ldd c _ => decide (c < 768)
  | .ldp c _ => decide (c < 768)
  | .stb c _ => decide (c < 768)
  | .sth c _ => decide (c < 768)
  | .stw c _ => decide (c < 768)
  | .std c _ => decide (c < 768)
  | .stp c _ => decide (c < 768)
  | .flds c _ => decide (c < 768)
  | .fldd c _ => decide (c < 768)
  | .fsts c _ => decide (c < 768)
  | .fstd c _ => decide (c < 768)
  | .lea c _ => decide (c < 768)
  | .st64 c _ => decide (c < 768)
  | .bc c _ => decide (c < 768)
  | .jmp c _ => decide (c < 768)
  | .call c _ => decide (c < 768)
  | .cbeq c _ => decide (c < 768)
  | .cbne c _ => decide (c < 768)
  | .cblt c _ => decide (c < 768)
  | .cbge c _ => decide (c < 768)
  | .cbltu c _ => decide (c < 768)
  | .cbgeu c _ => decide (c < 768)
  | .sum c _ => decide (c < 768)
  | .sumc c _ => decide (c < 768)
  | .dif c _ => decide (c < 768)
  | .difb c _ => decide (c < 768)
  | .cmr c _ => decide (c < 768)
  | .anr c _ => decide (c < 768)
  | .orr c _ => decide (c < 768)
  | .eor c _ => decide (c < 768)
  | .cpy c _ => decide (c < 768)
  | .negr c _ => decide (c < 768)
  | .muls c _ => decide (c < 768)
  | .mulu c _ => decide (c < 768)
  | .quo c _ => decide (c < 768)
  | .rmd c _ => decide (c < 768)
  | .shl c _ => decide (c < 768)
  | .shr c _ => decide (c < 768)
  | .sha c _ => decide (c < 768)
  | .lnkr c _ => decide (c < 768)
  | .jmpr c _ => decide (c < 768)
  | .dpsum c _ => decide (c < 768)
  | .dpdif c _ => decide (c < 768)
  | .dpcmp c _ => decide (c < 768)
  | .dpmul c _ => decide (c < 768)
  | .dpquo c _ => decide (c < 768)
  | .dpbin c _ => decide (c < 768)
  | .dpdec c _ => decide (c < 768)
  | .dpshf c _ => decide (c < 768)
  | .sumk c _ => decide (c < 768)
  | .cmk c _ => decide (c < 768)
  | .ank c _ => decide (c < 768)
  | .ork c _ => decide (c < 768)
  | .eok c _ => decide (c < 768)
  | .setk c _ => decide (c < 768)
  | .sethk c _ => decide (c < 768)
  | .shlk c _ => decide (c < 768)
  | .shrk c _ => decide (c < 768)
  | .shak c _ => decide (c < 768)
  | .lw c _ => decide (c < 768)
  | .lhs c _ => decide (c < 768)
  | .lhz c _ => decide (c < 768)
  | .lbs c _ => decide (c < 768)
  | .lbz c _ => decide (c < 768)
  | .sw c _ => decide (c < 768)
  | .shw c _ => decide (c < 768)
  | .sby c _ => decide (c < 768)
  | .adr c _ => decide (c < 768)
  | .lnk c _ => decide (c < 768)
  | .lpw c _ => decide (c < 768)
  | .spw c _ => decide (c < 768)
  | .swpc c _ => decide (c < 768)
  | .brc c _ => decide (c < 768)
  | .scall c _ => decide (c < 768)
  | .classicCsw c _ => decide (c < 768)
  | .classicNop c _ => decide (c < 768)
  | .classicBrk c _ => decide (c < 768)
  | .dsum c _ => decide (c < 768)
  | .ddif c _ => decide (c < 768)
  | .dmpy c _ => decide (c < 768)
  | .dquo c _ => decide (c < 768)
  | .dcom c _ => decide (c < 768)
  | .zpk c _ => decide (c < 768)
  | .pkz c _ => decide (c < 768)
  | .bmov c _ => decide (c < 768)
  | .bcmp c _ => decide (c < 768)
  | .interruptEntry c => decide (c < 768)
  | .partxEntry c => decide (c < 768)
  | .persistRequest p => decide (p < 48)
  | .persistAck p => decide (p < 48)
  | .controlStoreParityError p e => decide (p < 48) && decide (e.what < 5) && moveWf e.env
  | .stageSeal crc version => decide (crc < 2 ^ 32) && decide (version < 2 ^ 16)
  | .stageUnseal => true
  | .patchApply p how => decide (p < 64) && decide (how < 5)
  | .pocketResume c => decide (c < 768)
  | .pocketStop c => decide (c < 768)
  | .pocketSave c => decide (c < 768)
  | .pocketRestore c => decide (c < 768)
  | .pocketOwnerWrite c _ owner => decide (c < 768) && decide (owner < 256)
  | .ctxStart n c => decide (n < 256) && decide (c < 768)
  | .ctxStop n c => decide (n < 256) && decide (c < 768)
  | .ctxCont n c => decide (n < 256) && decide (c < 768)
  | .ctxWake n c => decide (n < 256) && decide (c < 768)
  | .ctxSetpri n c => decide (n < 256) && decide (c < 768)
  | .pocketSwitch k => decide (k < 48)
  | .sliceEnd k => decide (k < 48)
  | .swwaitExceeded k => decide (k < 48)
  | .pairGate k => decide (k < 48)
  | .partitionCreate n => decide (n < 256)
  | .partitionDestroy n => decide (n < 256)
  | .partitionReset n => decide (n < 256)
  | .unitReset kind num _ => decide (kind < 5) && decide (num < 1024)
  | .sourceEvent src => decide (src < 2 ^ 16)
  | .collarSend c src => decide (c < 768) && decide (src < 2 ^ 16)
  | .partColsend c n src => decide (c < 768) && decide (n < 256) && decide (src < 2 ^ 16)
  | .partClaim c n => decide (c < 768) && decide (n < 256)
  | .collarFwclaim c => decide (c < 768)
  | .partEos c n src => decide (c < 768) && decide (n < 256) && decide (src < 2 ^ 16)
  | .collarFweos c src => decide (c < 768) && decide (src < 2 ^ 16)
  | .srcForce src => decide (src < 2 ^ 16)
  | .swgrpForce g fsrc => decide (g < 256) && decide (fsrc < 64)
  | .gdisWrite _ => true
  | .partTimerWrite c n _ => decide (c < 768) && decide (n < 256)
  | .collarFwtimerWrite c _ => decide (c < 768)
  | .contextTimerExpiry c => decide (c < 768)
  | .reads p sec => decide (p < 49) && decide (sec < 2 ^ 46)
  | .readm p sec => decide (p < 49) && decide (sec < 2 ^ 46)
  | .upgrade p sec => decide (p < 49) && decide (sec < 2 ^ 46)
  | .writeback p sec => decide (p < 49) && decide (sec < 2 ^ 46)
  | .clean p sec => decide (p < 49) && decide (sec < 2 ^ 46)
  | .evictnotice p sec => decide (p < 49) && decide (sec < 2 ^ 46)
  | .readcur r sec => decide (r < 64) && decide (sec < 2 ^ 46)
  | .writefull r sec bs => decide (r < 64) && decide (sec < 2 ^ 46) && bs.length == 64
  | .writepart r a bs => decide (r < 64) && decide (a < 2 ^ 52) && decide (bs.length ≤ 64)
  | .forwardedRequest sec => decide (sec < 2 ^ 46)
  | .invalidation q sec => decide (q < 49) && decide (sec < 2 ^ 46)
  | .transactionComplete sec => decide (sec < 2 ^ 46)
  | .nackRetry r sec => decide (r < 64) && decide (sec < 2 ^ 46)
  | .writebackAck p sec => decide (p < 49) && decide (sec < 2 ^ 46)
  | .homeTimeout sec agent _ _ => decide (sec < 2 ^ 46) && decide (agent < 49)
  | .requesterTimeout r sec => decide (r < 64) && decide (sec < 2 ^ 46)
  | .l2ctlEnWrite p _ => decide (p < 48)
  | .l3ctlWgenWrite d w => decide (d < 4) && decide (w < 16)
  | .cacheDrainDone _ u => decide (u < 48)
  | .l3PowerupDone d g => decide (d < 4) && decide (g < 4)
  | .mapWrite k _ _ => decide (k < 16)
  | .dramAccess mc req more dev outcome _ => decide (mc < 12) && (req :: more).all reqWf && decide (dev < 20) && decide (outcome < 3)
  | .refreshDue ch rank r => decide (ch < 24) && decide (rank < 4) && decide (r.paid < 16) && decide (r.t < 192)
  | .dramThermalThrottle ch t => decide (ch < 24) && decide (t < 192)
  | .dramThrottleEnd ch t => decide (ch < 24) && decide (t < 192)
  | .rankPowerDown ch rank => decide (ch < 24) && decide (rank < 4)
  | .patrolScrubStep ch dev _ _ _ => decide (ch < 24) && decide (dev < 20)
  | .l3SetScrub d sl sec outcome => decide (d < 4) && decide (sl < 16) && decide (sec < 2 ^ 46) && decide (outcome < 3)
  | .chRemove ch t => decide (ch < 24) && decide (t < 2)
  | .chInsert ch dimms => decide (ch < 24) && dimmsWf dimms
  | .rebuildDone ch => decide (ch < 24)
  | .comparatorMismatch p e => decide (p < 48) && decide (e.what < 8) && moveWf e.env
  | .spareMove e => decide (e.p < 64) && moveWf e.env
  | .spareReinstate p _ => decide (p < 64)
  | .doorbellSend c r ws => decide (c < 768) && decide (r < 4096) && ws.length == 8
  | .doorbellPost c r ws => decide (c < 768) && decide (r < 4096) && ws.length == 8
  | .doorbellAnswer c r ws => decide (c < 768) && decide (r < 4096) && ws.length == 8
  | .doorbellFree c r ws => decide (c < 768) && decide (r < 4096) && ws.length == 8
  | .doorbellBadStore c r _ => decide (c < 768) && decide (r < 4096)
  | .hemWriteDurable tsn _ _ => decide (tsn < 2 ^ 64)
  | .descriptorFetchDone tsn => decide (tsn < 2 ^ 64)
  | .markDurable tsn kind => decide (tsn < 2 ^ 64) && decide (kind < 3)
  | .crack c r _ => decide (c < 768) && decide (r < 4096)
  | .irack c r _ => decide (c < 768) && decide (r < 4096)
  | .ringBind r => decide (r < 4096)
  | .ringUnbind r => decide (r < 4096)
  | .ringResume r => decide (r < 4096)
  | .moderationTimerExpiry r => decide (r < 4096)
  | .answerTimeout tsn => decide (tsn < 2 ^ 64)
  | .reattachExpiry n => decide (n < 256)
  | .journalCarry => true
  | .gownWrite j _ => decide (j < 192)
  | .granuleZeroDone g => decide (g < 768)
  | .hwinaWrite n k _ => decide (n < 256) && decide (k < 8)
  | .hwinbWrite n k _ => decide (n < 256) && decide (k < 8)
  | .hemDieFail u => decide (u < 2)
  | .hemRetire u => decide (u < 2)
  | .hemRejoin u _ => decide (u < 2)
  | .hemRejoinDone => true
  | .wearLevelMove u fr _ => decide (u < 2) && decide (fr < 2 ^ 19)
  | .hemPatrolRewrite e0 e1 w => decide (e0 < 3) && decide (e1 < 3) && decide (w < 8)
  | .triadInputBatch digests outs _ tests => digests.length == 3 && outs.length == 3 && decide (tests < 8)
  | .memberSelfError m tests => decide (m < 3) && decide (tests < 8)
  | .triadEject m => decide (m < 4)
  | .triadRejoin m e => decide (m < 4) && copyWf e.copy
  | .autoRejoin m e => decide (m < 3) && copyWf e.copy
  | .probationEnd m => decide (m < 3)
  | .triadFwLoad a => decide (a < 2 ^ 52)
  | .triadFwSwitch => true
  | .triadFwDiscard => true
  | .triadPoolWrite p reg _ => decide (p < 4096) && decide (reg < 3)
  | .poolInitDone p => decide (p < 4096)
  | .laneTraining m g => decide (m < 512) && decide (g < 4)
  | .laneLockLoss m => decide (m < 512)
  | .losstoExpiry m => decide (m < 512)
  | .laneRetryExpiry m => decide (m < 512)
  | .laneTxFrame m => decide (m < 512)
  | .alignmentMarkerTx m => decide (m < 512)
  | .cuffMarker m count ts _ => decide (m < 512) && decide (count < 2 ^ 24) && decide (ts < 2 ^ 28)
  | .cuffReq m f => decide (m < 512) && cuffWf f
  | .cuffAnswer m f => decide (m < 512) && cuffWf f
  | .cuffAnsack m f => decide (m < 512) && cuffWf f
  | .cuffLack m f => decide (m < 512) && cuffWf f
  | .cuffNak m f => decide (m < 512) && cuffWf f
  | .cuffLinkinfo m f => decide (m < 512) && cuffWf f
  | .cuffRecal m f => decide (m < 512) && cuffWf f
  | .cuffLpreq m f => decide (m < 512) && cuffWf f
  | .ackTimeout m => decide (m < 512)
  | .laneRetrain m => decide (m < 512)
  | .laneRecal m => decide (m < 512)
  | .laneDownCmd m => decide (m < 512)
  | .snap m => decide (m < 512)
  | .recalDue m => decide (m < 512)
  | .recalDone m => decide (m < 512)
  | .lowpowerEntry m => decide (m < 512)
  | .lowpowerRefresh m => decide (m < 512)
  | .lowpowerWake m _ => decide (m < 512)
  | .chanDual n => decide (n < 256)
  | .chanSplit n => decide (n < 256)
  | .modeChangeDone n => decide (n < 256)
  | .chanTake n => decide (n < 256)
  | .rollcallPass found _ voids => found.all sbWf && decide (voids < 128)
  | .rollGo => true
  | .hotJoin => true
  | .pleatsub c n _ => decide (c < 768) && decide (n < 256)
  | .pleatFwsub c _ => decide (c < 768)
  | .pleatCompress _ e _ _ => decide (e < 32)
  | .pleatDecompress _ e => decide (e < 32)
  | .inlineCompress tsn e _ => decide (tsn < 2 ^ 64) && decide (e < 32)
  | .inlineDecompress tsn e => decide (tsn < 2 ^ 64) && decide (e < 32)
  | .pleatEngReset e _ => decide (e < 32)
  | .pleatEngOut e => decide (e < 32)
  | .cloaksub c n _ => decide (c < 768) && decide (n < 256)
  | .cloakFwsub c _ => decide (c < 768)
  | .xtsEnc _ l _ _ => decide (l < 64)
  | .xtsDec _ l _ _ => decide (l < 64)
  | .gcmSeal _ l _ _ => decide (l < 64)
  | .gcmOpen _ l _ _ => decide (l < 64)
  | .cmacGen _ l _ _ => decide (l < 64)
  | .cmacVerify _ l _ _ => decide (l < 64)
  | .inlineEncrypt tsn l _ => decide (tsn < 2 ^ 64) && decide (l < 64)
  | .inlineDecrypt tsn l _ => decide (tsn < 2 ^ 64) && decide (l < 64)
  | .slotLoad k => decide (k < 4096)
  | .oldKeyDrop k => decide (k < 4096)
  | .rootAdd => true
  | .rootLock kcvexp _ => decide (kcvexp < 2 ^ 24)
  | .rootClear => true
  | .cloakLaneReset l _ => decide (l < 64)
  | .cloakLaneOut l => decide (l < 64)
  | .seamPortBringup p res => decide (p < 4) && decide (res < 16)
  | .seamPortRetry p res => decide (p < 4) && decide (res < 16)
  | .seamFrameSeal p e => decide (p < 4) && decide (e.l < 64)
  | .hello p f => decide (p < 4) && seamWf f
  | .helloack p f => decide (p < 4) && seamWf f
  | .beat p f => decide (p < 4) && seamWf f
  | .beatTimer p => decide (p < 4)
  | .seamLack p f => decide (p < 4) && seamWf f
  | .seamNak p f => decide (p < 4) && seamWf f
  | .seamAckTimeout p => decide (p < 4)
  | .mirrec p f => decide (p < 4) && seamWf f
  | .mirmark p f => decide (p < 4) && seamWf f
  | .mirack p f => decide (p < 4) && seamWf f
  | .tsync p f role => decide (p < 4) && seamWf f && decide (role < 4)
  | .tfollow p f => decide (p < 4) && seamWf f
  | .tdreq p f => decide (p < 4) && seamWf f
  | .tdresp p f => decide (p < 4) && seamWf f
  | .syncPeriod => true
  | .syncLoss => true
  | .seamTake p f => decide (p < 4) && seamWf f
  | .claimsync p f => decide (p < 4) && seamWf f
  | .rwrite p f => decide (p < 4) && seamWf f
  | .holdtimeSilence m => decide (m < 4)
  | .takewaitSilence n => decide (n < 256)
  | .txmsg _ => true
  | .todset _ => true
  | .faultEvent f => faultWf f
  | .logWrite => true
  | .faultResume => true
  | .logack _ => true
  | .replay a => decide (a < 2 ^ 52)
  | .quietExpiry => true
  | .watchdogExpiry _ => true
  | .pet => true
  | .collectorSelfcheckFail => true
  | .faultsigWrite c n _ => decide (c < 768) && decide (n < 256)
  | .apronPowerUp => true
  | .calfloorSave => true
  | .todSecondCapture => true
  | .trimWindowEnd _ => true
  | .alarmFire => true
  | .keepWrite k _ => decide (k < 1024)
  | .lifeSample temps _ => temps.length == 9
  | .lifeFlush => true
  | .lifectlFlush => true
  | .resetctl _ => true
  | .imgchk a type => decide (a < 2 ^ 52) && decide (type < 8)
  | .tfwRestart a => decide (a < 2 ^ 52)
  | .tfwReady fails => decide (fails < 3)
  | .quiesceTimeout fails => decide (fails < 3)
  | .unitrstPair p => decide (p < 1024)
  | .unitrstLane m => decide (m < 1024)
  | .flashErase a => decide (a < 2 ^ 32)
  | .flashProgram a => decide (a < 2 ^ 32)
  | .flashRead a => decide (a < 2 ^ 32)
  | .flashDone _ => true
  | .registerWrite c o _ => decide (c < 768) && decide (o < 2 ^ 23)
  | .vaultEntryEnd => true
  | .apronPowerLoss => true
  | .pairReturn p a b => decide (p < 2) && decide (a < 2 ^ 20) && decide (b < 2 ^ 20)
  | .testLogicReset => true
  | .reservedOpcode c _ => decide (c < 768)
  | .seamLockLoss p => decide (p < 4)
  | .codeAlignmentLock m => decide (m < 512)
  | .recalWaitEnd m => decide (m < 512)
  | .pathmiss n => decide (n < 256)
  | .rsRead c o => decide (c < 768) && decide (o < 2 ^ 23)
  | .collarEnWrite src _ => decide (src < 2 ^ 16)

end Sys2Proof
end

