-- ==== Sys2Proof/Tests/Slice0.lean ====
section
/-! SUPPORT. Tests: an ill-formed operand for each check of WellFormed; worked examples of the specification; and for every
statement with hypotheses, states and operands that meet them, clause by clause. -/

set_option Elab.async false

namespace Sys2Proof.Tests

open Sys2Proof Sys2Proof.Machine Sys2Proof.Safety

/-! ### Small states -/

/-- After reset, with the module in service. -/
def up : State := { State.reset with power := { State.reset.power with phase := .run } }

/-- Register fields set one after another. -/
def with_ (s : State) (l : List (Field × Nat)) : State := l.foldl (fun t p => t.fset p.1 p.2) s

/-- Context `c` runs on pair 0 of slot `c / 16`, with its context as `x`. -/
def running (c : Nat) (x : Ctx) : State :=
  (with_ up [(TAILOR_SLOT.SERVING (c / 16), 1), (TAILOR_SLOT.PHYS (c / 16), 0), (TAILOR_PHYS.STATE 0, 0), (POCKET_STAT.STATE c, 4),
    (HEM_STAT.H0OK, 1)]).setCtx c x

/-- An address of a Hem window. -/
def home : Word := 0xFFFFF80000000

/-- The firmware context of slot 0, running native code in a window, with general registers `g`. -/
def fw (g : List (Nat × Word)) : State := running 15 { pc := home, st := 0x200, g := g }

/-- The same in Classic mode. -/
def fwC (g : List (Nat × Word)) : State := running 15 { pc := home, st := 0x8200, g := g }

/-- What the fetch of an instruction leaves. -/
def fetched (s : State) (c len : Nat) (cls : Bool) : State :=
  match s.fetchAll c len cls with
  | .ok t _ => t
  | .exc t _ => t
  | .gone t => t

/-- The conditions of `Starts`, decided. -/
def starts (s : State) (c len : Nat) (cls : Bool) : Bool :=
  s.canRun c && stBit (s.ctx c).st ST.cls == cls && !s.partxDue c && !s.intrDue c && (s.bpAt c).isNone
    && !stBit (s.ctx c).st ST.ss && !(fetched s c len cls).patched c && (match s.fetchAll c len cls with
      | .ok _ _ => true
      | _ => false)

theorem starts_of {s : State} {c len : Nat} {cls : Bool} (h : starts s c len cls = true) :
    Starts s c len cls (fetched s c len cls) := by
  simp only [starts, Bool.and_eq_true, Bool.not_eq_true', beq_iff_eq, Option.isNone_iff_eq_none] at h
  obtain ⟨⟨⟨⟨⟨⟨⟨h1, h2⟩, h3⟩, h4⟩, h5⟩, h6⟩, h8⟩, h7⟩ := h
  refine ⟨h1, h2, h3, h4, h5, h6, ?_, h8⟩
  unfold fetched
  revert h7
  cases s.fetchAll c len cls <;> simp

/-- `f` starts and is not stepped, with what the fetch leaves. -/
def ready (s : State) (c len : Nat) (cls : Bool) : Prop := ∃ t, Starts s c len cls t ∧ NotStepped t c

theorem ready_of {s : State} {c len : Nat} {cls : Bool} (h : starts s c len cls = true)
    (hn : AMap.get false (fetched s c len cls).dbg.stepping c = false) : ready s c len cls := ⟨_, starts_of h, hn⟩

theorem fw_ready : ready (fw []) 15 4 false := ready_of (by decide +kernel) (by decide +kernel)
theorem fwC_ready : ready (fwC []) 15 8 true := ready_of (by decide +kernel) (by decide +kernel)

/-- `f` starts on context `c`, and what its fetch leaves is not stepped and meets `p`. -/
def meets (s : State) (c len : Nat) (cls : Bool) (p : State → Bool) : Prop :=
  ∃ t, Starts s c len cls t ∧ NotStepped t c ∧ p t = true

theorem meets_of {s : State} {c len : Nat} {cls : Bool} {p : State → Bool}
    (h : (starts s c len cls && !AMap.get false (fetched s c len cls).dbg.stepping c && p (fetched s c len cls)) = true) :
    meets s c len cls p := by
  simp only [Bool.and_eq_true, Bool.not_eq_true'] at h
  exact ⟨_, starts_of h.1.1, h.1.2, h.2⟩

/-- A computation answers a value that meets `p`. -/
def okWith {α : Type} (x : Out α) (p : State → α → Bool) : Bool :=
  match x with
  | .ok s a => p s a
  | _ => false

theorem okWith_of {α : Type} {x : Out α} {p : State → α → Bool} (h : okWith x p = true) :
    ∃ s a, x = .ok s a ∧ p s a = true := by
  cases x with
  | ok s a => exact ⟨s, a, rfl, h⟩
  | exc s e => exact absurd h (by simp [okWith])
  | gone s => exact absurd h (by simp [okWith])

/-- A state that a command answers. -/
def after (i : Instr) (s : State) : State :=
  match exec i s with
  | .next t => t
  | _ => s

/-! ### CA-64: integer instructions and branches -/

theorem wit_IntegerRegisterResults : meets (fw [(1, 5), (2, 7)]) 15 4 false fun _ =>
    let f : RFmt := ⟨3, 1, 2, 0⟩
    let g : RFmt := ⟨31, 31, 0, 0⟩
    decide (f.rc = 0 ∧ ¬ (f.rd = 0 ∧ f.ra = 0 ∧ f.rb = 0) ∧ g.rc = 0 ∧ g.rb = 0) := meets_of (by decide +kernel)

theorem wit_IntegerFlagsAndSums : meets (fw [(1, 5), (2, 7)]) 15 4 false fun _ =>
    let f : RFmt := ⟨0, 1, 2, 0⟩
    let g : RFmt := ⟨0, 31, 0, 0⟩
    let h : IFmt := ⟨0, 1, 0x8000⟩
    decide (f.rc = 0 ∧ f.rd = 0 ∧ ¬ (f.rd = 0 ∧ f.ra = 0 ∧ f.rb = 0) ∧ g.rc = 0 ∧ g.rb = 0 ∧ h.rd = 0) := meets_of (by decide +kernel)

/-- A divisor, none, distinct destinations and equal ones. -/
theorem wit_MultiplyDivideResults : meets (fw [(1, -7), (2, 2)]) 15 4 false fun t =>
    let f : RFmt := ⟨3, 1, 2, 0⟩
    let z : RFmt := ⟨3, 1, 4, 0⟩
    decide (f.rc = 0 ∧ t.g 15 f.rb ≠ 0 ∧ z.rc = 0 ∧ t.g 15 z.rb = 0 ∧ (⟨3, 1, 2, 4⟩ : RFmt).rd ≠ 4 ∧ (⟨3, 1, 2, 3⟩ : RFmt).rd = 3) :=
  meets_of (by decide +kernel)

theorem wit_ShiftAndBitResults : meets (fw [(1, -7), (2, 64)]) 15 4 false fun t =>
    let f : RFmt := ⟨3, 1, 2, 0⟩
    let g : RFmt := ⟨3, 1, 0, 0⟩
    decide (f.rc = 0 ∧ g.rc = 0 ∧ g.rb = 0 ∧ t.g 15 g.ra ≠ 0 ∧ t.g 15 5 = 0) := meets_of (by decide +kernel)

/-- The field forms at position plus width 64 and 65, the shifts at 63, MOVI, and INSH at its last field. -/
theorem wit_ImmediateResults : meets (fw [(1, -7)]) 15 4 false fun _ =>
    let fits : BitVec 16 := 1 * 64 + 62
    let wide : BitVec 16 := 1 * 64 + 63
    let split (i : BitVec 16) : Nat × Nat := (i.toNat / 64 % 64, i.toNat % 64 + 1)
    decide (fits.toNat < 4096 ∧ (split fits).1 + (split fits).2 = 64 ∧ wide.toNat < 4096 ∧ (split wide).1 + (split wide).2 = 65 ∧
      (63 : BitVec 16).toNat < 64 ∧ (⟨3, 0, 5⟩ : IFmt).ra = 0 ∧ (⟨3, 3, 5⟩ : IFmt).ra.toNat = 3) := meets_of (by decide +kernel)

/-- Conditions that hold and do not, targets that are aligned and are not, operands equal, less and greater. -/
theorem wit_ConditionsAndBranches : meets (fw [(1, 8), (2, -8), (3, 9)]) 15 4 false fun t =>
    let a := t.g 15 1
    let b := t.g 15 2
    decide ((15 : RegNo).toNat < 16 ∧ stBit (t.ctx 15).st ST.z = false ∧ a.toNat % 4 = 0 ∧ (t.g 15 3).toNat % 4 ≠ 0 ∧
      a = a ∧ a ≠ b ∧ b.toInt < a.toInt ∧ a.toNat < b.toNat) := meets_of (by decide +kernel)

theorem wit_condTrue : condTrue (0 : Word) 0x1 ∧ ¬ condTrue (0 : Word) 0x0 ∧ condTrue (0 : Word) 0x9 ∧ ¬ condTrue (0 : Word) 0xE := by
  show stBit (0 : Word) ST.z = false ∧ ¬ stBit (0 : Word) ST.z = true ∧ (stBit (0 : Word) ST.c = false ∨ stBit (0 : Word) ST.z = true) ∧
    ¬ stBit (0 : Word) ST.d = true
  decide

/-! ### CA-64: memory -/

/-- A load from a window address that completes. -/
def loadsOk (t : State) (c : Nat) (a : Word) (n : Nat) (fp : Bool) : Bool :=
  (!fp || t.fbit (POCKET_STAT.WLIVE c)) &&
  okWith (t.reachData c accLoad (pagePieces a.toNat n) (decide (a.toNat % n ≠ 0)) (decide (n = 16)) .plain) fun t1 l =>
    okWith (t1.bankIf c fp) fun t2 _ => okWith (t2.loadData c a l n) fun v _ => !AMap.get false v.dbg.stepping c

theorem loads_of {t : State} {c : Nat} {a : Word} {n : Nat} {fp : Bool} (h : loadsOk t c a n fp = true) :
    ∃ v bs, Loads t c a n fp v bs ∧ NotStepped v c := by
  simp only [loadsOk, Bool.and_eq_true, Bool.or_eq_true, Bool.not_eq_true'] at h
  obtain ⟨hw, h⟩ := h
  obtain ⟨t1, l, h1, h⟩ := okWith_of h
  obtain ⟨t2, u, h2, h⟩ := okWith_of h
  obtain ⟨v, bs, h3, h⟩ := okWith_of h
  exact ⟨v, bs, ⟨fun e => by simpa [e] using hw, t1, l, t2, h1, h2, h3⟩, by simpa [NotStepped] using h⟩

/-- The firmware context with its wide part in a bank, and g1 and g2 at window addresses. -/
def fwW : State := with_ (fw [(1, home + 0x40), (2, home + 0x80), (3, 0x1122334455667788), (4, 9), (17, home + 0xC0)])
  [(POCKET_STAT.WLIVE 15, 1), (POCKET_STAT.WBANK 15, 1)]

theorem fwW_start : starts fwW 15 4 false = true := by decide +kernel

/-- The forms of R103 and R104: displacement, index, the two modifying modes. -/
theorem wit_FormOk : FormOk ⟨3, 1, 0, 0⟩ true ∧ FormOk ⟨3, 1, 1, 0x500⟩ true ∧ FormOk ⟨3, 1, 2, 8⟩ true ∧ FormOk ⟨1, 1, 3, 8⟩ false := by
  refine ⟨?_, ?_, ?_, ?_⟩ <;> exact ⟨by decide, by decide⟩

/-- A load of every size and of both files reaches its bytes: `LoadResults`, in each addressing mode of R103. -/
theorem wit_LoadResults : ∃ t, Starts fwW 15 4 false t ∧ NotStepped t 15 ∧
    (∀ n ∈ [1, 2, 4, 8, 16], ∃ v bs, Loads t 15 (eaOf t 15 ⟨6, 1, 0, 0⟩ n) n false v bs ∧ NotStepped v 15) ∧
    (∀ n ∈ [4, 8], ∃ v bs, Loads t 15 (eaOf t 15 ⟨6, 1, 3, 1⟩ n) n true v bs ∧ NotStepped v 15) ∧
    (∃ v bs, Loads t 15 (eaOf t 15 ⟨16, 17, 3, 1⟩ 16) 16 false v bs ∧ NotStepped v 15) := by
  refine ⟨_, starts_of fwW_start, by unfold NotStepped; decide +kernel, fun n hn => loads_of ?_, fun n hn => loads_of ?_, loads_of (by decide +kernel)⟩
  · revert n; decide +kernel
  · revert n; decide +kernel

/-- A store of every size reaches its bytes: `StoreResults`. -/
theorem wit_StoreResults : ∃ t, Starts fwW 15 4 false t ∧
    (∀ n ∈ [1, 2, 4, 8, 16, 64], ∃ v l, Reaches t 15 (eaOf t 15 ⟨8, 1, 0, 0⟩ n) n false v l ∧ NotStepped v 15) ∧
    (∀ n ∈ [4, 8], ∃ v l, Reaches t 15 (eaOf t 15 ⟨8, 1, 0, 0⟩ n) n true v l ∧ NotStepped v 15) := by
  have key : ∀ n fp, (!fp || (fetched fwW 15 4 false).fbit (POCKET_STAT.WLIVE 15)) = true → okWith ((fetched fwW 15 4 false).reachData 15 accStore
        (pagePieces (eaOf (fetched fwW 15 4 false) 15 ⟨8, 1, 0, 0⟩ n).toNat n)
        (decide ((eaOf (fetched fwW 15 4 false) 15 ⟨8, 1, 0, 0⟩ n).toNat % n ≠ 0)) (decide (16 ≤ n)) .plain)
        (fun t1 _ => okWith (t1.bankIf 15 fp) fun v _ => !AMap.get false v.dbg.stepping 15) = true →
      ∃ v l, Reaches (fetched fwW 15 4 false) 15 (eaOf (fetched fwW 15 4 false) 15 ⟨8, 1, 0, 0⟩ n) n fp v l ∧ NotStepped v 15 := by
    intro n fp hw h
    simp only [Bool.or_eq_true, Bool.not_eq_true'] at hw
    obtain ⟨t1, l, h1, h⟩ := okWith_of h
    obtain ⟨v, u, h2, h⟩ := okWith_of h
    exact ⟨v, l, ⟨fun e => by simpa [e] using hw, t1, h1, h2⟩, by simpa [NotStepped] using h⟩
  refine ⟨_, starts_of fwW_start, fun n hn => key n false rfl ?_, fun n hn => key n true (by decide +kernel) ?_⟩
  · revert n; decide +kernel
  · revert n; decide +kernel

/-- A sector of a window that the pair holds in M after a store to it. -/
def held : State := (with_ (fw []) [(WEFT_L2STAT.STATE 0, 1)]).ctxWrite 15 home.toNat (leBytes 8 0x1122334455667788) false false

theorem served_window (s : State) (a : Nat) (h : spaceOf a = .window) : s.served a = true := by
  simp [State.served, h]

/-- `StoreAndLoadInModifiedSector`: the next store, and a load of those bytes. -/
theorem wit_StoreAndLoadInModifiedSector : HoldsModified held 15 (home.toNat / 64) ∧ held.curPois (home.toNat / 64) = false ∧
    spaceOf home.toNat = .window ∧ held.mem.sbuf = [] ∧ held.core.devq = [] ∧ held.canRun 15 = true := by
  have hsp : ∀ a, a / 64 = home.toNat / 64 → spaceOf a = .window := by
    intro a ha
    have : home.toNat = 0xFFFFF80000000 := by decide
    simp only [this] at ha
    unfold spaceOf windowBase reservedBase doorbellBase controlBase
    split_ifs <;> first | rfl | omega
  refine ⟨⟨by decide +kernel, by decide +kernel, by decide +kernel, by decide +kernel, by decide +kernel,
    fun a ha => served_window _ _ (hsp a ha), fun a ha => ?_, by decide +kernel, by decide +kernel, by decide +kernel, by decide +kernel⟩,
    by decide +kernel, by decide +kernel, by decide +kernel, by decide +kernel, by decide +kernel⟩
  have hp : held.partOf 15 = none := by decide +kernel
  simp [State.mayReach, hsp a ha, hp]

/-- `StoresWait`: a store to memory, one to a device, and a buffer with a store in it. -/
theorem wit_StoresWait : (spaceOf home.toNat).device = false ∧ (spaceOf (controlBase + 0x20028)).device = true ∧
    ((fw []).storeData 15 [({ mp := home.toNat, attr := 0 }, 8)] (leBytes 8 7) false false).sbufOf 0 ≠ [] := by decide +kernel

/-- `AtomicResults`: an atomic of each size on a window word; CAS finds its value, and another one. -/
theorem wit_AtomicResults : ∀ n ∈ [4, 8], ∃ t t1 v l bs, Starts fwW 15 4 false t ∧ NotStepped v 15 ∧
    t.reachData 15 accAtomic (pagePieces (t.g 15 1).toNat n) (decide ((t.g 15 1).toNat % n ≠ 0)) true .block = .ok t1 l ∧
    (t1.sbOwn 15).loadData 15 (t.g 15 1) l n = .ok v bs ∧ leNat bs = (v.g 15 5).toNat % 2 ^ (8 * n) ∧
    leNat bs ≠ (v.g 15 4).toNat % 2 ^ (8 * n) := by
  have key : ∀ n, okWith ((fetched fwW 15 4 false).reachData 15 accAtomic (pagePieces ((fetched fwW 15 4 false).g 15 1).toNat n)
        (decide (((fetched fwW 15 4 false).g 15 1).toNat % n ≠ 0)) true .block) (fun t1 l =>
        okWith ((t1.sbOwn 15).loadData 15 ((fetched fwW 15 4 false).g 15 1) l n) fun v bs => !AMap.get false v.dbg.stepping 15 &&
          decide (leNat bs = (v.g 15 5).toNat % 2 ^ (8 * n) ∧ leNat bs ≠ (v.g 15 4).toNat % 2 ^ (8 * n))) = true →
      ∃ t t1 v l bs, Starts fwW 15 4 false t ∧ NotStepped v 15 ∧
        t.reachData 15 accAtomic (pagePieces (t.g 15 1).toNat n) (decide ((t.g 15 1).toNat % n ≠ 0)) true .block = .ok t1 l ∧
        (t1.sbOwn 15).loadData 15 (t.g 15 1) l n = .ok v bs ∧ leNat bs = (v.g 15 5).toNat % 2 ^ (8 * n) ∧
        leNat bs ≠ (v.g 15 4).toNat % 2 ^ (8 * n) := by
    intro n h
    obtain ⟨t1, l, h1, h⟩ := okWith_of h
    obtain ⟨v, bs, h2, h⟩ := okWith_of h
    simp only [Bool.and_eq_true, Bool.not_eq_true', decide_eq_true_eq] at h
    exact ⟨_, t1, v, l, bs, starts_of fwW_start, h.1, h1, h2, h.2.1, h.2.2⟩
  intro n hn
  apply key
  revert n; decide +kernel

/-- `BlockUnits`: nothing left, and one byte left, whose unit of one byte is reached at both ends. -/
theorem wit_BlockUnits : meets (fw [(1, home + 0x40), (2, home + 0x80), (4, 1)]) 15 4 false fun t =>
    decide ((t.g 15 4).toNat = 1 ∧ (t.g 15 3).toNat = 0) &&
    okWith (({ t with fresh := t.fresh + 1 } : State).reachData 15 accLoad (pagePieces (t.g 15 2).toNat 1) false false .block) (fun t1 src =>
      okWith (t1.reachData 15 accStore (pagePieces (t.g 15 1).toNat 1) false false .block) fun t2 _ =>
        okWith (t2.loadData 15 (t.g 15 2) src 1) fun _ bs => decide (bs.length = 1)) := meets_of (by decide +kernel)
/-! ### Exceptions and system instructions -/

/-- Eight bytes of the first Hem die, little-endian. -/
def hem64 (m : AMap Byte) (o v : Nat) : AMap Byte :=
  (List.range 8).foldl (fun m k => AMap.set 0 m (o + k) (BitVec.ofNat 8 (v / 256 ^ k))) m

/-- Context 0 of partition 3, whose first 2 MiB lie in granule 1 by a table in granule 0 (R110, R111). -/
def part (x : Ctx) : State :=
  let s := with_ (running 0 x) [(POCKET_CTL.OWNED 0, 1), (POCKET_CTL.OWNER 0, 3), (PART_STATE.STATE 3, 1), (PART_ROOT2.VALID 3, 1),
    (PART_ROOT2.TABLE 3, 0xFFFFF80000), (HEM_GOWN.VALID 1, 1), (HEM_GOWN.OWNER 1, 3), (POCKET_SAVE.VALID 0, 1)]
  { s with mem := { s.mem with h0 := hem64 (hem64 (hem64 [] 0 0xFFFFF80001002) 0x1000 0xFFFFF80002002) 0x2000 0xFFFFF80200379 } }

/-- It runs at S, and at P. -/
def atS (g : List (Nat × Word)) : State := part { pc := 0x100, st := 0x100, g := g }
def atP (g : List (Nat × Word)) : State := part { pc := 0x100, g := g }

theorem part_ready : ready (atS []) 0 4 false ∧ ready (atP []) 0 4 false :=
  ⟨ready_of (by decide +kernel) (by decide +kernel), ready_of (by decide +kernel) (by decide +kernel)⟩

/-- `ExceptionEntry`: S and P of a partition, EX set only at P, the firmware context, INTR with EX set. -/
theorem wit_ExceptionEntry :
    (isFw 0 = false ∧ stBit ((atS []).ctx 0).st ST.ex = false) ∧ (stBit ((part { st := 0x4000 }).ctx 0).st ST.ex = true ∧
      stPL ((part { st := 0x4000 }).ctx 0).st = 0) ∧
    (isFw 15 = true ∧ stBit ((fw []).ctx 15).st ST.ex = false) ∧ (({ code := 0x0F } : Exc).code = 0x0F) := by decide +kernel

/-- `StopsForFirmware`: a stop while the firmware Pocket is BLOCKED; EX set at S; EX set at F. -/
theorem wit_StopsForFirmware :
    (with_ (atS []) [(POCKET_STAT.STATE 15, 2)]).pk (fwOf (slotOf 0)) = 2 ∧
    (stBit ((part { st := 0x4100 }).ctx 0).st ST.ex = true ∧ stPL ((part { st := 0x4100 }).ctx 0).st ≠ 0) ∧
    stBit ((running 15 { st := 0x4200 }).ctx 15).st ST.ex = true := by decide +kernel

/-- Software source 0x4000, of partition 3 or of the firmware, pending for context `c` of slot 0. -/
def pendingFor (s : State) (c : Nat) : State :=
  let u := with_ s [(COLLAR_SWGRP.EN 0, 1), (COLLAR_SWGRP.PRI 0, 5), (COLLAR_SWGRP.PAIR 0, 0), (COLLAR_SWGRP.MASK 0, 2 ^ c),
    (COLLAR_SWGRP.FWOWN 0, bnat (isFw c)), (COLLAR_SWGRP.OWNER 0, 3), (COLLAR_CTL.GDIS, 0)]
  u.setPend 0x4000 true

/-- `InterruptAndPartxEntry`: an allowed interrupt of a partition context and of the firmware's, and a waiting PARTX. -/
theorem wit_InterruptAndPartxEntry :
    ((pendingFor (part { pc := 0x100, st := 0x1100 }) 0).canRun 0 = true ∧
      (pendingFor (part { pc := 0x100, st := 0x1100 }) 0).intrDue 0 = true) ∧
    ((pendingFor (running 15 { pc := home, st := 0x1200 }) 15).canRun 15 = true ∧
      (pendingFor (running 15 { pc := home, st := 0x1200 }) 15).intrDue 15 = true) ∧
    (((fw []).setPartx 0 [⟨0, 4, 0, 0⟩]).canRun 15 = true ∧ ((fw []).setPartx 0 [⟨0, 4, 0, 0⟩]).partxDue 15 = true ∧
      ((fw []).setPartx 0 [⟨0, 4, 0, 0⟩]).partxOf (slotOf 15) = [⟨0, 4, 0, 0⟩]) := by decide +kernel

/-- `SystemRegisterAccess`: a register of each level at its level and below it, and a number that is not listed. -/
theorem wit_SystemRegisterAccess :
    (meets fwW 15 4 false fun t => okWith (t.wideIf 15 true) fun v _ => decide ((sysValue v 15 1).isSome ∧ (sysValue v 15 0x29).isSome ∧
      sysNeeds 0x29 ≤ t.level 15 ∧ sysValue t 15 6 = none ∧ AMap.get false v.dbg.stepping 15 = false)) ∧
    (meets (atS []) 0 4 false fun t => decide ((sysValue t 0 0x10).isSome ∧ sysNeeds 0x10 = t.level 0 ∧ (sysValue t 0 0x20).isSome ∧
      t.level 0 < sysNeeds 0x20)) ∧
    (meets (atP []) 0 4 false fun t => decide (sysNeeds 0x0F = t.level 0 ∧ t.level 0 < sysNeeds 0x10)) :=
  ⟨meets_of (by decide +kernel), meets_of (by decide +kernel), meets_of (by decide +kernel)⟩

/-- `SystemInstructionResults`: every level; a saved status of P, of S and above; the firmware's return. -/
theorem wit_SystemInstructionResults :
    (meets (part { pc := 0x100, st := 0x100, sr := { rpc := 8 } }) 0 4 false fun t => let x := t.ctx 0
      decide (t.level 0 = 1 ∧ stPL x.sr.rst < 2 ∧ x.sr.rpc.toNat % 4 = 0 ∧ stBit x.sr.rst ST.cls = false)) ∧
    (meets (part { pc := 0x100, st := 0x100, sr := { rst := 0x200 } }) 0 4 false fun t => decide (t.level 0 = 1 ∧ 2 ≤ stPL (t.ctx 0).sr.rst)) ∧
    (meets (atP []) 0 4 false fun t => decide (t.level 0 = 0)) ∧
    (meets (fw []) 15 4 false fun t => decide (isFw 15 = true ∧ 1 ≤ t.level 15 ∧ (t.ctx 15).fr.rpc.toNat % 4 = 0 ∧
      stBit (t.ctx 15).fr.rst ST.cls = false)) :=
  ⟨meets_of (by decide +kernel), meets_of (by decide +kernel), meets_of (by decide +kernel), meets_of (by decide +kernel)⟩

/-- A computation raises an exception. -/
def raisesAny {α : Type} (x : Out α) : Bool :=
  match x with
  | .exc _ _ => true
  | _ => false

/-- `BarrierResults`: each scope with nothing waiting; a store of the context that waits, in its buffer and in the device queue. -/
theorem wit_BarrierResults : meets (fw []) 15 4 false fun t =>
    ([0, 1, 2].all fun n => (t.barrier 15 n).canRun 15 && !AMap.get false (t.barrier 15 n).dbg.stepping 15) &&
      t.mem.sbuf.isEmpty && t.core.devq.isEmpty &&
      ((t.storeData 15 [({ mp := home.toNat, attr := 0 }, 8)] (leBytes 8 7) false false).sbOwn 15).mem.sbuf.isEmpty &&
      ((t.storeData 15 [({ mp := controlBase + 0x20028, attr := 2 }, 8)] (leBytes 8 7) false false).barrier 15 2).core.devq.isEmpty :=
  meets_of (by decide +kernel)

/-- `AccessExceptions`: addresses that do not translate, of loads and of stores, and the wide part not live. -/
theorem wit_AccessExceptions : meets (fw [(1, 1 <<< 60)]) 15 4 false fun t =>
    let f : MFmt := ⟨6, 1, 0, 0⟩
    decide (t.fbit (POCKET_STAT.WLIVE 15) = false) &&
    [1, 2, 4, 8].all fun n => raisesAny (t.reachData 15 accLoad (pagePieces (eaOf t 15 f n).toNat n) false false .plain) &&
      raisesAny (t.reachData 15 accStore (pagePieces (eaOf t 15 f n).toNat n) false false .plain) := meets_of (by decide +kernel)

/-- `InvalidateWaitAndSwitch`: the levels; EVENT set and clear; a Hem die in service; a device address, a window address. -/
theorem wit_InvalidateWaitAndSwitch :
    (meets (with_ (fw [(1, home + 0x40), (2, 0xFFFFFE8000000), (3, 1 <<< 60)]) [(POCKET_STAT.EVENT 15, 1), (WEFT_L2STAT.STATE 0, 1)]) 15 4 false fun t =>
      decide (isFw 15 = true ∧ 1 ≤ t.level 15 ∧ t.fget (POCKET_STAT.EVENT 15) = 1 ∧ t.fget HEM_STAT.H0OK = 1 ∧
        t.quiet.canRun 15 = true ∧ AMap.get false t.quiet.dbg.stepping 15 = false ∧ (t.barrier 15 2).canRun 15 = true ∧
        AMap.get false (((t.barrier 15 2).persistClean 0).winDurable fun _ g => g == 1).dbg.stepping 15 = false) &&
      (okWith (t.xlate 15 accLoad (t.g 15 1)) fun v tr => decide (tr.attr = 0 ∧ (spaceOf tr.mp).device = false ∧ v.served tr.mp = true ∧
        v.mayReach (v.partOf 15) tr.mp = true ∧ v.curPois (tr.mp / 64) = false ∧ v.l2st (v.agentOf 15) = 1 ∧
        AMap.get false ((v.sbOwn 15).cleanSector (tr.mp / 64)).dbg.stepping 15 = false ∧
        AMap.get false ((v.sbOwn 15).flushSector (tr.mp / 64)).dbg.stepping 15 = false ∧
        AMap.get false (v.loadSector 0 (tr.mp / 64) false).dbg.stepping 15 = false ∧
        AMap.get false ((v.sbOwn 15).invSector (tr.mp / 64)).dbg.stepping 15 = false)) &&
      (okWith (t.xlate 15 accStore (t.g 15 1)) fun v tr => decide (tr.attr = 0 ∧
        AMap.get false ((v.meet 0 (tr.mp / 64)).readOwn 0 (tr.mp / 64)).dbg.stepping 15 = false)) &&
      (raisesAny (t.xlate 15 accLoad (t.g 15 3)) && raisesAny (t.xlate 15 accStore (t.g 15 3))) &&
      (okWith (t.xlate 15 accLoad (t.g 15 2)) fun _ tr => decide (tr.attr = 2))) ∧
    (meets (fw []) 15 4 false fun t => decide ((fw []).fget (POCKET_STAT.EVENT 15) = 0 ∧ t.fget (POCKET_STAT.EVENT 15) = 0)) ∧
    (meets (atS []) 0 4 false fun t => decide (1 ≤ t.level 0 ∧ t.partOf 0 = some 3)) :=
  ⟨meets_of (by decide +kernel), meets_of (by decide +kernel), meets_of (by decide +kernel)⟩

/-! ### Decimal and floating point -/

theorem wit_HoldsDecimal : HoldsDecimal 0x1A false 1 ∧ HoldsDecimal 0x12D true 12 ∧ HoldsDecimal 0xC false 0 ∧ NoDecimal 0x19 ∧
    NoDecimal 0xAA := by
  refine ⟨⟨by decide, by decide, by decide, by decide⟩, ⟨by decide, by decide, by decide, by decide⟩,
    ⟨by decide, by decide, by decide, by decide⟩, fun n m h => ?_, fun n m h => ?_⟩
  · exact absurd h.2.2.1 (by decide)
  · have := h.2.1 0 (by decide)
    have e : ((0xAA : Word).toNat / 16 ^ (0 + 1) % 16) = 10 := by decide
    omega

/-- `DecimalRegisterResults` and `InvalidDecimalOperand`: the wide part in place, valid and invalid operands, divisors zero and
not, DTRAP clear and set, and WLIVE clear. -/
theorem wit_DecimalRegisters :
    (meets (with_ (fw [(1, 0x12D), (2, 0x1A), (3, 0xC), (4, 0x19)]) [(POCKET_STAT.WLIVE 15, 1), (POCKET_STAT.WBANK 15, 1)]) 15 4 false fun t =>
      okWith (t.wide 15) fun v _ => decide (AMap.get false v.dbg.stepping 15 = false ∧ v.g 15 1 = 0x12D ∧ v.g 15 2 = 0x1A ∧ v.g 15 3 = 0xC ∧
        v.g 15 4 = 0x19 ∧ (v.ctx 15).dcr.getLsbD 0 = false)) ∧
    (meets (with_ (running 15 { pc := home, st := 0x200, dcr := 1 }) [(POCKET_STAT.WLIVE 15, 1), (POCKET_STAT.WBANK 15, 1)]) 15 4 false fun t =>
      okWith (t.wide 15) fun v _ => decide ((v.ctx 15).dcr.getLsbD 0 = true)) ∧
    (meets (fw []) 15 4 false fun t => decide (t.fget (POCKET_STAT.WLIVE 15) = 0)) :=
  ⟨meets_of (by decide +kernel), meets_of (by decide +kernel), meets_of (by decide +kernel)⟩

/-- Two ledger strings of three digits: 12 and -7 (R157). -/
def s12 : List Byte := [0x01, 0x2A]
def sm7 : List Byte := [0x00, 0x7B]

/-- `LedgerArithmetic`: two strings, the divisor not zero and zero, the quotient that fits and one that does not. -/
theorem wit_LedgerArithmetic : ledgerDec 3 s12 = some ⟨false, 12⟩ ∧ ledgerDec 3 sm7 = some ⟨true, 7⟩ ∧ ledgerDec 1 [0x0A] = some ⟨false, 0⟩ ∧
    ledgerDec 1 [0x1A] = some ⟨false, 1⟩ ∧ ledgerDec 3 [0x10, 0x0A] = some ⟨false, 100⟩ := by decide +kernel

/-- A state whose window holds those strings at g1 and g2, with g3 as the lengths. -/
def strings (len : Word) : State :=
  let s := with_ (fw [(1, home + 0x40), (2, home + 0x80), (3, len)]) [(POCKET_STAT.WLIVE 15, 1), (POCKET_STAT.WBANK 15, 1)]
  { s with mem := { s.mem with h0 := [(0x40, 0x01), (0x41, 0x2A), (0x81, 0x7B)] } }

/-- `DecimalStringResults`: both operands reached, read and valid; the destination only read, and only written. -/
theorem wit_DecimalStringResults : ∀ acc ∈ [accAtomic, accLoad, accStore], meets (strings 0x303) 15 4 false fun t =>
    decide (t.fget (POCKET_STAT.WLIVE 15) = 1 ∧ t.g 15 3 = 0x303) &&
      okWith (t.reachData 15 acc (pagePieces (t.g 15 1).toNat 2) false false .string) fun t2 r1 =>
      okWith (t2.reachData 15 accLoad (pagePieces (t.g 15 2).toNat 2) false false .string) fun t3 r2 =>
      okWith (if acc.r then t3.loadData 15 (t.g 15 1) r1 2 else .ok t3 []) fun t4 b1 =>
      okWith (t4.loadData 15 (t.g 15 2) r2 2) fun t5 b2 => okWith (t5.needWide 15) fun v _ => decide (AMap.get false v.dbg.stepping 15 = false ∧ b2 = sm7 ∧
        (acc.r = true → b1 = s12)) := by
  intro acc h
  apply meets_of
  revert acc; decide +kernel

theorem wit_stringResult : (stringResult .add 3 3 s12 sm7).isSome ∧ (stringResult .cmp 3 3 s12 sm7).isSome ∧
    (stringResult .mul 3 3 s12 sm7).isSome ∧ (stringResult .sub 3 3 s12 sm7).isSome := by decide +kernel

/-- `FloatArithmetic`, `FloatCompletion` and `FloatComparisonsAndMoves`: nothing trapped, and a trapped inexact result; both precisions share them. -/
theorem wit_Float :
    (meets (with_ (running 15 { pc := home, st := 0x200, f := [(1, 0x3FF0000000000000), (2, 0x4008000000000000)] })
        [(POCKET_STAT.WLIVE 15, 1), (POCKET_STAT.WBANK 15, 1)]) 15 4 false fun t => okWith (t.wide 15) fun v _ =>
      let r := (fmtOf false).div (rmOf (v.ctx 15).fcsr) false ((fmtOf false).decode (floatIn v 15 false 1)) ((fmtOf false).decode (floatIn v 15 false 2))
      decide (AMap.get false v.dbg.stepping 15 = false ∧ r.raised ≠ 0 ∧ r.raised &&& teOf (v.ctx 15).fcsr = 0)) ∧
    (meets (with_ (running 15 { pc := home, st := 0x200, fcsr := 0x1F0000, f := [(1, 0x3FF0000000000000), (2, 0x4008000000000000)] })
        [(POCKET_STAT.WLIVE 15, 1), (POCKET_STAT.WBANK 15, 1)]) 15 4 false fun t => okWith (t.wide 15) fun v _ =>
      let r := (fmtOf false).div (rmOf (v.ctx 15).fcsr) false ((fmtOf false).decode (floatIn v 15 false 1)) ((fmtOf false).decode (floatIn v 15 false 2))
      decide (r.raised &&& teOf (v.ctx 15).fcsr ≠ 0)) := ⟨meets_of (by decide +kernel), meets_of (by decide +kernel)⟩
/-! ### CA-32 Classic, SAVEM and LOADM -/

/-- Firmware context in Classic mode, its window at the Hem windows: c(0), c(1) in g16 and so on, g28 the window. -/
def cl (g : List (Nat × Word)) : State :=
  with_ (fwC (g ++ [(28, 0xFFFFF80000000)])) [(POCKET_STAT.WLIVE 15, 1), (POCKET_STAT.WBANK 15, 1)]

/-- `ClassicRegisters`: the even and the odd register at the ends of the range, and an even pair. -/
theorem wit_ClassicRegisters : 0 < 24 ∧ 23 < 24 ∧ (22 : RegNo).toNat < 24 ∧ (22 : RegNo).toNat % 2 = 0 := by decide

/-- `ClassicArithmetic`: register fields in range, a divisor and none, an even pair. -/
theorem wit_ClassicArithmetic : meets (cl [(16, 0x0000000500000000)]) 15 4 true fun t =>
    let f : R3Fmt := ⟨22, 0, 0, 0⟩
    let z : R3Fmt := ⟨0, 0, 1, 0⟩
    let k : RKFmt := ⟨23, 0, 31⟩
    decide (f.r1.toNat < 24 ∧ f.z = 0 ∧ f.r3 = 0 ∧ f.r1.toNat % 2 = 0 ∧ (t.ctx 15).readC f.r3.toNat ≠ 0 ∧ (t.ctx 15).readC z.r3.toNat = 0 ∧
      z.r1 = 0 ∧ k.r1.toNat < 24 ∧ k.r2 = 0 ∧ k.k.toNat ≤ 31) := meets_of (by decide +kernel)

/-- `ClassicDecimalPairs`: both pairs decimals at even registers; a divisor of zero; the shift to each side. -/
theorem wit_ClassicDecimalPairs : meets (cl [(16, 0x12D), (17, 0x1A), (18, 0xC), (19, 0x0000000100000041)]) 15 4 true fun t =>
    okWith (t.wide 15) fun v _ =>
      let f : R3Fmt := ⟨0, 0, 2, 0⟩
      decide (AMap.get false v.dbg.stepping 15 = false ∧ f.z = 0 ∧ f.r1.toNat % 4 = 0 ∧ pairValue v 15 f.r2 = 0x12D ∧
        pairValue (v.pairC 15 f.r2).1 15 f.r3 = 0x1A ∧ pairValue (v.pairC 15 f.r2).1 15 4 = 0xC ∧
        (v.ctx 15).readC 6 / 64 % 2 = 0 ∧ (v.ctx 15).readC 7 / 64 % 2 = 1) := meets_of (by decide +kernel)

/-- `ClassicMemory`: every size loaded and stored at a base, and without one; the word that SWPC finds and one it does not. -/
theorem wit_ClassicMemory : meets (cl [(16, 0x8000004000000000), (17, 9)]) 15 4 true fun t =>
    let a := classicEa t 15 0 0
    decide (a = 0x80000040 ∧ classicEa t 15 31 (BitVec.ofNat 32 0xFFFFFFF8) = 0xFFFFFFF8) &&
    ([1, 2, 4, 8].all fun n =>
      (okWith (t.reachData 15 accLoad (t.cpieces 15 a n) (decide (a % n ≠ 0)) false .plain) fun t1 l =>
        okWith (t1.loadData 15 (t1.inWindow 15 a) l n) fun v bs => decide (bs.length = n ∧ AMap.get false v.dbg.stepping 15 = false)) &&
      (okWith (t.reachData 15 accStore (t.cpieces 15 a n) (decide (a % n ≠ 0)) false .plain) fun v _ =>
        decide (AMap.get false v.dbg.stepping 15 = false))) &&
    (okWith (t.reachData 15 accAtomic (t.cpieces 15 a 4) (decide (a % 4 ≠ 0)) true .block) fun t1 l =>
      okWith ((t1.sbOwn 15).loadData 15 (t1.inWindow 15 a) l 4) fun v bs => decide (leNat bs = (v.ctx 15).readC 1 ∧ leNat bs ≠ (v.ctx 15).readC 3)) :=
  meets_of (by decide +kernel)

/-- `ClassicControl`: an aligned and a misaligned target, and the bases. -/
theorem wit_ClassicControl : meets (cl [(16, 0x0000004000000041)]) 15 4 true fun t =>
    let f : R3Fmt := ⟨0, 0, 0, 0⟩
    decide (f.r1.toNat < 24 ∧ f.r3 = 0 ∧ f.z = 0 ∧ (t.ctx 15).readC 0 % 4 = 0 ∧ (t.ctx 15).readC 1 % 4 ≠ 0 ∧
      classicEa t 15 31 2 % 4 ≠ 0 ∧ classicEa t 15 0 0 % 4 = 0) := meets_of (by decide +kernel)

/-- The ledger strings of the native test, at Classic addresses 0x80000040 and 0x80000080. -/
def cstrings : State :=
  let s := cl [(16, 0x8000000000000000)]
  { s with mem := { s.mem with h0 := [(0x40, 0x01), (0x41, 0x2A), (0x81, 0x7B)] } }

/-- `ClassicDecimalStrings` and `ClassicBlocks`: a two-word instruction starts, its operands are reached and read. -/
theorem wit_ClassicStringsAndBlocks : ∀ acc ∈ [accAtomic, accLoad, accStore], meets cstrings 15 8 true fun t =>
    let f : DSFmt := ⟨0, 0, 3, 3, 0, 0x40, 0x80⟩
    let a1 := classicEa t 15 f.p1 (f.d1.signExtend 32)
    let a2 := classicEa t 15 f.p2 (f.d2.signExtend 32)
    [AccKind.string, .block].all fun k =>
      decide (a1 = 0x80000040 ∧ a2 = 0x80000080 ∧ f.z = 0 ∧ 0 < f.l1.toNat ∧ t.fget (POCKET_STAT.WLIVE 15) = 1) &&
      okWith (t.reachData 15 acc (t.cpieces 15 a1 2) false false k) fun t2 r1 =>
      okWith (t2.reachData 15 accLoad (t.cpieces 15 a2 2) false false k) fun t3 r2 =>
      okWith (if acc.r then t3.loadData 15 (t.inWindow 15 a1) r1 2 else .ok t3 []) fun t4 b1 =>
      okWith (t4.loadData 15 (t.inWindow 15 a2) r2 2) fun t5 b2 => okWith (t5.needWide 15) fun v _ => decide (AMap.get false v.dbg.stepping 15 = false ∧ b2 = sm7 ∧
        (acc.r = true → b1 = s12)) := by
  intro acc h
  apply meets_of
  revert acc; decide +kernel

/-- `ReservedOpcodes`: the first and last reserved opcodes of both modes start. -/
theorem wit_ReservedOpcodes : ready (fw []) 15 4 false ∧ ready (cl []) 15 4 true ∧
    0x39 ≤ (0xE4000000 : Half).toNat / 2 ^ 26 ∧ (0x1C000014 : Half).toNat / 2 ^ 26 = 7 ∧ 0x13 < (0x1C000014 : Half).toNat % 64 ∧
    0x69 ≤ (0x69000000 : Half).toNat / 2 ^ 24 ∧ (0x14000000 : Half).toNat / 2 ^ 24 = 0x14 :=
  ⟨ready_of (by decide +kernel) (by decide +kernel), ready_of (by decide +kernel) (by decide +kernel), by decide⟩

/-- A save block at window address 0x1000: g8 and g9 selected, 8 sectors, two items saved (R221). -/
def saveBlock (count : Nat) : State :=
  let s := fw [(1, home + 0x1000), (2, 0), (8, 0x11), (9, 0x22)]
  { s with mem := { s.mem with h0 := hem64 (hem64 (hem64 [] 0x1008 8) 0x1010 0x300) 0x1020 (count * 256) } }

/-- `SaveAndLoadUnits`: SAVEM and LOADM at S or F, the header valid, its only unit reached at both ends. -/
theorem wit_SaveAndLoadUnits : meets (saveBlock 2) 15 4 false fun t =>
    okWith (t.reachData 15 accLoad (pagePieces (t.g 15 1).toNat 64) false false .block) fun t1 hp =>
    okWith (t1.loadData 15 (t.g 15 1) hp 64) fun t2 hb =>
      let h := SaveHead.of hb
      let l := saveItems h.gmask h.xmask
      decide (1 ≤ t.level 15 ∧ (t.g 15 1).toNat % 64 = 0 ∧ h.gmask = 0x300 ∧ 0 < h.size) &&
      decide (h.size ≤ 63 ∧ h.xmask < 2 ^ 10 ∧ h.rest = 0 ∧ h.prog < 2 ^ 15 ∧ bitOf h.prog 7 = false ∧ h.first = 0 ∧ l.length = 2 ∧ h.count = 2 ∧
        (t2.ctx 15).pc = (t.ctx 15).pc ∧ t2.g 15 1 = t.g 15 1 ∧ (AMap.get {} (t2.ctx 15).blocks home.toNat).entered = none ∧ l.any SaveItem.wide = false ∧ bitOf h.gmask 0 = false ∧ bitOf h.gmask 1 = false ∧ bitOf h.gmask 2 = false) &&
      (okWith (t2.reachData 15 accStore (pagePieces ((t.g 15 1).toNat + 0x40) 16) false false .block) fun w1 _ =>
        okWith (w1.reachData 15 accStore (pagePieces ((t.g 15 1).toNat + 0x20) 8) false false .block) fun w2 _ => okWith (w2.bankIf 15 false) fun _ _ => true) &&
      (okWith (t2.reachData 15 accLoad (pagePieces ((t.g 15 1).toNat + 0x40) 16) false false .block) fun w1 bp =>
        okWith (w1.loadData 15 (t.g 15 1 + 0x40) bp 16) fun w2 bs => okWith (w2.bankIf 15 false) fun _ _ => decide (bs.length = 16)) := meets_of (by decide +kernel)
/-! ### Resets, power input, power states -/

/-- The state of a phase. -/
def at_ (p : Phase) : State := { State.reset with power := { State.reset.power with phase := p } }

/-- `ResetsLeave`: every phase that starts a reset, 140 °C, and nothing in flight. -/
theorem wit_ResetsLeave : up.power.phase ∈ [Phase.moduleReset, .lockWait, .bootFailed, .service, .run] ∧
    (at_ (.softStart true)).power.phase = .softStart true ∧ (at_ (.softStart false)).power.phase = .softStart false ∧
    (at_ .thermal).power.phase = .thermal ∧ 204 ≤ 140 + 64 ∧ (at_ .vault).power.phase = .vault ∧ up.openTxns = [] ∧ up.mem.winFlight = [] := by
  decide +kernel

/-- `PowerInputResults`: each threshold in mV and each phase, a flag clear and set. -/
theorem wit_PowerInputResults : (at_ .off).power.phase = .off ∧ 34700 ≤ max 34700 0 ∧ max 33299 0 < 33300 ∧
    (at_ .vault).power.phase ∈ [Phase.vault, .overvoltage, .thermal] ∧ (∃ x, (at_ (.softStart true)).power.phase = .softStart x) ∧
    (at_ .lockWait).power.phase ∈ [Phase.coldReset, .moduleReset, .lockWait, .bootFailed, .service, .run] ∧ 79700 ≤ max 0 79700 ∧
    (at_ .overvoltage).power.phase = .overvoltage ∧ max 77300 0 ≤ 77300 ∧ up.power.phase = .run ∧
    (max 36299 0 < 36300 ∧ 32700 ≤ max 32700 0) ∧ (74700 < max 74701 0 ∧ max 80299 0 < 80300) ∧ (33299 < 33300 ∧ 32700 ≤ 32700) ∧
    up.fget POWER_STATUS.BROWN ≠ 1 ∧ (with_ up [(POWER_STATUS.BROWN, 1)]).fget POWER_STATUS.BROWN = 1 :=
  ⟨by decide, by decide, by decide, by decide, ⟨true, rfl⟩, by decide, by decide, by decide, by decide, by decide, by decide, by decide,
    by decide, by decide +kernel, by decide +kernel⟩

/-- `ClockAndThermalResults`: the cap below and at its top and above its floor, a temperature at 110 °C and above, back by 5 °C. -/
theorem wit_ClockAndThermalResults :
    let s : State := { up with power := { up.power with capLimit := [(0, 1700)], tempLimit := [(0, 3200), (1, 4500)] } }
    let clock (t : Nat) : Nat := if t ≤ 110 + 64 then 4600 else if t ≤ 130 + 64 then 4000 else 3200
    s.power.phase = .run ∧ AMap.get 4600 s.power.capLimit 0 < 4600 ∧ 1600 < AMap.get 4600 s.power.capLimit 0 ∧
    4600 ≤ AMap.get 4600 s.power.capLimit 1 ∧ (∀ d, d < 12 → 1600 < AMap.get 4600 s.power.capLimit d →
      s.fget (POWER_CLUSTER.TJ d) ≤ s.fget (POWER_CLUSTER.TJ 0)) ∧
    clock 175 < AMap.get 4600 s.power.tempLimit 1 ∧ AMap.get 4600 s.power.tempLimit 0 < clock (169 + 5) ∧
    s.hubOn = true ∧ 155 + 64 ≤ 219 ∧ (at_ .coldReset).power.phase = .coldReset := by decide +kernel

theorem wit_ToleranceWrites : up.power.phase = .run ∧ 255 < 256 := by decide

/-- Firmware's tolerance and a power state: CUR, GOAL, MOVING. -/
def pst (unb scale value cur goal moving : Nat) : State :=
  with_ up [(POWER_LTRFW.UNBOUNDED, unb), (POWER_LTRFW.SCALE, scale), (POWER_LTRFW.VALUE, value), (POWER_STATE.CUR, cur), (POWER_STATE.GOAL, goal),
    (POWER_STATE.MOVING, moving), (POWER_CTL.AUTO, 1)]

/-- The tolerance of a state after a look. -/
def tolOf (s : State) : Option Nat := (leastTol s.look.updTeff.tolTerms).2

/-- `ShowsTolerance` and `PowerStateResults`: each state admitted, none, and the states of the exits and of the wake events. -/
theorem wit_PowerStateResults :
    (∀ c, c < 768 → up.pk c ≠ 3 ∧ up.pk c ≠ 4) ∧ tolOf (pst 0 2 293 0 0 0) = some 300032 ∧ tolOf (pst 0 2 15 0 0 0) = some 15360 ∧
    tolOf (pst 0 0 200 0 0 0) = some 200 ∧ tolOf (pst 1 0 0 0 0 0) = none ∧ (pst 0 0 200 0 0 0).fget POWER_CTL.AUTO = 1 ∧
    (∀ k, k ≤ 3 → (pst 1 0 0 k k 0).fget POWER_STATE.CUR = k ∧ (pst 1 0 0 k k 0).fget POWER_STATE.GOAL = k ∧
      (pst 1 0 0 k k 0).fget POWER_STATE.MOVING ≠ 1) ∧
    (pst 1 0 0 4 4 0).fget POWER_STATE.CUR = 4 ∧ (with_ (pst 1 0 0 4 4 0) [(POWER_WAKE.WAKE_EN, 1)]).fget POWER_WAKE.WAKE_EN = 1 ∧
    (with_ (pst 1 0 0 4 4 0) [(POWER_WAKE.SEAM_EN, 0)]).fget POWER_WAKE.SEAM_EN ≠ 1 ∧
    (∀ g ∈ [0, 4, 5], (pst 1 0 0 0 g 1).fget POWER_STATE.MOVING = 1 ∧ (pst 1 0 0 0 g 1).fget POWER_STATE.GOAL = g) ∧
    (∀ k, k ≤ 4 → (pst 1 0 0 k 0 1).fget POWER_STATE.CUR = k ∧ (pst 1 0 0 k 0 1).fget POWER_STATE.GOAL = 0) := by decide +kernel

/-- `ShutterAndVaultResults`: each condition of the requests alone, and all of them met. -/
theorem wit_ShutterAndVaultResults :
    let f (s : State) : State := s.look.updTeff
    let ok := with_ (pst 1 0 0 0 0 0) [(POWER_WAKE.WAKE_EN, 1)]
    let allow (s : State) : State := { s with pins := { s.pins with vaultAllow := true } }
    let busy := pst 1 0 0 4 4 0
    let runs := with_ ok [(POCKET_STAT.STATE 767, 4)]
    let tight := pst 0 3 31 0 0 0
    let faulty := with_ ok [(FAULT_STAT.FSTATE, 1)]
    let active := with_ ok [(PART_STATE.STATE 255, 1)]
    let tx : State := { ok with triad := { ok.triad with txns := [(1, some { slot := 0, hdr := 0, desc := [] })] } }
    (f busy).fget POWER_STATE.CUR = 4 ∧ ((f ok).fget POWER_STATE.MOVING ≠ 1 ∧ (f ok).fget POWER_STATE.CUR ≠ 4) ∧
    ((f runs).pk 767 = 4) ∧ (∀ c, c < 768 → (f ok).pk c ≠ 3 ∧ (f ok).pk c ≠ 4) ∧ tolOf tight = some 1015808 ∧ tolOf ok = none ∧
    (f faulty).fget FAULT_STAT.FSTATE = 1 ∧ (f ok).fget FAULT_STAT.FSTATE ≠ 1 ∧
    (f { ok with pins := { ok.pins with vaultAllow := false } }).pins.vaultAllow = false ∧ (f (allow ok)).pins.vaultAllow = true ∧
    (f active).fget (PART_STATE.STATE 255) ≠ 0 ∧ (∀ n, n < 256 → (f ok).fget (PART_STATE.STATE n) = 0) ∧
    ((f tx).openTxns.any fun e => e.2.vital == false) = true ∧ (f ok).openTxns = [] ∧ (f ok).triad.flights = [] ∧
    (f ok).fget POWER_WAKE.WAKE_EN = 1 ∧ (f (with_ ok [(POWER_WAKE.WAKE_EN, 0), (POWER_WAKE.ALARM_EN, 0)])).fget POWER_WAKE.WAKE_EN ≠ 1 ∧
    (f (with_ ok [(POWER_WAKE.WAKE_EN, 0), (POWER_WAKE.ALARM_EN, 0)])).fget POWER_WAKE.ALARM_EN ≠ 1 ∧ (at_ .vault).power.phase = .vault := by
  decide +kernel

/-- `BoardLandResults`: the phases, the island powered and REFCLK retried, the lands driven. -/
theorem wit_BoardLandResults : (at_ .vault).power.phase = .vault ∧ up.power.phase = .run ∧ (at_ .off).power.phase ≠ .run ∧
    (at_ .off).power.phase ≠ .vault ∧ 255 < 256 ∧ (at_ .lockWait).power.phase = .lockWait ∧ (at_ .service).power.phase = .service ∧
    State.reset.apron.powered = true ∧ { up.pins with hiZ := false }.hiZ = false := by decide
/-! ### Test port, debug, Pockets, patches, sparing -/

theorem wit_TestPortResults : up.hubOn = true ∧ (0 % 256 = 0) ∧ (5 < 6 % 256 ∧ 0x7F % 256 < 0x80) ∧ 0x85 < 0x86 % 256 := by decide

/-- Debug selects context 0, owned by partition 3, with debug enabled for every partition. -/
def dbg (h : Nat) (pend : Option (Nat × DbgAction)) : State :=
  let s := with_ (atP []) [(TAILOR_DBGCTL.EN, 1), (TAILOR_DBGCTL.ANYPART, 1), (POCKET_STAT.STATE 0, 1)]
  { s with dbg := { s.dbg with sel := 0, pend := pend, halted := if h = 0 then [] else [(0, h)] } }

theorem wit_Permitted : Permitted (dbg 0 none) ∧ ¬ Permitted up := by
  refine ⟨.inr ⟨by decide +kernel, fun h => ?_, fun _ _ => ⟨3, by decide +kernel, .inl (by decide +kernel)⟩⟩, fun h => ?_⟩
  · rcases h with h | h <;> exact absurd h (by decide +kernel)
  · rcases h with h | h
    · exact absurd h (by decide +kernel)
    · exact absurd h.1 (by decide +kernel)

/-- `DebugInstructions`: context and T0 selected, a context that exists and one beyond 767, an action waiting, a Pocket FREE and
not, halted and not. -/
theorem wit_DebugInstructions : up.hubOn = true ∧ (dbg 0 none).power.phase = .run ∧ (dbg 0 none).dbg.selT0 = false ∧ (dbg 0 none).dbg.sel < 768 ∧
    (dbg 0 none).fget (TAILOR_PHYS.STATE ((dbg 0 none).physOf (slotOf 0))) ≠ 2 ∧
    (let t := debugSel (dbg 0 none) 0x81
     let r := t.raiseC { loc := 0x04FF190000000000, ctx := some 0, part := some 3, d0 := 0x81 }
     t.partOf 0 = some 3 ∧ r.pk 0 ≠ 0 ∧ r.dbg.pend = none ∧ AMap.get 0 r.dbg.halted 0 = 0) ∧
    (debugSel (dbg 17 none) 0x82).dbg.halted = [(0, 17)] ∧ (dbg 0 (some (0, .halt))).dbg.pend ≠ none ∧
    (with_ (dbg 0 none) [(POCKET_STAT.STATE 0, 0)]).pk 0 = 0 ∧ 768 ≤ 1023 ∧ 0x803 < 0xFFF % 4096 := by decide +kernel

/-- `DebugActionApplied`: every action, on a halted context and on one that is not, a register at the ends of its ranges. -/
theorem wit_DebugActionApplied : (∀ a ∈ [DbgAction.halt, .resume, .step, .dbrk 3 0 true, .dreg 0x1F true 0, .dreg 0x40 false 0, .dreg 0x3FF true 0,
      .dmem 1 8 true true 0], (dbg 0 (some (0, a))).dbg.pend = some (0, a)) ∧ AMap.get 0 (dbg 0 none).dbg.halted 0 = 0 ∧
    AMap.get 0 (dbg 17 none).dbg.halted 0 = 17 ∧ AMap.get 0 (dbg 1 none).dbg.halted 0 = 1 ∧ (dbg 1 none).pk 0 ≠ 3 ∧ 1 % 8 ≠ 0 := by decide +kernel

theorem wit_BreakpointHalts : let s : State := { fw [] with dbg := { bps := [(63, some home)] } }
    s.canRun 15 = true ∧ s.bpAt 15 = some 3 := by decide +kernel

/-- A Pocket of partition 3 in state `st`, its save area at window address 0x4000. -/
def pocket (st valid : Nat) : State :=
  with_ (part {}) [(POCKET_STAT.STATE 0, st), (POCKET_SAVE.VALID 0, valid), (POCKET_SAVE.ADDR 0, (home.toNat + 0x4000) / 1024)]

/-- `PocketCommands`: every state of the Pocket, halted and not, a save area and none, an image that is poison, good and bad. -/
theorem wit_PocketCommands : (∀ st, st ≤ 4 → (pocket st 1).takesCmds 0 = true ∧ (pocket st 1).pk 0 = st) ∧ AMap.get 0 (pocket 1 1).dbg.halted 0 = 0 ∧
    AMap.get 0 (dbg 1 none).dbg.halted 0 ≠ 0 ∧ (dbg 1 none).takesCmds 0 = true ∧ (pocket 1 1).fget (POCKET_SAVE.VALID 0) = 1 ∧
    (pocket 1 0).fget (POCKET_SAVE.VALID 0) ≠ 1 ∧ (pocket 1 1).savePoison 0 0 1024 = none ∧
    ({ pocket 1 1 with mem := { (pocket 1 1).mem with winPoison := [(0x4000 / 64, true)] } } : State).savePoison 0 0 1024 = some (home.toNat + 0x4000) := by
  decide +kernel

theorem crcBit_lt {r : Nat} (h : r < 2 ^ 32) : crcBit r < 2 ^ 32 := by
  unfold crcBit
  split
  · exact Nat.xor_lt_two_pow (by omega) (by decide)
  · omega

theorem crc32c_lt (bs : List Byte) : crc32c bs < 2 ^ 32 := by
  have step : ∀ r b, r < 2 ^ 32 → crcByte r b < 2 ^ 32 := by
    intro r b h
    have hb : b.toNat < 2 ^ 32 := lt_trans b.isLt (by decide)
    unfold crcByte
    exact crcBit_lt (crcBit_lt (crcBit_lt (crcBit_lt (crcBit_lt (crcBit_lt (crcBit_lt (crcBit_lt (Nat.xor_lt_two_pow h hb))))))))
  have run : ∀ (l : List Byte) r, r < 2 ^ 32 → l.foldl crcByte r < 2 ^ 32 := by
    intro l
    induction l with
    | nil => exact fun r h => h
    | cons b l ih => exact fun r h => ih _ (step r b h)
  exact Nat.xor_lt_two_pow (run bs _ (by decide)) (by decide)

/-- A save image of zeros with version 1 and its CRC is good. -/
theorem wit_imageGood : let z : List Byte := List.replicate 0x3F8 0
    imageGood (z ++ leBytes 8 (crc32c z + 2 ^ 32)) = true := by
  intro z
  have hz : z.length = 0x3F8 := List.length_replicate
  have hc := crc32c_lt z
  have hw : (imgWord (z ++ leBytes 8 (crc32c z + 2 ^ 32)) 0x3F8).toNat = crc32c z + 2 ^ 32 := by
    unfold imgWord
    rw [List.drop_left' hz]
    generalize crc32c z = n at hc
    simp [leBytes, leNat, leWord]
    omega
  have ht : (z ++ leBytes 8 (crc32c z + 2 ^ 32)).take 0x3F8 = z := List.take_left' hz
  unfold imageGood
  simp only [hw, ht]
  generalize crc32c z = n at hc
  simp [bitsOf]
  omega

/-- `PocketOwnerWrites`: the firmware Pocket, the same owner, another one in a Pocket that runs and in one that does not. -/
theorem wit_PocketOwnerWrites : (pocket 4 1).power.phase = .run ∧ (pocket 4 1).fget (POCKET_CTL.OWNER 0) = 3 ∧
    (pocket 4 1).fget (POCKET_CTL.OWNED 0) = 1 ∧ 1 < (pocket 4 1).pk 0 ∧ (pocket 1 1).pk 0 ≤ 1 ∧ 767 % 16 = 15 ∧ 766 % 16 ≠ 15 := by decide +kernel

/-- `ContextCommands`: the partition active and not, the context its own and another's, every state, FWHOLD, PRIMAX. -/
theorem wit_ContextCommands : (∀ st, st ≤ 4 → (pocket st 1).takesCmds 0 = true ∧ (pocket st 1).pk 0 = st ∧ (pocket st 1).partOf 0 = some 3) ∧
    (∀ k ∈ (pocket 1 1).core.ctxCmds, k.part ≠ 3) ∧ (pocket 1 1).fget (PART_STATE.STATE 3) = 1 ∧ (pocket 1 1).fget (PART_STATE.STATE 2) ≠ 1 ∧
    (pocket 1 1).fget (POCKET_STAT.FWHOLD 0) ≠ 1 ∧ (with_ (pocket 1 1) [(POCKET_STAT.FWHOLD 0, 1)]).fget (POCKET_STAT.FWHOLD 0) = 1 ∧
    (pocket 1 1).partOf 1 ≠ some 3 ∧
    (let s := with_ (pocket 1 1) [(PART_PRIMAX.PRIMAX 3, 7), (PART_CTXARG.CTXARG 3, 8)]
     s.fget (PART_PRIMAX.PRIMAX 3) < s.fget (PART_CTXARG.CTXARG 3) % 16) ∧
    (let s := with_ (pocket 1 1) [(PART_PRIMAX.PRIMAX 3, 7), (PART_CTXARG.CTXARG 3, 7)]
     s.fget (PART_CTXARG.CTXARG 3) % 16 ≤ s.fget (PART_PRIMAX.PRIMAX 3)) := by decide +kernel

/-- Slot 0 with context 1 READY at `p1` and context 0 RUNNING at `p0`, or none. -/
def sched (run : Bool) (p0 p1 : Nat) : State :=
  (with_ (atP []) [(POCKET_CTL.PRI 0, p0), (POCKET_CTL.PRI 1, p1), (POCKET_STAT.STATE 1, 3), (POCKET_STAT.STATE 0, if run then 4 else 1),
    (WEFT_SCHED.SWWAIT 0, 1), (POCKET_CTL.SLICE 0, 1)]).setReady 0 [1]

/-- `SchedulerResults`: a higher rank, an equal one with the slice over, no Pocket running. -/
theorem wit_SchedulerResults : (sched true 2 3).coresUp = true ∧ (sched true 2 3).dispatches 0 = true ∧ (sched true 2 3).choose 0 = some 1 ∧
    (sched true 2 3).pk 1 = 3 ∧ (sched true 2 3).runningOf 0 = some 0 ∧ (sched true 2 3).rank 0 < (sched true 2 3).rank 1 ∧
    (sched true 3 3).rank 0 = (sched true 3 3).rank 1 ∧ (sched false 2 3).runningOf 0 = none ∧ (sched true 2 3).fget (WEFT_SCHED.SWWAIT 0) ≠ 0 ∧
    (sched true 2 3).fget (POCKET_STAT.SWGUARD 0) ≠ 1 ∧ (sched true 2 3).fget (POCKET_CTL.SLICE 0) ≠ 0 ∧
    AMap.get false ({ sched true 3 3 with core := { (sched true 3 3).core with sliceOver := [(0, true)] } } : State).core.sliceOver 0 = true := by
  decide +kernel

/-- `PatchResults`: sealed and not, busy and not, a CRC that matches and one that does not, two enabled match entries alike, pairs 47
and 48 and one that is neither active nor spare. -/
theorem wit_PatchResults : up.fget CSTORE_STAGECTL.SEALED ≠ 1 ∧ up.fget CSTORE_STAT.BUSY ≠ 1 ∧ (with_ up [(CSTORE_STAGECTL.SEALED, 1)]).fget CSTORE_STAGECTL.SEALED = 1 ∧
    (with_ up [(CSTORE_STAT.BUSY, 1)]).fget CSTORE_STAT.BUSY = 1 ∧
    (let s := with_ up [(CSTORE_SMATCH.EN 0, 1), (CSTORE_SMATCH.EN 63, 1)]
     s.fget (CSTORE_SMATCH.EN 0) = 1 ∧ s.fget (CSTORE_SMATCH.EN 63) = 1 ∧ s.fget (CSTORE_SMATCH.ROMADDR 0) = s.fget (CSTORE_SMATCH.ROMADDR 63)) ∧
    (∀ j, j < 64 → up.fget (CSTORE_SMATCH.EN j) ≠ 1) ∧ crc32c up.stageBytes = crc32c up.stageBytes % 2 ^ 32 ∧
    crc32c up.stageBytes ≠ (crc32c up.stageBytes + 1) % 2 ^ 32 ∧
    (with_ up [(TAILOR_PHYS.STATE 47, 1)]).fget (TAILOR_PHYS.STATE 47) = 1 ∧ (with_ up [(TAILOR_PHYS.STATE 47, 4)]).fget (TAILOR_PHYS.STATE 47) = 4 := by
  have h := crc32c_lt up.stageBytes
  refine ⟨by decide +kernel, by decide +kernel, by decide +kernel, by decide +kernel, by decide +kernel, by decide +kernel, ?_, ?_,
    by decide +kernel, by decide +kernel⟩
  all_goals
    generalize crc32c up.stageBytes = n at h
    omega

/-- `LockstepAndSparing`: a pair that serves a slot, its retry counts at 2 and 3, a spare of its die, of another die and none. -/
theorem wit_LockstepAndSparing :
    let s (n : Nat) (sp : Nat) := with_ (fw []) [(WEFT_LOCK.COUNT 0, n), (TAILOR_PHYS.STATE sp, 1), (TAILOR_SPARECTL.RATETHR, 0)]
    (s 2 11).coresUp = true ∧ (s 2 11).slotServed 0 = some 0 ∧ (s 2 11).fget (TAILOR_PHYS.STATE 0) = 0 ∧ (s 2 11).fget TAILOR_SPARECTL.RATETHR = 0 ∧
    (s 2 11).fget (WEFT_LOCK.COUNT 0) < 3 ∧ (s 3 11).fget (WEFT_LOCK.COUNT 0) = 3 ∧ (s 2 11).chooseSpare 0 = some 11 ∧ (s 2 47).chooseSpare 0 = some 47 ∧
    (fw []).chooseSpare 0 = none ∧ (fw []).slotServed 47 = none ∧ (with_ (fw []) [(TAILOR_PHYS.STATE 0, 3)]).slotServed 0 = some 0 ∧
    (with_ up [(TAILOR_PHYS.STATE 47, 4)]).fget (TAILOR_PHYS.STATE 47) = 4 := by decide +kernel

/-! ### Collar, partitions -/

/-- `CollarSourceStates`: each state of a source, enabled and not, a claim with and without a source, a holder and another,
by the firmware and by the partition's own context. -/
theorem wit_CollarSourceStates :
    let p := pendingFor (part {}) 0
    let serv := p.setServ 0x4000 true
    let servOff := serv.fset (COLLAR_SWGRP.EN 0) 0
    let idle := p.setPend 0x4000 false
    p.power.phase = .run ∧ sourceKnown 0x4000 = true ∧ sourceKnown 0x7FFF = true ∧ p.srcOwner 0x4000 = some 3 ∧ p.destroying 3 = false ∧
    (serv.srcServ 0x4000 = true ∧ serv.srcEn 0x4000 = true ∧ serv.srcHolder 0x4000 = 0 ∧ serv.srcHolder 0x4000 ≠ 15) ∧
    (servOff.srcServ 0x4000 = true ∧ servOff.srcEn 0x4000 = false) ∧ (p.srcServ 0x4000 = false ∧ p.srcPend 0x4000 = true) ∧
    (idle.srcServ 0x4000 = false ∧ idle.srcPend 0x4000 = false ∧ idle.srcEn 0x4000 = true ∧ idle.targets 0x4000 0 = true ∧
      idle.targets 0x4000 1 = false) ∧
    (up.srcServ 0 = false ∧ up.srcPend 0 = false ∧ up.srcEn 0 = false) ∧
    p.partReach 0 3 = true ∧ p.partReach 15 255 = true ∧ p.claimable 0 = some 0x4000 ∧ idle.claimable 0 = none := by decide +kernel

theorem wit_ClaimTakesHighestPriority : (pendingFor (part {}) 0).claimable 0 = some 0x4000 := by decide +kernel

/-- `CollarCommands`: the firmware context, the partition's own, another; known and reserved sources; software, shared and
foreign ones; a source in service and one that is not. -/
theorem wit_CollarCommands :
    let p := pendingFor (part {}) 0
    let serv := p.setServ 0x4000 true
    let hw := up.setServ 0xFFF true
    767 % 16 = 15 ∧ sourceKnown (0x4000 % 2 ^ 16) = true ∧ sourceKnown (0x1200 % 2 ^ 16) = false ∧ 0 % 16 ≠ 15 ∧
    p.partOf 0 = some 3 ∧ isSw (0x4000 % 2 ^ 16) = true ∧ p.srcOwner 0x4000 = some 3 ∧ isSw (0xFFF % 2 ^ 16) = false ∧
    p.srcOwner 0x4040 ≠ some 3 ∧ ¬ (0 % 16 = 15 ∨ p.partOf 0 = some 4) ∧ (hw.srcServ 0xFFF = true ∧ sourceKnown 0xFFF = true) ∧
    hw.srcServ 0 = false ∧ serv.srcServ (0x4000 + 64 * (0 % 256) + 0 % 64) = true ∧ p.srcServ (0x4000 + 64 * (255 % 256) + 63 % 64) = false := by
  decide +kernel

/-- `ContextTimers`: an armed timer whose time has come, TODCTL.EN, a deadline of 0, one passed and one to come. -/
theorem wit_ContextTimers :
    let t (d : Nat) : State := { up with collar := { up.collar with timers := [(15, d)] } }
    ((0 : Word) = 0 ∧ up.look.tod < (8 : Word).toNat ∨ (0 : Word) = 0 ∧ 8 ≤ up.look.tod) ∧
    (8 : Word) ≠ 0 ∧ 15 % 16 = 15 ∧ (part {}).partOf 0 = some 3 ∧ up.fget SEAM_TODCTL.EN = 0 ∧
    (∃ s : State, s.look.tod = 8 ∧ (8 : Word).toNat ≤ s.look.tod ∧ s.power.phase = .run) ∧
    AMap.get 0 (with_ (t 900) [(SEAM_TODCTL.EN, 1)]).collar.timers 15 ≠ 0 ∧ (with_ (t 900) [(SEAM_TODCTL.EN, 1)]).fget SEAM_TODCTL.EN = 1 ∧
    AMap.get 0 up.collar.timers 767 = 0 := by
  refine ⟨by decide +kernel, by decide, by decide, by decide +kernel, by decide +kernel, ⟨{ up with tod := 8 }, ?_⟩,
    by decide +kernel, by decide +kernel, by decide +kernel⟩
  decide +kernel

/-- `PartitionCommands`: each step of a creation, a destruction held up by a ring and not, a context owned and another. -/
theorem wit_PartitionCommands :
    let s := part {}
    let new := with_ s [(PART_STATE.STATE 3, 0)]
    let noSave := with_ new [(POCKET_SAVE.VALID 0, 0)]
    let ring := with_ s [(RING_STAT.STATE 4095, 2), (RING_STAT.OPEN 4095, 1), (RING_CTL.PART 4095, 3)]
    up.fget (PART_STATE.STATE 255) = 0 ∧ up.fget (PART_ROOT2.VALID 255) ≠ 1 ∧ (new.fget (PART_STATE.STATE 3) = 0 ∧ new.fget (PART_ROOT2.VALID 3) = 1) ∧
    (new.partOf 0 = some 3 ∧ new.fget (POCKET_SAVE.VALID 0) = 1) ∧ (∀ c, c < 768 → ¬ (noSave.partOf c = some 3 ∧ noSave.fget (POCKET_SAVE.VALID c) = 1)) ∧
    s.fget (PART_STATE.STATE 3) = 1 ∧ (ring.rst 4095 ≠ 0 ∧ ring.rpart 4095 = 3 ∧ ring.fget (RING_STAT.OPEN 4095) ≠ 0) ∧
    (∀ a, a < 64 → ∀ b, b < 64 → s.rst (64 * a + b) = 0) ∧ s.partOf 0 = some 3 ∧ s.partOf 767 ≠ some 3 := by decide +kernel

/-- `PairGating`: PAIRGATE set and clear, and tolerances that admit 15 µs, only 200 ns. -/
theorem wit_PairGating :
    let s (v sc : Nat) := with_ up [(POWER_LTRFW.UNBOUNDED, 0), (POWER_LTRFW.SCALE, sc), (POWER_LTRFW.VALUE, v), (POWER_CTL.PAIRGATE, 1)]
    (s 15 2).coresUp = true ∧ (∀ c, c < 768 → (s 15 2).pk c ≠ 3 ∧ (s 15 2).pk c ≠ 4) ∧ (s 15 2).fget POWER_CTL.PAIRGATE = 1 ∧
    (s 15 2).slotTol 47 = some 15360 ∧ (s 200 0).slotTol 47 = some 200 ∧ (with_ up [(POWER_CTL.PAIRGATE, 0)]).fget POWER_CTL.PAIRGATE ≠ 1 := by decide +kernel

/-! ### Coherence, memory controllers -/

/-- A sector of a Hem window. -/
def wsec : Nat := home.toNat / 64

/-- The holder of a sector, its state and the sharers. -/
def dirAt (sec : Nat) (o : Option Nat) (st : CState) (sh : List Nat) (s : State := up) : State :=
  { s with mem := { s.mem with dir := [(sec, { owner := o, st := st, sharers := sh })] } }

/-- A transaction in flight at the home of a sector. -/
def txnAt (sec : Nat) (x : HomeTxn) (s : State := up) : State := { s with mem := { s.mem with txns := [(sec, some x)] } }

/-- A request that was turned away. -/
def nackAt (x : NackedReq) (s : State := up) : State := { s with mem := { s.mem with nacked := [x] } }

/-- A mirrored region of 1 GiB on channels 0 and 1, both normal. -/
def mapped : State := with_ { up with mem := { up.mem with chanGiB := [(0, 2), (1, 2)] } }
  [(WEFT_MAPA.VALID 0 0, 1), (WEFT_MAPA.MIRROR 0 0, 1), (WEFT_MAPB.CHMASK 0 0, 3), (MC_STAT.STATE 0, 1), (MC_STAT.STATE 1, 1)]

/-- `HomeReads`, `HomeReleases`, `HomePortAccesses`: a home that is free and quiet, one with a transaction, one with another's
persistent request and one with the requester's own, a home that works on another sector; a request turned away for the first,
the 64th and a persistent time; a checkstop; a sector held in each state; an eviction buffer that is full, that holds the sector
and whose entry waits for the home; a window and a covered address. -/
theorem wit_HomeReads :
    let mine := nackAt ⟨48, wsec, .readM, 64, true, 0, []⟩
    let old (n : Nat) := nackAt ⟨0, wsec, .readM, n, false, 0, []⟩
    (up.served (wsec * 64) = true ∧ mapped.served 0 = true ∧ mapped.served 0x3FFFFFC0 = true ∧ up.mem.checkstop = false) ∧
    (up.txnOf wsec = none ∧ up.persistentFor wsec = none ∧ up.mem.txns = []) ∧
    (mine.txnOf wsec = none ∧ (mine.persistentFor wsec).map (·.requester) = some 48) ∧
    (txnAt wsec ⟨0, .readS, none, [], false⟩).txnOf wsec ≠ none ∧
    (txnAt (wsec + 1) ⟨0, .readS, none, [], false⟩).txnOf wsec = none ∧ up.homeKey (wsec + 1) = up.homeKey wsec ∧
    (firstThat (fun x : NackedReq => x.requester == 0 && x.sector == wsec) (old 63).mem.nacked).map (·.count) = some 63 ∧
    (firstThat (fun x : NackedReq => x.requester == 48 && x.sector == wsec) mine.mem.nacked).map (·.persistent) = some true ∧
    ({ up with mem := { up.mem with checkstop := true } } : State).mem.checkstop = true ∧
    (up.homeOf wsec).1 = 4 ∧ (mapped.homeOf 0).1 < 4 ∧
    ((dirAt wsec (some 48) .o [0]).cst 48 wsec ≠ .i ∧ up.cst 48 wsec = .i) ∧ AMap.get [] up.mem.evict 48 = [] := by
  decide +kernel

theorem wit_HomeReleases :
    let buf (l : List (Nat × Bool)) (s : State) : State := { s with mem := { s.mem with evict := [(48, l)] } }
    let held (l : List (Nat × Bool)) := AMap.get [] (buf l up).mem.evict 48
    (dirAt wsec (some 48) .m []).cst 48 wsec = .m ∧ (dirAt wsec (some 48) .o [0]).cst 48 wsec = .o ∧
    (dirAt wsec (some 48) .e []).cst 48 wsec = .e ∧ (dirAt wsec none .i [48]).cst 48 wsec = .s ∧ up.cst 48 wsec = .i ∧
    ((wsec, false) ∈ held [(wsec, false)] ∧ (wsec, true) ∉ held [(wsec, false)] ∧ (wsec, true) ∈ held [(wsec, true)]) ∧
    ((held [(wsec + 1, false)]).length < 16 ∧ ∀ e ∈ held [(wsec + 1, false)], e.1 ≠ wsec) ∧
    16 ≤ (held ((List.range 16).map fun k => (k, true))).length ∧ spaceOf (wsec * 64) = .window ∧
    ∀ e ∈ (dirAt wsec (some 48) .m []).mem.cdata, e.1 / 64 ≠ wsec := by
  decide +kernel

theorem wit_HomePortAccesses :
    let bs : List Byte := List.replicate 64 7
    up.power.phase = .run ∧ 63 < 64 ∧ up.txnOf wsec = none ∧ up.persistentFor wsec = none ∧ (txnAt wsec ⟨0, .readS, none, [], false⟩).txnOf wsec ≠ none ∧
    bs.length = 64 ∧ up.served (wsec * 64) = true ∧ up.served (wsec * 64 + 63) = true ∧ up.mem.sbuf = [] ∧ (0 < [(7 : Byte)].length ∧ 63 + [(7 : Byte)].length ≤ 64) ∧
    spaceOf (wsec * 64) = .window ∧ mapped.served 0 = true ∧ (let m := with_ mapped [(WEFT_L3STAT.GSTATE 0, 0x55)]
      m.served 0 = true ∧ ((m.recallAll 0).l3Touch 0).2 = true ∧ m.l3Draining (m.homeOf 0).1 = false) := by decide +kernel

/-- `TransactionSteps`: no transaction; one forwarded; one to invalidate; one complete, of each kind, with the requester the
owner and not; every kind of request that waits. -/
theorem wit_TransactionSteps :
    let f : HomeTxn := ⟨0, .readM, some 48, [], false⟩
    let v : HomeTxn := ⟨0, .upgrade, none, [47], false⟩
    let c (k : ReqKind) : HomeTxn := ⟨0, k, none, [], false⟩
    let again (k : ReqKind) (a : Nat) (d : List Byte) : NackedReq := ⟨48, wsec, k, 1, false, a, d⟩
    up.txnOf wsec = none ∧ (∀ e ∈ AMap.get [] up.mem.evict 0, e.1 ≠ wsec) ∧ (txnAt wsec f).txnOf wsec = some f ∧ ((dirAt wsec (some 48) .e []).dirOf wsec).owner = some 48 ∧
    48 ∉ ((dirAt wsec (some 48) .e []).dirOf wsec).sharers ∧ 47 ∈ v.inv ∧ 0 ∉ v.inv ∧ f.fwd ≠ none ∧ v.inv ≠ [] ∧ v.fwd = none ∧
    (∀ k, (txnAt wsec (c k)).txnOf wsec = some (c k) ∧ (c k).fwd = none ∧ (c k).inv = []) ∧ (up.dirOf wsec).owner ≠ some 0 ∧
    ((up.dirOf wsec).owner = none ∧ (up.dirOf wsec).sharers = []) ∧
    (∀ k, firstThat (fun z => z.requester == 48 && z.sector == wsec) (nackAt (again k 0 [])).mem.nacked = some (again k 0 [])) ∧
    (List.replicate 64 (7 : Byte)).length = 64 ∧ firstThat (fun z : NackedReq => z.requester == 48 && z.sector == wsec) up.mem.nacked = none := by
  refine ⟨by decide, by decide, by decide, by decide, by decide, by decide, by decide, by decide, by decide, by decide, fun k => ?_, by decide, by decide,
    fun k => ?_, by decide, by decide⟩ <;> cases k <;> decide

theorem wit_CoherenceTimeouts :
    let f : HomeTxn := ⟨0, .readM, some 48, [3], false⟩
    up.privileged wsec = true ∧ mapped.privileged 0 = false ∧ up.txnOf wsec = none ∧ (txnAt wsec f).txnOf wsec = some f ∧
    up.outstanding 0 wsec = false ∧ (txnAt wsec f).outstanding 0 wsec = true ∧ (txnAt 0 f mapped).outstanding 0 0 = true ∧
    (f.fwd ≠ some 0 ∧ 0 ∉ f.inv) ∧ f.fwd = some 48 ∧ 3 ∈ f.inv ∧ (txnAt 0 f mapped).privileged 0 = false ∧ spaceOf (wsec * 64) = .window := by
  decide +kernel

/-- `CacheControl`: each state of an L2 and of a way group, a pending re-enable, a done notice wanted. -/
theorem wit_CacheControl :
    let l2 (k : Nat) := with_ up [(WEFT_L2STAT.STATE 47, k)]
    let l3 (k : Nat) := with_ up [(WEFT_L3STAT.GSTATE 3, k * 64)]
    (∀ k, k < 4 → (l2 k).fget (WEFT_L2STAT.STATE 47) = k ∧ (l3 k).gstate 3 3 = k) ∧
    AMap.get false { up.mem with reEnable := [(47, true)] }.reEnable 47 = true ∧
    AMap.get false { up.mem with clearLater := [(79, true)] }.clearLater (64 + 3 * 4 + 3) = true ∧
    (with_ up [(WEFT_L2CTL.DONEEN 47, 1)]).fget (WEFT_L2CTL.DONEEN 47) = 1 ∧ sourceKnown (up.fget (WEFT_L2CTL.DONESRC 47)) = true ∧
    up.fget (WEFT_L3CTL.DONEEN 3) ≠ 1 ∧ (∀ g, g < 4 → (l3 0).gstate 3 g ≠ 2) ∧ (l3 2).gstate 3 3 = 2 ∧ sourceKnown 0x1200 = false ∧ (15 / 2 ^ 3 % 2 = 1 ∧ ¬ 7 / 2 ^ 3 % 2 = 1) := by decide +kernel

/-- `PersistResults`: the pair of a context that runs, one that serves no slot, and a PERSIST that waits, of a context that
still runs there. -/
theorem wit_PersistResults :
    let f := fw []
    let w : State := { f with core := { f.core with persistWait := [(0, some (15, home))] } }
    f.slotServed 0 = some 0 ∧ f.runningOf 0 = some 15 ∧ f.coresUp = true ∧ (up.slotServed 47).bind up.runningOf = none ∧
    AMap.get none up.core.persistWait 0 = none ∧ AMap.get none w.core.persistWait 0 = some (15, home) ∧ w.canRun 15 = true ∧
    (w.ctx 15).pc = home ∧ w.mem.winPend = [] := by decide +kernel

/-- `MemoryControllerResults`: a region that is well formed and one with an odd channel; requests of which one is granted, in
urgency, priority and age, and none; channels that serve and do not, a good partner, a marked device, each threshold at its edge,
each state of hot replacement, and DIMMs that pass training, fail the SPD check and fail the fill. -/
theorem wit_MemoryControllerResults :
    let st (k : Nat) := with_ mapped [(MC_STAT.STATE 0, k)]
    let pat (a : Nat) := with_ mapped [(MC_CTL.SCRUBEN 0, 1), (MC_SCRUB.ADDR 0, a)]
    let marked (d : Nat) : State := { mapped with mem := { mapped.mem with marked := [(0, d + 1)] } }
    let d : DimmIn := { slot := 0, ident := 0x123, gib := 64 }
    let theirs := [2, 3].filterMap fun j => if bitOf (mapped.fget (MC_STAT.SLOTS 1)) (j % 2) then mapped.dimmOf j else none
    let check (l : List DimmIn) (j : Nat) : Option Nat := (dimmCheck l (population l 0 ≠ population theirs 1) j).map fun x => x.2
    let twin : State := { mapped with mem := { mapped.mem with dimms := [(2, some { d with slot := 2 })] } }
    (after (.mapWrite 0 true 0x7000000) mapped).fget (WEFT_MAPB.BAD 0 0) = 1 ∧ (after (.mapWrite 0 true 0x3000000) mapped).fget (WEFT_MAPB.BAD 0 0) = 0 ∧
    (∀ k ∈ [1, 2, 5], (st k).fget (MC_STAT.STATE 0) = k) ∧ (mapped.fget POWER_STATE.CUR ≠ 3 ∧ mapped.fget POWER_STATE.CUR ≠ 4) ∧
    mapped.granted 0 [⟨0, 1, 0, 9⟩, ⟨1, 0, 64, 3⟩] = some ⟨0, 1, 0, 9⟩ ∧ mapped.granted 0 [] = none ∧
    (∀ j, j < 7 → mapped.fget (MC_PORT.PRI 0 j) < 16) ∧ mapped.rankAt 0 0 = 0 ∧
    (AMap.get 0 mapped.mem.marked 0 = 0 ∧ AMap.get 0 (marked 7).mem.marked 0 = 7 + 1 ∧ AMap.get 0 (marked 7).mem.marked 0 ≠ 6 + 1) ∧
    (mapped.mirroredAt 0 0x3FFFFFFF = true ∧ mapped.chanUp (partner 0) = true ∧ mapped.fget (MC_STAT.STATE (partner 0)) = 1 ∧ mapped.mirroredAt 0 0x40000000 = false) ∧
    95 < 96 ∧ (with_ mapped [(MC_CTL.PDT 0, 0)]).fget (MC_CTL.PDT 0) = 0 ∧ mapped.fget (MC_CTL.PDT 0) ≠ 0 ∧
    ((pat 0x7FFFFFC0).fget (MC_CTL.SCRUBEN 0) = 1 ∧ AMap.get 0 mapped.mem.chanGiB 0 * 2 ^ 30 ≤ (pat 0x7FFFFFC0).fget (MC_SCRUB.ADDR 0) + 64) ∧
    ¬ AMap.get 0 mapped.mem.chanGiB 0 * 2 ^ 30 ≤ (pat 0).fget (MC_SCRUB.ADDR 0) + 64 ∧ 90 ≤ 90 ∧ ¬ 85 < 85 ∧ (with_ mapped [(MC_CTL.CETHR 0, 0)]).fget (MC_CTL.CETHR 0) = 0 ∧
    (mapped.fget (MC_STAT.STATE 0) = 1 ∧ mapped.fget (MC_STAT.STATE (partner 0)) = 1 ∧ mapped.unmirrored 0 = false) ∧
    up.fget (MC_STAT.STATE 23) ≠ 1 ∧ (st 3).fget (MC_STAT.STATE 0) = 3 ∧ (st 5).fget (MC_STAT.STATE 0) = 5 ∧ AMap.wf 0 mapped.mem.dram = true ∧
    (mapped.mirroredAt 0 0 = true ∧ mapped.mirroredAt (partner 0) 0 = true) ∧
    check [] 0 = none ∧ check [d] 0 = some 4 ∧ check [{ d with read := false }] 0 = some 3 ∧
    dimmCheck [{ d with fill := true }] (population [d] 0 ≠ population [{ d with slot := 2 }] 1) 0 = some ({ d with fill := true }, 1) ∧
    twin.dimmOf 2 = some { d with slot := 2 } := by decide +kernel

/-- `L3SetScrubResults`: a clean and a dirty sector in the set a slice has reached, and a sector that is not in it. -/
theorem wit_L3SetScrubResults :
    let l3 (k : Nat) : State := { mapped with mem := { mapped.mem with l3 := [(0, k)] } }
    AMap.get 0 (l3 1).mem.l3 0 = 1 ∧ (AMap.get 0 (l3 2).mem.l3 0 ≠ 0 ∧ AMap.get 0 (l3 2).mem.l3 0 ≠ 1) ∧ sliceOf (0 * 64) = 0 ∧
    0 * 64 / 2 ^ 12 % 2 ^ 10 = AMap.get 0 mapped.mem.l3scrub (0 * 16 + 0) ∧ AMap.get 0 mapped.mem.l3 1 = 0 ∧ spaceOf (0 * 64) = .dram := by
  decide +kernel

/-! ### Doorbells, transactions, rings -/

/-- Ring pair 4095 of partition 3 and channel 0, BOUND, with the triad accepting and TSNs to give. -/
def bound : State := with_ (part {}) [(RING_CTL.PART 4095, 3), (RING_STAT.STATE 4095, 3), (TRIAD_STAT.ACCEPTING, 1), (TRIAD_STAT.MODE, 1),
  (HEM_TSNCEIL.TSNCEIL, 9), (RING_CRIDX.PPH 4095, 1), (RING_CRIDX.CPH 4095, 1)]

/-- A doorbell of context 0. -/
def bell (o : Nat) (ws : List Word) : Doorbell := rung 0 4095 o ws

/-- `DoorbellResults`: each verdict, a full set of minima, a triad that does not accept, and a record that may land or not. -/
theorem wit_DoorbellResults :
    bound.power.phase = .run ∧ 4095 < 4096 ∧ (with_ bound [(FAULT_MINSET.MINSET, 1)]).fget FAULT_MINSET.MINSET ≠ 0 ∧
    (up.fget FAULT_MINSET.MINSET = 0 ∧ (with_ bound [(TRIAD_STAT.ACCEPTING, 0)]).triadUp = false) ∧
    (bound.fget FAULT_MINSET.MINSET = 0 ∧ bound.triadUp = true ∧ bound.triad.dbq = []) ∧
    (with_ bound [(RING_STAT.STATE 4095, 4)]).verdict (bell 1 []) = .discard ∧ bound.verdict (bell 2 [0, 0, 1]) = .refuse 0x21 0 ∧
    bound.verdict (bell 4 []) = .free ∧ bound.verdict (bell 1 []) = .pass ∧ (bound.countPass (bell 1 [])).mayLand = true ∧
    (with_ bound [(HEM_TSNCEIL.TSNCEIL, 0)]).verdict (bell 1 []) = .pass ∧
    ((with_ bound [(HEM_TSNCEIL.TSNCEIL, 0)]).countPass (bell 1 [])).mayLand = false ∧
    ((bell 1 []).ring = 4095 ∧ ((bell 1 []).words.getD 0 0).toNat / 2 ^ 7 % 2 = 0 ∧ ((bell 1 []).words.getD 0 0).toNat % 16 ≠ 3) := by
  decide +kernel

/-- A transaction of ring pair 4095, channel 0 and partition 3. -/
def tx (w0 : Word) (st : TxnStage) (vital : Bool) : Txn := { slot := 0, hdr := mkHdr 0 4095 0 3 false vital, desc := [w0], stage := st }

/-- It is accepted. -/
def txUp (x : Txn) (s : State := bound) : State := { s with triad := { s.triad with txns := [(5, some x)] } }

/-- Partition 3 with its first 2 MiB at `leaf`. -/
def leafAt (leaf : Nat) (s : State) : State := { s with mem := { s.mem with h0 := hem64 s.mem.h0 0x2000 leaf } }

/-- What a read of the chained descriptor finds. -/
def chainRead (x : Txn) (s : State) : HubRes :=
  (s.hubReadPR (triadFor (hdrPart x.hdr)) (hdrPart x.hdr) x.next 64 0 (hdrVital x.hdr)).2

theorem wit_TransactionReads :
    let x := tx 0x1001 .fetch false
    let v := tx 0x1001 .fetch true
    let dram := with_ bound [(WEFT_MAPA.VALID 0 0, 1), (WEFT_MAPB.CHMASK 0 0, 1), (MC_STAT.STATE 0, 1)]
    let gone : State := { dram with mem := { dram.mem with weftOut := [(0, true)] } }
    let hurt : State := { bound with mem := { bound.mem with winPoison := [(0x200000 / 64, true)] } }
    let full : State := { bound with mem := { bound.mem with h0 := hem64 bound.mem.h0 0x200000 4 } }
    (txUp x).txn 5 = some x ∧ (txUp x).triadUp = true ∧ x.stage = .fetch ∧ x.chain < dNchain x.ctl ∧
    chainRead x (leafAt 0 (txUp x)) = .fault ∧ chainRead v (leafAt 0x379 (txUp v dram)) = .outside ∧
    chainRead x (txUp x hurt) = .poison ∧ chainRead x (leafAt 0x379 (txUp x gone)) = .lost ∧
    (∃ bs, chainRead x (txUp x full) = .done bs ∧ chainParse x bs = none) ∧
    (∃ bs, chainRead x (txUp x) = .done bs ∧ chainParse x bs = some (0, [], [])) ∧
    ((tx 1 .fetch false).stage = .fetch ∧ dNchain (tx 1 .fetch false).ctl ≤ 0 ∧ ((txUp (tx 1 .fetch false)).gatherAll (tx 1 .fetch false)).2 = .done []) := by
  refine ⟨by decide, by decide +kernel, by decide, by decide, by decide +kernel, by decide +kernel, by decide +kernel, by decide +kernel,
    ⟨4 :: List.replicate 63 0, by decide +kernel, by decide +kernel⟩, ⟨List.replicate 64 0, by decide +kernel, by decide +kernel⟩, by decide +kernel⟩

/-- `TransactionResults`: votes of one die and of both, each mark, the timers, the carry and a detachment. -/
theorem wit_TransactionResults :
    let jr : JRec := { hdr := mkHdr 0 4095 0 3 false false, tsn := 5, tod := 0, pass := 0, crc := 0, desc := [1] }
    let f : Flight := { slot := 0, jr := jr }
    let fl : State := with_ { bound with triad := { bound.triad with flights := [f] } } [(HEM_STAT.H1OK, 1)]
    let sent : Txn := { tx 0x100000001 .sent false with sentWord := 1, sentDur := true }
    let rdy : Txn := { tx 1 .ready false with sentWord := 1 }
    let car (n : Nat) : State := { with_ (txUp (tx 1 .fetch false)) [(HEM_STAT.H1OK, 1), (HEM_JPTR.HEAD, 4194303), (HEM_JCTL.CARRYTHR, 2), (HEM_JSTAT.FREE, n)] with
      triad := { (txUp (tx 1 .fetch false)).triad with j0 := [(0, some jr)] } }
    bound.fget TRIAD_STAT.MODE < 2 ∧ (fl.triad.flights = [f] ∧ f.jr.tsn = 5 ∧ f.d0 = false ∧ f.d1 = false) ∧ (fl.hOk 0 = true ∧ fl.hOk 1 = true) ∧
    (∀ f ∈ bound.triad.flights, f.jr.tsn ≠ 5) ∧ (rdy.stage = .ready ∧ rdy.sentWord ≠ 0 ∧ rdy.sentDur = false) ∧
    ((txUp rdy).attach 0 = 0 ∧ (txUp rdy).rst (hdrRing rdy.hdr) ≠ 0) ∧ (tx 1 .settled false).stage = .settled ∧
    { tx 1 .answered false with retire := true }.retire = true ∧
    (sent.sentDur = true ∧ sent.stage = .sent ∧ (txUp sent).attach (hdrChan sent.hdr) = 0 ∧ (sent.desc.getD 0 0).toNat / 2 ^ 32 % 2 ^ 16 ≠ 0) ∧
    rdy.sentDur = false ∧
    ((car 1).fget HEM_JPTR.HEAD ≠ (car 1).fget HEM_JPTR.TAIL ∧ (tx 1 .fetch false).slot = (car 1).fget HEM_JPTR.TAIL ∧
      (∀ e ∈ (car 1).openTxns, e.2.slot = 0 → e = (5, tx 1 .fetch false)) ∧ AMap.wf none (car 1).triad.txns = true ∧
      (car 1).hOk 0 = true ∧ (car 1).hOk 1 = true ∧ (car 1).jrec 0 0 = some jr ∧ (car 1).fget HEM_JSTAT.FREE ≠ 0 ∧
      (car 1).fget HEM_JSTAT.FREE < (car 1).fget HEM_JCTL.CARRYTHR) ∧
    (car 2).fget HEM_JCTL.CARRYTHR ≤ (car 2).fget HEM_JSTAT.FREE ∧
    ((with_ (txUp rdy) [(CHAN_RINGSTAT.ATTACH 0, 1)]).attach 0 = 1 ∧ (with_ (txUp rdy) [(CHAN_RINGCTL.REATTACH 0, 0xFFFE)]).fget (CHAN_RINGCTL.REATTACH 0) ≠ 0xFFFF ∧
      0 ∈ List.map (fun _ => 0) (txUp rdy).openTxns ∧ (txUp rdy).chanTxns 0 = [5]) ∧ up.attach 255 ≠ 1 := by decide +kernel

/-- `RingCommands`: a ring in each state, positions at the edges, each refusal of BIND alone, a STOPPED ring, an armed timer. -/
theorem wit_RingCommands :
    let st (k : Nat) := with_ bound [(RING_STAT.STATE 4095, k)]
    let g := ringRegs 4095 false
    let fill := with_ bound [(RING_CRIDX.PROD 4095, 63)]
    let free := st 0
    let armed : State := { bound with triad := { bound.triad with rings := [(4095, { armed := true })] } }
    let i := with_ free [(RING_IRBASE.EN 4095, 1), (RING_IRBASE.SIZE 4095, 10)]
    (∀ k ∈ [0, 1, 3], (st k).fget (RING_STAT.STATE 4095) = k) ∧ bound.slots 4095 false = 64 ∧
    (64 ≤ (64 : Word).toNat % 2 ^ 16 ∧ 2 ^ 17 ≤ (0x20000 : Word).toNat) ∧
    (fill.ringDist 4095 false = 63 ∧ (ringPos 64 63 1 + 2 * 64 - ringPos 64 (fill.fget g.cons) (fill.fget g.cph)) % 128 = 63) ∧
    (free.fget (PART_STATE.STATE 3) = 1 ∧ (with_ free [(PART_STATE.STATE 3, 0)]).fget (PART_STATE.STATE 3) ≠ 1) ∧
    (with_ free [(RING_CRBASE.SIZE 4095, 10)]).fget (RING_CRBASE.SIZE 4095) = 10 ∧
    (i.fget (RING_IRBASE.EN 4095) = 1 ∧ 9 < i.fget (RING_IRBASE.SIZE 4095)) ∧
    64 * 2 ^ (with_ free [(RING_CTL.OUTMAX 4095, 25)]).fget (RING_CRBASE.SIZE 4095) <
      2 * Nat.max 1 ((with_ free [(RING_CTL.OUTMAX 4095, 25)]).fget (RING_CTL.OUTMAX 4095)) + 16 ∧
    ¬ 64 * 2 ^ free.fget (RING_CRBASE.SIZE 4095) < 2 * Nat.max 1 (free.fget (RING_CTL.OUTMAX 4095)) + 16 ∧
    ((txUp { tx 1 .ready false with hdr := mkHdr 0 4095 1 3 false false } free).ringTxns 4095 ≠ []) ∧ free.ringTxns 4095 = [] ∧
    (free.zeroRing 4095 false).2 = true ∧ (leafAt 0 free).zeroRing 4095 false = (leafAt 0 free, false) ∧ free.fget (RING_IRBASE.EN 4095) ≠ 1 ∧
    (free.zeroRing 4095 false).1.triad.flights = [] ∧
    (with_ bound [(RING_STAT.OPEN 4095, 1)]).fget (RING_STAT.OPEN 4095) ≠ 0 ∧ bound.fget (RING_STAT.OPEN 4095) = 0 ∧
    (with_ bound [(RING_STAT.STOPPED 4095, 1)]).fget (RING_STAT.STOPPED 4095) = 1 ∧ (armed.ring 4095).armed = true ∧ (bound.ring 4095).armed = false := by
  decide +kernel

/-! ### Hem dies, triad, pools -/

/-- `WindowCommands`: granules that change and do not, held by a window and busy; each check of a window alone. -/
theorem wit_WindowCommands :
    let own := with_ up [(HEM_GOWN.VALID 767, 1), (HEM_GOWN.OWNER 767, 255), (PART_HWINB.COUNT 255 7, 1), (PART_HWINB.GRAN 255 7, 767)]
    let open_ := with_ own [(PART_HWINA.VALID 255 7, 1)]
    let zero : State := { up with triad := { up.triad with zeroing := [(767, 259)] } }
    let clash := with_ own [(PART_HWINA.VALID 255 0, 1), (PART_HWINB.COUNT 255 0, 1), (PART_HWINA.PRBASE 255 0, 2 ^ 25 - 1)]
    (0x8000000000000000 / 2 ^ (16 * 3 + 15) % 2 * 256 + 0x8000000000000000 / 2 ^ (16 * 3) % 256 ≠
      own.fget (HEM_GOWN.VALID 767) * 256 + own.fget (HEM_GOWN.OWNER 767)) ∧
    (open_.fget (PART_HWINA.VALID 255 7) = 1 ∧ open_.fget (PART_HWINB.GRAN 255 7) ≤ 767 ∧
      767 < open_.fget (PART_HWINB.GRAN 255 7) + open_.fget (PART_HWINB.COUNT 255 7)) ∧
    (with_ up [(HEM_GOWN.BUSY 0, 1)]).fget (HEM_GOWN.BUSY 0) = 1 ∧
    (∀ n, n < 256 → ∀ k, k < 8 → up.fget (PART_HWINA.VALID n k) ≠ 1) ∧ (∀ i, i < 4 → up.fget (HEM_GOWN.BUSY (4 * 191 + i)) ≠ 1) ∧
    AMap.get 0 zero.triad.zeroing 767 ≠ 0 ∧ AMap.get 0 up.triad.zeroing 0 = 0 ∧ (2 % 2 = 0 ∧ 1 % 2 = 1) ∧
    (own.fget (PART_HWINB.COUNT 255 7) ≠ 0 ∧ own.fget (PART_HWINB.GRAN 255 7) + own.fget (PART_HWINB.COUNT 255 7) ≤ 768) ∧
    up.fget (PART_HWINB.COUNT 255 7) = 0 ∧
    (own.fget (HEM_GOWN.VALID 767) = 1 ∧ own.fget (HEM_GOWN.OWNER 767) = 255 ∧ own.fget (HEM_GOWN.BUSY 767) ≠ 1) ∧
    (with_ own [(HEM_GOWN.OWNER 767, 0)]).fget (HEM_GOWN.OWNER 767) ≠ 255 ∧
    (clash.fget (PART_HWINA.VALID 255 0) = 1 ∧ 0 < clash.fget (PART_HWINB.COUNT 255 0) ∧
      2 ^ 25 - 1 < clash.fget (PART_HWINA.PRBASE 255 0) + clash.fget (PART_HWINB.COUNT 255 0) ∧ clash.fget (PART_HWINA.PRBASE 255 0) < 2 ^ 25 - 1 + 1) ∧
    (∀ i, i < 8 → own.fget (PART_HWINA.VALID 255 i) ≠ 1) := by decide +kernel

/-- `HemDieCommands`: both dies in service, one, rejoining, and a patrol at a block of the journal and of the windows. -/
theorem wit_HemDieCommands :
    let both := with_ up [(HEM_STAT.H0OK, 1), (HEM_STAT.H1OK, 1)]
    let one := with_ up [(HEM_STAT.H0OK, 1)]
    let two := with_ up [(HEM_STAT.H1OK, 1), (HEM_STAT.REJOIN, 1)]
    let jr : JRec := { hdr := 1, tsn := 5, tod := 0, pass := 0, crc := 0, desc := [1] }
    let pat (k : Nat) : State := { both with triad := { both.triad with patrol := k, j0 := [(0, jr)] } }
    (both.fget HEM_STAT.H0OK = 1 ∧ both.fget HEM_STAT.H1OK = 1) ∧ (one.fget HEM_STAT.H0OK = 1 ∧ one.fget HEM_STAT.H1OK ≠ 1) ∧
    one.fget HEM_STAT.REJOIN ≠ 1 ∧ (two.fget HEM_STAT.H0OK ≠ 1 ∧ two.fget HEM_STAT.H1OK = 1 ∧ two.fget HEM_STAT.REJOIN = 1) ∧
    ((with_ one [(HEM_STAT.REJOIN, 1)]).fget HEM_STAT.H0OK = 1 ∧ (with_ one [(HEM_STAT.REJOIN, 1)]).fget HEM_STAT.REJOIN = 1) ∧
    AMap.wf 0 one.mem.h0 = true ∧ AMap.wf 0 two.mem.h1 = true ∧ 2 ^ 23 ≤ (pat (2 ^ 25 - 1)).triad.patrol ∧ (pat 0).triad.patrol < 2 ^ 23 ∧
    (pat 0).jrec 0 (0 / 2) = some jr := by decide +kernel

/-- `TriadCommands`: agreement of three, of two, of none. -/
theorem wit_TriadAgreement :
    let same : List (Option Nat) := [some 1, some 1, some 1]
    let odd : List (Option Nat) := [some 1, some 1, none]
    let apart : List (Option Nat) := [some 1, some 2, none]
    (∀ k, k < 3 → same.getD k none = some 1) ∧ (∀ k, k < 3 → (odd.getD k none = some 1 ↔ k ≠ 2)) ∧
    (∀ k, k < 3 → ∀ j, j < 3 → k ≠ j → (apart.getD k none = none ∨ apart.getD k none ≠ apart.getD j none)) := by decide

/-- `TriadCommands`: three voting, a pair, each state of a member, a Tailor restart in hand. -/
theorem wit_TriadCommands :
    let pair := with_ up [(TRIAD_STAT.MODE, 1), (TRIAD_MEMBER.STATE 2, 1)]
    let failed := with_ pair [(TRIAD_MEMBER.STATE 2, 5)]
    let prob := with_ pair [(TRIAD_MEMBER.STATE 2, 4)]
    let again : State := { up with triad := { up.triad with offeredAgain := true } }
    (up.fget TRIAD_STAT.MODE = 0 ∧ ∀ k, k < 3 → up.fget (TRIAD_MEMBER.STATE k) = 0) ∧
    again.triad.offeredAgain = true ∧ up.triad.offeredAgain = false ∧
    (pair.fget (TRIAD_MEMBER.STATE 0) = 0 ∧ pair.fget TRIAD_STAT.MODE = 1) ∧ (prob.fget (TRIAD_MEMBER.STATE 2) = 4 ∧ prob.fget TRIAD_STAT.MODE ≤ 1) ∧
    (pair.fget (TRIAD_MEMBER.STATE 2) ≠ 0 ∧ pair.fget (TRIAD_MEMBER.STATE 2) ≠ 4) ∧
    (pair.fget (TRIAD_MEMBER.STATE 2) = 1 ∧ ∀ k, k < 3 → (pair.fget (TRIAD_MEMBER.STATE k) = 0 ∨ pair.fget (TRIAD_MEMBER.STATE k) = 1)) ∧
    failed.fget (TRIAD_MEMBER.STATE 2) = 5 ∧ up.fget TAILOR_TFWSTAT.BUSY ≠ 1 ∧ (with_ pair [(TAILOR_TFWSTAT.BUSY, 1)]).fget TAILOR_TFWSTAT.BUSY = 1 ∧
    (with_ pair [(TRIAD_CTL.AUTOREJOIN, 1)]).fget TRIAD_CTL.AUTOREJOIN = 1 ∧ (with_ pair [(TRIAD_CTL.AUTOREJOIN, 0)]).fget TRIAD_CTL.AUTOREJOIN ≠ 1 := by
  decide +kernel

/-- The non-zero bytes of a triad image of 512 bytes: one section of 8 bytes at C0, VERSION 7, format `fmt`, with its CRC. -/
def fwBytes (fmt : Nat) : AMap Byte :=
  let sec : List Byte := [7, 0, BitVec.ofNat 8 fmt, 0, 0, 0, 0, 0]
  let put (m : AMap Byte) (o k v : Nat) : AMap Byte := (List.range k).foldl (fun m i => AMap.set 0 m (0x200000 + o + i) (BitVec.ofNat 8 (v / 256 ^ i))) m
  put (put (put (put (put (put (put (put (put (put [] 0 4 0x4D4F5A31) 4 2 1) 6 1 4) 8 4 512) 12 2 1) 14 2 7) 0x80 1 2) 0x88 8 0x8000000C0)
    0x90 4 (crc32c sec)) 0xC0 8 (7 + fmt * 65536)

/-- It stands in granule 1. -/
def fwAt (fmt : Nat) : State := { with_ up [(HEM_STAT.H0OK, 1)] with mem := { up.mem with h0 := fwBytes fmt } }

/-- `TriadFirmware`: no image, a good one of each format, a busy switch, a stopped triad, an image staged. -/
theorem wit_TriadFirmware :
    let good (b : List Nat) := imgHeaderOk b (2 ^ 23) = true ∧ imgTableOk b = true ∧ imgType b = 4 ∧ imgCrcOk b = true
    let read (s : State) := ((after (.triadFwLoad 0xFFFFF80200000) s).fget TRIAD_FWSTAT.RESULT)
    (with_ up [(TRIAD_STAT.MODE, 2)]).fget TRIAD_STAT.MODE = 2 ∧ (with_ up [(TRIAD_FWSTAT.BUSY, 1)]).fget TRIAD_FWSTAT.BUSY = 1 ∧
    (up.fget TRIAD_FWSTAT.BUSY ≠ 1 ∧ ∀ k, k < 3 → up.fget (TRIAD_MEMBER.STATE k) ≠ 2 ∧ up.fget (TRIAD_MEMBER.STATE k) ≠ 3) ∧
    (up.imgRead triadHub 0xFFFFFE0000000 (2 ^ 23)).2 = none ∧
    (∃ b, ((fwAt 0).imgRead triadHub 0xFFFFF80200000 (2 ^ 23)).2 = some b ∧ good b ∧ imgTriad b = some (7, 0)) ∧
    (∃ b, ((fwAt 1).imgRead triadHub 0xFFFFF80200000 (2 ^ 23)).2 = some b ∧ good b ∧ imgTriad b = some (7, 1)) ∧
    up.triad.active.format = 0 ∧ read (fwAt 0) = 1 ∧ read (fwAt 1) = 5 ∧
    ({ up with triad := { up.triad with staged := some { version := 7, format := 0 } } } : State).triad.staged ≠ none ∧ up.triad.staged = none := by
  decide +kernel

/-- `PoolCommands`: a write that changes nothing, of a pool in use, that starts one of each edge, that starts none. -/
theorem wit_PoolCommands :
    let s := with_ up [(POOL_CFG.SIZE 4095, 5)]
    let put (c : Nat) (t : State) : Nat := (after (.triadPoolWrite 4095 1 (BitVec.ofNat 64 c)) t).fget (POOL_STAT.RESULT 4095)
    let cfg (v n : Nat) : Nat := v * 2 ^ (POOL_CFG.VALID 4095).lo + n * 2 ^ (POOL_CFG.COUNT 4095).lo
    up.poolInUse 4095 = false ∧ put (cfg 0 0) up = 1 ∧ put (cfg 1 1) up = 1 ∧ put (cfg 1 0) up = 3 ∧ s.fget (POOL_CFG.SIZE 4095) ≤ 5 := by
  decide +kernel

/-! ### Lanes, channels -/

/-- A lane in a state, holding `x`. -/
def laneAt (m k : Nat) (x : LaneState := {}) : State := lane m (fun _ => x) (with_ up [(LANE_STAT.STATE m, k)])

/-- `LaneStateResults`: each state, a generation allowed and not, an adapter wanted and there, locks, the marker count at its
wrap, the fourth marker missed. -/
theorem wit_LaneStateResults :
    let tr := with_ (laneAt 511 1) [(LANE_CTL.EN 511, 1), (LANE_CTL.GENMASK 511, 4), (CHAN_CTL.SBREQ 255, 1), (CHAN_ADAPTER.VALID 255, 1)]
    let tr : State := { tr with pins := { tr.pins with present := [(255, true)] } }
    (∀ k, k < 8 → (laneAt 511 k).fget (LANE_STAT.STATE 511) = k) ∧
    (tr.fget (LANE_CTL.EN 511) = 1 ∧ AMap.get false tr.pins.present 255 = true ∧ tr.fget (CHAN_ADAPTER.VALID 255) = 1) ∧
    (with_ tr [(CHAN_CTL.SBREQ 255, 0)]).fget (CHAN_CTL.SBREQ 255) ≠ 1 ∧ (tr.fget (LANE_CTL.GEN 511) ≤ 3) ∧
    ((tr.fget (LANE_CTL.GEN 511) = 0 ∨ tr.fget (LANE_CTL.GEN 511) = 3) ∧ tr.fget (LANE_CTL.GENMASK 511) / 2 ^ (3 - 1) % 2 = 1) ∧
    tr.fget (LANE_CTL.GENMASK 511) / 2 ^ (1 - 1) % 2 ≠ 1 ∧
    (with_ (laneAt 0 7) [(LANE_CTL.RETRY 0, 1)]).fget (LANE_CTL.RETRY 0) ≠ 0 ∧ (with_ (laneAt 0 7) [(LANE_CTL.RETRY 0, 0)]).fget (LANE_CTL.RETRY 0) = 0 ∧
    ((laneAt 0 4 { codeLock := true, rxCount := some (2 ^ 24 - 1) }).lane 0).codeLock = true ∧ 0 % 2 ^ 24 = (2 ^ 24 - 1 + 1) % 2 ^ 24 ∧
    ((laneAt 0 4 { missed := 3 }).lane 0).missed = 3 ∧ (up.lane 0).codeLock = false ∧
    (let two := with_ up [(LANE_STAT.STATE 255, 4), (LANE_STAT.STATE 511, 5)]
     two.fget (CHAN_STAT.MODE 255) ≠ 1 ∧ two.laneUp 255 = true ∧ two.laneUp (255 + 256) = true) := by decide +kernel

/-- `FrameReception`: a lane that carries the frame, a good and a bad CRC, a wrong channel, LINKINFO of a good and a wrong
adapter, each distance of FSN, and a REQ in each of its cases. -/
theorem wit_FrameReception :
    let f : CuffFrame := { type := 2, chan := 255, tsn := 7, good := true }
    let x : LaneState := { codeLock := true, markerLock := true }
    let al := with_ (laneAt 511 3 x) [(CHAN_ADAPTER.VALID 255, 1), (CHAN_ADAPTER.PID 255, 5)]
    let inb := with_ up [(CHAN_RINGCTL.INEN 255, 1)]
    (laneAt 511 4).fget (LANE_STAT.STATE 511) = 4 ∧ (laneAt 511 5).fget (LANE_STAT.STATE 511) = 5 ∧ (laneAt 511 3).fget (LANE_STAT.STATE 511) = 3 ∧
    (laneAt 511 7).fget (LANE_STAT.STATE 511) = 7 ∧ f.good = true ∧ { f with good := false }.good = false ∧ f.chan = 511 % 256 ∧ f.chan ≠ 0 % 256 ∧
    ((al.lane 511).codeLock = true ∧ (al.lane 511).markerLock = true ∧ al.fget (CHAN_ADAPTER.VALID 255) = 1 ∧ 0 % 2 ^ 48 ≠ al.fget (CHAN_ADAPTER.PID 255) ∧
      5 % 2 ^ 48 = al.fget (CHAN_ADAPTER.PID 255)) ∧
    (2 ^ 31 ≤ (2 ^ 31 + 2 ^ 32 - up.rxNext 511) % 2 ^ 32 ∧ 512 ≤ (512 + 2 ^ 32 - up.rxNext 511) % 2 ^ 32 ∧ (512 + 2 ^ 32 - up.rxNext 511) % 2 ^ 32 < 2 ^ 31) ∧
    ((∀ b ∈ AMap.get [] up.triad.inbound 255, b.tsn ≠ f.tsn) ∧ up.fget (CHAN_STAT.FENCED 255) ≠ 1 ∧ f.frag = 0) ∧
    ((AMap.get [] [(255, [7])] 255).contains f.tsn = true ∧ (AMap.get [] up.triad.inDone 255).contains f.tsn = false) ∧
    (up.fget (CHAN_RINGCTL.INEN 255) ≠ 1 ∧ inb.fget (CHAN_RINGCTL.INEN 255) = 1) ∧
    (f.tsn ≤ (with_ inb [(CHAN_INTSN.INTSN 255, 7)]).fget (CHAN_INTSN.INTSN 255) ∧ ¬ f.tsn ≤ inb.fget (CHAN_INTSN.INTSN 255)) ∧
    ((with_ inb [(POOL_CFG.VALID 0, 1)]).fget (POOL_CFG.VALID (inb.fget (TRIAD_CHPOOL.POOL 255))) = 1 ∧ 2 ^ (11 + inb.fget (POOL_CFG.SIZE 0)) < 2049) ∧
    (with_ up [(CHAN_STAT.FENCED 255, 1)]).fget (CHAN_STAT.FENCED 255) = 1 ∧ up.txn 7 = none := by decide +kernel

/-- `FrameTransmission`: an OWNER that holds its output, a STANDBY, LINKINFO and LACK waiting, a fenced channel, replay, a new
frame with credit and without, the eighth replay. -/
theorem wit_FrameTransmission :
    let d : CuffFrame := { type := 2 }
    let own := with_ (laneAt 255 4) [(SEAM_CHSUCC.ROLE 255, 1)]
    let own : State := { own with seam := { own.seam with pairs := AMap.set {} own.seam.pairs (own.fget (SEAM_CHSUCC.PEER 255)) { age := 1000000 } } }
    let que (x : LaneState) : State := { laneAt 255 4 x with link := { (laneAt 255 4 x).link with chans := [(255, { queue := [d] })] } }
    own.ownerHeld 255 = true ∧ ((laneAt 255 3).ownerHeld 255 = false ∧ (laneAt 255 4).ownerHeld 255 = false) ∧
    firstThat (fun f : CuffFrame => f.type == 0x10) ((laneAt 255 3 { unseq := [{ type := 0x10 }] }).lane 255).unseq = some { type := 0x10 } ∧
    firstThat (fun f : CuffFrame => f.type == 8 || f.type == 9) ((laneAt 255 4 { unseq := [{ type := 9 }] }).lane 255).unseq = some { type := 9 } ∧
    (laneAt 255 4).fget (CHAN_STAT.FENCED 255) ≠ 1 ∧ (with_ (laneAt 255 4) [(CHAN_STAT.FENCED 255, 1)]).fget (CHAN_STAT.FENCED 255) = 1 ∧
    (with_ (laneAt 255 4) [(SEAM_CHSUCC.ROLE 255, 2)]).chRole 255 = 2 ∧ (laneAt 255 4).chRole 255 ≠ 2 ∧
    ((laneAt 255 4 { replay := [d] }).lane 255).replay = [d] ∧ ((laneAt 255 4 { peerPause := true }).lane 255).peerPause = true ∧
    (laneAt 255 4).nextSeq 255 = none ∧ ((que {}).nextSeq 255 = some d ∧ (que {}).creditOk 255 d.fsn = false) ∧
    ((que { credit := 1 }).nextSeq 255 = some d ∧ (que { credit := 1 }).creditOk 255 d.fsn = true) ∧
    ((laneAt 255 6 { sent := [d], replays := 8 }).lane 255).replays = 8 ∧ ((laneAt 255 4 { sent := [d], replays := 7 }).lane 255).sent ≠ [] := by
  decide +kernel

/-- `LaneCommands`: each state, a recalibration that may start at once and one that waits, a quiet lane and one that is not. -/
theorem wit_LaneCommands :
    let both := with_ (laneAt 0 4) [(LANE_STAT.STATE 256, 4)]
    let x := (laneAt 0 4).lane 0
    (∀ k, k < 8 → (laneAt 0 k).fget (LANE_STAT.STATE 0) = k) ∧ (both.fget (CHAN_STAT.MODE 0) ≠ 1 ∧ both.fget (LANE_STAT.STATE 256) = 4) ∧
    (laneAt 0 4).fget (LANE_STAT.STATE 256) ≠ 4 ∧ (x.recalWaits = false ∧ ((laneAt 0 4 { recalWaits := true }).lane 0).recalWaits = true) ∧
    (x.queue = [] ∧ x.unseq = [] ∧ x.behind = [] ∧ x.sent = [] ∧ x.replay = [] ∧ ((laneAt 0 4).chan 0).queue = []) ∧
    ((laneAt 0 4 { recalWaits := true, sent := [{ type := 2 }] }).lane 0).sent ≠ [] ∧ (laneAt 0 4).fget POWER_STATE.CUR ≠ 3 ∧
    (with_ (laneAt 0 4) [(POWER_STATE.CUR, 3)]).fget POWER_STATE.CUR = 3 ∧ (with_ (laneAt 0 6) [(LANE_CMD.RESULT 0, 3)]).fget (LANE_CMD.RESULT 0) = 3 := by
  decide +kernel

/-- `ChannelCommands`: a channel off, one that changes, one whose lanes are up, buffers empty and not, a pass that runs, an
identity that is good and one that is not. -/
theorem wit_ChannelCommands :
    let on := with_ up [(CHAN_CTL.EN 255, 1)]
    let lanes := with_ on [(LANE_STAT.STATE 255, 4), (LANE_STAT.STATE 511, 4)]
    let ch (k : Nat) : State := { on with link := { on.link with chans := [(255, { change := k })] } }
    let ident (k : Nat) : List Nat := [k, 1, 255] ++ List.replicate 15 0
    let f (k : Nat) : SbFound := { bus := 3, addr := 8, pid := 2 ^ 48 - 1, ident := ident k }
    (with_ up [(CHAN_CTL.EN 255, 0)]).fget (CHAN_CTL.EN 255) ≠ 1 ∧ on.fget (CHAN_CTL.EN 255) = 1 ∧ (ch 1).chan 255 ≠ {} ∧
    ((ch 1).chan 255).change ≠ 0 ∧ (on.chan 255).change = 0 ∧ on.fget (LANE_STAT.STATE 255) ≠ 4 ∧
    (lanes.fget (LANE_STAT.STATE 255) = 4 ∧ lanes.fget (LANE_STAT.STATE (255 + 256)) = 4) ∧
    (((ch 1).lane 255).sent = [] ∧ ((ch 1).lane 511).sent = [] ∧ ((ch 1).lane 255).behind = [] ∧ ((ch 1).lane 511).behind = []) ∧
    ((laneAt 255 4 { sent := [{ type := 2 }] }).lane 255).sent ≠ [] ∧ (with_ on [(CHAN_STAT.MODE 255, 1)]).fget (CHAN_STAT.MODE 255) = 1 ∧
    (with_ up [(TAILOR_ROLLSTAT.BUSY, 1)]).fget TAILOR_ROLLSTAT.BUSY = 1 ∧ up.fget TAILOR_ROLLSTAT.BUSY ≠ 1 ∧
    (with_ up [(TAILOR_ROLLCTL.AUTO, 1)]).fget TAILOR_ROLLCTL.AUTO = 1 ∧ (with_ up [(TAILOR_ROLLCTL.AUTO, 0)]).fget TAILOR_ROLLCTL.AUTO ≠ 1 ∧
    (255 ∈ (f 1).chans ∧ { up with pins := { up.pins with present := [(255, true)] } }.identityOk (f 1) = true ∧ up.identityOk (f 0) = false) := by decide +kernel

/-! ### Pleat, Cloak -/

/-- A block of eight words. -/
def blockOf (ws : List Nat) : List Nat := (ws.map fun w => leNats 8 w).flatten

/-- A command of the firmware or of a partition. -/
def cmd (p : Option Nat) (ws : List Nat) : EngCmd := { part := p, block := blockOf ws }

/-- Bytes at a place of the first Hem die, over those of a state. -/
def putH (o : Nat) (l : List Nat) (s : State) : State :=
  { s with mem := { s.mem with h0 := (l.zip (upFrom o l.length)).foldl (fun m e => AMap.set 0 m e.2 (BitVec.ofNat 8 e.1)) s.mem.h0 } }

/-- Pleat and Cloak on, with engine 31 and lane 63, the owner root key locked. -/
def eng : State := with_ { up with eng := { up.eng with root := List.replicate 32 1 } }
  [(HEM_STAT.H0OK, 1), (PLEAT_CTL.EN, 1), (PLEAT_STAT.ENGUP, 2 ^ 31), (CLOAK_CTL.EN, 1), (CLOAK_LANEUP.LANEUP, 2 ^ 63), (CLOAK_ROOTSTAT.STATE, 2)]

/-- Addresses of a window: a source, a destination, a status record. -/
def srcA : Nat := 0xFFFFF80200000
def dstA : Nat := 0xFFFFF80201000
def stA : Nat := 0xFFFFF80202000

/-- `EngineCommands`: a full queue, a submitter at its limit, a block that cannot be read, each check of a block alone, an end
of a command, a unit with a failure within the hour. -/
theorem wit_EngineCommands :
    let ok := blockOf [0, 0, 0, 0, 0, 0, 0, stA]
    let sub (l : List Nat) : HubRes := ((putH 0x200000 l eng).opRead (EngKind.pleat.agent 0 none) srcA 64).2
    let c (l : List Nat) : EngCmd := { part := none, addr := srcA, block := l }
    let sig (n : Nat) : EngCmd := cmd none [2 ^ 17 + n * 2 ^ 32, 0, 0, 0, 0, 0, 0, stA]
    let failed : State := { eng with eng := { eng.eng with pleatFails := [(31, [0])] } }
    (767 % 16 = 15 ∧ (part {}).partOf 0 = some 3 ∧ ¬ (0 % 16 = 15 ∨ (part {}).partOf 0 = some 255)) ∧
    (up.engWait .pleat = [] ∧ (up.engQ .cloak).length < 4096) ∧
    ({ up with eng := { up.eng with pleatWait := [c ok] } } : State).engWait .pleat ≠ [] ∧
    (with_ up [(EngKind.pleat.opened (some 255), 64)]).fget (EngKind.pleat.opened (some 255)) = 64 ∧ up.fget (EngKind.cloak.opened none) < 256 ∧
    (up.opRead (EngKind.pleat.agent 0 none) 0xFFFFFE0000000 64).2 = .poison ∧ sub ok = .done (ok.map (BitVec.ofNat 8)) ∧
    ((c ok).word 56 ≠ 0 ∧ (c ok).word 56 % 32 = 0 ∧ (cmd none []).word 56 = 0) ∧ (part {}).fget (PART_STATE.STATE 3) = 1 ∧
    up.fget (PART_STATE.STATE 3) ≠ 1 ∧ ((sig 0).ctl / 2 ^ 17 % 2 = 1 ∧ sourceKnown ((sig 0xFFF).ctl / 2 ^ 32 % 2 ^ 16) = true ∧
      sourceKnown ((sig 0xFFFF).ctl / 2 ^ 32 % 2 ^ 16) = false) ∧
    (isSw 0x4000 = true ∧ (pendingFor (part {}) 0).srcOwner 0x4000 = some 3 ∧ up.srcOwner 0x4000 ≠ some 3) ∧
    ((eng.opWrite (EngKind.pleat.agent 31 none) (stA + 8) (leBytes 8 1 ++ leBytes 8 2 ++ leBytes 8 3)).2 = .done []) ∧ 31 < EngKind.pleat.count ∧
    AMap.get [] failed.eng.pleatFails 31 = [0] ∧ failed.look.tod < 0 + 14745600000000 ∧ (eng.unitUp .pleat 31 = true ∧ eng.unitUp .cloak 63 = true) ∧
    (eng.unitUp .pleat 0 = false ∧ eng.unitUp .cloak 64 = false) := by decide +kernel

/-- A Pleat command: OP, FMT and options; lengths of source and destination. -/
def pcmd (ctl sl dl aux dict : Nat) : EngCmd := cmd none [ctl, srcA, sl + dl * 2 ^ 32, dstA, 0, aux, dict, stA]

/-- It stands alone in the queue. -/
def pq (c : EngCmd) (s : State := eng) : State := { s with eng := { s.eng with pleatQ := [c] } }

/-- `PleatResults`: a rule broken, each operand that faults, a compression that fits and not, each end of a decompression. -/
theorem wit_PleatCommands :
    let cmp (dl : Nat) := pcmd (1 + 3 * 16 + 0x4000) 0 dl 0 0
    let dec (dl aux : Nat) (check : Nat) := pcmd (2 + check * 2 ^ 16) 6 dl aux 0
    let out := pleatCompress 3 0 [] [] true []
    let rd (c : EngCmd) (s : State) := (s.opRead (EngKind.pleat.agent 31 none) c.src c.srclen).2
    let gz (l : List Nat) : List Nat := [0x1F, 0x8B, 8, 0, 0, 0, 0, 0, 0, 0xFF, 1, 1, 0, 254, 255, 7] ++ leNats 4 (crc32 [7]) ++ [1, 0, 0, 0] ++ l
    let bad := cmd none [1 + 3 * 16 + 0x4000, 0xFFFFFE0000000, 64, dstA, 0, 0, 0, stA]
    let badDict := cmd none [2 + 16, srcA, 6 + 64 * 2 ^ 32, dstA, 0, 4, 0xFFFFFE0000000, stA]
    let badDst := cmd none [1 + 3 * 16 + 0x4000, srcA, 4096 * 2 ^ 32, 0xFFFFFE0000000, 0, 0, 0, stA]
    eng.cur ≠ 4 ∧ eng.fget PLEAT_CTL.EN = 1 ∧ eng.unitUp .pleat 31 = true ∧ (pq (cmp 0)).eng.pleatQ[0]? = some (cmp 0) ∧
    (pq (cmp 0)).unitsGranted .pleat = [0] ∧ (cmp 0).argBad = none ∧ (pcmd (1 + 4 * 16 + 0x4000) 0 0 0 0).argBad = some 0 ∧
    ((cmp 0).op = 1 ∧ (cmp 0).ctx = 0 ∧ (cmp 0).dstlen < out.length ∧ out.length ≤ (cmp 4096).dstlen ∧ (cmp 4096).argBad = none ∧
      (cmp 4096).fmt = 3 ∧ (cmp 4096).blksz = 0 ∧ (cmp 4096).flush = false) ∧
    (bad.argBad = none ∧ rd bad (pq bad) = .poison) ∧
    (badDict.argBad = none ∧ (eng.opRead (EngKind.pleat.agent 31 none) badDict.dict badDict.dictlen).2 = .poison) ∧
    (badDst.argBad = none ∧ (eng.opWrite (EngKind.pleat.agent 31 none) badDst.dst (out.map (BitVec.ofNat 8))).2 = .poison) ∧
    (eng.opWrite (EngKind.pleat.agent 31 none) dstA (out.map (BitVec.ofNat 8))).2 = .done [] ∧
    ((dec 64 0 0).argBad = none ∧ (dec 64 0 0).op = 2 ∧ (dec 64 0 0).ctx = 0 ∧ rd (dec 64 0 0) (putH 0x200000 [1, 1, 0, 254, 255, 7] eng) = .done [1, 1, 0, 254, 255, 7]) ∧
    (((dec 64 0 0).decode [] [1, 1, 0, 254, 255, 7]).err = none ∧ ((dec 64 0 0).decode [] [1, 1, 0, 254, 255, 7]).more = false ∧
      ((dec 64 0 0).decode [] [1, 1, 0, 254, 255, 7]).out = [7]) ∧
    ((dec 0 0 0).decode [] [1, 1, 0, 254, 255, 7]).err = some .full ∧ ((dec 64 0 0).decode [] [7, 0, 0, 0, 0, 0]).err = some .format ∧
    ((dec 64 5 1).decode [] [1, 1, 0, 254, 255, 7]).err = some .check ∧
    (((pcmd 0x22 25 64 0 0).decode [] (gz [0x1F])).err = none ∧ ((pcmd 0x22 25 64 0 0).decode [] (gz [0x1F])).more = true ∧ (pcmd 0x22 25 64 0 0).argBad = none) ∧
    eng.eng.pleatQ[0]? = none ∧
    (pq (pcmd 1 0 0 0 0) (with_ eng [(PLEAT_STAT.ENGUP, 0)])).unitsGranted .pleat = [] := by
  decide +kernel

/-- The in-line jobs of `PleatResults`: a payload, with and without encryption; a reply that is a good frame and one that is not. -/
theorem wit_PleatInline :
    let z := tx 1 .compress false
    let e := tx 0x81 .compress false
    let out : List Nat := pleatEncode (Config.deflate 3 0 [] [] true) 0 []
    let good : Txn := { tx 1 .decompress false with reply := pleatEncode (fun _ => [0, 0]) 0 [7] }
    (txUp z eng).txn 5 = some z ∧ (txUp z eng).inlineMay .pleat = true ∧ eng.fget PLEAT_STAT.ENGUP ≠ 0 ∧ (z.ctl / 2 ^ 7 % 2 = 0 ∧ e.ctl / 2 ^ 7 % 2 = 1) ∧ (txUp z eng).attach z.chan ≠ 2 ∧
    z.payload = [] ∧ xtsShort 0 out.length = false ∧ (eng.slot 0).unitBytes = 0 ∧ out ≠ [] ∧ (pleatDecode (2 ^ 32) 0 0 [1]).err.isSome = true ∧
    (pleatDecode (2 ^ 32) 0 0 good.reply).err = none ∧ min 4 ((with_ eng [(PLEAT_CTL.INBLK, 0)]).fget PLEAT_CTL.INBLK) = 0 := by decide +kernel

/-- A Cloak command on slot 4095. -/
def ccmd (op : Nat) (w16 w32 w40 w48 : Nat) (src : Nat := srcA) (dst : Nat := dstA) : EngCmd :=
  cmd none [op + 4095 * 2 ^ 16, src, w16, dst, w32, w40, w48, stA]

/-- Slot 4095 READY in a mode, and 16 bytes at the source. -/
def keyed (mode : Nat) (used : Nat := 0) : State :=
  putH 0x200000 (List.replicate 16 9) (with_ { eng with eng := { eng.eng with slots := [(4095, { cfg := 1 + 2 * mode, used := used })] } } [(CLOAK_SLOTST.STATE 4095, 1)])

/-- `CloakResults`: a rule broken, each key check, the usage limits, seals off, each operand that faults, and each operation. -/
theorem wit_CloakCommands :
    let rd (c : EngCmd) (s : State) := (s.opRead (EngKind.cloak.agent 63 none) c.src c.srclen).2
    let src16 : List Byte := List.replicate 16 9
    eng.fget CLOAK_CTL.EN = 1 ∧ eng.unitUp .cloak 63 = true ∧ (keyed 1).cloakArg (ccmd 7 16 0 0 0) = some 0 ∧
    (∀ op ∈ [1, 2, 3, 4, 5, 6], (keyed (opMode op)).cloakArg (ccmd op 16 0 0 0) = none ∧
      (keyed (opMode op)).cloakKey (ccmd op 16 0 0 0) = none ∧ rd (ccmd op 16 0 0 0) (keyed (opMode op)) = .done src16) ∧
    (with_ (keyed 1) [(CLOAK_ROOTSTAT.STATE, 1)]).fget CLOAK_ROOTSTAT.STATE ≠ 2 ∧ eng.fget (CLOAK_SLOTST.STATE 4095) = 0 ∧
    ((with_ (keyed 1) [(CLOAK_SLOTST.STATE 4095, 2)]).fget (CLOAK_SLOTST.STATE 4095) = 2) ∧
    (({ cfg := 0x183 } : KeySlot).cfg / 2 ^ 8 % 2 ^ 8 = 1 ∧ ({ cfg := 0x83 } : KeySlot).cfg / 2 ^ 7 % 2 = 1) ∧
    ((keyed 2).slot 4095).cfg / 2 % 16 ≠ 1 ∧ ({ cfg := 0x45 } : KeySlot).cfg / 2 ^ 6 % 2 = 1 ∧
    ((keyed 1 (2 ^ 44)).slot 4095).limit < ((keyed 1 (2 ^ 44)).slot 4095).used + xtsBlocks 0 16 ∧ ((keyed 1).slot 4095).used + 1 ≤ ((keyed 1).slot 4095).limit ∧
    ({ keyed 2 with eng := { (keyed 2).eng with sealOff := true } } : State).sealOk = false ∧ (keyed 2).sealOk = true ∧
    rd (ccmd 1 16 0 0 0 0xFFFFFE0000000) (keyed 1) = .poison ∧
    ((keyed 2).cloakArg (ccmd 3 (16 + 16 * 2 ^ 32) 0 0 0xFFFFFE0000000) = none ∧
      ((keyed 2).opRead (EngKind.cloak.agent 63 none) 0xFFFFFE0000000 16).2 = .poison) ∧
    ((keyed 1).opWrite (EngKind.cloak.agent 63 none) dstA src16).2 = .done [] ∧
    ((keyed 1).opWrite (EngKind.cloak.agent 63 none) 0xFFFFFE0000000 src16).2 = .poison ∧ eng.eng.cloakQ[0]? = none ∧
    ({ eng with eng := { eng.eng with cloakQ := [ccmd 1 16 0 0 0] } } : State).unitsGranted .cloak = [0] ∧ (txUp (tx 1 .encrypt false) eng).inlineMay .cloak = true ∧
    (txUp (tx 1 .encrypt false) eng).attach 0 ≠ 2 ∧ (txUp (tx 1 .decrypt false) eng).txn 5 = some (tx 1 .decrypt false) := by decide +kernel

/-- A sealed text opens, and a MAC is that of its source. -/
theorem wit_CloakVerifies :
    let key : List Nat := List.replicate 16 1
    let r := gcmSeal key 5 [] [7]
    (gcmOpen key 5 [] r.1 r.2).isSome = true ∧ gcmOpen key 5 [] [7] (List.replicate 16 0) = none ∧
    natOfLe (cmac key [7]) = (ccmd 6 1 (natOfLe (cmac key [7]) % 2 ^ 64) (natOfLe (cmac key [7]) / 2 ^ 64) 0).mac := by decide +kernel

/-- `KeyResults`: a table off, a pinned slot, an entry that is taken and one that is not, an old key, each state of the root. -/
theorem wit_KeyResults :
    let base (l : List Nat) := putH 0x200000 l (with_ eng [(CLOAK_SLOTBASE.VALID, 1), (CLOAK_SLOTBASE.ADDR, srcA / 4096)])
    let e (cfg : Nat) := blockOf [cfg, 0, 0, 0, 2 ^ 44, 0, 0, 0]
    let rd (s : State) := (s.hubRead (EngKind.cloak.agent 0 none) (s.fget CLOAK_SLOTBASE.ADDR * 4096 + 64 * 0) 64).2
    let serv (l : List (Field × Nat)) : State := with_ { State.reset with power := { State.reset.power with phase := .service }, pins := { up.pins with bootSel := 3 } } ((TAILOR_DBGCTL.SERVICE, 1) :: l)
    let old : State := { eng with eng := { eng.eng with slots := [(4095, { old := some 1 })] } }
    eng.fget CLOAK_SLOTBASE.VALID ≠ 1 ∧ (base (e 3)).fget CLOAK_SLOTBASE.VALID = 1 ∧ (base (e 3)).fget (CLOAK_SLOTST.PINS 0) = 0 ∧
    (with_ (base (e 3)) [(CLOAK_SLOTST.PINS 0, 1)]).fget (CLOAK_SLOTST.PINS 0) ≠ 0 ∧
    (rd (base (e 3)) = ((e 3).map (BitVec.ofNat 8), false) ∧ rd (base (e 0)) = ((e 0).map (BitVec.ofNat 8), false) ∧
      rd (base (e 9)) = ((e 9).map (BitVec.ofNat 8), false)) ∧ (9 % 2 = 1 ∧ 9 / 2 % 16 = 4) ∧ (3 % 2 = 1 ∧ 3 / 2 % 16 = 1 ∧ 0 % 2 = 0) ∧
    (old.slot 4095).old = some 1 ∧ (eng.slot 4095).old = none ∧ 2 ≤ eng.fget CLOAK_ROOTSTAT.STATE ∧
    (up.fget CLOAK_ROOTSTAT.STATE < 2 ∧ ¬ (up.pins.bootSel = 3 ∧ up.fget TAILOR_DBGCTL.SERVICE = 1)) ∧
    ((serv []).power.phase = .service ∧ (serv []).fget CLOAK_ROOTSTAT.STATE < 2 ∧ (serv []).pins.bootSel = 3 ∧ (serv []).fget TAILOR_DBGCTL.SERVICE = 1) ∧
    (serv []).fget CLOAK_ROOTSTAT.SHARES = 0 ∧
    ((serv [(CLOAK_ROOTSTAT.SHARES, 3), (CLOAK_ROOTSTAT.KCV, 2 ^ 24 - 1)]).fget CLOAK_ROOTSTAT.SHARES ≠ 0 ∧
      (serv [(CLOAK_ROOTSTAT.SHARES, 3), (CLOAK_ROOTSTAT.KCV, 2 ^ 24 - 1)]).fget CLOAK_ROOTSTAT.KCV = (2 ^ 24 - 1) % 2 ^ 24) := by decide +kernel

/-! ### Seam -/

/-- A complex of four modules: this one 0, port 3 UP to module 3, GCM in slot 9 and CMAC in slot 8. -/
def seamUp : State := with_ { up with eng := { up.eng with root := List.replicate 32 1, slots := [(8, { cfg := 7 }), (9, { cfg := 0x45 })] } }
  [(CLOAK_ROOTSTAT.STATE, 2), (CLOAK_SLOTST.STATE 8, 1), (CLOAK_SLOTST.STATE 9, 1), (SEAM_CTL.EN, 1), (SEAM_CTL.SIZE, 3), (SEAM_CTL.AUTHSLOT, 8),
   (SEAM_TODSTAT.REFUSING, 0), (SEAM_PORT_STAT.STATE 3, 4), (SEAM_PORT_STAT.PEER 3, 3), (SEAM_PORT_CTL.RXSLOT 3, 9), (SEAM_PORT_CTL.TXSLOT 3, 9)]

/-- What it holds for module 3, and what its port 3 holds. -/
def pairIs (x : SeamPair) (s : State := seamUp) : State := s.onPair 3 fun _ => x
def portIs (x : SeamPort) (s : State := seamUp) : State := s.onPort 3 fun _ => x

/-- A BEAT of module 3, sealed under slot 9 with its first generation. -/
def beatFrame : SeamFrame :=
  let f : SeamFrame := { type := 0x10, src := 3, dst := 0, payload := [0] }
  let r := gcmSeal (seamUp.keyOf 9 0) (3 * 2 ^ 94) f.header f.payload
  { f with payload := r.1, tag := r.2 }

/-- `SeamReception`: a port that is not UP, a malformed frame, one whose lane fails, one that opens and one that does not. -/
theorem wit_SeamReceives :
    up.fget (SEAM_PORT_STAT.STATE 3) ≠ 4 ∧ seamUp.fget (SEAM_PORT_STAT.STATE 3) = 4 ∧ (beatFrame.good = true ∧ beatFrame.rsv = false ∧
      beatFrame.dst = seamUp.fget SEAM_STAT.SELF ∧ beatFrame.src = seamUp.fget (SEAM_PORT_STAT.PEER 3) ∧ beatFrame.bad = false) ∧
    { beatFrame with bad := true }.bad = true ∧ { beatFrame with good := false }.good = false ∧
    (seamUp.openFrame 3 { beatFrame with tag := [] }).2 = none := by decide +kernel

theorem wit_SeamOpens : (seamUp.openFrame 3 beatFrame).2 = some [0] := by decide +kernel

/-- `SeamReception`, further: the ranks of masters, the generations of a slot, acknowledgements, gaps at their edges, and each
delivery. -/
theorem wit_SeamDelivery :
    let old : State := { seamUp with eng := { seamUp.eng with slots := [(9, { cfg := 0x45, gen := 6, old := some 1 })] } }
    let q (n : Nat) : SeamMsg := { type := 0x50, payload := [], seq := n, port := 3, txm := true }
    let host := with_ seamUp [(SEAM_MIRSRC.EN 3, 1), (SEAM_MIRSRC.SLOTS 3, 10)]
    let bs (n c : Nat) := leNats 8 n ++ leNats 8 c
    let rx := with_ seamUp [(SEAM_RXWIN.VALID, 1)]
    (seamUp.fget SEAM_TODCTL.ROLE % 3 = 0 ∧ (with_ seamUp [(SEAM_TODCTL.ROLE, 2), (SEAM_TODSTAT.VALID, 1)]).fget SEAM_TODCTL.ROLE % 3 = 2) ∧
    ((seamUp.slot 9).cfg % 2 = 1 ∧ (seamUp.slot 9).cfg / 2 % 16 = 2 ∧ up.fget CLOAK_ROOTSTAT.STATE ≠ 2) ∧
    (2 = (old.slot 9).gen % 4 ∧ 3 = ((old.slot 9).gen + 1) % 4 ∧ 1 = 1 % 4 ∧ (old.slot 9).old = some 1 ∧ 0 ≠ (old.slot 9).gen % 4 ∧ 0 ≠ 1 % 4) ∧
    ((pairIs { sent := [q 5] }).spair 3).sent = [q 5] ∧ (q 5).txm = true ∧ (5 ≤ 5 ∧ 4 < 5) ∧
    ((seamUp.spair 3).rxNext = 1 ∧ (seamUp.spair 3).held = [] ∧ 1 + 512 < 514 ∧ 513 ≤ 1 + 512 ∧ 1 < 2) ∧
    (host.fget (SEAM_MIRSRC.EN 3) = 1 ∧ host.fget (SEAM_MIRSRC.SLOTS 3) ≤ 10 ∧ AMap.get false host.seam.hostOff 3 = false ∧
      host.fget SEAM_TODSTAT.REFUSING ≠ 1) ∧ seamUp.fget (SEAM_MIRSRC.EN 3) ≠ 1 ∧ pw (bs 0 0x70) 1 ∈ [0x60, 0x68, 0x70] ∧
    (let w := seamUp.wakeBy 3 POWER_WAKE.SEAM_EN
     (pw (bs 255 0x7FFF) 1 % 2 ^ 16 + 2 ^ 16 - w.kget (CHAN_CLAIM.CLAIM 255) % 2 ^ 16) % 2 ^ 16 = 0x7FFF ∧
      (pw (bs 255 0x8000) 1 % 2 ^ 16 + 2 ^ 16 - w.kget (CHAN_CLAIM.CLAIM 255) % 2 ^ 16) % 2 ^ 16 = 2 ^ 15 ∧ w.fget SEAM_RXWIN.VALID ≠ 1) ∧
    (rx.wakeBy 3 POWER_WAKE.SEAM_EN).fget SEAM_RXWIN.VALID = 1 ∧
    (pw (bs 0 0) 0 / 2 ^ 16 % 2 ^ 16 = 0 ∧ sourceKnown (pw (bs 0xFFF0000 0) 0 / 2 ^ 16 % 2 ^ 16) = true ∧
      sourceKnown (pw (bs 0xFFFF0000 0) 0 / 2 ^ 16 % 2 ^ 16) = false) ∧
    (seamUp.fget SEAM_TODSTAT.REFUSING ≠ 1 ∧ (4096000 : Int).natAbs ≤ 4096000 ∧ seamUp.fget SEAM_TODCTL.GUARD * 4096 / 100 < (-4096000 : Int).natAbs ∧
      ¬ seamUp.fget SEAM_TODCTL.GUARD * 4096 / 100 < (0 : Int).natAbs) := by decide +kernel

/-- `SeamPorts`: a port in each state, each frame that waits, a slot at its limit, heartbeats, acknowledgement timers. -/
theorem wit_SeamPorts :
    let m (t : Nat) : SeamMsg := { type := t, payload := [], seq := 1, port := 3 }
    let st (k : Nat) := with_ seamUp [(SEAM_PORT_STAT.STATE 3, k), (SEAM_PORT_CTL.EN 3, 1), (SEAM_PORT_CTL.RETRY 3, 1)]
    let y := seamUp.slot 9
    let spent : State := { seamUp with eng := { seamUp.eng with slots := [(9, { cfg := 0x45, used := 2 ^ 32 })] } }
    (∀ k, k < 6 → (st k).fget (SEAM_PORT_STAT.STATE 3) = k) ∧ (seamUp.fget SEAM_CTL.EN = 1 ∧ 1 ≤ seamUp.fget SEAM_CTL.SIZE) ∧
    ((st 5).fget (SEAM_PORT_CTL.EN 3) = 1 ∧ (st 5).fget (SEAM_PORT_CTL.RETRY 3) ≠ 0) ∧ up.fget SEAM_CTL.EN ≠ 1 ∧
    (seamUp.sealOk = true ∧ seamUp.fget CLOAK_ROOTSTAT.STATE = 2 ∧ seamUp.fget (CLOAK_SLOTST.STATE 9) = 1 ∧ y.cfg / 2 % 16 = 2 ∧
      y.cfg / 2 ^ 6 % 2 = 1 ∧ y.used < y.limit) ∧
    (∀ t ∈ [0x10, 0x30, 0x32], ((portIs { unseq := [m t] }).sport 3).unseq = [m t] ∧ (m t).type ≠ 1 ∧ (m t).type ≠ 2) ∧
    ((seamUp.sport 3).unseq = [] ∧ ((pairIs { replay := [m 0x40] }).spair 3).replay = [m 0x40]) ∧
    ((pairIs { pend := [m 0x20], credit := 1 }).spair 3).txNext ≤
      ((pairIs { pend := [m 0x20], credit := 1 }).spair 3).ackSeen + ((pairIs { pend := [m 0x20], credit := 1 }).spair 3).credit ∧
    ((pairIs { pend := [m 0x20] }).spair 3).ackSeen + ((pairIs { pend := [m 0x20] }).spair 3).credit < ((pairIs { pend := [m 0x20] }).spair 3).txNext ∧
    (seamUp.spair 3).pend = [] ∧ ((spent.slot 9).cfg / 2 ^ 6 % 2 = 1 ∧ (spent.slot 9).limit ≤ (spent.slot 9).used) ∧
    (seamUp.fget SEAM_CTL.AUTHSLOT = 8 ∧ seamUp.fget (CLOAK_SLOTST.STATE 8) = 1 ∧ (seamUp.slot 8).cfg / 2 % 16 = 3) ∧
    (((pairIs { sent := [m 0x40] }).spair 3).sent = [m 0x40] ∧ (m 0x40).port = 3 ∧ ((portIs { replays := 8 }).sport 3).replays = 8 ∧
      ((portIs { replays := 7 }).sport 3).replays < 8) := by decide +kernel

/-- HELLO of a module: genuine, with word 0 as given. -/
def helloOf (w0 : Nat) : SeamFrame :=
  let f : SeamFrame := { type := 1, src := 3, dst := 0, payload := leNats 8 w0 ++ List.replicate 24 0 }
  { f with tag := cmac (seamUp.keyOf 8 0) (f.header ++ f.payload) }

/-- `SeamPorts`: HELLO of another module, of this one's number, of another size; a new and a known BOOTNO. -/
theorem wit_SeamHello :
    let w (m sz b : Nat) := b + m * 2 ^ 30 + sz * 2 ^ 32
    let f := helloOf (w 3 3 7)
    (f.good = true ∧ f.rsv = false ∧ cmac (seamUp.keyOf 8 (seamUp.slot 8).gen) (f.header ++ f.payload) = f.tag ∧
      cmac (seamUp.keyOf 8 (seamUp.slot 8).gen) (f.header ++ f.payload) ≠ []) ∧ (seamUp.slot 8).cfg % 2 = 1 ∧
    (pw f.payload 0 / 2 ^ 30 % 4 = 3 ∧ 3 ≠ seamUp.fget SEAM_STAT.SELF ∧ pw f.payload 0 / 2 ^ 32 % 4 = seamUp.fget SEAM_CTL.SIZE ∧ 3 ≤ seamUp.fget SEAM_CTL.SIZE) ∧
    pw (helloOf (w 0 3 7)).payload 0 / 2 ^ 30 % 4 = seamUp.fget SEAM_STAT.SELF ∧ pw (helloOf (w 3 2 7)).payload 0 / 2 ^ 32 % 4 ≠ seamUp.fget SEAM_CTL.SIZE ∧
    (seamUp.spair 3).bootno ≠ some (pw f.payload 0 % 2 ^ 30) ∧ ((pairIs { bootno := some 7 }).spair 3).bootno = some (pw f.payload 0 % 2 ^ 30) := by
  decide +kernel

/-- `SeamCommands`: a channel off, refused, not shared and shared with a module in reach, silence, TXMSG in each of its cases,
TODSET and synchronisation by role. -/
theorem wit_SeamCommands :
    let s := with_ seamUp [(HEM_STAT.H0OK, 1), (CHAN_CTL.EN 255, 1)]
    let by_ := with_ s [(SEAM_CHSUCC.ROLE 255, 2), (SEAM_CHSUCC.PEER 255, 3), (SEAM_CHSUCC.AUTO 255, 1)]
    let ref := with_ s [(SEAM_TODSTAT.REFUSING, 1)]
    let worn : State := { s with apron := { s.apron with keep := [(((keepEntry (CHAN_CLAIM.CLAIM 255)).getD 0), { count := keepRating })] } }
    let msg (len dst : Nat) := putH 0x200000 (leNats 8 (dst + len * 2 ^ 32) ++ leNats 8 0) s
    let tod (r v : Nat) := with_ seamUp [(SEAM_TODCTL.ROLE, r), (SEAM_TODSTAT.VALID, v), (SEAM_TODSTAT.SOURCE, 2)]
    up.fget (CHAN_CTL.EN 255) ≠ 1 ∧ ref.fget SEAM_TODSTAT.REFUSING = 1 ∧
    (s.fget (CHAN_CTL.EN 255) = 1 ∧ s.fget SEAM_TODSTAT.REFUSING ≠ 1 ∧ s.fget (SEAM_CHSUCC.ROLE 255) % 3 = 0) ∧
    ((s.keepWrite (CHAN_CLAIM.CLAIM 255) 1).2 = true ∧ (worn.keepWrite (CHAN_CLAIM.CLAIM 255) 1).2 = false) ∧
    (by_.fget (SEAM_CHSUCC.ROLE 255) % 3 = 2 ∧ by_.reach (by_.fget (SEAM_CHSUCC.PEER 255)) = true ∧
      (with_ by_ [(SEAM_PORT_STAT.STATE 3, 5)]).reach 3 = false) ∧
    (by_.fget (SEAM_CHSUCC.AUTO 255) = 1 ∧ 1 ≤ by_.fget SEAM_CTL.SIZE ∧ (by_.spair (by_.fget (SEAM_CHSUCC.PEER 255))).parked = false) ∧
    (3 < 4 ∧ 3 ≠ s.fget SEAM_STAT.SELF) ∧ s.seamOthers = [1, 2, 3] ∧ s.upPorts 3 = [3] ∧
    (s.opRead (seamAgent 0) (0xFFFFFE0000000 % 2 ^ 52 / 64 * 64) 16).2 = .poison ∧
    ((msg 8 3).opRead (seamAgent 0) (srcA % 2 ^ 52 / 64 * 64) 16).2 = .done ((leNats 8 (3 + 8 * 2 ^ 32) ++ leNats 8 0).map (BitVec.ofNat 8)) ∧
    ((msg 7 3).opRead (seamAgent 0) (srcA % 2 ^ 52 / 64 * 64) 16).2 = .done ((leNats 8 (3 + 7 * 2 ^ 32) ++ leNats 8 0).map (BitVec.ofNat 8)) ∧
    ((msg 8 3).opRead (seamAgent 0) (srcA + 16) 8).2 = .done (List.replicate 8 0) ∧ (s.reach 3 = true ∧ s.reach 1 = false) ∧
    (seamUp.fget SEAM_TODCTL.ROLE % 3 = 0 ∧ ∀ r, r < 3 → (tod r 0).fget SEAM_TODCTL.ROLE % 3 = r) ∧
    ((tod 2 1).fget SEAM_TODSTAT.VALID = 1 ∧ (0 : Word).toNat < { tod 2 1 with tod := 1 }.look.tod) ∧
    ((1 : Word).toNat % 4096000000 ≠ 0 ∧ (4096000000 : Word).toNat % 4096000000 = 0) ∧
    (¬ ((tod 1 1).fget SEAM_TODCTL.ROLE % 3 = 0 ∨ (tod 1 1).fget SEAM_TODSTAT.SOURCE = 3)) ∧ (with_ (tod 1 1) [(SEAM_TODSTAT.SOURCE, 3)]).fget SEAM_TODSTAT.SOURCE = 3 := by
  decide +kernel

/-! ### Faults -/

/-- `FaultRecords`, `LogRecordRoundTrip`: one record of each class, for a partition and not, replayed and not. -/
theorem wit_FaultRecords :
    let r (a : Nat) : FaultRec := { loc := a * 2 ^ 60, part := some 255, bare := true }
    up.hubOn = true ∧ up.faults.queue.length < 256 ∧ (∀ a ∈ [0, 3, 4, 7, 8, 9, 15], (r a).loc / 2 ^ 60 % 16 = a ∧ (r a).loc < 2 ^ 64 ∧ (r a).bare = true) ∧
    (r 7).part = some 255 ∧ (r 7).part ≠ some 0 ∧ { r 8 with replay := true }.replay = true ∧ { up.pins with hiZ := false }.hiZ = false ∧
    ((up.keepMeta 4).uncorr = false ∧ (up.keepMeta 4).count < keepRating) ∧ 1023 < 2 ^ 10 ∧ 255 < 2 ^ 8 := by decide +kernel

/-- A fault event at a place. -/
def faultAt (act die tile unit : Nat) (c : Option Nat := none) (d0 : Nat := 0) : FaultIn :=
  { loc := act * 2 ^ 60 + die * 2 ^ 56 + tile * 2 ^ 48 + unit * 2 ^ 40, ctx := c, part := none, d0 := d0, d1 := 0, d2 := 0, pass := true }

/-- The state after the record of an event. -/
def recorded (f : FaultIn) (s : State := up) : State :=
  s.raise { loc := f.loc % 2 ^ 64, ctx := f.ctx, part := f.part, d0 := f.d0 % 2 ^ 64, d1 := f.d1 % 2 ^ 64, d2 := f.d2 % 2 ^ 64, bare := true }

/-- `FaultEventResults`: the phases, and a Pocket of each kind. -/
theorem wit_FaultEventResults :
    (at_ .off).hubOn = false ∧ 0xC ≤ (faultAt 0xC 0 0 0).loc / 2 ^ 60 % 16 ∧ (recorded (faultAt 0xA 4 0xFF 7)).power.phase = .run ∧
    (isFw 767 = true ∧ isFw 0 = false) ∧ (recorded (faultAt 4 0 0 5 (some 0))).pk 0 = 0 ∧
    (recorded (faultAt 9 3 11 5 (some 0)) (running 0 {})).pk 0 = 4 ∧ (recorded (faultAt 7 3 11 6 none home.toNat)).served home.toNat = true ∧
    ((faultAt 7 3 31 0x10).loc / 2 ^ 48 % 256 = 31 ∧ (faultAt 7 3 31 0x10).loc / 2 ^ 40 % 256 = 0x10 ∧ (faultAt 7 3 31 0x10).loc / 2 ^ 56 % 16 = 3) ∧
    (∀ a ∈ [4, 7, 9], (faultAt a 6 0xFF 0x30).loc / 2 ^ 60 % 16 = a) ∧ (running 0 {}).slotServed 0 = some 0 ∧ (part {}).partOf 0 ≠ none := by decide +kernel

/-- `FaultCommands`: a log on and off, full and not, an unread record, a checkstop, a replay in each of its cases, quiet. -/
theorem wit_FaultCommands :
    let on := with_ up [(FAULT_LOGBASE.VALID, 1), (FAULT_LOGBASE.GRAN, 766), (HEM_STAT.H0OK, 1)]
    let r : FaultRec := { loc := 4 * 2 ^ 60, seq := 9 }
    let log (s : State) (q : List FaultRec) (l : AMap (Option FaultRec)) : State := { s with faults := { s.faults with queue := q, log := l, seqNext := 10 } }
    let one := log on [r] [(0, some r)]
    let cs := with_ (running 15 {}) [(FAULT_STAT.CHECKSTOP, 1)]
    let rep (w0 : Nat) := putH 0x200000 (leNats 8 w0) (with_ up [(FAULT_CTL.REPLAYEN, 1), (HEM_STAT.H0OK, 1)])
    let word (s : State) : Nat × Bool := let x := s.hubRead collectorHub srcA 64; (leNat (x.2.1.take 8), x.2.2)
    let quiet := with_ up [(FAULT_STAT.FSTATE, 1)]
    let p := pendingFor (part {}) 0
    (on.hubOn = true ∧ on.fget FAULT_LOGBASE.VALID = 1 ∧ on.fget FAULT_LOGBASE.GRAN ≤ 766 ∧ on.fget HEM_STAT.H0OK = 1) ∧
    one.faults.queue = [r] ∧ (∃ k, one.logSlot = some k ∧ k = 1) ∧ r.corrected = false ∧ ({ loc := 0 } : FaultRec).corrected = true ∧ up.faults.queue = [] ∧
    AMap.wf none one.faults.log = true ∧ (AMap.get none one.faults.log 0 = some r ∧ one.fget FAULT_LOGACK.LOGACK < r.seq) ∧
    up.fget FAULT_LOGSTAT.UNREADS = 0 ∧ (with_ up [(FAULT_CTL.CSIG, 1)]).fget FAULT_CTL.CSIG = 1 ∧ (one.faults.seqNext ≤ (10 : Word).toNat ∧ (9 : Word).toNat < one.faults.seqNext) ∧
    up.fget FAULT_STAT.CHECKSTOP ≠ 1 ∧ (cs.fget FAULT_STAT.CHECKSTOP = 1 ∧ cs.fget (TAILOR_SLOT.SERVING 0) = 1 ∧ stBit (cs.ctx 15).st ST.ex = false) ∧
    up.fget FAULT_CTL.REPLAYEN ≠ 1 ∧ (word (rep (0xB * 2 ^ 60)) = (0xB * 2 ^ 60, false) ∧ word (rep (0xC * 2 ^ 60)) = (0xC * 2 ^ 60, false)) ∧
    (quiet.fget FAULT_STAT.FSTATE = 1 ∧ quiet.fget FAULT_STAT.CHECKSTOP ≠ 1 ∧ quiet.fget FAULT_MINSET.MINSET = 0 ∧ ∀ m, m < 3 → quiet.mb m ≠ 2 ∧ quiet.mb m ≠ 3) ∧
    (up.faults.onlyReplays = true ∧ { up.faults with onlyReplays := false }.onlyReplays = false ∧ up.kget FAULT_RECOV.RECOV < 65535) ∧
    (up.fget FAULT_CTL.WDOG ≠ 0 ∧ (with_ up [(FAULT_CTL.WDOG, 0)]).fget FAULT_CTL.WDOG = 0) ∧ (isSw 0x4000 = true ∧ p.srcOwner 0x4000 = some 3) ∧
    (0x14000 : Word).toNat / 2 ^ 16 % 2 = 1 := by
  refine ⟨by decide +kernel, rfl, ⟨1, ?_, rfl⟩, ?_⟩ <;> decide +kernel

theorem firstGap_full (r : Nat → Option FaultRec) (n a : Nat) : firstGap a ((upFrom a n).map fun k => (k, r k)) = a + n := by
  induction n generalizing a with
  | zero => rfl
  | succ n ih =>
    have h : upFrom a (n + 1) = a :: upFrom (a + 1) n := by
      simp [upFrom, List.range_succ_eq_map, Function.comp_def, Nat.add_assoc, Nat.add_comm 1]
    rw [h, List.map_cons]
    simp only [firstGap, ↓reduceIte]
    rw [ih]
    omega

/-- The log is full of records that are contained and not read: there is no slot for another. -/
theorem wit_LogFull (n : Nat) (hn : n = 65536) :
    ({ up with faults := { up.faults with log := (upFrom 0 n).map fun k => (k, some { loc := 4 * 2 ^ 60, seq := k + 1 }) } } : State).logSlot = none := by
  have h0 : up.fget FAULT_LOGACK.LOGACK = 0 := by decide +kernel
  have hg := firstGap_full (fun k => some ({ loc := 4 * 2 ^ 60, seq := k + 1 } : FaultRec)) n 0
  have hf : ∀ s : State, s.faults.log = ((upFrom 0 n).map fun k => (k, some ({ loc := 4 * 2 ^ 60, seq := k + 1 } : FaultRec))) →
      s.fget FAULT_LOGACK.LOGACK = 0 → s.logSlot = none := by
    intro s hl hz
    simp only [State.logSlot, hl, hg, hz]
    rw [if_neg (by omega), List.filterMap_eq_nil_iff.2]
    · rfl
    · intro e h
      obtain ⟨k, -, rfl⟩ := List.mem_map.1 h
      simp [FaultRec.corrected, FaultRec.action]
  exact hf _ rfl h0

/-- A record with every field at the top of its range, and one with no context and no partition. -/
theorem wit_LogRecordRoundTrip :
    (∀ r ∈ ([{ loc := 2 ^ 64 - 1, seq := 2 ^ 64 - 1, tod := 2 ^ 64 - 1, ctx := some 1023, part := some 255, d0 := 2 ^ 64 - 1,
               d1 := 2 ^ 64 - 1, d2 := 2 ^ 64 - 1, bare := true }, { loc := 1 }] : List FaultRec),
      r.loc < 2 ^ 64 ∧ r.seq < 2 ^ 64 ∧ r.tod < 2 ^ 64 ∧ r.d0 < 2 ^ 64 ∧ r.d1 < 2 ^ 64 ∧ r.d2 < 2 ^ 64 ∧
      r.ctx.all (· < 2 ^ 10) = true ∧ r.part.all (· < 2 ^ 8) = true ∧
      r.bytes.length = 64 ∧ recOfBytes r.bytes = some { r with bare := false }) := by decide +kernel

/-! ### Apron, Tailor, boot -/

/-- `ApronResults`: the island powered and not, the module on and off, the trim at its bound and above, an alarm, the hour. -/
theorem wit_ApronResults :
    let off : State := { at_ .off with apron := { (at_ .off).apron with lifeFlushed := [(0x8000 * 64, 3)] } }
    let dark : State := { up with apron := { up.apron with powered := false } }
    let runs := with_ up [(APRON_TRIM.AUTO, 1), (APRON_STAT.SLOEOK, 1), (APRON_STAT.INTOSC, 0)]
    (off.apron.powered = true ∧ off.hubOn = false ∧ AMap.risesFrom 0 off.apron.lifeFlushed = true ∧ ∀ e ∈ off.apron.lifeFlushed, isLifeKey e.1 = true) ∧
    up.hubOn = true ∧ dark.apron.powered ≠ true ∧ { up.apron with calfloorBad := true }.calfloorBad = true ∧
    (with_ up [(SEAM_TODSTAT.VALID, 1)]).fget SEAM_TODSTAT.VALID = 1 ∧ up.fget SEAM_TODSTAT.VALID ≠ 1 ∧
    (runs.power.phase = .run ∧ runs.fget POWER_STATE.CUR = 0 ∧ runs.fget APRON_TRIM.AUTO = 1 ∧ runs.fget APRON_STAT.SLOEOK = 1 ∧
      runs.fget APRON_STAT.INTOSC ≠ 1 ∧ runs.pins.refclk = true) ∧ up.fget APRON_TRIM.AUTO ≠ 1 ∧ { up.pins with refclk := false }.refclk = false ∧
    ((-10000 : Int).natAbs ≤ 10000 ∧ 10000 < (10001 : Int).natAbs) ∧ (with_ up [(APRON_ALARM.EN, 1)]).fget APRON_ALARM.EN = 1 ∧ up.fget APRON_ALARM.EN ≠ 1 ∧
    (at_ .vault).power.phase = .vault ∧ ((at_ .off).hubOn = false ∧ (at_ .off).power.phase ≠ .vault) ∧ 32700 ≤ (if 1 = 0 then 0 else 32700) := by
  decide +kernel

/-- An image in granule 1 that is whole. -/
theorem wit_Whole : ∃ b, ((fwAt 0).imgRead tailorHub srcA 8388608).2 = some b ∧ imgHeaderOk b 8388608 = true ∧ imgTableOk b = true ∧ imgCrcOk b = true := by
  decide +kernel

/-- `TailorResults`: units at the edges, a sealed patch, a command's key, an image that cannot be read, one that fails and one
known, a restart in hand, a pair on the move, a flash command of each kind. -/
theorem wit_TailorResults :
    let img : State := { fwAt 0 with tailor := { (fwAt 0).tailor with imgOk := [(5, srcA + 1)], restartAt := srcA } }
    let op (k : Nat) : State := { up with tailor := { up.tailor with flashOp := some (k, 0, srcA) } }
    let failed : State := { up with tailor := { up.tailor with lastFail := 1 } }
    (up.fget (TAILOR_PHYS.STATE 47) = 0 ∧ (with_ up [(TAILOR_PHYS.STATE 47, 4)]).fget (TAILOR_PHYS.STATE 47) ≠ 0) ∧
    (up.fget CSTORE_STAGECTL.SEALED ≠ 1 ∧ (with_ up [(CSTORE_STAGECTL.SEALED, 1)]).fget CSTORE_STAGECTL.SEALED = 1) ∧
    (LANE_CTL.EN 511 ∈ LANE_CTL.fields 511 ∧ (LANE_CTL.EN 511).rM = .boot) ∧ ((0xA501 : Word).toNat % 4 = 1 ∧ (0xA501 : Word).toNat / 2 ^ 8 % 2 ^ 8 = 0xA5) ∧
    (up.imgRead tailorHub (0xFFFFFE0000000 % 2 ^ 52 / 64 * 64) 50331648).2 = none ∧ AMap.get 0 img.tailor.imgOk 5 = srcA % 2 ^ 52 / 64 * 64 + 1 ∧
    AMap.get 0 up.tailor.imgOk 5 ≠ 1 ∧ up.fget TAILOR_TFWSTAT.BUSY ≠ 1 ∧ (with_ img [(TAILOR_TFWSTAT.BUSY, 1)]).fget TAILOR_TFWSTAT.BUSY = 1 ∧
    (with_ img [(TAILOR_PHYS.STATE 47, 3)]).fget (TAILOR_PHYS.STATE 47) = 3 ∧ (∀ p, p < 48 → img.fget (TAILOR_PHYS.STATE p) ≠ 2 ∧ img.fget (TAILOR_PHYS.STATE p) ≠ 3) ∧
    (failed.tailor.lastFail ≠ 0 ∧ failed.look.tod < failed.tailor.lastFail - 1 + 4096000000) ∧ up.fget TAILOR_FLASHCMD.BUSY ≠ 1 ∧
    (with_ up [(TAILOR_FLASHCMD.BUSY, 1)]).fget TAILOR_FLASHCMD.BUSY = 1 ∧ (∀ k ∈ [1, 2, 3], (op k).tailor.flashOp = some (k, 0, srcA)) ∧
    up.tailor.flashOp = none := by decide +kernel

/-- `BootResults`: each phase, a cold module, RESET_N low, each step that fails, no image, a service boot, members, pairs, DIMMs. -/
theorem wit_BootResults :
    let e : BootEnv := {}
    let no : BootEnv := { flashA := false, flashB := false }
    let cold : State := { State.reset with power := { State.reset.power with coldest := 23 } }
    let low : State := { State.reset with pins := { State.reset.pins with resetN := false } }
    State.reset.sparesFit e = true ∧ up.sparesFit e = true ∧ (up.power.phase ≠ .coldReset ∧ up.power.phase ≠ .moduleReset) ∧
    (at_ .moduleReset).power.phase = .moduleReset ∧ { up.pins with resetN := false }.resetN = false ∧ cold.power.coldest < 24 ∧
    (State.reset.power.phase = .coldReset ∧ 24 ≤ low.power.coldest ∧ low.pins.resetN = false) ∧ State.reset.pins.resetN = true ∧
    (∀ i ∈ [0, 1], (State.reset.bootImage no i).2 = 2) ∧ (no.ftmN = true ∧ no.collector = true ∧ no.refclk = true ∧ no.tailor = true) ∧
    (((List.range 3).filter fun m => (1 : Nat) / 2 ^ m % 2 = 1).length < 2 ∧ ((List.range 3).filter fun m => e.members / 2 ^ m % 2 = 1).length = 3) ∧
    ((State.reset.keepMeta 1).uncorr = false ∧ (State.reset.keepMeta 1).count < keepRating) ∧
    (e.pairsBad = [] ∧ State.reset.tailor.patch = [] ∧ 0 ∉ e.spares) ∧ (∀ p, p < 48 → State.reset.kget (TAILOR_PHYS.FAILREC p) ≠ 1) ∧
    (e.dimms = [] ∧ ∀ ch, ch < 24 → State.reset.fget (MC_STAT.STATE ch) = 0) ∧
    (with_ up [(HEM_STAT.H0OK, 1), (TAILOR_SLOT.SERVING 0, 1), (MC_STAT.STATE 0, 1)]).updMinset.fget FAULT_MINSET.MINSET = 0 ∧
    up.updMinset.fget FAULT_MINSET.MINSET ≠ 0 := by decide +kernel

/-! ### Registers, the module as a whole -/

/-- `KeepWrites`: an equal value, a rated and an uncorrectable entry, the write that is near the rating. -/
theorem wit_KeepWrites :
    let f := APRON_KEEPFW.VALUE 1023
    let at_ (n : Nat) (u : Bool) : State := { up with apron := { up.apron with keep := [((keepEntry f).getD 0, { count := n, uncorr := u })] } }
    keepEntry f = some ((keepEntry f).getD 0) ∧ up.fget f = 0 % 2 ^ f.width ∧ up.fget f ≠ 1 % 2 ^ f.width ∧
    ((at_ 10000000000 false).keepMeta ((keepEntry f).getD 0)).count = 10000000000 ∧ ((at_ 0 true).keepMeta ((keepEntry f).getD 0)).uncorr = true ∧
    (((at_ 8999999999 false).keepMeta ((keepEntry f).getD 0)).near = false ∧ ((at_ 8999999999 false).keepMeta ((keepEntry f).getD 0)).count + 1 = 9000000000) := by
  decide +kernel

/-- `RegisterAccesses`: the firmware, an owner and another; each kind of offset. -/
theorem wit_RegisterAccesses :
    let p := part {}
    let out : State := { up with mem := { up.mem with weftOut := [(3, true)] } }
    (767 % 16 = 15 ∧ p.partOf 0 = some 3 ∧ (0x200000 + 1024 * 3 - 0x200000) / 1024 = 3 ∧ p.partOf 0 ≠ some 4) ∧ (1 % 8 ≠ 0 ∧ reservedOff 0x1C0000 = true) ∧
    (reservedOff 0 = false ∧ reservedOff 0x200C00 = false) ∧ (regFields 0x200C00 ≠ [] ∧ 0x200C00 % 1024 ∉ [0x20, 0x28, 0x30, 0x40, 0x50, 0x58, 0x60, 0x68, 0x78, 0x90]) ∧
    (out.offOut 0x3C0000 = true ∧ reservedOff 0x3C0000 = false) ∧ (regFields 0x1BFFF8 = [] ∧ mapOff 0x1BFFF8 = 0x1BFFF8 ∧ reservedOff 0x1BFFF8 = false) ∧
    (up.offOut 0x20000 = false ∧ actsOnWrite 0x20000 = false ∧ regFields 0x20000 ≠ [] ∧ ∀ f ∈ regFields 0x20000, f.acc ≠ .rwk) ∧
    (reservedOff 0x40018 = false ∧ (0x200000 + 1024 * 3 + 0x48) % 1024 = 0x48) ∧ (up.offOut 0x69800 = false ∧ 0x69800 < 0x1C0000) := by decide +kernel

theorem wit_RegisterCommands : AMap.get false up.mem.portOut (511 / 256) = false ∧ 767 % 16 = 15 ∧ (0x10000000000 : Word).toNat / 2 ^ 33 ≠ 0 ∧
    ((0x100000000 : Word).toNat / 2 ^ 33 = 0 ∧ (0x100000000 : Word).toNat / 2 ^ 32 % 2 = 1) ∧ (0x10000 : Word).toNat / 2 ^ 16 % 4 = 1 ∧
    (0x100 : Word).toNat / 2 ^ 8 % 4 = 1 := by decide

/-- The premises of the statements about a step: commands wait, memory is canonical, a step answers. -/
theorem wit_Steps : ({ mapped with pending := [.softStartEnd, .pet] } : State).pending = .softStartEnd :: [.pet] ∧ up.pending = [] ∧
    Memory.wf mapped.mem = true ∧ Memory.wf (after (.writepart 0 (home.toNat + 63) [7]) (fwAt 0)).mem = true ∧
    (∃ t, step { mapped with pending := [.softStartEnd, .pet] } = .next t) := by
  refine ⟨rfl, rfl, by decide +kernel, by decide +kernel, ?_⟩
  exact ⟨_, rfl⟩

/-- `ResetValues`, `RegisterMap`: a field with a number for its Cold entry, an offset that holds fields. -/
theorem wit_RegisterMap : fieldAt (FAULT_CTL.WDOG).key = some FAULT_CTL.WDOG ∧ (∃ n, (FAULT_CTL.WDOG).rC = .num n ∧ n ≠ 0) ∧ regFields 0x20 ≠ [] ∧
    regFields 0x1BFFF8 = [] := ⟨by decide +kernel, ⟨_, rfl, by decide⟩, by decide +kernel, by decide +kernel⟩

/-! ### Worked cases of the specification -/

/-- R140: the 128-bit sum; ADDS, then ADC with the carry it left. -/
def sumState : State := fw [(4, 1), (5, 0xFFFFFFFFFFFFFFF0), (6, 1), (7, 0x20)]

theorem test_adds_low_half : ((after (.adds 15 ⟨9, 5, 7, 0⟩) sumState).ctx 15).readG 9 = 0x10 ∧
    stBit ((after (.adds 15 ⟨9, 5, 7, 0⟩) sumState).ctx 15).st ST.c = true := by decide +kernel

theorem test_adc_high_half : let t := after (.adc 15 ⟨8, 4, 6, 0⟩) (after (.adds 15 ⟨9, 5, 7, 0⟩) sumState)
    (t.ctx 15).readG 8 = 3 ∧ (t.ctx 15).pc = home + 8 ∧ stBit (t.ctx 15).st ST.c = false ∧ stBit (t.ctx 15).st ST.v = false ∧
    stBit (t.ctx 15).st ST.z = false ∧ stBit (t.ctx 15).st ST.n = false := by decide +kernel

/-- R143: a divide truncates toward zero, and the corner −2^63 by −1. -/
theorem test_divides : let s := fw [(1, 1000000), (2, 7), (3, 0x8000000000000000), (4, 0xFFFFFFFFFFFFFFFF)]
    ((after (.divu 15 ⟨9, 1, 2, 0⟩) s).ctx 15).readG 9 = 142857 ∧ ((after (.divs 15 ⟨9, 3, 4, 0⟩) s).ctx 15).readG 9 = 0x8000000000000000 ∧
    ((after (.rems 15 ⟨9, 3, 4, 0⟩) s).ctx 15).readG 9 = 0 := by decide +kernel

/-- The wide part live, FCSR with rounding mode `rm`. -/
def fpState (rm : Nat) : State := with_ (running 15 { pc := home, st := 0x200, f := [(1, 3), (2, 0x4000000000000000)], fcsr := BitVec.ofNat 64 rm })
  [(POCKET_STAT.WLIVE 15, 1), (POCKET_STAT.WBANK 15, 1)]

/-- The divide of a subnormal by 2.0 after R150, in each rounding mode; underflow and inexact are set. -/
theorem test_fdiv_subnormal :
    ([0, 2, 4].all fun rm => ((after (.fdiv 15 false ⟨3, 1, 2, 0⟩) (fpState rm)).ctx 15).readF 3 == 2) = true ∧
    ([1, 3].all fun rm => ((after (.fdiv 15 false ⟨3, 1, 2, 0⟩) (fpState rm)).ctx 15).readF 3 == 1) = true ∧
    ((after (.fdiv 15 false ⟨3, 1, 2, 0⟩) (fpState 0)).ctx 15).fcsr.toNat / 2 ^ 8 % 4 = 3 := by decide +kernel

/-- The interest factor by DSMUL after R166: both strings in memory, the product at the first. -/
theorem test_dsmul : let s := putH 0x80 [0, 0, 0, 1, 0, 0, 0x12, 0x5A] (putH 0x40 [0, 0, 0, 0, 0, 0, 0, 0x04, 0x71, 0x82, 0x03, 0x96, 0x51, 0x20, 0x87, 0x5A]
      (with_ (fw [(1, home + 0x40), (2, home + 0x80), (3, 0x0F1F)]) [(POCKET_STAT.WLIVE 15, 1), (POCKET_STAT.WBANK 15, 1)]))
    ((after (.dsmul 15 ⟨0, 1, 2, 3⟩) s).sbFlush 0).peek (home.toNat + 0x40) 16 =
      [0x00, 0x00, 0x00, 0x00, 0x47, 0x18, 0x26, 0x29, 0x42, 0x67, 0x04, 0x39, 0x01, 0x09, 0x37, 0x5A] := by decide +kernel

/-- The posting by DSUM after R202: c5 and c6 are the halves of R194, the displacements those of word 2. -/
theorem test_dsum : let s := putH 0x109400 [0x00, 0x12, 0x50, 0x00, 0x0B] (putH 0x108120
      [0, 0, 0, 0, 0, 0, 0, 0, 0, 0, 0x58, 0x20, 0x14, 0x47, 0x31, 0x0A] (cl [(18, 0x0000000080108000), (19, 0x8010900000000000)]))
    let t := after (.dsum 15 ⟨5, 6, 31, 9, 0, 0x0120, 0x0400⟩) s
    (t.sbFlush 0).peek (home.toNat + 0x108120) 16 = [0, 0, 0, 0, 0, 0, 0, 0, 0, 0, 0x58, 0x20, 0x01, 0x97, 0x31, 0x0A] ∧ (t.ctx 15).pc = home + 8 := by decide +kernel

/-- The same with no live memory at the strings: the cause carries word 1, which is 0x6029_BE90. -/
theorem test_dsum_word : ((after (.dsum 15 ⟨5, 6, 31, 9, 0, 0x0120, 0x0400⟩) (cl [(18, 0x108000)])).ctx 15).fr.cause.toNat / 2 ^ 32 = 0x6029BE90 := by
  decide +kernel

/-- The memory map of R304: region 0 over 24 channels; the channel, the channel address and the home die. -/
theorem test_memory_map : let s := with_ up [(WEFT_MAPA.VALID 0 0, 1), (WEFT_MAPB.LIMIT 0 0, 11279), (WEFT_MAPB.CHMASK 0 0, 0xFFFFFF)]
    s.place 0x13C543E10 = some { chan := 19, mirror := none, ca := 0x0D2E2E10 } ∧ (s.homeOf (0x13C543E10 / 64)).1 = 3 := by decide +kernel

/-- The poison of the same sector in 20_fault_handling.md: channel 19, macro 1, array 7, and the record's DETAIL0. -/
theorem test_fault_location : let d : DimmIn := { slot := 38, ident := 0, gib := 256 }
    let s := with_ up [(MC_STAT.STATE 19, 1), (MC_STAT.SLOTS 19, 3)]
    let t := after (.dramAccess 9 ⟨1, 0, 0x0D2E2E10, 0⟩ [] 7 2 false)
      { s with mem := { s.mem with dimms := [(38, some d), (39, some { d with slot := 39 })] } }
    (t.faults.queue.getLast?.map fun r => (r.loc, r.d0)) = some (0x73FF290040700000, 0x0D2E2E10) := by decide +kernel

/-- IDCODE reads 0x14B5_6F2B (R91). -/
theorem test_idcode : (after .idcode up).tap.capture.foldr (fun b n => b.toNat + 2 * n) 0 = 0x14B56F2B := by decide +kernel

/-- No row of the table has bits, so no word spells a command. -/
theorem test_decodeTableWord (n w : Nat) : decodeTableWord n w = none := rfl

/-! ### Ill-formed operands, one for each check -/

/-- A frame of a Seam port that is well formed. -/
def seamFrame : SeamFrame := { type := 0x10, src := 1, dst := 0, tag := List.replicate 16 0 }

theorem test_wf_parts : cuffWf { type := 2 } = true ∧ seamWf seamFrame = true ∧ faultWf (faultAt 3 0 0 0) = true ∧
    sbWf { bus := 2, addr := 8, pid := 1, ident := List.replicate 18 0 } = true ∧ bootWf {} = true := by decide +kernel

theorem test_ill_cuff : ([{ type := 256 }, { type := 2, flags := 256 }, { type := 2, claim := 2 ^ 16 }, { type := 2, fsn := 2 ^ 32 },
    { type := 2, tsn := 2 ^ 64 }, { type := 2, opcode := 2 ^ 16 }, { type := 2, order := 8 }, { type := 2, frag := 256 }, { type := 2, frags := 256 },
    { type := 2, chan := 256 }, { type := 2, h3 := 2 ^ 64 }, { type := 2, ackfsn := 2 ^ 32 }, { type := 2, credit := 2 ^ 16 },
    { type := 2, astatus := 2 ^ 16 }, { type := 2, reftsn := 2 ^ 64 }, { type := 2, payload := List.replicate 4097 0 }, { type := 2, payload := [256] }]
    : List CuffFrame).all (fun f => !(Instr.cuffReq 0 f).wf) = true := by decide +kernel

theorem test_ill_seam : ([{ seamFrame with type := 256 }, { seamFrame with epoch := 4 }, { seamFrame with src := 4 }, { seamFrame with dst := 4 },
    { seamFrame with credit := 2 ^ 16 }, { seamFrame with seq := 2 ^ 64 }, { seamFrame with ackseq := 2 ^ 64 }, { seamFrame with ivcnt := 2 ^ 64 },
    { seamFrame with payload := List.replicate 4097 0 }, { seamFrame with tag := [] }, { seamFrame with lane := 64 }, { seamFrame with payload := [256] },
    { seamFrame with tag := List.replicate 16 256 }] : List SeamFrame).all (fun f => !(Instr.beat 0 f).wf) = true := by decide +kernel

theorem test_ill_fault : ([faultAt 0xC 0 0 0, { faultAt 3 0 0 0 with d0 := 2 ^ 64 }, { faultAt 3 0 0 0 with d1 := 2 ^ 64 },
    { faultAt 3 0 0 0 with d2 := 2 ^ 64 }, { faultAt 3 0 0 0 with ctx := some 768 }, { faultAt 3 0 0 0 with part := some 256 }] : List FaultIn).all
    (fun f => !(Instr.faultEvent f).wf) = true := by decide +kernel

theorem test_ill_sideband : let f : SbFound := { bus := 2, addr := 8, pid := 1, ident := List.replicate 18 0 }
    ([{ f with bus := 1 }, { f with addr := 128 }, { f with pid := 2 ^ 48 }, { f with ident := [] }] : List SbFound).all
      (fun f => !(Instr.rollcallPass [f] [] 0).wf) = true ∧ (Instr.rollcallPass [] [] 128).wf = false := by decide +kernel

theorem test_ill_boot : let d : DimmIn := { slot := 0, ident := 0, gib := 16, rate := 1 }
    ([{ bootSel := 4 }, { seamId := 4 }, { members := 8 }, { rateLimit := 5 }, { spares := [48] }, { pairsBad := [48] }, { dimms := [{ d with slot := 48 }] },
      { dimms := [{ d with ident := 2 ^ 48 }] }, { dimms := [d, d] }, { found := [{ bus := 1, addr := 8, pid := 1, ident := [] }] }] : List BootEnv).all
      (fun e => !(Instr.bootSequence e).wf) = true := by decide +kernel

theorem test_ill_units : ([.undervoltageRelease (2 ^ 20) 0, .undervoltageRelease 0 (2 ^ 20), .moduleReset 16, .pairLost 2 0 0, .powerCapStep 12 0,
    .clusterClockStepDown 12 0, .clusterClockStepDown 0 256, .thermalStop 256, .wakeEvent 6, .vaultExit 3, .ltrWrite false 256 0, .prsntChange 256 true,
    .samplePreload [], .extest [] [], .extest (List.replicate 6611 false) [512], .clamp [512], .bypass 256, .dsel (2 ^ 16), .dregRead 4096, .dmemRead (2 ^ 52) 0 false,
    .dmemRead 0 4 false, .dbrk 4 0 true, .add 768 ⟨0, 0, 0, 0⟩, .persistRequest 48, .controlStoreParityError 48 ⟨0, {}⟩, .controlStoreParityError 0 ⟨5, {}⟩, .stageSeal (2 ^ 32) 0,
    .stageSeal 0 (2 ^ 16), .patchApply 64 0, .patchApply 0 5, .pocketOwnerWrite 0 true 256, .ctxStart 256 0, .pocketSwitch 48, .partitionCreate 256, .unitReset 5 0 true,
    .unitReset 0 1024 true, .sourceEvent (2 ^ 16), .swgrpForce 256 0, .swgrpForce 0 64] : List Instr).all (fun i => !i.wf) = true := by decide +kernel

theorem test_ill_memory : ([.reads 49 0, .reads 0 (2 ^ 46), .readcur 64 0, .writefull 0 0 [], .writepart 0 (2 ^ 52) [0], .writepart 0 0 (List.replicate 65 0),
    .homeTimeout 0 49 true true, .l3ctlWgenWrite 4 0, .l3ctlWgenWrite 0 16, .l3PowerupDone 0 4, .mapWrite 16 true 0, .dramAccess 12 ⟨0, 0, 0, 0⟩ [] 0 0 true,
    .dramAccess 0 ⟨0, 0, 2 ^ 40, 0⟩ [] 0 0 true, .dramAccess 0 ⟨2, 0, 0, 0⟩ [] 0 0 true, .dramAccess 0 ⟨0, 8, 0, 0⟩ [] 0 0 true, .dramAccess 0 ⟨0, 0, 0, 0⟩ [] 20 0 true,
    .dramAccess 0 ⟨0, 0, 0, 0⟩ [] 0 3 true, .refreshDue 0 0 ⟨16, 0⟩, .refreshDue 0 4 ⟨0, 0⟩, .refreshDue 0 0 ⟨0, 192⟩,
    .dramThermalThrottle 0 192, .l3SetScrub 0 16 0 0, .chRemove 0 2, .chInsert 0 [{ slot := 48, ident := 0, gib := 16 }],
    .comparatorMismatch 0 ⟨8, {}⟩, .spareMove ⟨64, {}⟩, .spareMove ⟨0, { spares := [48] }⟩, .spareMove ⟨0, { images := [768] }⟩] : List Instr).all
    (fun i => !i.wf) = true := by decide +kernel

theorem test_ill_links : ([.doorbellSend 0 4096 (List.replicate 8 0), .doorbellSend 0 0 [], .hemWriteDurable (2 ^ 64) true true, .markDurable 0 3, .crack 0 4096 0,
    .reattachExpiry 256, .gownWrite 192 0, .granuleZeroDone 768, .hwinaWrite 0 8 0, .hemDieFail 2, .wearLevelMove 0 (2 ^ 19) 0, .hemPatrolRewrite 3 0 0,
    .hemPatrolRewrite 0 0 8, .triadInputBatch [] [none, none, none] true 0, .triadInputBatch [none, none, none] [] true 0,
    .triadInputBatch [none, none, none] [none, none, none] true 8, .memberSelfError 3 0, .triadEject 4, .triadFwLoad (2 ^ 52), .triadPoolWrite 4096 0 0,
    .triadPoolWrite 0 3 0, .laneTraining 512 0, .laneTraining 0 4, .cuffMarker 0 (2 ^ 24) 0 ⟨true, 0⟩, .cuffMarker 0 0 (2 ^ 28) ⟨true, 0⟩, .triadRejoin 0 ⟨true, { bad := [(3 * 2 ^ 20, true)] }⟩, .triadRejoin 0 ⟨true, { tests := 8 }⟩, .chanDual 256,
    .pleatDecompress 0 32, .xtsEnc 0 64 0 0, .slotLoad 4096, .rootLock (2 ^ 24) true, .seamPortBringup 4 0, .seamPortBringup 0 16, .tsync 0 seamFrame 4,
    .holdtimeSilence 4, .replay (2 ^ 52), .keepWrite 1024 0, .lifeSample [] true, .imgchk 0 8, .tfwReady 3, .flashErase (2 ^ 32), .registerWrite 0 (2 ^ 23) 0] :
    List Instr).all (fun i => !i.wf) = true := by decide +kernel

/-! ### Further clauses of the statements -/

/-- `CollarCommands`, further: GDIS is clear, is set, and is set while a BLOCKED target of a pending source waits. -/
theorem wit_CollarCommands_gdis :
    let s := with_ (pendingFor (part {}) 0) [(COLLAR_CTL.GDIS, 1), (POCKET_STAT.STATE 0, 2)]
    (with_ s [(COLLAR_CTL.GDIS, 0)]).fget COLLAR_CTL.GDIS = 0 ∧ s.fget COLLAR_CTL.GDIS = 1 ∧ s.pk 0 = 2 ∧ 0x4000 ∈ s.collar.ages ∧ s.targets 0x4000 0 = true ∧
    s.targets 0x4000 767 = false := by decide +kernel

/-- `PartitionCommands`, `PocketCommands`: a slot that is moving with a context of the partition, and one that is not. -/
theorem wit_PartitionCommands_moves :
    let s := with_ (part {}) [(TAILOR_PHYS.STATE 0, 2)]
    s.fget (PART_STATE.STATE 3) = 1 ∧ s.partMoves 3 = true ∧ s.partMoves 4 = false ∧ s.takesCmds 0 = false ∧ (part {}).partMoves 3 = false := by
  decide +kernel

/-- `PatchResults`, further: a sealed stage, a pair that serves, is a spare, is FAILED, or does not exist. -/
theorem wit_PatchResults_apply :
    let s := with_ up [(CSTORE_STAGECTL.SEALED, 1)]
    s.power.phase = .run ∧ s.fget CSTORE_STAGECTL.SEALED = 1 ∧ s.fget CSTORE_STAT.BUSY ≠ 1 ∧ s.fget (TAILOR_PHYS.STATE 47) = 0 ∧ 47 ≤ 47 ∧ 47 < 48 ∧
    (with_ s [(CSTORE_STAT.BUSY, 1)]).fget CSTORE_STAT.BUSY = 1 := by decide +kernel

/-- `LockstepAndSparing`, further: nothing is held; the Tailor restarts; a spare that fails in the move; a Pocket whose image is
lost. -/
theorem wit_LockstepAndSparing_moves :
    let s := with_ (fw []) [(TAILOR_PHYS.STATE 11, 1), (POCKET_STAT.STATE 1, 3)]
    let b := with_ s [(TAILOR_TFWSTAT.BUSY, 1)]
    (s.core.heldCmds = [] ∧ s.core.partWaits = []) ∧ (s.chooseSpare 0 = some 11 ∧ s.fget TAILOR_TFWSTAT.BUSY ≠ 1 ∧ 11 ∉ ({} : MoveIn).spares) ∧
    s.fget TAILOR_SPARESTAT.BUSY ≠ 1 ∧ (with_ s [(TAILOR_SPARESTAT.BUSY, 1)]).fget TAILOR_SPARESTAT.BUSY = 1 ∧
    (b.fget TAILOR_TFWSTAT.BUSY = 1 ∧ b.chooseSpare 0 = some 11 ∧ ∀ m ∈ b.core.heldMoves, m.1 ≠ 0) ∧ s.pk 1 ≠ 0 ∧ 1 % 16 ≠ 15 ∧
    (0 < 48 ∧ 47 < 48 ∧ 0 ≠ 47) := by decide +kernel

/-- `SeamReception`, further: every lane OUT, Cloak off, the named lane OUT, a first check that fails. -/
theorem wit_SeamReceives_lanes :
    let lanes := with_ seamUp [(CLOAK_LANEUP.LANEUP, 2 ^ 63)]
    let on := with_ lanes [(CLOAK_CTL.EN, 1)]
    (with_ seamUp [(CLOAK_LANEUP.LANEUP, 0)]).fget CLOAK_LANEUP.LANEUP = 0 ∧
    (let off := with_ lanes [(CLOAK_CTL.EN, 0)]; off.fget CLOAK_LANEUP.LANEUP ≠ 0 ∧ off.fget CLOAK_CTL.EN ≠ 1) ∧ (on.fget CLOAK_LANEUP.LANEUP ≠ 0 ∧ on.fget CLOAK_CTL.EN = 1) ∧
    (on.unitUp .cloak (63 % 64) = true ∧ on.unitUp .cloak (0 % 64) = false ∧ on.otherUnit .cloak 0 = 63) ∧
    { beatFrame with once := true }.once = true ∧ (on.openFrame 3 { beatFrame with lane := 63 }).2 = some [0] := by decide +kernel

/-- `SeamPorts`, further: a lane to seal on, one that is OUT with another in service, one left in service by a first failed check; a
HELLO under AUTHSLOT; the RXSLOT entry opens, and does not. -/
theorem wit_SeamPorts_seal :
    let on := with_ seamUp [(CLOAK_LANEUP.LANEUP, 2 ^ 63 + 1), (CLOAK_CTL.EN, 1)]
    let hello := with_ on [(SEAM_PORT_STAT.STATE 3, 3)]
    let tab (cfg : Nat) : State := putH (0x200000 + 64 * 9) (leNats 8 cfg) (with_ on [(HEM_STAT.H0OK, 1), (CLOAK_SLOTBASE.VALID, 1), (CLOAK_SLOTBASE.ADDR, srcA / 4096)])
    let opens (v : State) : Bool := let r := (v.slotWrite 9 0x08 (v.spair 3).txgen).slotRead 9
      r.2.any fun x => x.cfg % 2 == 1 && x.cfg / 2 % 16 == 2 && r.1.fget CLOAK_SLOTBASE.VALID == 1
    (on.fget CLOAK_CTL.EN = 1 ∧ on.unitUp .cloak 63 = true ∧ on.fget (SEAM_PORT_STAT.STATE 3) = 4) ∧
    (on.unitUp .cloak 1 = false ∧ on.unitUp .cloak (on.otherUnit .cloak 1) = true) ∧ (on.unitFail .cloak 63).unitUp .cloak 63 = true ∧
    (hello.fget (SEAM_PORT_STAT.STATE 3) = 3 ∧ (hello.sport 3).unseq = [] ∧ hello.fget CLOAK_ROOTSTAT.STATE = 2 ∧
      hello.fget (CLOAK_SLOTST.STATE 8) = 1 ∧ (hello.slot 8).cfg / 2 % 16 = 3) ∧
    (hello.fget CLOAK_LANEUP.LANEUP ≠ 0 ∧ (with_ on [(CLOAK_CTL.EN, 0)]).fget CLOAK_CTL.EN ≠ 1) ∧ opens (tab 0x45) = true ∧ opens (tab 0) = false := by decide +kernel

/-- `FaultEventResults`, further: an L1 error, an L2 line in each state, tag entries, and what is only recorded. -/
theorem wit_FaultEventResults_caches :
    let l1 := faultAt 1 3 11 1
    let l2 (act : Nat) := faultAt act 3 11 4 none home.toNat
    let own (st : CState) : State := recorded (l2 7) (dirAt wsec (some 47) st [])
    l1.loc / 2 ^ 60 % 16 = 1 ∧ l1.loc / 2 ^ 56 % 16 = 3 ∧ l1.loc / 2 ^ 48 % 256 = 11 ∧ l1.loc / 2 ^ 40 % 256 = 1 ∧
    (l2 7).loc / 2 ^ 40 % 256 = 4 ∧ (own .m).cst (3 * 12 + 11) wsec = .m ∧ (own .o).cst (3 * 12 + 11) wsec = .o ∧
    (own .e).cst (3 * 12 + 11) wsec = .e ∧ (recorded (l2 0) (dirAt wsec none .i [47])).cst 47 wsec = .s ∧
    (faultAt 7 3 31 0x11).loc / 2 ^ 40 % 256 = 0x11 ∧ (faultAt 7 0 16 0x12).loc / 2 ^ 48 % 256 = 16 ∧
    ((faultAt 3 4 0xFF 0x1A).loc / 2 ^ 56 % 16 = 4 ∧ (faultAt 3 4 0xFF 0x1A).loc / 2 ^ 40 % 256 ≠ 0x30) := by decide +kernel

/-- `FaultRecords`, `FaultCommands`, further: a log that has room; the fault state's quiet time is over, is not, and a replay alone. -/
theorem wit_FaultState_ends :
    let q (f : FaultState → FaultState) : State := let s := with_ up [(FAULT_STAT.FSTATE, 1)]; { s with faults := f s.faults }
    up.logFull = false ∧ (q fun f => { f with quietOver := true }).faults.quietOver = true ∧ up.faults.quietOver = false ∧
    (q fun f => { f with quietOver := true }).fget FAULT_STAT.FSTATE = 1 ∧ up.fget FAULT_MINSET.MINSET = 0 ∧
    (q fun f => { f with quietOver := true, onlyReplays := false }).faults.onlyReplays = false := by decide +kernel

/-- `TailorResults`, further: a pair that moves, and a roll-call pass in hand. -/
theorem wit_TailorResults_moves : (with_ up [(TAILOR_PHYS.STATE 47, 3)]).fget (TAILOR_PHYS.STATE 47) = 3 ∧
    (with_ up [(TAILOR_ROLLSTAT.BUSY, 1)]).fget TAILOR_ROLLSTAT.BUSY = 1 ∧ up.fget TAILOR_ROLLSTAT.BUSY ≠ 1 := by decide +kernel

/-- `BootResults`, further: READY at step 11 with the minimum set. -/
theorem wit_BootResults_ready :
    let s := with_ up [(HEM_STAT.H0OK, 1), (TAILOR_SLOT.SERVING 0, 1), (MC_STAT.STATE 0, 1), (TAILOR_BOOTSTAT.STEP, 11)]
    let m := ({ s with pins := { s.pins with hiZ := false } } : State).updMinset
    m.fget FAULT_MINSET.MINSET = 0 ∧ m.pins.hiZ = false ∧ m.power.phase = .run ∧ m.fget TAILOR_BOOTSTAT.STEP = 11 := by decide +kernel

/-- `RegisterAccesses`, `RegisterCommands`, `StepRunsFrontCommand`, further: no store waits, and one that waits for another block; a
fault state's quiet time, a channel that waits for its controller and one that does not. -/
theorem wit_RegisterAccesses_time :
    let s : State := { up with core := { up.core with devq := [⟨15, controlBase + 0x40000, [0], false⟩] } }
    let wait := with_ up [(CHAN_RINGSTAT.ATTACH 255, 1), (CHAN_RINGCTL.REATTACH 255, 5)]
    (∀ d ∈ s.core.devq, d.ctx = 15 → devBlock d.mp ≠ devBlock (controlBase + 0x20000)) ∧ (up.core.devq = [] ∧ up.mem.sbuf = []) ∧
    (with_ up [(FAULT_STAT.QUIETLEFT, 2)]).fget FAULT_STAT.QUIETLEFT = 2 ∧ up.fget FAULT_STAT.QUIETLEFT ≤ 1 ∧
    (wait.fget (CHAN_RINGSTAT.ATTACH 255) = 1 ∧ wait.fget (CHAN_RINGCTL.REATTACH 255) ≠ 0xFFFF) ∧ up.fget (CHAN_RINGSTAT.ATTACH 255) ≠ 1 := by decide +kernel

/-- `PowerInputResults`, `ClockAndThermalResults`, `PowerStateResults`, `ShutterAndVaultResults`, further: a hot and a cool module in
overvoltage, a draw at and above the power cap, requests for a Vault that is being entered and for a Shutter that holds. -/
theorem wit_Power_more :
    let s : State := { up with power := { up.power with cap := 900000 } }
    let hot : State := { at_ .overvoltage with power := { (at_ .overvoltage).power with hottest := 205 } }
    (900000 ≤ s.power.cap ∧ s.power.cap < 900001) ∧ (hot.power.phase = .overvoltage ∧ 140 + 64 < hot.power.hottest ∧ (at_ .overvoltage).power.hottest ≤ 140 + 64) ∧
    ((pst 1 0 0 0 5 1).look.updTeff.fget POWER_STATE.MOVING = 1 ∧ (pst 1 0 0 0 5 1).look.updTeff.fget POWER_STATE.GOAL = 5) ∧
    ((pst 1 0 0 4 4 0).look.updTeff.fget POWER_STATE.CUR = 4 ∧ (pst 1 0 0 4 4 0).look.updTeff.fget POWER_STATE.MOVING ≠ 1) ∧
    ((pst 1 0 0 0 4 1).look.updTeff.fget POWER_STATE.MOVING = 1 ∧ (pst 1 0 0 0 4 1).look.updTeff.fget POWER_STATE.GOAL = 4) ∧
    (with_ (pst 1 0 0 0 4 1) [(POWER_WAKE.WAKE_EN, 1)]).fget POWER_WAKE.WAKE_EN = 1 := by decide +kernel

/-- `TransactionResults`, `HemDieCommands`, `TriadCommands`, further: a vital transaction that is driven and one that is not; a frame
that is due to move and one that is not; a copy that meets nothing uncorrectable, and one that stops. -/
theorem wit_Triad_more :
    let pair := with_ up [(TRIAD_STAT.MODE, 1), (TRIAD_MEMBER.STATE 2, 1)]
    let worn : State := { up with triad := { up.triad with wear := [(5, 2 ^ 40)] } }
    let quiet := with_ up [(TRIAD_STAT.MODE, 2)]
    up.drives (tx 1 .fetch false) = true ∧ quiet.drives (tx 1 .fetch true) = false ∧
    worn.wearDue 0 5 = true ∧ up.wearDue 0 5 = false ∧ ([] : List (Nat × Bool)).any (·.2) = false ∧
    ([(0, true)] : List (Nat × Bool)).any (·.2) = true ∧ pair.voting = 0 :: [1] := by decide +kernel

/-- `LaneStateResults`, `ChannelCommands`, further: corrected symbols at a rest of 1,023 on Cuff-3, a lane of Cuff-2, a roll-call pass in
hand while the Tailor restarts. -/
theorem wit_Lanes_more :
    let g (k : Nat) := with_ (laneAt 511 4 { codeLock := true, corrRest := 1023 }) [(LANE_STAT.CURGEN 511, k)]
    let r := with_ up [(TAILOR_ROLLSTAT.BUSY, 1), (TAILOR_TFWSTAT.BUSY, 1)]
    (0 < 1 ∧ (g 3).fget (LANE_STAT.CURGEN 511) = 3 ∧ ((g 3).lane 511).corrRest + 1 = 1024 ∧ (g 2).fget (LANE_STAT.CURGEN 511) ≠ 1 ∧
      (g 2).fget (LANE_STAT.CURGEN 511) ≠ 3) ∧ ((g 3).lane 511).missed < 3 ∧ r.fget TAILOR_ROLLSTAT.BUSY = 1 ∧ r.fget TAILOR_TFWSTAT.BUSY = 1 := by
  decide +kernel

/-- `PleatResults`, further: a command on a stream context that holds no stream, and one that waits for an earlier one of its context. -/
theorem wit_PleatStreams :
    let c := cmd none [2 + 3 * 16, srcA, 64 * 2 ^ 32, dstA, 1, 0, 0, stA]
    c.ctx ≠ 0 ∧ c.cont = false ∧ (pq c).unitsGranted .pleat = [0] ∧ ({ eng with eng := { eng.eng with pleatQ := [c, c] } } : State).unitsGranted .pleat = [0] := by
  decide +kernel

/-! ### The micro-engine -/

/-- Damson's first words: the match register sends micro address 5 to word 0, which has no nano-word; word 1 names nano-word 0 and
ends the routine. The nano-word adds g1 and g2 into g3 with the flags and commits (R171, R175, R177, R180, R187). -/
def patch : Damson :=
  { micro := [(1, withParity 24 (2 * 2 ^ 21 + 0x1000))]
    nano := [(0, withParity 176 (1 * 2 ^ 168 + 1 * 2 ^ 160 + 1 * 2 ^ 154 + 2 * 2 ^ 148 + 3 * 2 ^ 142 + 0xAF * 2 ^ 88))]
    mtch := [(0, withParity 64 (2 ^ 63 + 5))] }

/-- A pair with that patch, its context with 5 in g1 and −1 in g2, and a routine of it at address 5. -/
def patched : State := (up.setDamson 0 patch).setCtx 0 { (up.ctx 0) with g := [(1, 5), (2, 0xFFFFFFFFFFFFFFFF)] }
def routine5 : Routine := { ctx := 0, pc := 0, cls := false, ir := 0, ir2 := 0, addr := 5, flags := 0 }

theorem test_micro_routine : (match State.microRun 0 0 10 patched routine5 with
    | .done s r => (s.ctx 0).readG 3 == 4 && stBit (s.ctx 0).st ST.c && !stBit (s.ctx 0).st ST.z && r.committed
    | _ => false) = true := by decide +kernel

/-- A word whose parity bit is wrong is not executed (R170, R185). -/
theorem test_micro_parity : (match State.microRun 0 0 10
      ((up.setDamson 0 { patch with micro := [(1, 2 * 2 ^ 21 + 0x1000 + 2 ^ 24)] }).setCtx 0 (up.ctx 0)) routine5 with
    | .parity .. => true
    | _ => false) = true := by decide +kernel

end Sys2Proof.Tests
end

/-! PROOFS. The flags and sums of R140: what the shared shapes of the integer instructions write, and O2 from them. -/

namespace Sys2Proof.Machine

open Sys2Proof.Safety

/-- Z and N of a logical result are those of the word (R140, TST). -/
theorem logicFlags_eq (r : Word) : logicFlags 64 r.toNat = { z := some (decide (r = 0)), n := some r.msb } := by
  have hn : bitOf r.toNat (64 - 1) = r.msb := bitOf63 r
  have hz : (r.toNat % 2 ^ 64 == 0) = decide (r = 0) := by
    rw [Nat.mod_eq_of_lt r.isLt, Bool.eq_iff_iff]; simp [BitVec.toNat_eq]
  rw [logicFlags, hn, hz]

/-- Only the form with Rd = Ra = Rb = 0 of ADD is the word of zeros (R102). -/
theorem wordR_add_ne {f : RFmt} (h : ¬ (f.rd = 0 ∧ f.ra = 0 ∧ f.rb = 0)) : wordR 0 0 f ≠ 0 := by
  simp only [BitVec.toNat_eq, BitVec.ofNat_eq_ofNat, BitVec.toNat_ofNat] at h
  unfold wordR
  omega

section
variable {s t : State} {c : Nat} {i : Instr} (h : Starts s c 4 false t) (hd : NotStepped t c)
include h hd

/-- An addition writes the low 64 bits of the 65-bit sum to Rd, and the flags of that sum. -/
theorem addition_writes {func : Nat} {f : RFmt} {cin : State → Bool} {ci : Bool}
    (hi : exec i s = .next (s.arith c func f false true cin)) (hz : f.rc = 0) (hci : cin t = ci) :
    WritesGF i s t c f.rd ((sum65Of (t.g c f.ra) (t.g c f.rb) ci).setWidth 64)
      (flagsOf (t.g c f.ra) (t.g c f.rb) (sum65Of (t.g c f.ra) (t.g c f.rb) ci) false) := by
  apply writesGF_of h hd (insn := wordR 0x00 func f) hi
  simp [guardUndef, hz, hci, addRes_eq, addFlags_eq]

/-- A subtraction adds the complement of Rb, and writes the low 64 bits of the sum and its flags. -/
theorem subtraction_writes {func : Nat} {f : RFmt} {cin : State → Bool} {ci : Bool}
    (hi : exec i s = .next (s.arith c func f true true cin)) (hz : f.rc = 0) (hci : cin t = ci) :
    WritesGF i s t c f.rd ((sum65Of (t.g c f.ra) (~~~(t.g c f.rb)) ci).setWidth 64)
      (flagsOf (t.g c f.ra) (t.g c f.rb) (sum65Of (t.g c f.ra) (~~~(t.g c f.rb)) ci) true) := by
  apply writesGF_of h hd (insn := wordR 0x00 func f) hi
  simp [guardUndef, hz, hci, subRes_eq, subFlags_eq]

/-- An instruction that writes its flags alone. -/
theorem writesFlags_of {insn : Nat} {body : State → Done} {fl : FlagSet}
    (hi : exec i s = .next (s.native c insn body)) (hb : body t = .next (t.flags c fl)) :
    Completes i s t c { t.ctx c with st := stFlags (t.ctx c).st fl } :=
  completes_of h hd hi hb

/-- A subtraction without a result, with Rd = Rc = 0, writes its flags alone. -/
theorem comparison_completes {func : Nat} {f : RFmt} {cin : State → Bool} {ci : Bool}
    (hi : exec i s = .next (s.arith c func f true false cin)) (hz : f.rc = 0) (hci : cin t = ci) (hrd : f.rd = 0) :
    let fl := flagsOf (t.g c f.ra) (t.g c f.rb) (sum65Of (t.g c f.ra) (~~~(t.g c f.rb)) ci) true
    Completes i s t c { t.ctx c with st := stFlags (t.ctx c).st fl } := by
  apply writesFlags_of h hd (insn := wordR 0x00 func f) hi
  simp [guardUndef, hz, hrd, hci, subFlags_eq]

/-- An R form without a reserved field writes one value to Rd. -/
theorem rOp_writes {major func : Nat} {f : RFmt} {op : State → State} {v : Word}
    (hi : exec i s = .next (s.rOp c major func f false op)) (hv : op t = t.setG c f.rd v) : WritesG i s t c f.rd v := by
  apply completes_of h hd (insn := wordR major func f) hi
  simp [guardUndef, hv, State.setG]

/-- An I form that is not refused writes the operation of Ra to Rd. -/
theorem immOp_writes {major : Nat} {f : IFmt} {op : Word → Word} {v : Word}
    (hi : exec i s = .next (s.immOp c major f false op)) (hv : op (t.g c f.ra) = v) : WritesG i s t c f.rd v := by
  apply completes_of h hd (insn := wordI major f) hi
  simp [guardUndef, ← hv, State.setG]

/-- TST with Rd = Rc = 0 writes Z and N of the conjunction, and leaves C and V (R140). -/
theorem tst_completes {f : RFmt} (hz : f.rc = 0) (hrd : f.rd = 0) :
    let r := t.g c f.ra &&& t.g c f.rb
    let fl : FlagSet := { z := some (decide (r = 0)), n := some r.msb }
    Completes (.tst c f) s t c { t.ctx c with st := stFlags (t.ctx c).st fl } := by
  apply writesFlags_of h hd (insn := wordR 0x00 0x0D f) rfl
  rw [← logicFlags_eq]
  simp [guardUndef, hz, hrd]

/-- CMPI with Rd = 0 writes the flags of Ra less the extended immediate (R140). -/
theorem cmpi_completes {f : IFmt} (hrd : f.rd = 0) :
    let fl := flagsOf (t.g c f.ra) (f.imm.signExtend 64) (sum65Of (t.g c f.ra) (~~~(f.imm.signExtend 64)) true) true
    Completes (.cmpi c f) s t c { t.ctx c with st := stFlags (t.ctx c).st fl } := by
  apply writesFlags_of h hd (insn := wordI 0x0C f) rfl
  simp [guardUndef, hrd, subFlags_eq]

end

/-- Settles O2: each form is an instance of one of the shared shapes, whose flags are those of the 65-bit sum. -/
theorem integerFlagsAndSums : Obligations.IntegerFlagsAndSums := by
  intro s t c h hd
  refine ⟨fun f hz => ?rForms, fun f => ?multiplyAdd, fun f => ?iForms⟩
  case rForms =>
    refine ⟨?adds, ?adc, ?subs, ?sbc, fun hrd => ⟨?cmp, ?tst⟩, fun hne => ?add, ?sub, ?mul, fun hrb => ?neg⟩
    case adds => exact addition_writes h hd rfl hz rfl
    case adc => exact addition_writes h hd rfl hz rfl
    case subs => exact subtraction_writes h hd rfl hz rfl
    case sbc => exact subtraction_writes h hd rfl hz rfl
    case cmp => exact comparison_completes h hd rfl hz rfl hrd
    case tst => exact tst_completes h hd hz hrd
    case add => exact rab_writes h hd rfl hz (wordR_add_ne hne) rfl
    case sub => exact rab_writes h hd rfl hz (wordR_func_ne 0x00 0x03 f (by decide)) rfl
    case mul => exact rab_writes h hd rfl hz (wordR_func_ne 0x01 0x00 f (by decide)) rfl
    case neg => exact ra1_writes h hd rfl hz hrb rfl
  case multiplyAdd => exact ⟨rOp_writes h hd rfl rfl, rOp_writes h hd rfl rfl⟩
  case iForms => exact ⟨immOp_writes h hd rfl rfl, immOp_writes h hd rfl rfl, fun hrd => cmpi_completes h hd hrd⟩

end Sys2Proof.Machine

/-! PROOFS. Collar's sources (R238): the marks PEND and SERV and the holder as the operations on them leave them, what an
event does to the target contexts, and O26 from these. -/

namespace Sys2Proof.Machine

open Sys2Proof.Safety

/-! ### One bit of a word -/

theorem bitOf_eq_testBit (n k : Nat) : bitOf n k = n.testBit k := by
  rw [Nat.testBit_eq_decide_div_mod_eq]
  rfl

/-- Adding the weight of a clear bit carries into no other bit. -/
theorem testBit_two_pow_add_of_clear {n k j : Nat} (h : n.testBit k = false) (hj : j ≠ k) :
    (2 ^ k + n).testBit j = n.testBit j := by
  rcases Nat.lt_or_gt_of_ne hj with hlt | hgt
  · exact Nat.testBit_two_pow_add_gt hlt n
  · obtain ⟨i, rfl⟩ := Nat.exists_eq_add_of_lt hgt
    have hpos : 0 < 2 ^ k := Nat.two_pow_pos k
    have heven : n / 2 ^ k % 2 ≠ 1 := by simpa [Nat.testBit_eq_decide_div_mod_eq] using h
    have hq : (2 ^ k + n) / 2 ^ (k + 1) = n / 2 ^ (k + 1) := by
      rw [pow_succ, ← Nat.div_div_eq_div_mul, ← Nat.div_div_eq_div_mul, Nat.add_div_left n hpos]
      omega
    rw [show k + i + 1 = i + (k + 1) by omega, ← Nat.testBit_div_two_pow, hq, Nat.testBit_div_two_pow]

/-- A word of `w` bits reads back the bit that was set, and every other bit as it was. -/
theorem bitOf_setBitNat (n : Nat) (b : Bool) {k j w : Nat} (hj : j < w) :
    bitOf (setBitNat n k b % 2 ^ w) j = if j = k then b else bitOf n j := by
  simp only [bitOf_eq_testBit, setBitNat, Nat.testBit_mod_two_pow, hj, decide_true, Bool.true_and]
  by_cases hb : n.testBit k = b
  · by_cases hjk : j = k
    · simp [hb, hjk]
    · simp [hb, hjk]
  · cases b with
    | true =>
      have hclear : n.testBit k = false := by simpa using hb
      by_cases hjk : j = k
      · simp [hjk, hclear, Nat.add_comm n, Nat.testBit_two_pow_add_eq]
      · simp [hjk, hclear, Nat.add_comm n, testBit_two_pow_add_of_clear hclear hjk]
    | false =>
      have hset : n.testBit k = true := by simpa using hb
      obtain ⟨m, rfl⟩ := Nat.exists_eq_add_of_le (Nat.ge_two_pow_of_testBit hset)
      have hclear : m.testBit k = false := by simpa [Nat.testBit_two_pow_add_eq] using hset
      by_cases hjk : j = k
      · simp [hjk, hset, hclear]
      · simp [hjk, hset, testBit_two_pow_add_of_clear hclear hjk]

/-! ### A mark of a source: PEND or SERV -/

theorem swGroup_lt {x : Nat} (h : isSw x = true) : swGroup x < 256 := by
  simp only [isSw, decide_eq_true_eq] at h
  unfold swGroup
  omega

/-- In one group, a software source is known by its bit. -/
theorem swBit_eq_iff {x y : Nat} (hx : isSw x = true) (hy : isSw y = true) (h : swGroup x = swGroup y) :
    swBit x = swBit y ↔ x = y := by
  simp only [isSw, decide_eq_true_eq] at hx hy
  unfold swGroup at h
  unfold swBit
  omega

/-- The field that holds a mark of source `x`: its group's word, or a bit of its own register (R248). -/
def markField (word bit : Nat → Field) (x : Nat) : Field := if isSw x then word (swGroup x) else bit x

/-- The mark of source `x`. -/
def State.mark (s : State) (word bit : Nat → Field) (x : Nat) : Bool :=
  if isSw x then bitOf (s.fget (word (swGroup x))) (swBit x) else s.fbit (bit x)

/-- The state with the mark of source `x` at `b`. -/
def State.setMark (s : State) (word bit : Nat → Field) (x : Nat) (b : Bool) : State :=
  if isSw x then s.fset (word (swGroup x)) (setBitNat (s.fget (word (swGroup x))) (swBit x) b) else s.fsetB (bit x) b

/-- A family of words for the software groups and of bits for the hardware sources, all in fields of their own. -/
structure MarkFields (word bit : Nat → Field) : Prop where
  word_width : ∀ g, (word g).width = 64
  bit_width : ∀ x, (bit x).width = 1
  word_inj : ∀ g h, (word g).key = (word h).key → g = h
  bit_inj : ∀ x y, (bit x).key = (bit y).key → x = y
  apart : ∀ g x, (word g).key ≠ (bit x).key

theorem State.mark_congr {s t : State} {word bit : Nat → Field} {x : Nat}
    (h : t.fget (markField word bit x) = s.fget (markField word bit x)) : t.mark word bit x = s.mark word bit x := by
  unfold markField at h
  unfold State.mark State.fbit
  split at h <;> simp [*]

theorem State.setMark_fget_ne (s : State) {word bit : Nat → Field} {x : Nat} (b : Bool) {f : Field}
    (h : f.key ≠ (markField word bit x).key) : (s.setMark word bit x b).fget f = s.fget f := by
  unfold markField at h
  unfold State.setMark
  split at h <;> simp [*, State.fget_fset_ne, State.fget_fsetB_ne]

theorem State.setMark_collar (s : State) (word bit : Nat → Field) (x : Nat) (b : Bool) :
    (s.setMark word bit x b).collar = s.collar := by
  rw [State.setMark, apply_ite State.collar, State.fset_collar, State.fsetB_collar, ite_self]

/-- A mark reads what was set, and the mark of every other source is unchanged. -/
theorem MarkFields.mark_setMark {word bit : Nat → Field} (m : MarkFields word bit) (s : State) (x y : Nat) (b : Bool) :
    (s.setMark word bit x b).mark word bit y = if y = x then b else s.mark word bit y := by
  by_cases hg : (markField word bit y).key = (markField word bit x).key
  · unfold markField at hg
    unfold State.mark State.setMark
    by_cases hx : isSw x = true
    · by_cases hy : isSw y = true
      · simp only [hx, hy, if_true] at hg ⊢
        have hgroup := m.word_inj _ _ hg
        have hlt : swBit y < 64 := Nat.mod_lt _ (by decide)
        simp only [hgroup, State.fget_fset_same, m.word_width, bitOf_setBitNat _ _ hlt, swBit_eq_iff hy hx hgroup]
      · rw [if_neg hy, if_pos hx] at hg
        exact absurd hg.symm (m.apart _ _)
    · by_cases hy : isSw y = true
      · rw [if_pos hy, if_neg hx] at hg
        exact absurd hg (m.apart _ _)
      · rw [if_neg hy, if_neg hx] at hg
        simp [hx, m.bit_inj _ _ hg, State.fbit_fsetB_same _ _ _ (m.bit_width _)]
  · have hne : y ≠ x := fun h => hg (h ▸ rfl)
    simp [hne, State.mark_congr (s.setMark_fget_ne b hg)]

/-! ### The fields that hold the states of sources -/

theorem pend_fields : MarkFields COLLAR_SWPEND.PEND COLLAR_SRC.PEND where
  word_width _ := rfl
  bit_width _ := rfl
  word_inj g h := by simp only [Field.key, COLLAR_SWPEND.PEND]; omega
  bit_inj x y := by simp only [Field.key, COLLAR_SRC.PEND]; omega
  apart g x := by simp only [Field.key, COLLAR_SWPEND.PEND, COLLAR_SRC.PEND]; omega

theorem serv_fields : MarkFields COLLAR_SWSERV.SERV COLLAR_SRC.SERV where
  word_width _ := rfl
  bit_width _ := rfl
  word_inj g h := by simp only [Field.key, COLLAR_SWSERV.SERV]; omega
  bit_inj x y := by simp only [Field.key, COLLAR_SRC.SERV]; omega
  apart g x := by simp only [Field.key, COLLAR_SWSERV.SERV, COLLAR_SRC.SERV]; omega

/-- The field that holds PEND of source `x`, and the one that holds SERV. -/
abbrev pendField (x : Nat) : Field := markField COLLAR_SWPEND.PEND COLLAR_SRC.PEND x
abbrev servField (x : Nat) : Field := markField COLLAR_SWSERV.SERV COLLAR_SRC.SERV x

theorem State.srcPend_eq_mark (s : State) (x : Nat) : s.srcPend x = s.mark COLLAR_SWPEND.PEND COLLAR_SRC.PEND x := rfl
theorem State.srcServ_eq_mark (s : State) (x : Nat) : s.srcServ x = s.mark COLLAR_SWSERV.SERV COLLAR_SRC.SERV x := rfl
theorem State.setServ_eq_setMark (s : State) (x : Nat) (b : Bool) :
    s.setServ x b = s.setMark COLLAR_SWSERV.SERV COLLAR_SRC.SERV x b := rfl
theorem State.setPend_eq_setMark (s : State) (x : Nat) (b : Bool) :
    s.setPend x b = { s.setMark COLLAR_SWPEND.PEND COLLAR_SRC.PEND x b with
      collar := { (s.setMark COLLAR_SWPEND.PEND COLLAR_SRC.PEND x b).collar with
        ages := if b then (s.setMark COLLAR_SWPEND.PEND COLLAR_SRC.PEND x b).collar.ages.filter (· ≠ x) ++ [x]
          else (s.setMark COLLAR_SWPEND.PEND COLLAR_SRC.PEND x b).collar.ages.filter (· ≠ x) } } := rfl
theorem State.setPend_fget_eq (s : State) (x : Nat) (b : Bool) (f : Field) :
    (s.setPend x b).fget f = (s.setMark COLLAR_SWPEND.PEND COLLAR_SRC.PEND x b).fget f := rfl

/-- The places of PEND, SERV and HOLDER (R248): bits 46, 47 and 52 of a register, and the words from 0x42000 on. -/
def SourceField (f : Field) : Prop :=
  f.key % 64 = 46 ∨ f.key % 64 = 47 ∨ f.key % 64 = 52 ∨ (0x42000 ≤ f.key / 64 ∧ f.key / 64 < 0x43000)

theorem sourceField_pend (x : Nat) : SourceField (pendField x) := by
  unfold SourceField pendField markField
  split
  · have := swGroup_lt ‹_›; simp only [Field.key, COLLAR_SWPEND.PEND]; omega
  · simp only [Field.key, COLLAR_SRC.PEND]; omega

theorem sourceField_serv (x : Nat) : SourceField (servField x) := by
  unfold SourceField servField markField
  split
  · have := swGroup_lt ‹_›; simp only [Field.key, COLLAR_SWSERV.SERV]; omega
  · simp only [Field.key, COLLAR_SRC.SERV]; omega

theorem sourceField_holder (x : Nat) : SourceField (COLLAR_SRC.HOLDER x) := by
  simp only [SourceField, Field.key, COLLAR_SRC.HOLDER]; omega

/-- A field that holds no state of a source has another key than one that does. -/
theorem SourceField.key_ne {f g : Field} (hf : SourceField f) (hg : ¬ SourceField g) : f.key ≠ g.key := by
  intro h
  unfold SourceField at hf hg
  exact hg (h ▸ hf)

theorem pendField_key_ne_servField (x y : Nat) : (pendField x).key ≠ (servField y).key := by
  unfold pendField servField markField
  split
  · have := swGroup_lt ‹_›
    split <;> simp only [Field.key, COLLAR_SWPEND.PEND, COLLAR_SWSERV.SERV, COLLAR_SRC.SERV] <;> omega
  · split <;> simp only [Field.key, COLLAR_SRC.PEND, COLLAR_SWSERV.SERV, COLLAR_SRC.SERV] <;> omega

theorem pendField_key_ne_holder (x y : Nat) : (pendField x).key ≠ (COLLAR_SRC.HOLDER y).key := by
  unfold pendField markField
  split <;> simp only [Field.key, COLLAR_SWPEND.PEND, COLLAR_SRC.PEND, COLLAR_SRC.HOLDER] <;> omega

theorem servField_key_ne_holder (x y : Nat) : (servField x).key ≠ (COLLAR_SRC.HOLDER y).key := by
  unfold servField markField
  split <;> simp only [Field.key, COLLAR_SWSERV.SERV, COLLAR_SRC.SERV, COLLAR_SRC.HOLDER] <;> omega

theorem not_sourceField_event (c : Nat) : ¬ SourceField (POCKET_STAT.EVENT c) := by
  simp only [SourceField, Field.key, POCKET_STAT.EVENT]; omega

theorem not_sourceField_state (c : Nat) : ¬ SourceField (POCKET_STAT.STATE c) := by
  simp only [SourceField, Field.key, POCKET_STAT.STATE]; omega

theorem not_sourceField_enField (x : Nat) : ¬ SourceField (enField x) := by
  unfold SourceField enField
  split
  · have := swGroup_lt ‹_›; simp only [Field.key, COLLAR_SWGRP.EN]; omega
  · simp only [Field.key, COLLAR_SRC.EN]; omega

/-! ### What a source's state reads after each operation -/

theorem State.srcPend_congr {s t : State} {x : Nat} (h : t.fget (pendField x) = s.fget (pendField x)) :
    t.srcPend x = s.srcPend x := State.mark_congr h

theorem State.srcServ_congr {s t : State} {x : Nat} (h : t.fget (servField x) = s.fget (servField x)) :
    t.srcServ x = s.srcServ x := State.mark_congr h

theorem State.srcHolder_congr {s t : State} {x : Nat} (h : t.fget (COLLAR_SRC.HOLDER x) = s.fget (COLLAR_SRC.HOLDER x))
    (hc : t.collar.swHolder = s.collar.swHolder) : t.srcHolder x = s.srcHolder x := by
  simp [State.srcHolder, h, hc]

theorem State.setPend_fget_ne (s : State) {x : Nat} (b : Bool) {f : Field} (h : f.key ≠ (pendField x).key) :
    (s.setPend x b).fget f = s.fget f := by rw [s.setPend_fget_eq, s.setMark_fget_ne b h]

theorem State.setServ_fget_ne (s : State) {x : Nat} (b : Bool) {f : Field} (h : f.key ≠ (servField x).key) :
    (s.setServ x b).fget f = s.fget f := by rw [s.setServ_eq_setMark, s.setMark_fget_ne b h]

theorem State.setHolder_fget_ne (s : State) {x : Nat} (c : Nat) {f : Field} (h : f.key ≠ (COLLAR_SRC.HOLDER x).key) :
    (s.setHolder x c).fget f = s.fget f := by
  unfold State.setHolder
  split
  · rfl
  · exact s.fget_fset_ne c h

@[simp] theorem State.setServ_collar (s : State) (x : Nat) (b : Bool) : (s.setServ x b).collar = s.collar := by
  rw [s.setServ_eq_setMark, State.setMark_collar]

theorem State.setPend_collar (s : State) (x : Nat) (b : Bool) : (s.setPend x b).collar =
    { s.collar with ages := if b then s.collar.ages.filter (· ≠ x) ++ [x] else s.collar.ages.filter (· ≠ x) } := by
  rw [s.setPend_eq_setMark, State.setMark_collar]

@[simp] theorem State.setPend_srcPend (s : State) (x y : Nat) (b : Bool) :
    (s.setPend x b).srcPend y = if y = x then b else s.srcPend y := pend_fields.mark_setMark s x y b

@[simp] theorem State.setPend_srcServ (s : State) (x y : Nat) (b : Bool) : (s.setPend x b).srcServ y = s.srcServ y :=
  State.srcServ_congr (s.setPend_fget_ne b (pendField_key_ne_servField x y).symm)

@[simp] theorem State.setPend_srcHolder (s : State) (x y : Nat) (b : Bool) : (s.setPend x b).srcHolder y = s.srcHolder y :=
  State.srcHolder_congr (s.setPend_fget_ne b (pendField_key_ne_holder x y).symm) (by rw [s.setPend_collar])

@[simp] theorem State.setServ_srcServ (s : State) (x y : Nat) (b : Bool) :
    (s.setServ x b).srcServ y = if y = x then b else s.srcServ y := serv_fields.mark_setMark s x y b

@[simp] theorem State.setServ_srcPend (s : State) (x y : Nat) (b : Bool) : (s.setServ x b).srcPend y = s.srcPend y :=
  State.srcPend_congr (s.setServ_fget_ne b (pendField_key_ne_servField y x))

@[simp] theorem State.setServ_srcHolder (s : State) (x y : Nat) (b : Bool) : (s.setServ x b).srcHolder y = s.srcHolder y :=
  State.srcHolder_congr (s.setServ_fget_ne b (servField_key_ne_holder x y).symm) (by simp)

@[simp] theorem State.setHolder_srcPend (s : State) (x y c : Nat) : (s.setHolder x c).srcPend y = s.srcPend y :=
  State.srcPend_congr (s.setHolder_fget_ne c (pendField_key_ne_holder y x))

@[simp] theorem State.setHolder_srcServ (s : State) (x y c : Nat) : (s.setHolder x c).srcServ y = s.srcServ y :=
  State.srcServ_congr (s.setHolder_fget_ne c (servField_key_ne_holder y x))

/-- The holder reads what was set, within the field's ten bits; the holder of every other source is unchanged. -/
theorem State.setHolder_srcHolder (s : State) (x y : Nat) {c : Nat} (hc : c < 1024) :
    (s.setHolder x c).srcHolder y = if y = x then c else s.srcHolder y := by
  by_cases hyx : y = x
  · subst hyx
    unfold State.srcHolder State.setHolder
    split
    · simp
    · simpa [Field.width, COLLAR_SRC.HOLDER] using hc
  · have hkey : (COLLAR_SRC.HOLDER y).key ≠ (COLLAR_SRC.HOLDER x).key := by
      simp only [Field.key, COLLAR_SRC.HOLDER]; omega
    unfold State.srcHolder State.setHolder
    by_cases hx : isSw x = true
    · simp [hx, hyx, AMap.get_set, State.fget]
    · simp [hx, hyx, State.fget_fset_ne _ _ hkey]

/-! ### Operations that keep every source's state -/

/-- Every field of a source's state reads in `t` as in `s`, and Collar's own lists are the same. -/
structure KeepsSources (s t : State) : Prop where
  fields : ∀ f, SourceField f → t.fget f = s.fget f
  collar : t.collar = s.collar

theorem KeepsSources.refl (s : State) : KeepsSources s s := ⟨fun _ _ => rfl, rfl⟩

theorem KeepsSources.trans {s t u : State} (h : KeepsSources s t) (h' : KeepsSources t u) : KeepsSources s u :=
  ⟨fun f hf => (h'.fields f hf).trans (h.fields f hf), h'.collar.trans h.collar⟩

theorem KeepsSources.srcPend {s t : State} (h : KeepsSources s t) (x : Nat) : t.srcPend x = s.srcPend x :=
  State.srcPend_congr (h.fields _ (sourceField_pend x))

theorem KeepsSources.srcServ {s t : State} (h : KeepsSources s t) (x : Nat) : t.srcServ x = s.srcServ x :=
  State.srcServ_congr (h.fields _ (sourceField_serv x))

theorem KeepsSources.srcHolder {s t : State} (h : KeepsSources s t) (x : Nat) : t.srcHolder x = s.srcHolder x :=
  State.srcHolder_congr (h.fields _ (sourceField_holder x)) (by rw [h.collar])

theorem State.fset_keepsSources (s : State) {f : Field} (v : Nat) (hf : ¬ SourceField f) : KeepsSources s (s.fset f v) :=
  ⟨fun _ hg => s.fget_fset_ne v (hg.key_ne hf), rfl⟩

theorem State.updNotgt_keepsSources (s : State) : KeepsSources s s.updNotgt :=
  s.fset_keepsSources _ (by simp [SourceField, Field.key, COLLAR_STAT.NOTGT])

theorem State.wake_keepsSources (s : State) : KeepsSources s s.wake := by
  unfold State.wake
  split
  · exact (s.fset_keepsSources 0 (by simp [SourceField, Field.key, POWER_STATE.GOAL])).trans
      (State.fset_keepsSources _ 1 (by simp [SourceField, Field.key, POWER_STATE.MOVING]))
  · exact .refl s

theorem State.makeReady_keepsSources (s : State) (c : Nat) : KeepsSources s (s.makeReady c) :=
  have h := s.fset_keepsSources pkReady (not_sourceField_state c)
  ⟨h.fields, rfl⟩

theorem State.eventFor_keepsSources (s : State) (c : Nat) : KeepsSources s (s.eventFor c) := by
  have h := s.fset_keepsSources 1 (not_sourceField_event c)
  unfold State.eventFor
  dsimp only
  split
  · exact h.trans (State.makeReady_keepsSources _ c)
  · exact h

theorem State.foldl_eventFor_keepsSources (l : List Nat) (s : State) : KeepsSources s (l.foldl State.eventFor s) := by
  induction l generalizing s with
  | nil => exact .refl s
  | cons c l ih => exact (s.eventFor_keepsSources c).trans (ih (s.eventFor c))

theorem State.deliver_keepsSources (s : State) (x : Nat) : KeepsSources s (s.deliver x) := by
  have h := State.foldl_eventFor_keepsSources (s.targetsOf x) s
  unfold State.deliver
  dsimp only
  split
  · exact h.trans (State.wake_keepsSources _)
  · exact h

@[simp] theorem State.updNotgt_srcPend (s : State) (x : Nat) : s.updNotgt.srcPend x = s.srcPend x :=
  s.updNotgt_keepsSources.srcPend x
@[simp] theorem State.updNotgt_srcServ (s : State) (x : Nat) : s.updNotgt.srcServ x = s.srcServ x :=
  s.updNotgt_keepsSources.srcServ x
@[simp] theorem State.updNotgt_srcHolder (s : State) (x : Nat) : s.updNotgt.srcHolder x = s.srcHolder x :=
  s.updNotgt_keepsSources.srcHolder x

/-! ### The targets of a source -/

theorem State.setPend_fget (s : State) (x : Nat) (b : Bool) {f : Field} (hf : ¬ SourceField f) :
    (s.setPend x b).fget f = s.fget f := s.setPend_fget_ne b ((sourceField_pend x).key_ne hf).symm

theorem State.fbit_congr {s t : State} {f : Field} (h : t.fget f = s.fget f) : t.fbit f = s.fbit f := by
  rw [State.fbit, h, State.fbit]

/-- Which partition owns a context rests on fields that hold no state of a source. -/
theorem State.partOf_congr {s t : State} (h : ∀ f, ¬ SourceField f → t.fget f = s.fget f) (c : Nat) :
    t.partOf c = s.partOf c := by
  have howned := h (POCKET_CTL.OWNED c) (by simp only [SourceField, Field.key, POCKET_CTL.OWNED]; omega)
  have howner := h (POCKET_CTL.OWNER c) (by simp only [SourceField, Field.key, POCKET_CTL.OWNER]; omega)
  simp only [State.partOf, State.fbit_congr howned, howner]

/-- Which contexts a source targets rests on fields that hold no state of a source. -/
theorem State.targets_congr {s t : State} (h : ∀ f, ¬ SourceField f → t.fget f = s.fget f) (x d : Nat) :
    t.targets x d = s.targets x d := by
  have hpart := State.partOf_congr h
  unfold State.targets State.srcOwner State.srcPair State.srcMask State.srcFwOwn
  by_cases hx : isSw x = true
  · have hlt := swGroup_lt hx
    have hfw := h (COLLAR_SWGRP.FWOWN (swGroup x)) (by simp only [SourceField, Field.key, COLLAR_SWGRP.FWOWN]; omega)
    have how := h (COLLAR_SWGRP.OWNER (swGroup x)) (by simp only [SourceField, Field.key, COLLAR_SWGRP.OWNER]; omega)
    have hpa := h (COLLAR_SWGRP.PAIR (swGroup x)) (by simp only [SourceField, Field.key, COLLAR_SWGRP.PAIR]; omega)
    have hma := h (COLLAR_SWGRP.MASK (swGroup x)) (by simp only [SourceField, Field.key, COLLAR_SWGRP.MASK]; omega)
    simp only [hx, if_true, hpart, State.fbit_congr hfw, how, hpa, hma]
  · have hfw := h (COLLAR_SRC.FWOWN x) (by simp only [SourceField, Field.key, COLLAR_SRC.FWOWN]; omega)
    have how := h (COLLAR_SRC.OWNER x) (by simp only [SourceField, Field.key, COLLAR_SRC.OWNER]; omega)
    have hpa := h (COLLAR_SRC.PAIR x) (by simp only [SourceField, Field.key, COLLAR_SRC.PAIR]; omega)
    have hma := h (COLLAR_SRC.MASK x) (by simp only [SourceField, Field.key, COLLAR_SRC.MASK]; omega)
    simp only [hx, if_false, Bool.false_eq_true, hpart, State.fbit_congr hfw, how, hpa, hma]

theorem State.setPend_targets (s : State) (x y d : Nat) (b : Bool) : (s.setPend x b).targets y d = s.targets y d :=
  State.targets_congr (fun _ hf => s.setPend_fget x b hf) y d

/-- The list of a source's targets holds exactly the contexts it targets. -/
theorem State.mem_targetsOf (s : State) (x d : Nat) : d ∈ s.targetsOf x ↔ s.targets x d = true := by
  unfold State.targetsOf
  rw [List.mem_filter, and_iff_right_iff_imp]
  intro h
  have hpair : s.srcPair x = d / 16 := by
    simp only [State.targets, Bool.and_eq_true, beq_iff_eq, slotOf] at h
    exact h.1.1.2
  rw [hpair, upFrom, List.mem_map]
  exact ⟨d % 16, List.mem_range.2 (Nat.mod_lt _ (by decide)), by omega⟩

/-! ### The contexts an event reaches -/

theorem event_key_ne {c d : Nat} (h : d ≠ c) : (POCKET_STAT.EVENT d).key ≠ (POCKET_STAT.EVENT c).key := by
  simp only [Field.key, POCKET_STAT.EVENT]; omega

theorem state_key_ne {c d : Nat} (h : d ≠ c) : (POCKET_STAT.STATE d).key ≠ (POCKET_STAT.STATE c).key := by
  simp only [Field.key, POCKET_STAT.STATE]; omega

theorem event_key_ne_state (c d : Nat) : (POCKET_STAT.EVENT d).key ≠ (POCKET_STAT.STATE c).key := by
  simp only [Field.key, POCKET_STAT.EVENT, POCKET_STAT.STATE]; omega

theorem State.makeReady_fget (s : State) (c : Nat) (f : Field) :
    (s.makeReady c).fget f = (s.fset (POCKET_STAT.STATE c) pkReady).fget f := rfl

theorem State.makeReady_pk (s : State) (c d : Nat) : (s.makeReady c).pk d = if d = c then pkReady else s.pk d := by
  rw [State.pk, State.makeReady_fget]
  by_cases h : d = c
  · subst h; simp [Field.width, POCKET_STAT.STATE, pkReady]
  · rw [State.fget_fset_ne _ _ (state_key_ne h), if_neg h, State.pk]

/-- The EVENT latch of the context is set, and no other. -/
theorem State.eventFor_event (s : State) (c d : Nat) :
    (s.eventFor c).fget (POCKET_STAT.EVENT d) = if d = c then 1 else s.fget (POCKET_STAT.EVENT d) := by
  have hset : (s.fset (POCKET_STAT.EVENT c) 1).fget (POCKET_STAT.EVENT d) =
      if d = c then 1 else s.fget (POCKET_STAT.EVENT d) := by
    by_cases h : d = c
    · subst h; simp [Field.width, POCKET_STAT.EVENT]
    · simp [h, State.fget_fset_ne _ _ (event_key_ne h)]
  unfold State.eventFor
  dsimp only
  split
  · rw [State.makeReady_fget, State.fget_fset_ne _ _ (event_key_ne_state c d), hset]
  · exact hset

/-- A BLOCKED context becomes READY by its event; no other Pocket's state changes. -/
theorem State.eventFor_pk (s : State) (c d : Nat) :
    (s.eventFor c).pk d = if d = c ∧ s.pk d = pkBlocked then pkReady else s.pk d := by
  have hset (e : Nat) : (s.fset (POCKET_STAT.EVENT c) 1).pk e = s.pk e :=
    State.fget_fset_ne _ _ (event_key_ne_state e c).symm
  unfold State.eventFor
  dsimp only
  rw [hset c]
  by_cases hdc : d = c
  · subst hdc
    split <;> simp [State.makeReady_pk, *]
  · split <;> simp [State.makeReady_pk, hset, hdc]

theorem State.foldl_eventFor_event (l : List Nat) (s : State) (d : Nat) :
    (l.foldl State.eventFor s).fget (POCKET_STAT.EVENT d) = if d ∈ l then 1 else s.fget (POCKET_STAT.EVENT d) := by
  induction l generalizing s with
  | nil => simp
  | cons c l ih =>
    rw [List.foldl_cons, ih, State.eventFor_event]
    by_cases hdl : d ∈ l <;> simp [hdl]

theorem State.foldl_eventFor_pk (l : List Nat) (s : State) (d : Nat) :
    (l.foldl State.eventFor s).pk d = if d ∈ l ∧ s.pk d = pkBlocked then pkReady else s.pk d := by
  induction l generalizing s with
  | nil => simp
  | cons c l ih =>
    have hready : pkReady ≠ pkBlocked := by decide
    rw [List.foldl_cons, ih, State.eventFor_pk]
    by_cases hb : s.pk d = pkBlocked
    · by_cases hdc : d = c
      · subst hdc; simp [hb, hready]
      · simp [hdc, hb]
    · simp [hb]

/-- A wake event touches POWER.STATE alone. -/
theorem State.wake_fget (s : State) {f : Field} (h : f.key / 64 ≠ 0x30000) : s.wake.fget f = s.fget f := by
  have hgoal : f.key ≠ POWER_STATE.GOAL.key := fun e => h (e ▸ rfl)
  have hmoving : f.key ≠ POWER_STATE.MOVING.key := fun e => h (e ▸ rfl)
  unfold State.wake
  split
  · rw [State.fget_fset_ne _ _ hmoving, State.fget_fset_ne _ _ hgoal]
  · rfl

/-- Beyond POWER.STATE, a delivery changes what the events of its targets change. -/
theorem State.deliver_fget (s : State) (x : Nat) {f : Field} (h : f.key / 64 ≠ 0x30000) :
    (s.deliver x).fget f = ((s.targetsOf x).foldl State.eventFor s).fget f := by
  unfold State.deliver
  dsimp only
  split
  · exact State.wake_fget _ h
  · rfl

theorem State.updNotgt_fget (s : State) {f : Field} (h : f.key / 64 ≠ 0x40008) : s.updNotgt.fget f = s.fget f :=
  s.fget_fset_ne _ fun e => h (e ▸ rfl)

/-! ### An event's frame -/

/-- Nothing of the state but the register fields, Collar's lists and the core pairs' schedule differs. -/
def FieldsCollarCore (s t : State) : Prop := t = { s with fields := t.fields, collar := t.collar, core := t.core }

theorem FieldsCollarCore.trans {s t u : State} (h : FieldsCollarCore s t) (h' : FieldsCollarCore t u) :
    FieldsCollarCore s u := by
  unfold FieldsCollarCore at *
  rw [h', h]

theorem FieldsCollarCore.withCollar {s t : State} (h : FieldsCollarCore s t) (x : CollarState) :
    FieldsCollarCore s { t with collar := x } := by
  unfold FieldsCollarCore at *
  rw [h]

theorem State.fset_frame (s : State) (f : Field) (v : Nat) : FieldsCollarCore s (s.fset f v) := rfl

theorem State.setMark_frame (s : State) (word bit : Nat → Field) (x : Nat) (b : Bool) :
    FieldsCollarCore s (s.setMark word bit x b) := by
  unfold State.setMark
  split
  · exact s.fset_frame _ _
  · exact s.fset_frame _ _

theorem State.setPend_frame (s : State) (x : Nat) (b : Bool) : FieldsCollarCore s (s.setPend x b) := by
  rw [s.setPend_eq_setMark]
  exact (s.setMark_frame _ _ x b).withCollar _

theorem State.eventFor_frame (s : State) (c : Nat) : FieldsCollarCore s (s.eventFor c) := by
  unfold State.eventFor
  dsimp only
  split <;> rfl

theorem State.wake_frame (s : State) : FieldsCollarCore s s.wake := by
  unfold State.wake
  split <;> rfl

theorem State.foldl_eventFor_frame (l : List Nat) (s : State) : FieldsCollarCore s (l.foldl State.eventFor s) := by
  induction l generalizing s with
  | nil => rfl
  | cons c l ih => exact (s.eventFor_frame c).trans (ih (s.eventFor c))

theorem State.deliver_frame (s : State) (x : Nat) : FieldsCollarCore s (s.deliver x) := by
  have h := State.foldl_eventFor_frame (s.targetsOf x) s
  unfold State.deliver
  dsimp only
  split
  · exact h.trans (State.wake_frame _)
  · exact h

theorem State.updNotgt_frame (s : State) : FieldsCollarCore s s.updNotgt := rfl

/-! ### A source that becomes PENDING -/

/-- The state an event leaves that has made source `x` PENDING (R238, R244). -/
def State.signalled (s : State) (x : Nat) : State := ((s.setPend x true).deliver x).updNotgt

theorem State.signalled_keepsSources (s : State) (x : Nat) : KeepsSources (s.setPend x true) (s.signalled x) :=
  (State.deliver_keepsSources _ x).trans (State.updNotgt_keepsSources _)

theorem State.signalled_frame (s : State) (x : Nat) : FieldsCollarCore s (s.signalled x) :=
  ((s.setPend_frame x true).trans (State.deliver_frame _ x)).trans (State.updNotgt_frame _)

theorem State.signalled_fget (s : State) (x : Nat) {f : Field} (hp : f.key / 64 ≠ 0x30000) (hn : f.key / 64 ≠ 0x40008) :
    (s.signalled x).fget f = (((s.setPend x true).targetsOf x).foldl State.eventFor (s.setPend x true)).fget f := by
  rw [State.signalled, State.updNotgt_fget _ hn, State.deliver_fget _ x hp]

theorem State.signalled_event (s : State) (x d : Nat) : (s.signalled x).fget (POCKET_STAT.EVENT d) =
    if s.targets x d = true then 1 else s.fget (POCKET_STAT.EVENT d) := by
  have hplace : 0x310018 ≤ (POCKET_STAT.EVENT d).key / 64 := by simp only [Field.key, POCKET_STAT.EVENT]; omega
  rw [s.signalled_fget x (by omega) (by omega), State.foldl_eventFor_event, s.setPend_fget x true (not_sourceField_event d)]
  simp only [State.mem_targetsOf, State.setPend_targets]

theorem State.signalled_pk (s : State) (x d : Nat) : (s.signalled x).pk d =
    if s.targets x d = true ∧ s.pk d = pkBlocked then pkReady else s.pk d := by
  have hpk : (s.setPend x true).pk d = s.pk d := s.setPend_fget x true (not_sourceField_state d)
  have h := State.foldl_eventFor_pk ((s.setPend x true).targetsOf x) (s.setPend x true) d
  rw [hpk] at h
  simp only [State.mem_targetsOf, State.setPend_targets] at h
  have hplace : 0x310018 ≤ (POCKET_STAT.STATE d).key / 64 := by simp only [Field.key, POCKET_STAT.STATE]; omega
  rw [← h, State.pk, s.signalled_fget x (by omega) (by omega)]
  rfl

/-! ### Events, counts and writes of EN -/

/-- What an event does (R238), for a source that is not reserved and whose owner is not being destroyed. -/
theorem State.collarEvent_eq (s : State) {x : Nat} (hx : sourceKnown x = true)
    (hd : ∀ m, s.srcOwner x = some m → s.destroying m = false) :
    s.collarEvent x = if s.srcServ x then (if s.srcEn x then s.fcount (lostField x) 1 else s)
      else if s.srcPend x then s else if s.srcEn x then s.signalled x else s := by
  have hany : (s.srcOwner x).any s.destroying = false := by
    cases ho : s.srcOwner x with
    | none => rfl
    | some m => exact hd m ho
  rw [State.collarEvent, hx, hany]
  rfl

theorem satAdd_eq_min (m a b : Nat) : satAdd m a b = min m (a + b) := by
  unfold satAdd
  split <;> omega

/-- A saturating count alters its own field and nothing else. -/
theorem State.alters_fcount (s : State) (f : Field) (n : Nat) : Alters s (s.fcount f n) id [counts s f n] where
  rest := rfl
  set := by
    have hpos : 0 < 2 ^ f.width := Nat.two_pow_pos _
    have hfits : min (2 ^ f.width - 1) (s.fget f + n) < 2 ^ f.width := by omega
    simp [counts, State.fcount, satAdd_eq_min, Nat.mod_eq_of_lt hfits]
  kept g h := s.fget_fcount_ne n (h (counts s f n) (by simp)).symm

/-- A source's EN is the one of its register, or of its group's (R248). -/
theorem State.srcEn_eq_fbit_enField (s : State) (x : Nat) : s.srcEn x = s.fbit (enField x) := by
  unfold State.srcEn enField
  by_cases ht : isTimer x = true
  · have hsw : isSw x = false := by
      simp only [isTimer, decide_eq_true_eq] at ht
      simp only [isSw, decide_eq_false_iff_not]
      omega
    simp [ht, hsw]
  · rw [if_neg ht, apply_ite s.fbit]

theorem enField_width (x : Nat) : (enField x).width = 1 := by
  unfold enField
  split <;> rfl

/-- The sources that a write of the EN of source `x` governs: its group, or itself alone. -/
def EnGoverns (x y : Nat) : Prop := if isSw x then isSw y = true ∧ swGroup y = swGroup x else y = x

/-- Sources made IDLE one after the other: PEND of each is 0, and nothing else of a source's marks or of EN changes. -/
theorem State.foldl_idle_srcPend (l : List Nat) (s : State) (y : Nat) :
    (l.foldl (fun t z => t.setPend z false) s).srcPend y = if y ∈ l then false else s.srcPend y := by
  induction l generalizing s with
  | nil => simp
  | cons z l ih =>
    rw [List.foldl_cons, ih, State.setPend_srcPend]
    by_cases hyl : y ∈ l <;> simp [hyl]

theorem State.foldl_idle_srcServ (l : List Nat) (s : State) (y : Nat) :
    (l.foldl (fun t z => t.setPend z false) s).srcServ y = s.srcServ y := by
  induction l generalizing s with
  | nil => rfl
  | cons z l ih => rw [List.foldl_cons, ih, State.setPend_srcServ]

theorem State.foldl_idle_fget (l : List Nat) (s : State) {f : Field} (hf : ¬ SourceField f) :
    (l.foldl (fun t z => t.setPend z false) s).fget f = s.fget f := by
  induction l generalizing s with
  | nil => rfl
  | cons z l ih => rw [List.foldl_cons, ih, State.setPend_fget s z false hf]

/-- The state a write of EN leaves: with EN = 0 the PENDING sources it governs become IDLE (R238). -/
theorem State.enOff_eq (s : State) (x : Nat) : s.enOff x = if s.srcEn x then s else
    ((s.collar.ages.filter fun y => if isSw x then isSw y && swGroup y == swGroup x else y == x).foldl
      (fun t y => t.setPend y false) s).updNotgt := rfl

theorem mem_governed {x y : Nat} {ages : List Nat} :
    (y ∈ ages.filter fun y => if isSw x then isSw y && swGroup y == swGroup x else y == x) ↔ y ∈ ages ∧ EnGoverns x y := by
  unfold EnGoverns
  rw [List.mem_filter]
  split <;> simp

theorem State.enOff_srcServ (s : State) (x y : Nat) : (s.enOff x).srcServ y = s.srcServ y := by
  rw [State.enOff_eq]
  split
  · rfl
  · rw [State.updNotgt_srcServ, State.foldl_idle_srcServ]

theorem State.enOff_enField (s : State) (x : Nat) : (s.enOff x).fget (enField x) = s.fget (enField x) := by
  have hoff : (enField x).key ≠ COLLAR_STAT.NOTGT.key := by
    unfold enField
    split <;> simp only [Field.key, COLLAR_SWGRP.EN, COLLAR_SRC.EN, COLLAR_STAT.NOTGT] <;> omega
  rw [State.enOff_eq]
  split
  · rfl
  · rw [State.updNotgt, State.fget_fset_ne _ _ hoff, State.foldl_idle_fget _ _ (not_sourceField_enField x)]

/-- With EN = 0 no source that was on Collar's list and that EN governs stays PENDING. -/
theorem State.enOff_idles (s : State) {x y : Nat} (hen : s.srcEn x = false) (hy : y ∈ s.collar.ages) (hg : EnGoverns x y) :
    (s.enOff x).srcPend y = false := by
  rw [State.enOff_eq, hen, if_neg (by decide), State.updNotgt_srcPend, State.foldl_idle_srcPend,
    if_pos (mem_governed.2 ⟨hy, hg⟩)]

/-! ### The commands, while the module is in Run -/

section
variable {s : State} (hrun : s.power.phase = .run)
include hrun

theorem State.up_of_run : s.up = true := by simp [State.up, hrun]

theorem exec_sourceEvent (x : Nat) : exec (.sourceEvent x) s = .next (s.collarEvent x) := by
  change Host.Outcome.next (if s.up then s.collarEvent x else s) = _
  rw [State.up_of_run hrun, if_pos rfl]

theorem exec_partClaim {c n : Nat} (hr : s.partReach c n = true) : exec (.partClaim c n) s = .next (s.claim c).1 := by
  change execPartClaim c n s = _
  simp [execPartClaim, State.up_of_run hrun, hr]

theorem exec_partEos {c n x : Nat} (hr : s.partReach c n = true) (hx : sourceKnown x = true) :
    exec (.partEos c n x) s = .next (s.eos c x) := by
  have hmod : x % 2 ^ 16 = x := by simp only [sourceKnown, isSw, Bool.or_eq_true, decide_eq_true_eq] at hx; omega
  change execPartEos c n x s = _
  simp [execPartEos, State.up_of_run hrun, hr, -Nat.reducePow, hmod]

theorem exec_collarEnWrite {x : Nat} (hx : sourceKnown x = true) (en : Bool) :
    exec (.collarEnWrite x en) s = .next ((s.fsetB (enField x) en).enOff x) := by
  change execCollarEnWrite x en s = _
  simp [execCollarEnWrite, State.up_of_run hrun, hx]

end

/-! ### The clauses of R238 -/

/-- A claim takes the source chosen into service, with the reader as its holder (R241). -/
theorem State.claim_of_claimable {s : State} {c x : Nat} (h : s.claimable c = some x) : s.claim c =
    ((((s.setPend x false).setServ x true).setHolder x c).updNotgt, s.srcPri x * 2 ^ 16 + x) := by
  rw [State.claim, h]

/-- A claim that meets no source counts in SPUR and reads 0xFFFF (R241). -/
theorem State.claim_of_none {s : State} {c : Nat} (h : s.claimable c = none) :
    s.claim c = (s.fcount COLLAR_STAT.SPUR 1, 0xFFFF) := by
  rw [State.claim, h]

/-- An end-of-service write (R242): by the holder, by another context, for a source that is not in service. -/
theorem State.eos_eq (s : State) (c : Nat) {x : Nat} (hx : sourceKnown x = true) : s.eos c x =
    if s.srcServ x then (if s.srcHolder x = c then (s.setServ x false).setHolder x 0 else s.ctxFault c x) else s := by
  cases hserv : s.srcServ x <;> simp [State.eos, State.endService, hx, hserv]

/-- What an event does to a source, by its state and EN. -/
theorem sourceEvent_outcomes {s : State} {x : Nat} (hrun : s.power.phase = .run) (hx : sourceKnown x = true)
    (hd : ∀ m, s.srcOwner x = some m → s.destroying m = false) :
    (s.srcServ x = true → s.srcEn x = true → Does (.sourceEvent x) s id [counts s (lostField x) 1]) ∧
    (s.srcServ x = true → s.srcEn x = false → Idles (.sourceEvent x) s) ∧
    (s.srcServ x = false → s.srcPend x = true → Idles (.sourceEvent x) s) ∧
    (s.srcServ x = false → s.srcPend x = false → s.srcEn x = false → Idles (.sourceEvent x) s) ∧
    (s.srcServ x = false → s.srcPend x = false → s.srcEn x = true → exec (.sourceEvent x) s = .next (s.signalled x)) := by
  have hexec := exec_sourceEvent hrun x
  rw [s.collarEvent_eq hx hd] at hexec
  refine ⟨fun hs he => ⟨_, s.alters_fcount _ 1, ?_⟩, fun hs he => ?_, fun hs hp => ?_, fun hs hp he => ?_, fun hs hp he => ?_⟩
  · simpa [hs, he] using hexec
  · simpa [Idles, hs, he] using hexec
  · simpa [Idles, hs, hp] using hexec
  · simpa [Idles, hs, hp, he] using hexec
  · simpa [hs, hp, he] using hexec

/-- The state that an event leaves behind which made source `x` PENDING. -/
theorem signalled_source_and_targets {s : State} {x : Nat} (hs : s.srcServ x = false) :
    (s.signalled x).srcPend x = true ∧ (s.signalled x).srcServ x = false ∧
    (s.signalled x).collar = { s.collar with ages := s.collar.ages.filter (· ≠ x) ++ [x] } ∧
    OtherSources s (s.signalled x) x ∧
    (∀ d, d < 768 → s.targets x d = true →
      (s.signalled x).fget (POCKET_STAT.EVENT d) = 1 ∧ (s.signalled x).pk d ≠ 2) ∧
    (∀ d, d < 768 → s.targets x d = false →
      (s.signalled x).fget (POCKET_STAT.EVENT d) = s.fget (POCKET_STAT.EVENT d) ∧ (s.signalled x).pk d = s.pk d) := by
  have hkeeps := s.signalled_keepsSources x
  refine ⟨?_, ?_, ?_, fun y _ hne => ⟨?_, ?_, ?_⟩, fun d _ ht => ⟨?_, ?_⟩, fun d _ ht => ⟨?_, ?_⟩⟩
  · simp [hkeeps.srcPend]
  · simp [hkeeps.srcServ, hs]
  · simp [hkeeps.collar, State.setPend_collar]
  · simp [hkeeps.srcPend, hne]
  · simp [hkeeps.srcServ]
  · simp [hkeeps.srcHolder]
  · simp [State.signalled_event, ht]
  · rw [State.signalled_pk]
    by_cases hb : s.pk d = pkBlocked
    · simp [ht, hb, pkReady]
    · rwa [if_neg fun h => hb h.2]
  · simp [State.signalled_event, ht]
  · simp [State.signalled_pk, ht]

/-- The claimed source is IN_SERVICE with the claiming context as its holder; no other source changes. -/
theorem claimed_source_states (s : State) {c : Nat} (x : Nat) (hc : c < 768) :
    let t := (((s.setPend x false).setServ x true).setHolder x c).updNotgt
    t.srcPend x = false ∧ t.srcServ x = true ∧ t.srcHolder x = c ∧ OtherSources s t x := by
  have hfit : c < 1024 := by omega
  refine ⟨by simp, by simp, by simp [State.setHolder_srcHolder _ _ _ hfit], fun y _ hne => ?_⟩
  simp [State.setHolder_srcHolder _ _ _ hfit, hne]

/-- The source whose service has ended is not IN_SERVICE; its PEND and every other source are as before. -/
theorem ended_source_states (s : State) (x : Nat) :
    let t := (s.setServ x false).setHolder x 0
    t.srcServ x = false ∧ t.srcPend x = s.srcPend x ∧ OtherSources s t x := by
  have hfit : 0 < 1024 := by decide
  refine ⟨by simp, by simp, fun y _ hne => ?_⟩
  simp [State.setHolder_srcHolder _ _ _ hfit, hne]

/-- A write of EN, of the source or of its group (R238). -/
theorem enWritten_source_states (s : State) (x : Nat) (en : Bool) :
    let t := (s.fsetB (enField x) en).enOff x
    t.fget (enField x) = (if en then 1 else 0) ∧
    ∀ y, t.srcServ y = s.srcServ y ∧
      (EnGoverns x y → (en = false → t.srcPend y = true → y ∉ s.collar.ages) ∧ (en = true → t.srcPend y = s.srcPend y)) := by
  have hkeeps : KeepsSources s (s.fsetB (enField x) en) := s.fset_keepsSources _ (not_sourceField_enField x)
  have hen : (s.fsetB (enField x) en).srcEn x = en := by
    rw [State.srcEn_eq_fbit_enField, State.fbit_fsetB_same _ _ _ (enField_width x)]
  refine ⟨?_, fun y => ⟨?_, fun hg => ⟨?_, ?_⟩⟩⟩
  · rw [State.enOff_enField, State.fsetB, State.fget_fset_same, enField_width]
    cases en <;> rfl
  · rw [State.enOff_srcServ, hkeeps.srcServ]
  · rintro rfl hpend hy
    rw [← hkeeps.collar] at hy
    rw [State.enOff_idles _ hen hy hg] at hpend
    exact Bool.false_ne_true hpend
  · rintro rfl
    rw [State.enOff_eq, if_pos hen, hkeeps.srcPend]

/-- Settles O26: each command is one of Collar's operations on the source, whose marks, holder and list read back as set. -/
theorem collarSourceStates : Obligations.CollarSourceStates := by
  intro s x c n hrun hx hc hd
  obtain ⟨hlost, hlostOff, hmerged, hdiscarded, hpending⟩ := sourceEvent_outcomes hrun hx hd
  refine ⟨hlost, hlostOff, hmerged, hdiscarded, fun hs hp he => ?pending,
    fun hr => ⟨fun h => ?claim, fun h => ?spurious, fun hs hh => ?eosHolder, fun hs hh => ?eosOther, fun hs => ?eosIdle⟩,
    fun en => ?enWrite⟩
  case pending =>
    obtain ⟨hpend, hserv, hcollar, hothers, htargets, hrest⟩ := signalled_source_and_targets hs
    exact ⟨_, hpending hs hp he, hpend, hserv, hcollar, hothers, htargets, hrest, s.signalled_frame x⟩
  case claim =>
    have hclaim := State.claim_of_claimable h
    exact ⟨_, by rw [exec_partClaim hrun hr, hclaim], hclaim, claimed_source_states s x hc⟩
  case spurious =>
    have hclaim := State.claim_of_none h
    exact ⟨⟨_, s.alters_fcount _ 1, by rw [exec_partClaim hrun hr, hclaim]; rfl⟩, by rw [hclaim]⟩
  case eosHolder =>
    exact ⟨_, by rw [exec_partEos hrun hr hx, s.eos_eq c hx, if_pos hs, if_pos hh], ended_source_states s x⟩
  case eosOther => rw [exec_partEos hrun hr hx, s.eos_eq c hx, if_pos hs, if_neg hh]
  case eosIdle => rw [Idles, exec_partEos hrun hr hx, s.eos_eq c hx, hs]; rfl
  case enWrite =>
    obtain ⟨hen, hsources⟩ := enWritten_source_states s x en
    exact ⟨_, exec_collarEnWrite hrun hx en, hen, fun y _ => hsources y⟩

end Sys2Proof.Machine
